-- ==== Sys2Proof/Word.lean ====
section
/-!
DEFINITION. The word types of the machine and the two sparse stores everything else is built from:
`Map` (a list of keys and values, keys strictly rising) for register files and tables, and the byte
image of memory in its canonical form is built over the same list in Machine/Ops.lean.
-/

namespace Sys2Proof

/-- One byte. -/
abbrev Byte := BitVec 8
/-- A lane register and an instruction word (R19, R137). -/
abbrev Word := BitVec 32
/-- A uniform register, a queue word and a device register (R137). -/
abbrev DWord := BitVec 64
/-- A mask over the 48 lanes of a group; a 16-lane group uses bits 15 to 0 (R261). -/
abbrev Lanes := BitVec 48
/-- A table keyed by a number: keys strictly rising, a missing key reads as a default. -/
abbrev Map (α : Type) := List (Nat × α)

/-- The value at `k`, or `d` where the table has no entry. -/
def mapGet {α : Type} (d : α) : Map α → Nat → α
  | [], _ => d
  | (j, v) :: m, k => if j = k then v else mapGet d m k

/-- The value at `k`, if there is one. -/
def mapFind {α : Type} : Map α → Nat → Option α
  | [], _ => none
  | (j, v) :: m, k => if j = k then some v else mapFind m k

/-- `m` with `v` at `k`, keys kept in order. -/
def mapSet {α : Type} : Map α → Nat → α → Map α
  | [], k, v => [(k, v)]
  | (j, u) :: m, k, v =>
    if k < j then (k, v) :: (j, u) :: m
    else if k = j then (k, v) :: m
    else (j, u) :: mapSet m k v

/-- `m` without an entry at `k`. -/
def mapDel {α : Type} : Map α → Nat → Map α
  | [], _ => []
  | (j, u) :: m, k => if j = k then m else (j, u) :: mapDel m k

/-- Keys strictly rising from `lo` on. -/
def mapSortedFrom {α : Type} : Nat → Map α → Bool
  | _, [] => true
  | lo, (j, _) :: m => decide (lo ≤ j) && mapSortedFrom (j + 1) m

end Sys2Proof
end

