-- ==== Sys2Proof/Config.lean ====
section
/-!
DEFINITION. What an implementation fixes, and the free values of the model: constants with no body, so
that no proof can see their value. Each names the log entry that declares it.
-/

namespace Sys2Proof.Config

/-- Which of several possible actions the machine takes next: `choice fresh n` is read modulo `n`.
The spec fixes no order between independent agents (R6, R248). Log entry 4. -/
opaque choice : Nat → Nat → Nat

/-- Which free VID a SPAWN takes among `n` (R300: "a free VID"). Log entry 4. -/
opaque freeVid : Nat → Nat → Nat

/-- Whether a LAUNCH of the device runtime is the one for an entry of a host launch list (R309, R339): which of its
LAUNCHes the runtime issues for its own grids is software's. Log entry 19. -/
opaque hostListLaunch : Nat → Bool

/-- The 16-bit number the lease manager gives the lease of the n-th accepted grid (R61). Log entry 21. -/
opaque leaseNumber : Nat → BitVec 16

/-- Whether a page of an ASN that this package's tables do not map belongs to a peer's memory: the pod-wide numbering that
the runtimes share (R64) is theirs. Log entry 93. -/
opaque peerMaps : Nat → Nat → Bool

/-- S[d][63:32] of a SITREG that registers nothing, by its operand pair: R219 gives it no value. Log entry 91. -/
opaque noCrc : Nat → Nat → BitVec 32

/-- The HBM frame that the lease manager takes next for a page that comes back from flash (R62). Log entry 80. -/
opaque leaseFrame : Nat → Nat

/-- How many of `n` decode credits taken a receiving die has given back by now (R221). Log entry 22. -/
opaque creditsBack : Nat → Nat → Nat

/-- How many of the 1,024 decode credits of a receiving die a relay of this package has been given (R221). Log entry 22. -/
opaque creditShare : Nat → Nat → Nat

/-- How many of the messages given to a port still wait there (R215), by the count of free values taken and the port.
Log entry 85. -/
opaque portLoad : Nat → Nat → Nat

/-- For how many cycles a step of another agent can be due before it comes (R268, R269: every wait that is satisfied
ends; the spec gives no bound). Log entry 92. -/
opaque patience : Nat

/-- CLKMHZ while the power controller has lowered the clock (R301, R341). Log entry 26. -/
opaque loweredClock : Nat → BitVec 64

/-- Bytes of an SPDM reply, a signature, a digest or a certificate (R338, R340), by request and nonce:
the formats and the fused keys are outside the spec. Log entry 12. -/
opaque spdmBytes : Nat → Nat → BitVec 256

/-- Bits [39:0] of DEVID, fused (R333). Log entry 12. -/
opaque devId : BitVec 40

end Sys2Proof.Config
end

