-- ==== Sys2Proof/Syntax.lean ====
section
/-!
DEFINITION. The syntax of the machine's steps: one constructor of `Instr` per row of
spec/opcode_table.json. The first kind are the Errik instruction forms, with the fields of their words
(02_instruction_words.md). The second kind are the steps of the machine's other agents (engines, slices,
relays, launch engines, host, boot), which have no instruction word: like an instruction, such a step acts on
the agent that the state's selection names, with the argument that the state's selection holds.
-/

namespace Sys2Proof

/-! ### Fields of the lane set (R21-R25, R37) -/

/-- LR with three lane registers: guard, d, a, b, window. -/
structure LR3 where
  g : BitVec 5
  d : BitVec 6
  a : BitVec 6
  b : BitVec 6
  w : BitVec 1
deriving DecidableEq, Repr
/-- LR, unary with b = 0: guard, d, a, window (for MOVU the window bit is bit 6 of the source number). -/
structure LR2 where
  g : BitVec 5
  d : BitVec 6
  a : BitVec 6
  w : BitVec 1
deriving DecidableEq, Repr
/-- LR, unary with a code in b (R35). -/
structure LCode where
  g : BitVec 5
  d : BitVec 6
  a : BitVec 6
  c : BitVec 6
  w : BitVec 1
deriving DecidableEq, Repr
/-- LI with a signed 7-bit immediate (R22). -/
structure LImm where
  g : BitVec 5
  d : BitVec 6
  a : BitVec 6
  imm : BitVec 7
deriving DecidableEq, Repr
/-- LI with a shift count of 0 to 31 (R168). -/
structure LShift where
  g : BitVec 5
  d : BitVec 6
  a : BitVec 6
  c : BitVec 5
deriving DecidableEq, Repr
/-- MOVL and its literal word (R33). -/
structure LLit where
  g : BitVec 5
  d : BitVec 6
  lit : Word
deriving DecidableEq, Repr
/-- MMA and ACCZ: a control word register only (R188, R192). -/
structure LCtl where
  g : BitVec 5
  a : BitVec 6
  w : BitVec 1
deriving DecidableEq, Repr
/-- ACCSC and ACCWR: a control word register and a value register (R192). -/
structure LCtl2 where
  g : BitVec 5
  a : BitVec 6
  b : BitVec 6
  w : BitVec 1
deriving DecidableEq, Repr
/-- Compares: pair bit d[4] and predicate d[3:0] (R37). -/
structure LCmp where
  g : BitVec 5
  p : BitVec 1
  d : BitVec 4
  a : BitVec 6
  b : BitVec 6
  w : BitVec 1
deriving DecidableEq, Repr
/-- PAND, POR, PXOR: predicates with inversion bits (R37). -/
structure LPred where
  g : BitVec 5
  d : BitVec 4
  x : BitVec 1
  a : BitVec 4
  y : BitVec 1
  b : BitVec 4
deriving DecidableEq, Repr
/-- PSET: predicate, source, condition code (R37, R177). -/
structure LPset where
  g : BitVec 5
  d : BitVec 4
  a : BitVec 6
  c : BitVec 6
  w : BitVec 1
deriving DecidableEq, Repr
/-- PGET: destination and predicate (R37, R177). -/
structure LPget where
  g : BitVec 5
  d : BitVec 6
  a : BitVec 4
  w : BitVec 1
deriving DecidableEq, Repr
/-- MOVS: destination and special code (R37, R181). -/
structure LSpec where
  g : BitVec 5
  d : BitVec 6
  c : BitVec 6
  w : BitVec 1
deriving DecidableEq, Repr
/-- LM with ord = 0: data register, index register, record (R23). -/
structure LMem where
  g : BitVec 5
  d : BitVec 6
  a : BitVec 6
  r : BitVec 5
deriving DecidableEq, Repr
/-- LM with an extension word; the function is the constructor's (R24). -/
structure LMemX where
  g : BitVec 5
  d : BitVec 6
  a : BitVec 6
  r : BitVec 5
  ord : BitVec 2
  scope : BitVec 3
  policy : BitVec 2
  cbyp : BitVec 1
deriving DecidableEq, Repr
/-- INV's two words (R25, R197). -/
structure InvForm where
  g : BitVec 5
  n1 : BitVec 4
  bracket : BitVec 3
  xin : BitVec 6
  yout : BitVec 6
  target : BitVec 8
  tol : BitVec 8
  status : BitVec 4
  maxiter : BitVec 6
  flt : BitVec 1
  dec : BitVec 1
deriving DecidableEq, Repr

/-! ### Fields of the uniform set (R29-R33) -/

/-- UR with three uniform registers and the window bit i. -/
structure UR3 where
  d : BitVec 7
  a : BitVec 7
  b : BitVec 7
  i : BitVec 1
deriving DecidableEq, Repr
/-- UR with b = 0. -/
structure UR2 where
  d : BitVec 7
  a : BitVec 7
  i : BitVec 1
deriving DecidableEq, Repr
/-- UI with a 17-bit immediate. -/
structure UImm where
  d : BitVec 7
  imm : BitVec 17
deriving DecidableEq, Repr
/-- ULIT: destination, sign flag x, literal word (R33). -/
structure ULitForm where
  d : BitVec 7
  x : BitVec 1
  lit : Word
deriving DecidableEq, Repr
/-- UB with c = 0: the signed word offset. -/
structure UBr where
  off : BitVec 19
deriving DecidableEq, Repr
/-- UB with its c field. -/
structure UBrC where
  c : BitVec 5
  off : BitVec 19
deriving DecidableEq, Repr
/-- BRX: a lane register relative to X0. -/
structure LaneSrc where
  a : BitVec 6
deriving DecidableEq, Repr
/-- UR with a source only. -/
structure USrc where
  a : BitVec 7
  i : BitVec 1
deriving DecidableEq, Repr
/-- UR with a source only and i = 0. -/
structure SSrc where
  a : BitVec 7
deriving DecidableEq, Repr
/-- UR with a destination only. -/
structure UDst where
  d : BitVec 7
  i : BitVec 1
deriving DecidableEq, Repr
/-- EXAND and VOTE: destination, inversion, predicate (R274). -/
structure UPred where
  d : BitVec 7
  n : BitVec 1
  b : BitVec 4
  i : BitVec 1
deriving DecidableEq, Repr
/-- SETX: index register and value (R119). -/
structure SetxForm where
  n : BitVec 2
  imm : BitVec 16
deriving DecidableEq, Repr
/-- RECSET: record, low half, high half (R117). -/
structure RecsetForm where
  d : BitVec 5
  a : BitVec 7
  b : BitVec 7
  i : BitVec 1
deriving DecidableEq, Repr
/-- LDREC: destination pair and record (R118). -/
structure LdrecForm where
  d : BitVec 7
  a : BitVec 5
  i : BitVec 1
deriving DecidableEq, Repr
/-- UQ barriers: S register and barrier number (R275). -/
structure QBar where
  a : BitVec 7
  n : BitVec 6
deriving DecidableEq, Repr
/-- PHBARR: S register and arrival count (R276). -/
structure QCount where
  a : BitVec 7
  k : BitVec 13
deriving DecidableEq, Repr
/-- PHBWAIT: S register and phase (R276). -/
structure QPhase where
  a : BitVec 7
  p : BitVec 1
deriving DecidableEq, Repr
/-- CVBAR, CAIRNMIN, CAIRNRD: S register and caravan position (R134, R277). -/
structure QCaravan where
  a : BitVec 7
  c : BitVec 2
deriving DecidableEq, Repr
/-- BCLOSE, WAITB: S register (R106). -/
structure QSrc where
  a : BitVec 7
deriving DecidableEq, Repr
/-- QFENCE: W, M and the queue mask (R107). -/
structure QFenceForm where
  w : BitVec 1
  m : BitVec 1
  q : BitVec 3
deriving DecidableEq, Repr
/-- QW, QRD: queue and S register (R95). -/
structure QReg where
  q : BitVec 4
  a : BitVec 7
deriving DecidableEq, Repr
/-- FENCE: kind and scope (R240). -/
structure FenceForm where
  kind : BitVec 2
  scope : BitVec 3
deriving DecidableEq, Repr
/-- KVFORK: UR with KEEPSEQ in b[0] (R86). -/
structure KvforkForm where
  d : BitVec 7
  a : BitVec 7
  k : BitVec 1
  i : BitVec 1
deriving DecidableEq, Repr
/-- MOVC: destination and control register number (R144). -/
structure MovcForm where
  d : BitVec 7
  c : BitVec 3
  i : BitVec 1
deriving DecidableEq, Repr
/-- MOVCW: control register number and source (R144). -/
structure MovcwForm where
  c : BitVec 3
  a : BitVec 7
  i : BitVec 1
deriving DecidableEq, Repr
/-- TRAP, BKPT: the 7-bit code (R314). -/
structure CodeForm where
  n : BitVec 7
deriving DecidableEq, Repr
/-- RTE: the SKIP bit (R315). -/
structure RteForm where
  skip : BitVec 1
deriving DecidableEq, Repr
/-- SETPRI: the priority (R273). -/
structure PriForm where
  p : BitVec 8
deriving DecidableEq, Repr
/-- JMPF: segment and word offset (R280). -/
structure FarForm where
  s : BitVec 5
  off : BitVec 10
deriving DecidableEq, Repr

/-! ### The steps -/

/-- One step of the machine: the rows of spec/opcode_table.json. -/
inductive Instr where
  /-- IADD (R164). -/
  | iadd (f : LR3)
  /-- ISUB (R164). -/
  | isub (f : LR3)
  /-- IMUL (R164). -/
  | imul (f : LR3)
  /-- IMULH (R164). -/
  | imulh (f : LR3)
  /-- NMULH (R164). -/
  | nmulh (f : LR3)
  /-- IMAD (R164). -/
  | imad (f : LR3)
  /-- IMIN (R164). -/
  | imin (f : LR3)
  /-- IMAX (R164). -/
  | imax (f : LR3)
  /-- NMIN (R164). -/
  | nmin (f : LR3)
  /-- NMAX (R164). -/
  | nmax (f : LR3)
  /-- IABS (R164). -/
  | iabs (f : LR2)
  /-- AND (R164). -/
  | and (f : LR3)
  /-- OR (R164). -/
  | or (f : LR3)
  /-- XOR (R164). -/
  | xor (f : LR3)
  /-- ANDN (R164). -/
  | andn (f : LR3)
  /-- SHL (R164). -/
  | shl (f : LR3)
  /-- SHR (R164). -/
  | shr (f : LR3)
  /-- SAR (R164). -/
  | sar (f : LR3)
  /-- SHRR (R165). -/
  | shrr (f : LR3)
  /-- POPC (R164). -/
  | popc (f : LR2)
  /-- CLZ (R164). -/
  | clz (f : LR2)
  /-- BREV (R164). -/
  | brev (f : LR2)
  /-- BFE (R166). -/
  | bfe (f : LR3)
  /-- BFI (R166). -/
  | bfi (f : LR3)
  /-- SEL (R167). -/
  | sel (f : LR3)
  /-- MOV (R164). -/
  | mov (f : LR2)
  /-- IADDI (R168). -/
  | iaddi (f : LImm)
  /-- SHLI (R168). -/
  | shli (f : LShift)
  /-- SHRI (R168). -/
  | shri (f : LShift)
  /-- SARI (R168). -/
  | sari (f : LShift)
  /-- ANDI (R168). -/
  | andi (f : LImm)
  /-- MOVL (R33). -/
  | movl (f : LLit)
  /-- PADD2 (R169). -/
  | padd2 (f : LR3)
  /-- PSUB2 (R169). -/
  | psub2 (f : LR3)
  /-- PMUL2 (R169). -/
  | pmul2 (f : LR3)
  /-- PMAC2 (R169). -/
  | pmac2 (f : LR3)
  /-- PMACX2 (R169). -/
  | pmacx2 (f : LR3)
  /-- SADD (R169). -/
  | sadd (f : LR3)
  /-- SSUB (R169). -/
  | ssub (f : LR3)
  /-- PACK2 (R169). -/
  | pack2 (f : LR3)
  /-- SXLO (R169). -/
  | sxlo (f : LR2)
  /-- SXHI (R169). -/
  | sxhi (f : LR2)
  /-- PSHRR2 (R169). -/
  | pshrr2 (f : LR3)
  /-- INV (R200). -/
  | inv (f : InvForm)
  /-- FADD (R170). -/
  | fadd (f : LR3)
  /-- FSUB (R170). -/
  | fsub (f : LR3)
  /-- FMUL (R170). -/
  | fmul (f : LR3)
  /-- FFMA (R170). -/
  | ffma (f : LR3)
  /-- FMIN (R171). -/
  | fmin (f : LR3)
  /-- FMAX (R171). -/
  | fmax (f : LR3)
  /-- FNEG (R171). -/
  | fneg (f : LR2)
  /-- FABS (R171). -/
  | fabs (f : LR2)
  /-- FRCP (R172). -/
  | frcp (f : LR2)
  /-- FRSQ (R172). -/
  | frsq (f : LR2)
  /-- FSQRT (R172). -/
  | fsqrt (f : LR2)
  /-- FEXP2 (R172). -/
  | fexp2 (f : LR2)
  /-- FLOG2 (R172). -/
  | flog2 (f : LR2)
  /-- FSIN (R172). -/
  | fsin (f : LR2)
  /-- FCOS (R172). -/
  | fcos (f : LR2)
  /-- BFMA2 (R173). -/
  | bfma2 (f : LR3)
  /-- BADD2 (R173). -/
  | badd2 (f : LR3)
  /-- BMUL2 (R173). -/
  | bmul2 (f : LR3)
  /-- CVTFI (R174). -/
  | cvtfi (f : LCode)
  /-- CVTIF (R174). -/
  | cvtif (f : LCode)
  /-- CVTNF (R174). -/
  | cvtnf (f : LCode)
  /-- CVTFN (R174). -/
  | cvtfn (f : LCode)
  /-- CVTBF (R174). -/
  | cvtbf (f : LCode)
  /-- CVTFB (R174). -/
  | cvtfb (f : LCode)
  /-- CVTEF (R174). -/
  | cvtef (f : LCode)
  /-- CVTFE (R174). -/
  | cvtfe (f : LCode)
  /-- MMA (R188). -/
  | mma (f : LCtl)
  /-- ACCZ (R192). -/
  | accz (f : LCtl)
  /-- ACCRD (R192). -/
  | accrd (f : LR2)
  /-- ACCSC (R192). -/
  | accsc (f : LCtl2)
  /-- ACCWR (R192). -/
  | accwr (f : LCtl2)
  /-- QNT (R193). -/
  | qnt (f : LR3)
  /-- ICMPEQ (R175). -/
  | icmpeq (f : LCmp)
  /-- ICMPNE (R175). -/
  | icmpne (f : LCmp)
  /-- ICMPLT (R175). -/
  | icmplt (f : LCmp)
  /-- ICMPLE (R175). -/
  | icmple (f : LCmp)
  /-- NCMPLT (R175). -/
  | ncmplt (f : LCmp)
  /-- NCMPLE (R175). -/
  | ncmple (f : LCmp)
  /-- FCMPEQ (R175). -/
  | fcmpeq (f : LCmp)
  /-- FCMPNE (R175). -/
  | fcmpne (f : LCmp)
  /-- FCMPLT (R175). -/
  | fcmplt (f : LCmp)
  /-- FCMPLE (R175). -/
  | fcmple (f : LCmp)
  /-- FCMPUN (R175). -/
  | fcmpun (f : LCmp)
  /-- PAND (R176). -/
  | pand (f : LPred)
  /-- POR (R176). -/
  | por (f : LPred)
  /-- PXOR (R176). -/
  | pxor (f : LPred)
  /-- PSET (R177). -/
  | pset (f : LPset)
  /-- PGET (R177). -/
  | pget (f : LPget)
  /-- SLIDE (R178). -/
  | slide (f : LR3)
  /-- SLIDEH (R178). -/
  | slideh (f : LR3)
  /-- SLIDEN (R178). -/
  | sliden (f : LR3)
  /-- SWAP (R179). -/
  | swap (f : LR3)
  /-- PERM (R179). -/
  | perm (f : LR3)
  /-- BCAST (R179). -/
  | bcast (f : LCode)
  /-- REDSUM (R180). -/
  | redsum (f : LR2)
  /-- REDIADD (R180). -/
  | rediadd (f : LR2)
  /-- REDMAX (R180). -/
  | redmax (f : LR2)
  /-- REDMIN (R180). -/
  | redmin (f : LR2)
  /-- SCAN (R160). -/
  | scan (f : LR2)
  /-- MOVS (R181). -/
  | movs (f : LSpec)
  /-- MOVU (R182). -/
  | movu (f : LR2)
  /-- RNG (R183). -/
  | rng (f : LR3)
  /-- LDB (R128). -/
  | ldb (f : LMem)
  /-- LDH (R128). -/
  | ldh (f : LMem)
  /-- LDW (R128). -/
  | ldw (f : LMem)
  /-- LDD (R128). -/
  | ldd (f : LMem)
  /-- LDQ (R128). -/
  | ldq (f : LMem)
  /-- LDB_ORDERED (R123). -/
  | ldbOrdered (f : LMemX)
  /-- LDH_ORDERED (R123). -/
  | ldhOrdered (f : LMemX)
  /-- LDW_ORDERED (R123). -/
  | ldwOrdered (f : LMemX)
  /-- LDD_ORDERED (R123). -/
  | lddOrdered (f : LMemX)
  /-- LDQ_ORDERED (R123). -/
  | ldqOrdered (f : LMemX)
  /-- STB (R128). -/
  | stb (f : LMem)
  /-- STH (R128). -/
  | sth (f : LMem)
  /-- STW (R128). -/
  | stw (f : LMem)
  /-- STD (R128). -/
  | std (f : LMem)
  /-- STQ (R128). -/
  | stq (f : LMem)
  /-- STB_ORDERED (R123). -/
  | stbOrdered (f : LMemX)
  /-- STH_ORDERED (R123). -/
  | sthOrdered (f : LMemX)
  /-- STW_ORDERED (R123). -/
  | stwOrdered (f : LMemX)
  /-- STD_ORDERED (R123). -/
  | stdOrdered (f : LMemX)
  /-- STQ_ORDERED (R123). -/
  | stqOrdered (f : LMemX)
  /-- ATOM_ADD (R130). -/
  | atomAdd (f : LMemX)
  /-- ATOM_IMIN (R130). -/
  | atomImin (f : LMemX)
  /-- ATOM_IMAX (R130). -/
  | atomImax (f : LMemX)
  /-- ATOM_NMIN (R130). -/
  | atomNmin (f : LMemX)
  /-- ATOM_NMAX (R130). -/
  | atomNmax (f : LMemX)
  /-- ATOM_AND (R130). -/
  | atomAnd (f : LMemX)
  /-- ATOM_OR (R130). -/
  | atomOr (f : LMemX)
  /-- ATOM_XOR (R130). -/
  | atomXor (f : LMemX)
  /-- ATOM_XCHG (R130). -/
  | atomXchg (f : LMemX)
  /-- ATOM_CAS (R130). -/
  | atomCas (f : LMemX)
  /-- ATOM_FADD (R130). -/
  | atomFadd (f : LMemX)
  /-- DQOP_PUSH (R133). -/
  | dqopPush (f : LMemX)
  /-- DQOP_POP (R133). -/
  | dqopPop (f : LMemX)
  /-- DQOP_STEAL (R133). -/
  | dqopSteal (f : LMemX)
  /-- UADD (R43). -/
  | uadd (f : UR3)
  /-- USUB (R43). -/
  | usub (f : UR3)
  /-- UMUL (R43). -/
  | umul (f : UR3)
  /-- UAND (R43). -/
  | uand (f : UR3)
  /-- UOR (R43). -/
  | uor (f : UR3)
  /-- UXOR (R43). -/
  | uxor (f : UR3)
  /-- USHL (R43). -/
  | ushl (f : UR3)
  /-- USHR (R43). -/
  | ushr (f : UR3)
  /-- USAR (R43). -/
  | usar (f : UR3)
  /-- UMIN (R43). -/
  | umin (f : UR3)
  /-- UMAX (R43). -/
  | umax (f : UR3)
  /-- UMOV (R43). -/
  | umov (f : UR2)
  /-- UCMPEQ (R43). -/
  | ucmpeq (f : UR3)
  /-- UCMPLT (R43). -/
  | ucmplt (f : UR3)
  /-- UCMPLO (R43). -/
  | ucmplo (f : UR3)
  /-- NOP (R46). -/
  | nop
  /-- UMOVI (R44). -/
  | umovi (f : UImm)
  /-- UADDI (R44). -/
  | uaddi (f : UImm)
  /-- ULIT (R44). -/
  | ulit (f : ULitForm)
  /-- USHLI (R44). -/
  | ushli (f : UImm)
  /-- BRA (R271). -/
  | bra (f : UBr)
  /-- BRNZ (R271). -/
  | brnz (f : UBrC)
  /-- BRZ (R271). -/
  | brz (f : UBrC)
  /-- BRD (R272). -/
  | brd (f : UBrC)
  /-- BRX (R272). -/
  | brx (f : LaneSrc)
  /-- CALL (R271). -/
  | call (f : UBr)
  /-- RET (R271). -/
  | ret (f : USrc)
  /-- JOIN (R273). -/
  | join
  /-- YIELD (R273). -/
  | yield
  /-- SETPRI (R273). -/
  | setpri (f : PriForm)
  /-- BREZ (R271). -/
  | brez (f : UBr)
  /-- JMPF (R280). -/
  | jmpf (f : FarForm)
  /-- EXGET (R274). -/
  | exget (f : UDst)
  /-- EXSET (R274). -/
  | exset (f : USrc)
  /-- EXAND (R274). -/
  | exand (f : UPred)
  /-- EXELSE (R274). -/
  | exelse (f : USrc)
  /-- VOTE (R274). -/
  | vote (f : UPred)
  /-- SETX (R119). -/
  | setx (f : SetxForm)
  /-- RECSET (R117). -/
  | recset (f : RecsetForm)
  /-- LDREC (R118). -/
  | ldrec (f : LdrecForm)
  /-- BARARR (R275). -/
  | bararr (f : QBar)
  /-- BARWAIT (R275). -/
  | barwait (f : QBar)
  /-- BARSYNC (R275). -/
  | barsync (f : QBar)
  /-- PHBARR (R276). -/
  | phbarr (f : QCount)
  /-- PHBWAIT (R276). -/
  | phbwait (f : QPhase)
  /-- CVBAR (R277). -/
  | cvbar (f : QCaravan)
  /-- CAIRNMIN (R134). -/
  | cairnmin (f : QCaravan)
  /-- CAIRNRD (R134). -/
  | cairnrd (f : QCaravan)
  /-- BCLOSE (R106). -/
  | bclose (f : QSrc)
  /-- WAITB (R106). -/
  | waitb (f : QSrc)
  /-- QFENCE (R107). -/
  | qfence (f : QFenceForm)
  /-- QW (R95). -/
  | qw (f : QReg)
  /-- QRD (R95). -/
  | qrd (f : QReg)
  /-- FENCE (R240). -/
  | fence (f : FenceForm)
  /-- WCFLUSH (R209). -/
  | wcflush
  /-- RBATCH (R209). -/
  | rbatch (f : UDst)
  /-- RWAIT (R209). -/
  | rwait (f : UDst)
  /-- CFETCH (R280). -/
  | cfetch (f : SSrc)
  /-- CWAIT (R280). -/
  | cwait (f : SSrc)
  /-- PHASE (R281). -/
  | phase (f : SSrc)
  /-- LAUNCH (R299). -/
  | launch (f : UR2)
  /-- SPAWN (R300). -/
  | spawn (f : UR3)
  /-- RESOLVE (R302). -/
  | resolve (f : UR3)
  /-- VQUERY (R305). -/
  | vquery (f : UR2)
  /-- DTADD (R306). -/
  | dtadd (f : UR3)
  /-- DTTAKE (R306). -/
  | dttake (f : UR2)
  /-- DTBUD (R306). -/
  | dtbud (f : UR3)
  /-- TRDY (R308). -/
  | trdy (f : UR2)
  /-- TWAIT (R308). -/
  | twait (f : UR3)
  /-- KVWALK (R87). -/
  | kvwalk (f : UR3)
  /-- KVEXT (R88). -/
  | kvext (f : UR3)
  /-- KVFORK (R89). -/
  | kvfork (f : KvforkForm)
  /-- KVREL (R90). -/
  | kvrel (f : UR3)
  /-- PIN (R70). -/
  | pin (f : UR2)
  /-- UNPIN (R70). -/
  | unpin (f : UR2)
  /-- SITREG (R219). -/
  | sitreg (f : UR2)
  /-- SITDROP (R219). -/
  | sitdrop (f : UR2)
  /-- MOVC (R144). -/
  | movc (f : MovcForm)
  /-- MOVCW (R144). -/
  | movcw (f : MovcwForm)
  /-- TRAP (R314). -/
  | trap (f : CodeForm)
  /-- RTE (R315). -/
  | rte (f : RteForm)
  /-- BKPT (R314). -/
  | bkpt (f : CodeForm)
  /-- EXIT (R316). -/
  | exit
  /-- RESERVED_OPCODE (R39). -/
  | reservedOpcode (w : Word)
  /-- MATRIX_ENTRY_PERFORM (R194). -/
  | matrixEntryPerform
  /-- LOAD_REPLY (R128). -/
  | loadReply
  /-- JOIN_RELEASE (R265). -/
  | joinRelease
  /-- STARVATION_WIN (R266). -/
  | starvationWin
  /-- SPLIT_WAKE (R262). -/
  | splitWake
  /-- CAIRN_UPDATE (R251). -/
  | cairnUpdate
  /-- CFETCH_COMPLETE (R280). -/
  | cfetchComplete
  /-- PHASE_TIMER_EXPIRY (R317). -/
  | phaseTimerExpiry
  /-- RESOLVE_TABLE_STEP (R302). -/
  | resolveTableStep
  /-- RESOLVE_COMPLETE (R252). -/
  | resolveComplete
  /-- GRID_FAULT_END (R318). -/
  | gridFaultEnd
  /-- FAULT_STATUS_WRITE (R256). -/
  | faultStatusWrite
  /-- COPY (R97). -/
  | copy
  /-- GATHER (R97). -/
  | gather
  /-- FIFOFILL (R110). -/
  | fifofill
  /-- RCOPY (R97). -/
  | rcopy
  /-- CSHUF (R100). -/
  | cshuf
  /-- DEMOTE (R67). -/
  | demote
  /-- REQUANT (R99). -/
  | requant
  /-- PAGE_SWAP (R67). -/
  | pageSwap
  /-- COMMAND_COMPLETE (R104). -/
  | commandComplete
  /-- L2_REQUEST (R75). -/
  | l2Request
  /-- NACK_REPLAY (R57). -/
  | nackReplay
  /-- WALK_RETRY (R60). -/
  | walkRetry
  /-- CORE_STORAGE_ERROR (R370). -/
  | coreStorageError
  /-- SWEEP_ENTRY (R81). -/
  | sweepEntry
  /-- SC_PERFORM (R238). -/
  | scPerform
  /-- LAMPORT_ANNOUNCE (R237). -/
  | lamportAnnounce
  /-- LAMPORT_ANNOUNCE_RECEIVE (R237). -/
  | lamportAnnounceReceive
  /-- SEQUENCE_ANNOUNCE (R247). -/
  | sequenceAnnounce
  /-- SEQUENCE_ANNOUNCE_RECEIVE (R247). -/
  | sequenceAnnounceReceive
  /-- WC_AGE_EXPIRY (R206). -/
  | wcAgeExpiry
  /-- REMOTE_WRITE (R245). -/
  | remoteWrite
  /-- REMOTE_LOAD (R245). -/
  | remoteLoad
  /-- REMOTE_ATOMIC (R245). -/
  | remoteAtomic
  /-- REMOTE_REPLY (R246). -/
  | remoteReply
  /-- DEPENDENCY_ONLY_MESSAGE (R243). -/
  | dependencyOnlyMessage
  /-- CLOSE_NOTICE (R208). -/
  | closeNotice
  /-- BATCH_SUMMARY (R208). -/
  | batchSummary
  /-- COMMIT_MESSAGE (R211). -/
  | commitMessage
  /-- SQUASH_MESSAGE (R211). -/
  | squashMessage
  /-- CODING_WINDOW_ARRIVAL (R221). -/
  | codingWindowArrival
  /-- CODING_WINDOW_TIMEOUT (R221). -/
  | codingWindowTimeout
  /-- CODED_DECODE (R222). -/
  | codedDecode
  /-- RESEND_REQUEST (R222). -/
  | resendRequest
  /-- CONTENTION_DECAY (R217). -/
  | contentionDecay
  /-- PORT_FAILURE (R216). -/
  | portFailure
  /-- DEADPLANE (R216). -/
  | deadplane
  /-- LINK_TRAINING (R213). -/
  | linkTraining
  /-- RDMA_WRITE_ARRIVAL (R253). -/
  | rdmaWriteArrival
  /-- BAR2_WRITE (R337). -/
  | bar2Write
  /-- BAR2_READ (R337). -/
  | bar2Read
  /-- BLOCK_DISPATCH (R289). -/
  | blockDispatch
  /-- WAITADDR_POLL (R288). -/
  | waitaddrPoll
  /-- SHADOW_FILL (R322). -/
  | shadowFill
  /-- SHADOW_SWAP (R322). -/
  | shadowSwap
  /-- REGION_SPILL (R323). -/
  | regionSpill
  /-- REGION_FILL (R323). -/
  | regionFill
  /-- GRID_COMPLETE (R297). -/
  | gridComplete
  /-- POWER_STEP (R301). -/
  | powerStep
  /-- THERMAL_TRIP (R341). -/
  | thermalTrip
  /-- XLINV_PAGE (R59). -/
  | xlinvPage
  /-- XLINV_ASN (R59). -/
  | xlinvAsn
  /-- XLINV_ALL (R59). -/
  | xlinvAll
  /-- XLINV_COMPLETE (R59). -/
  | xlinvComplete
  /-- VSEN_WRITE (R78). -/
  | vsenWrite
  /-- VSLOG_WRITE (R78). -/
  | vslogWrite
  /-- FEATACC_WRITE (R339). -/
  | feataccWrite
  /-- W1C_CLEAR (R59). -/
  | w1cClear
  /-- HOSTIRQ (R336). -/
  | hostirq
  /-- FRZREL (R336). -/
  | frzrel
  /-- DBGCTL_STOP (R330). -/
  | dbgctlStop
  /-- DEBUG_STOP_TAKEN (R330). -/
  | debugStopTaken
  /-- DBGCTL_RESUME (R330). -/
  | dbgctlResume
  /-- DBGCTL_STEP (R329). -/
  | dbgctlStep
  /-- DBGCTL_CANCEL (R330). -/
  | dbgctlCancel
  /-- DBGDATA_READ (R337). -/
  | dbgdataRead
  /-- DBGDATA_WRITE (R337). -/
  | dbgdataWrite
  /-- REGISTER_WRITE (R332). -/
  | registerWrite
  /-- FUNCTION_LEVEL_RESET (R331). -/
  | functionLevelReset
  /-- POWER_ON_RESET (R338). -/
  | powerOnReset
  /-- MEMORY_TRAINING (R338). -/
  | memoryTraining
  /-- OASIS_RELEASE (R338). -/
  | oasisRelease
  /-- CLUSTER_RELEASE (R338). -/
  | clusterRelease
  /-- RUNTIME_READY (R338). -/
  | runtimeReady
  /-- GET_VERSION (R340). -/
  | getVersion
  /-- GET_CAPABILITIES (R340). -/
  | getCapabilities
  /-- NEGOTIATE_ALGORITHMS (R340). -/
  | negotiateAlgorithms
  /-- GET_DIGESTS (R340). -/
  | getDigests
  /-- GET_CERTIFICATE (R340). -/
  | getCertificate
  /-- CHALLENGE (R340). -/
  | challenge
  /-- GET_MEASUREMENTS (R340). -/
  | getMeasurements
  /-- STORE_ACKNOWLEDGEMENT (R226). -/
  | storeAcknowledgement
  /-- CARAVAN_HOME_ARRIVAL (R277). -/
  | caravanHomeArrival
  /-- CARAVAN_GENERATION_COMPLETION (R277). -/
  | caravanGenerationCompletion

deriving DecidableEq, Repr

end Sys2Proof
end

