-- ==== Sys2Proof/WellFormed.lean ====
section
/-!
DEFINITION. Which terms of `Instr` are instruction words the core decodes (R39, checks 1 and 2 of R40):
the code fields and orderings outside their limits are the only ill-formed ones, because every register
field is as wide as its word makes it. A step that has no word is not well-formed in this sense.
-/

namespace Sys2Proof

/-- The reserved opcodes of R36 and R38, with the set bit as bit 7. -/
def opcodeReserved (op : Nat) : Bool :=
  op == 0x00 || (0x2D ≤ op && op ≤ 0x2F) || (0x6E ≤ op && op ≤ 0x6F) || (0x7C ≤ op && op ≤ 0x7F) ||
  (0x94 ≤ op && op ≤ 0x9F) || (0xAC ≤ op && op ≤ 0xAF) || (0xB5 ≤ op && op ≤ 0xB7) ||
  (0xBB ≤ op && op ≤ 0xBF) || (0xCD ≤ op && op ≤ 0xCF) || (0xD4 ≤ op && op ≤ 0xD7) ||
  (0xDB ≤ op && op ≤ 0xDF) || (0xE9 ≤ op && op ≤ 0xEF) || (0xF6 ≤ op && op ≤ 0xF7)

/-- An ordered load: acquire or SC; relaxed has no extension word, release is a violation (R24). -/
def loadOrder (ord : BitVec 2) : Bool := ord == 1 || ord == 3

/-- An ordered store: release or SC (R24). -/
def storeOrder (ord : BitVec 2) : Bool := ord == 2 || ord == 3

/-- INV's limits (R197). -/
def invFields (f : InvForm) : Bool := f.tol != 0 && f.maxiter != 0 && f.xin != f.yout

/-- A well-formed instruction word (R24, R35, R39, R144, R168, R197, R240). -/
def wellFormed : Instr → Bool
  | .iadd _ => true
  | .isub _ => true
  | .imul _ => true
  | .imulh _ => true
  | .nmulh _ => true
  | .imad _ => true
  | .imin _ => true
  | .imax _ => true
  | .nmin _ => true
  | .nmax _ => true
  | .iabs _ => true
  | .and _ => true
  | .or _ => true
  | .xor _ => true
  | .andn _ => true
  | .shl _ => true
  | .shr _ => true
  | .sar _ => true
  | .shrr _ => true
  | .popc _ => true
  | .clz _ => true
  | .brev _ => true
  | .bfe _ => true
  | .bfi _ => true
  | .sel _ => true
  | .mov _ => true
  | .iaddi _ => true
  | .shli _ => true
  | .shri _ => true
  | .sari _ => true
  | .andi _ => true
  | .movl _ => true
  | .padd2 _ => true
  | .psub2 _ => true
  | .pmul2 _ => true
  | .pmac2 _ => true
  | .pmacx2 _ => true
  | .sadd _ => true
  | .ssub _ => true
  | .pack2 _ => true
  | .sxlo _ => true
  | .sxhi _ => true
  | .pshrr2 _ => true
  | .inv f => invFields f
  | .fadd _ => true
  | .fsub _ => true
  | .fmul _ => true
  | .ffma _ => true
  | .fmin _ => true
  | .fmax _ => true
  | .fneg _ => true
  | .fabs _ => true
  | .frcp _ => true
  | .frsq _ => true
  | .fsqrt _ => true
  | .fexp2 _ => true
  | .flog2 _ => true
  | .fsin _ => true
  | .fcos _ => true
  | .bfma2 _ => true
  | .badd2 _ => true
  | .bmul2 _ => true
  | .cvtfi f => decide (f.c.toNat < 4)
  | .cvtif f => decide (f.c.toNat < 4)
  | .cvtnf f => decide (f.c.toNat < 4)
  | .cvtfn f => decide (f.c.toNat < 4)
  | .cvtbf f => decide (f.c.toNat < 4)
  | .cvtfb f => decide (f.c.toNat < 4)
  | .cvtef f => decide (f.c.toNat < 4)
  | .cvtfe f => decide (f.c.toNat < 4)
  | .mma _ => true
  | .accz _ => true
  | .accrd _ => true
  | .accsc _ => true
  | .accwr _ => true
  | .qnt _ => true
  | .matrixEntryPerform => false
  | .icmpeq _ => true
  | .icmpne _ => true
  | .icmplt _ => true
  | .icmple _ => true
  | .ncmplt _ => true
  | .ncmple _ => true
  | .fcmpeq _ => true
  | .fcmpne _ => true
  | .fcmplt _ => true
  | .fcmple _ => true
  | .fcmpun _ => true
  | .pand _ => true
  | .por _ => true
  | .pxor _ => true
  | .pset f => decide (f.c.toNat < 6)
  | .pget _ => true
  | .slide _ => true
  | .slideh _ => true
  | .sliden _ => true
  | .swap _ => true
  | .perm _ => true
  | .bcast f => decide (f.c.toNat < 48)
  | .redsum _ => true
  | .rediadd _ => true
  | .redmax _ => true
  | .redmin _ => true
  | .scan _ => true
  | .movs f => decide (f.c.toNat < 11)
  | .movu _ => true
  | .rng _ => true
  | .ldb _ => true
  | .ldh _ => true
  | .ldw _ => true
  | .ldd _ => true
  | .ldq _ => true
  | .ldbOrdered f => loadOrder f.ord
  | .ldhOrdered f => loadOrder f.ord
  | .ldwOrdered f => loadOrder f.ord
  | .lddOrdered f => loadOrder f.ord
  | .ldqOrdered f => loadOrder f.ord
  | .stb _ => true
  | .sth _ => true
  | .stw _ => true
  | .std _ => true
  | .stq _ => true
  | .stbOrdered f => storeOrder f.ord
  | .sthOrdered f => storeOrder f.ord
  | .stwOrdered f => storeOrder f.ord
  | .stdOrdered f => storeOrder f.ord
  | .stqOrdered f => storeOrder f.ord
  | .atomAdd _ => true
  | .atomImin _ => true
  | .atomImax _ => true
  | .atomNmin _ => true
  | .atomNmax _ => true
  | .atomAnd _ => true
  | .atomOr _ => true
  | .atomXor _ => true
  | .atomXchg _ => true
  | .atomCas _ => true
  | .atomFadd _ => true
  | .dqopPush _ => true
  | .dqopPop _ => true
  | .dqopSteal _ => true
  | .loadReply => false
  | .uadd _ => true
  | .usub _ => true
  | .umul _ => true
  | .uand _ => true
  | .uor _ => true
  | .uxor _ => true
  | .ushl _ => true
  | .ushr _ => true
  | .usar _ => true
  | .umin _ => true
  | .umax _ => true
  | .umov _ => true
  | .ucmpeq _ => true
  | .ucmplt _ => true
  | .ucmplo _ => true
  | .nop => true
  | .umovi _ => true
  | .uaddi _ => true
  | .ulit _ => true
  | .ushli _ => true
  | .bra _ => true
  | .brnz _ => true
  | .brz _ => true
  | .brd _ => true
  | .brx _ => true
  | .call _ => true
  | .ret _ => true
  | .join => true
  | .yield => true
  | .setpri _ => true
  | .brez _ => true
  | .jmpf _ => true
  | .joinRelease => false
  | .starvationWin => false
  | .splitWake => false
  | .exget _ => true
  | .exset _ => true
  | .exand _ => true
  | .exelse _ => true
  | .vote _ => true
  | .setx _ => true
  | .recset _ => true
  | .ldrec _ => true
  | .bararr _ => true
  | .barwait _ => true
  | .barsync _ => true
  | .phbarr _ => true
  | .phbwait _ => true
  | .cvbar _ => true
  | .cairnmin _ => true
  | .cairnrd _ => true
  | .cairnUpdate => false
  | .bclose _ => true
  | .waitb _ => true
  | .qfence _ => true
  | .qw _ => true
  | .qrd _ => true
  | .fence f => f.kind != 3
  | .wcflush => true
  | .rbatch _ => true
  | .rwait _ => true
  | .cfetch _ => true
  | .cwait _ => true
  | .cfetchComplete => false
  | .phase _ => true
  | .phaseTimerExpiry => false
  | .launch _ => true
  | .spawn _ => true
  | .resolve _ => true
  | .resolveTableStep => false
  | .resolveComplete => false
  | .vquery _ => true
  | .dtadd _ => true
  | .dttake _ => true
  | .dtbud _ => true
  | .trdy _ => true
  | .twait _ => true
  | .kvwalk _ => true
  | .kvext _ => true
  | .kvfork _ => true
  | .kvrel _ => true
  | .pin _ => true
  | .unpin _ => true
  | .sitreg _ => true
  | .sitdrop _ => true
  | .movc f => decide (f.c.toNat < 5)
  | .movcw f => decide (f.c.toNat < 5) && f.c != 2
  | .trap _ => true
  | .rte _ => true
  | .bkpt _ => true
  | .exit => true
  | .gridFaultEnd => false
  | .faultStatusWrite => false
  | .copy => false
  | .gather => false
  | .fifofill => false
  | .rcopy => false
  | .cshuf => false
  | .demote => false
  | .requant => false
  | .pageSwap => false
  | .commandComplete => false
  | .l2Request => false
  | .nackReplay => false
  | .walkRetry => false
  | .coreStorageError => false
  | .sweepEntry => false
  | .scPerform => false
  | .lamportAnnounce => false
  | .lamportAnnounceReceive => false
  | .sequenceAnnounce => false
  | .sequenceAnnounceReceive => false
  | .wcAgeExpiry => false
  | .remoteWrite => false
  | .remoteLoad => false
  | .remoteAtomic => false
  | .remoteReply => false
  | .dependencyOnlyMessage => false
  | .closeNotice => false
  | .batchSummary => false
  | .commitMessage => false
  | .squashMessage => false
  | .codingWindowArrival => false
  | .codingWindowTimeout => false
  | .codedDecode => false
  | .resendRequest => false
  | .contentionDecay => false
  | .portFailure => false
  | .deadplane => false
  | .linkTraining => false
  | .rdmaWriteArrival => false
  | .bar2Write => false
  | .bar2Read => false
  | .blockDispatch => false
  | .waitaddrPoll => false
  | .shadowFill => false
  | .shadowSwap => false
  | .regionSpill => false
  | .regionFill => false
  | .gridComplete => false
  | .powerStep => false
  | .thermalTrip => false
  | .xlinvPage => false
  | .xlinvAsn => false
  | .xlinvAll => false
  | .xlinvComplete => false
  | .vsenWrite => false
  | .vslogWrite => false
  | .feataccWrite => false
  | .w1cClear => false
  | .hostirq => false
  | .frzrel => false
  | .dbgctlStop => false
  | .debugStopTaken => false
  | .dbgctlResume => false
  | .dbgctlStep => false
  | .dbgctlCancel => false
  | .dbgdataRead => false
  | .dbgdataWrite => false
  | .registerWrite => false
  | .functionLevelReset => false
  | .powerOnReset => false
  | .memoryTraining => false
  | .oasisRelease => false
  | .clusterRelease => false
  | .runtimeReady => false
  | .getVersion => false
  | .getCapabilities => false
  | .negotiateAlgorithms => false
  | .getDigests => false
  | .getCertificate => false
  | .challenge => false
  | .getMeasurements => false
  | .storeAcknowledgement => false
  | .reservedOpcode w => opcodeReserved (w.toNat / 16777216)
  | .caravanHomeArrival => false
  | .caravanGenerationCompletion => false

end Sys2Proof
end

