-- ==== Sys2Proof/Decode.lean ====
section
/-!
DEFINITION. Decoding and encoding of instruction words (02_instruction_words.md). `decodeWords` reads one
statement from its first word and, where the segment holds one, the word after it; it is total and rejects
by name. `encode` writes the words of a well-formed instruction from the same encoding tables.
-/

namespace Sys2Proof

/-- Why a word is not an instruction: check 2 of R40. -/
inductive DecodeError where
  /-- fewer than four bytes -/
  | truncated
  /-- a nonzero bit in a field that must be zero (R39) -/
  | zeroField
  /-- a code field outside its defined values (R35, R39, R197) -/
  | badCode
  /-- an ordering the instruction does not allow (R24) -/
  | badOrder
  /-- a two-word instruction with no second word in its segment (R34) -/
  | noSecondWord
deriving DecidableEq, Repr

/-- Bits [lo + n - 1 : lo] of a word. -/
def fld (w lo n : Nat) : BitVec n := BitVec.ofNat n (w / 2 ^ lo)

/-- `k` when the listed fields of the word are all zero, else a format violation (R39). -/
def whenZero (z : Bool) (i : Instr) : Except DecodeError Instr :=
  if z then .ok i else .error .zeroField

/-! ### Formats of the lane set -/

/-- LR, three lane fields (R21). -/
def lr3 (k : LR3 → Instr) (w : Nat) : Except DecodeError Instr :=
  .ok (k ⟨fld w 19 5, fld w 13 6, fld w 7 6, fld w 1 6, fld w 0 1⟩)
/-- LR, unary, b = 0 (R35). -/
def lr2 (k : LR2 → Instr) (w : Nat) : Except DecodeError Instr :=
  whenZero (fld w 1 6 == 0) (k ⟨fld w 19 5, fld w 13 6, fld w 7 6, fld w 0 1⟩)
/-- LR, unary with a code below `lim` (R35). -/
def lcode (lim : Nat) (k : LCode → Instr) (w : Nat) : Except DecodeError Instr :=
  if (fld w 1 6).toNat < lim then .ok (k ⟨fld w 19 5, fld w 13 6, fld w 7 6, fld w 1 6, fld w 0 1⟩)
  else .error .badCode
/-- LI (R22). -/
def limm (k : LImm → Instr) (w : Nat) : Except DecodeError Instr :=
  .ok (k ⟨fld w 19 5, fld w 13 6, fld w 7 6, fld w 0 7⟩)
/-- LI with a shift count; imm7[6:5] must be zero (R168). -/
def lshift (k : LShift → Instr) (w : Nat) : Except DecodeError Instr :=
  whenZero (fld w 5 2 == 0) (k ⟨fld w 19 5, fld w 13 6, fld w 7 6, fld w 0 5⟩)
/-- MMA, ACCZ: d = b = 0 (R188, R192). -/
def lctl (k : LCtl → Instr) (w : Nat) : Except DecodeError Instr :=
  whenZero (fld w 13 6 == 0 && fld w 1 6 == 0) (k ⟨fld w 19 5, fld w 7 6, fld w 0 1⟩)
/-- ACCSC, ACCWR: d = 0 (R192). -/
def lctl2 (k : LCtl2 → Instr) (w : Nat) : Except DecodeError Instr :=
  whenZero (fld w 13 6 == 0) (k ⟨fld w 19 5, fld w 7 6, fld w 1 6, fld w 0 1⟩)
/-- Compares: d[5] = 0 (R37). -/
def lcmp (k : LCmp → Instr) (w : Nat) : Except DecodeError Instr :=
  whenZero (fld w 18 1 == 0) (k ⟨fld w 19 5, fld w 17 1, fld w 13 4, fld w 7 6, fld w 1 6, fld w 0 1⟩)
/-- PAND, POR, PXOR: d[5:4], a[5], b[5], w zero (R37). -/
def lpred (k : LPred → Instr) (w : Nat) : Except DecodeError Instr :=
  whenZero (fld w 17 2 == 0 && fld w 12 1 == 0 && fld w 6 1 == 0 && fld w 0 1 == 0)
    (k ⟨fld w 19 5, fld w 13 4, fld w 11 1, fld w 7 4, fld w 5 1, fld w 1 4⟩)
/-- PSET: d[5:4] zero, condition 0 to 5 (R35, R37). -/
def lpset (k : LPset → Instr) (w : Nat) : Except DecodeError Instr :=
  if (fld w 1 6).toNat < 6 then
    whenZero (fld w 17 2 == 0) (k ⟨fld w 19 5, fld w 13 4, fld w 7 6, fld w 1 6, fld w 0 1⟩)
  else .error .badCode
/-- PGET: a[5:4] and b zero (R37). -/
def lpget (k : LPget → Instr) (w : Nat) : Except DecodeError Instr :=
  whenZero (fld w 11 2 == 0 && fld w 1 6 == 0) (k ⟨fld w 19 5, fld w 13 6, fld w 7 4, fld w 0 1⟩)
/-- MOVS: a zero, special code 0 to 10 (R35, R37). -/
def lspec (k : LSpec → Instr) (w : Nat) : Except DecodeError Instr :=
  if (fld w 1 6).toNat < 11 then
    whenZero (fld w 7 6 == 0) (k ⟨fld w 19 5, fld w 13 6, fld w 1 6, fld w 0 1⟩)
  else .error .badCode
/-- The extension word's fields laid over the first word's (R24); bits [21:0] must be zero. -/
def lmemExt (w x : Nat) (k : LMemX → Instr) : Except DecodeError Instr :=
  whenZero (fld x 0 22 == 0)
    (k ⟨fld w 19 5, fld w 13 6, fld w 7 6, fld w 2 5, fld w 0 2, fld x 29 3, fld x 27 2, fld x 26 1⟩)
/-- Loads and stores: relaxed has one word; an allowed ordering takes an extension word with function 0 (R24). -/
def lmem (load : Bool) (k : LMem → Instr) (kx : LMemX → Instr) (w : Nat) (w1 : Option Nat) :
    Except DecodeError Instr :=
  if fld w 0 2 = 0 then .ok (k ⟨fld w 19 5, fld w 13 6, fld w 7 6, fld w 2 5⟩)
  else if (if load then loadOrder (fld w 0 2) else storeOrder (fld w 0 2)) then
    match w1 with
    | none => .error .noSecondWord
    | some x => if fld x 22 4 = 0 then lmemExt w x kx else .error .badCode
  else .error .badOrder
/-- ATOM functions 0 to 10 (R24). -/
def atomOf (n : Nat) : Option (LMemX → Instr) :=
  match n with
  | 0 => some .atomAdd | 1 => some .atomImin | 2 => some .atomImax | 3 => some .atomNmin
  | 4 => some .atomNmax | 5 => some .atomAnd | 6 => some .atomOr | 7 => some .atomXor
  | 8 => some .atomXchg | 9 => some .atomCas | 10 => some .atomFadd | _ => none
/-- DQOP functions 0 to 2 (R24). -/
def dqopOf (n : Nat) : Option (LMemX → Instr) :=
  match n with
  | 0 => some .dqopPush | 1 => some .dqopPop | 2 => some .dqopSteal | _ => none
/-- ATOM and DQOP always take an extension word (R24). -/
def lext (w : Nat) (w1 : Option Nat) (of : Nat → Option (LMemX → Instr)) : Except DecodeError Instr :=
  match w1 with
  | none => .error .noSecondWord
  | some x =>
    match of (fld x 22 4).toNat with
    | none => .error .badCode
    | some k => lmemExt w x k
/-- MOVL: a and imm7 zero, then the literal word (R33). -/
def movlForm (w : Nat) (w1 : Option Nat) : Except DecodeError Instr :=
  if fld w 7 6 = 0 ∧ fld w 0 7 = 0 then
    match w1 with
    | none => .error .noSecondWord
    | some x => .ok (.movl ⟨fld w 19 5, fld w 13 6, fld x 0 32⟩)
  else .error .zeroField
/-- INV's two words and its limits (R25, R197). -/
def invForm (w : Nat) (w1 : Option Nat) : Except DecodeError Instr :=
  match w1 with
  | none => .error .noSecondWord
  | some x =>
    let f : InvForm := ⟨fld w 19 5, fld w 15 4, fld w 12 3, fld w 6 6, fld w 0 6, fld x 24 8, fld x 16 8,
      fld x 12 4, fld x 6 6, fld x 5 1, fld x 4 1⟩
    if fld x 0 4 = 0 then (if invFields f then .ok (.inv f) else .error .badCode) else .error .zeroField

/-! ### Formats of the uniform set -/

/-- UR with three fields (R29). -/
def ur3 (k : UR3 → Instr) (w : Nat) : Except DecodeError Instr :=
  whenZero (fld w 0 2 == 0) (k ⟨fld w 17 7, fld w 10 7, fld w 3 7, fld w 2 1⟩)
/-- UR with b = 0. -/
def ur2 (k : UR2 → Instr) (w : Nat) : Except DecodeError Instr :=
  whenZero (fld w 0 2 == 0 && fld w 3 7 == 0) (k ⟨fld w 17 7, fld w 10 7, fld w 2 1⟩)
/-- UI (R30). -/
def uimm (k : UImm → Instr) (w : Nat) : Except DecodeError Instr := .ok (k ⟨fld w 17 7, fld w 0 17⟩)
/-- ULIT: imm17[16:1] zero, then the literal word (R33). -/
def ulitForm (w : Nat) (w1 : Option Nat) : Except DecodeError Instr :=
  if fld w 1 16 = 0 then
    match w1 with
    | none => .error .noSecondWord
    | some x => .ok (.ulit ⟨fld w 17 7, fld w 0 1, fld x 0 32⟩)
  else .error .zeroField
/-- UB with c = 0 (R31). -/
def ubr (k : UBr → Instr) (w : Nat) : Except DecodeError Instr :=
  whenZero (fld w 19 5 == 0) (k ⟨fld w 0 19⟩)
/-- UB (R31). -/
def ubrc (k : UBrC → Instr) (w : Nat) : Except DecodeError Instr := .ok (k ⟨fld w 19 5, fld w 0 19⟩)
/-- BRX: d, a[6], b, i zero (R270). -/
def laneSrc (k : LaneSrc → Instr) (w : Nat) : Except DecodeError Instr :=
  whenZero (fld w 16 8 == 0 && fld w 0 10 == 0) (k ⟨fld w 10 6⟩)
/-- UR with a source only. -/
def usrc (k : USrc → Instr) (w : Nat) : Except DecodeError Instr :=
  whenZero (fld w 17 7 == 0 && fld w 3 7 == 0 && fld w 0 2 == 0) (k ⟨fld w 10 7, fld w 2 1⟩)
/-- UR with a source only and i = 0. -/
def ssrc (k : SSrc → Instr) (w : Nat) : Except DecodeError Instr :=
  whenZero (fld w 17 7 == 0 && fld w 0 10 == 0) (k ⟨fld w 10 7⟩)
/-- UR with a destination only. -/
def udst (k : UDst → Instr) (w : Nat) : Except DecodeError Instr :=
  whenZero (fld w 3 14 == 0 && fld w 0 2 == 0) (k ⟨fld w 17 7, fld w 2 1⟩)
/-- EXAND, VOTE: a zero, b[6:5] zero (R274). -/
def upred (k : UPred → Instr) (w : Nat) : Except DecodeError Instr :=
  whenZero (fld w 8 9 == 0 && fld w 0 2 == 0) (k ⟨fld w 17 7, fld w 7 1, fld w 3 4, fld w 2 1⟩)
/-- SETX: d[6:2] and imm17[16] zero (R119). -/
def setx (k : SetxForm → Instr) (w : Nat) : Except DecodeError Instr :=
  whenZero (fld w 19 5 == 0 && fld w 16 1 == 0) (k ⟨fld w 17 2, fld w 0 16⟩)
/-- RECSET: d[6:5] zero (R117). -/
def recset (k : RecsetForm → Instr) (w : Nat) : Except DecodeError Instr :=
  whenZero (fld w 22 2 == 0 && fld w 0 2 == 0) (k ⟨fld w 17 5, fld w 10 7, fld w 3 7, fld w 2 1⟩)
/-- LDREC: a[6:5] and b zero (R118). -/
def ldrec (k : LdrecForm → Instr) (w : Nat) : Except DecodeError Instr :=
  whenZero (fld w 15 2 == 0 && fld w 3 7 == 0 && fld w 0 2 == 0) (k ⟨fld w 17 7, fld w 10 5, fld w 2 1⟩)
/-- UQ barriers: q and imm13[12:6] zero (R275). -/
def qbar (k : QBar → Instr) (w : Nat) : Except DecodeError Instr :=
  whenZero (fld w 20 4 == 0 && fld w 6 7 == 0) (k ⟨fld w 13 7, fld w 0 6⟩)
/-- PHBARR: q zero (R276). -/
def qcount (k : QCount → Instr) (w : Nat) : Except DecodeError Instr :=
  whenZero (fld w 20 4 == 0) (k ⟨fld w 13 7, fld w 0 13⟩)
/-- PHBWAIT: q and imm13[12:1] zero (R276). -/
def qphase (k : QPhase → Instr) (w : Nat) : Except DecodeError Instr :=
  whenZero (fld w 20 4 == 0 && fld w 1 12 == 0) (k ⟨fld w 13 7, fld w 0 1⟩)
/-- CVBAR, CAIRNMIN, CAIRNRD: q and imm13[12:2] zero (R134, R277). -/
def qcaravan (k : QCaravan → Instr) (w : Nat) : Except DecodeError Instr :=
  whenZero (fld w 20 4 == 0 && fld w 2 11 == 0) (k ⟨fld w 13 7, fld w 0 2⟩)
/-- BCLOSE, WAITB: q and imm13 zero (R106). -/
def qsrc (k : QSrc → Instr) (w : Nat) : Except DecodeError Instr :=
  whenZero (fld w 20 4 == 0 && fld w 0 13 == 0) (k ⟨fld w 13 7⟩)
/-- QFENCE: q, a and imm13[12:5] zero (R106, R107). -/
def qfence (k : QFenceForm → Instr) (w : Nat) : Except DecodeError Instr :=
  whenZero (fld w 5 19 == 0) (k ⟨fld w 4 1, fld w 3 1, fld w 0 3⟩)
/-- QW, QRD: imm13 zero (R95). -/
def qreg (k : QReg → Instr) (w : Nat) : Except DecodeError Instr :=
  whenZero (fld w 0 13 == 0) (k ⟨fld w 20 4, fld w 13 7⟩)
/-- FENCE: d, a, i, b[6:5] zero, kind 0 to 2 (R240). -/
def fence (k : FenceForm → Instr) (w : Nat) : Except DecodeError Instr :=
  if fld w 6 2 = 3 then .error .badCode
  else whenZero (fld w 8 16 == 0 && fld w 0 3 == 0) (k ⟨fld w 6 2, fld w 3 3⟩)
/-- KVFORK: b[6:1] zero (R86). -/
def kvfork (k : KvforkForm → Instr) (w : Nat) : Except DecodeError Instr :=
  whenZero (fld w 4 6 == 0 && fld w 0 2 == 0) (k ⟨fld w 17 7, fld w 10 7, fld w 3 1, fld w 2 1⟩)
/-- MOVC: a[6:3] and b zero, register 0 to 4 (R143, R144). -/
def movc (k : MovcForm → Instr) (w : Nat) : Except DecodeError Instr :=
  if (fld w 10 3).toNat < 5 then
    whenZero (fld w 13 4 == 0 && fld w 3 7 == 0 && fld w 0 2 == 0) (k ⟨fld w 17 7, fld w 10 3, fld w 2 1⟩)
  else .error .badCode
/-- MOVCW: d[6:3] and b zero, register 0, 1, 3 or 4 (R143, R144). -/
def movcw (k : MovcwForm → Instr) (w : Nat) : Except DecodeError Instr :=
  if (fld w 17 3).toNat < 5 ∧ fld w 17 3 ≠ 2 then
    whenZero (fld w 20 4 == 0 && fld w 3 7 == 0 && fld w 0 2 == 0) (k ⟨fld w 17 3, fld w 10 7, fld w 2 1⟩)
  else .error .badCode
/-- TRAP, BKPT: the code in b, d, a and i zero (R314). -/
def codef (k : CodeForm → Instr) (w : Nat) : Except DecodeError Instr :=
  whenZero (fld w 10 14 == 0 && fld w 0 3 == 0) (k ⟨fld w 3 7⟩)
/-- RTE: every field but b[0] zero (R315). -/
def rte (k : RteForm → Instr) (w : Nat) : Except DecodeError Instr :=
  whenZero (fld w 4 20 == 0 && fld w 0 3 == 0) (k ⟨fld w 3 1⟩)
/-- SETPRI: d and imm17[16:8] zero (R273). -/
def pri (k : PriForm → Instr) (w : Nat) : Except DecodeError Instr :=
  whenZero (fld w 8 16 == 0) (k ⟨fld w 0 8⟩)
/-- JMPF: d and imm17[16:15] zero (R280). -/
def far (k : FarForm → Instr) (w : Nat) : Except DecodeError Instr :=
  whenZero (fld w 15 9 == 0) (k ⟨fld w 10 5, fld w 0 10⟩)
/-- Every field zero (R46, R209, R273, R316). -/
def bare (i : Instr) (w : Nat) : Except DecodeError Instr := whenZero (fld w 0 24 == 0) i

/-! ### The opcode maps -/

/-- R36, R38: the integer and immediate opcodes. -/
def laneInteger (op w0 : Nat) (w1 : Option Nat) : Except DecodeError Instr :=
  match op with
  | 0x01 => lr3 .iadd w0
  | 0x02 => lr3 .isub w0
  | 0x03 => lr3 .imul w0
  | 0x04 => lr3 .imulh w0
  | 0x05 => lr3 .nmulh w0
  | 0x06 => lr3 .imad w0
  | 0x07 => lr3 .imin w0
  | 0x08 => lr3 .imax w0
  | 0x09 => lr3 .nmin w0
  | 0x0A => lr3 .nmax w0
  | 0x0B => lr2 .iabs w0
  | 0x0C => lr3 .and w0
  | 0x0D => lr3 .or w0
  | 0x0E => lr3 .xor w0
  | 0x0F => lr3 .andn w0
  | 0x10 => lr3 .shl w0
  | 0x11 => lr3 .shr w0
  | 0x12 => lr3 .sar w0
  | 0x13 => lr3 .shrr w0
  | 0x14 => lr2 .popc w0
  | 0x15 => lr2 .clz w0
  | 0x16 => lr2 .brev w0
  | 0x17 => lr3 .bfe w0
  | 0x18 => lr3 .bfi w0
  | 0x19 => lr3 .sel w0
  | 0x1A => lr2 .mov w0
  | 0x1B => limm .iaddi w0
  | 0x1C => lshift .shli w0
  | 0x1D => lshift .shri w0
  | 0x1E => lshift .sari w0
  | 0x1F => limm .andi w0
  | 0x20 => movlForm w0 w1
  | _ => .ok (.reservedOpcode (BitVec.ofNat 32 w0))

/-- R36, R38: the packed opcodes and INV. -/
def lanePacked (op w0 : Nat) (w1 : Option Nat) : Except DecodeError Instr :=
  match op with
  | 0x21 => lr3 .padd2 w0
  | 0x22 => lr3 .psub2 w0
  | 0x23 => lr3 .pmul2 w0
  | 0x24 => lr3 .pmac2 w0
  | 0x25 => lr3 .pmacx2 w0
  | 0x26 => lr3 .sadd w0
  | 0x27 => lr3 .ssub w0
  | 0x28 => lr3 .pack2 w0
  | 0x29 => lr2 .sxlo w0
  | 0x2A => lr2 .sxhi w0
  | 0x2B => lr3 .pshrr2 w0
  | 0x2C => invForm w0 w1
  | _ => .ok (.reservedOpcode (BitVec.ofNat 32 w0))

/-- R36, R38: the float and conversion opcodes. -/
def laneFloat (op w0 : Nat) : Except DecodeError Instr :=
  match op with
  | 0x30 => lr3 .fadd w0
  | 0x31 => lr3 .fsub w0
  | 0x32 => lr3 .fmul w0
  | 0x33 => lr3 .ffma w0
  | 0x34 => lr3 .fmin w0
  | 0x35 => lr3 .fmax w0
  | 0x36 => lr2 .fneg w0
  | 0x37 => lr2 .fabs w0
  | 0x38 => lr2 .frcp w0
  | 0x39 => lr2 .frsq w0
  | 0x3A => lr2 .fsqrt w0
  | 0x3B => lr2 .fexp2 w0
  | 0x3C => lr2 .flog2 w0
  | 0x3D => lr2 .fsin w0
  | 0x3E => lr2 .fcos w0
  | 0x3F => lr3 .bfma2 w0
  | 0x40 => lr3 .badd2 w0
  | 0x41 => lr3 .bmul2 w0
  | 0x42 => lcode 4 .cvtfi w0
  | 0x43 => lcode 4 .cvtif w0
  | 0x44 => lcode 4 .cvtnf w0
  | 0x45 => lcode 4 .cvtfn w0
  | 0x46 => lcode 4 .cvtbf w0
  | 0x47 => lcode 4 .cvtfb w0
  | 0x48 => lcode 4 .cvtef w0
  | 0x49 => lcode 4 .cvtfe w0
  | _ => .ok (.reservedOpcode (BitVec.ofNat 32 w0))

/-- R36, R38: the matrix, compare and predicate opcodes. -/
def laneMatrixPred (op w0 : Nat) : Except DecodeError Instr :=
  match op with
  | 0x4A => lctl .mma w0
  | 0x4B => lctl .accz w0
  | 0x4C => lr2 .accrd w0
  | 0x4D => lctl2 .accsc w0
  | 0x4E => lctl2 .accwr w0
  | 0x4F => lr3 .qnt w0
  | 0x50 => lcmp .icmpeq w0
  | 0x51 => lcmp .icmpne w0
  | 0x52 => lcmp .icmplt w0
  | 0x53 => lcmp .icmple w0
  | 0x54 => lcmp .ncmplt w0
  | 0x55 => lcmp .ncmple w0
  | 0x56 => lcmp .fcmpeq w0
  | 0x57 => lcmp .fcmpne w0
  | 0x58 => lcmp .fcmplt w0
  | 0x59 => lcmp .fcmple w0
  | 0x5A => lcmp .fcmpun w0
  | 0x5B => lpred .pand w0
  | 0x5C => lpred .por w0
  | 0x5D => lpred .pxor w0
  | 0x5E => lpset .pset w0
  | 0x5F => lpget .pget w0
  | _ => .ok (.reservedOpcode (BitVec.ofNat 32 w0))

/-- R36, R38: the cross-lane and special opcodes. -/
def laneCross (op w0 : Nat) : Except DecodeError Instr :=
  match op with
  | 0x60 => lr3 .slide w0
  | 0x61 => lr3 .slideh w0
  | 0x62 => lr3 .sliden w0
  | 0x63 => lr3 .swap w0
  | 0x64 => lr3 .perm w0
  | 0x65 => lcode 48 .bcast w0
  | 0x66 => lr2 .redsum w0
  | 0x67 => lr2 .rediadd w0
  | 0x68 => lr2 .redmax w0
  | 0x69 => lr2 .redmin w0
  | 0x6A => lr2 .scan w0
  | 0x6B => lspec .movs w0
  | 0x6C => lr2 .movu w0
  | 0x6D => lr3 .rng w0
  | _ => .ok (.reservedOpcode (BitVec.ofNat 32 w0))

/-- R36, R38: the memory opcodes. -/
def laneMem (op w0 : Nat) (w1 : Option Nat) : Except DecodeError Instr :=
  match op with
  | 0x70 => lmem true .ldb .ldbOrdered w0 w1
  | 0x71 => lmem true .ldh .ldhOrdered w0 w1
  | 0x72 => lmem true .ldw .ldwOrdered w0 w1
  | 0x73 => lmem true .ldd .lddOrdered w0 w1
  | 0x74 => lmem true .ldq .ldqOrdered w0 w1
  | 0x75 => lmem false .stb .stbOrdered w0 w1
  | 0x76 => lmem false .sth .sthOrdered w0 w1
  | 0x77 => lmem false .stw .stwOrdered w0 w1
  | 0x78 => lmem false .std .stdOrdered w0 w1
  | 0x79 => lmem false .stq .stqOrdered w0 w1
  | 0x7A => lext w0 w1 atomOf
  | 0x7B => lext w0 w1 dqopOf
  | _ => .ok (.reservedOpcode (BitVec.ofNat 32 w0))

/-- R36, R38: the uniform arithmetic opcodes. -/
def uniformAlu (op w0 : Nat) (w1 : Option Nat) : Except DecodeError Instr :=
  match op with
  | 0x80 => ur3 .uadd w0
  | 0x81 => ur3 .usub w0
  | 0x82 => ur3 .umul w0
  | 0x83 => ur3 .uand w0
  | 0x84 => ur3 .uor w0
  | 0x85 => ur3 .uxor w0
  | 0x86 => ur3 .ushl w0
  | 0x87 => ur3 .ushr w0
  | 0x88 => ur3 .usar w0
  | 0x89 => ur3 .umin w0
  | 0x8A => ur3 .umax w0
  | 0x8B => ur2 .umov w0
  | 0x8C => ur3 .ucmpeq w0
  | 0x8D => ur3 .ucmplt w0
  | 0x8E => ur3 .ucmplo w0
  | 0x8F => bare .nop w0
  | 0x90 => uimm .umovi w0
  | 0x91 => uimm .uaddi w0
  | 0x92 => ulitForm w0 w1
  | 0x93 => uimm .ushli w0
  | _ => .ok (.reservedOpcode (BitVec.ofNat 32 w0))

/-- R36, R38: the control, EXEC and record opcodes. -/
def uniformControl (op w0 : Nat) : Except DecodeError Instr :=
  match op with
  | 0xA0 => ubr .bra w0
  | 0xA1 => ubrc .brnz w0
  | 0xA2 => ubrc .brz w0
  | 0xA3 => ubrc .brd w0
  | 0xA4 => laneSrc .brx w0
  | 0xA5 => ubr .call w0
  | 0xA6 => usrc .ret w0
  | 0xA7 => bare .join w0
  | 0xA8 => bare .yield w0
  | 0xA9 => pri .setpri w0
  | 0xAA => ubr .brez w0
  | 0xAB => far .jmpf w0
  | 0xB0 => udst .exget w0
  | 0xB1 => usrc .exset w0
  | 0xB2 => upred .exand w0
  | 0xB3 => usrc .exelse w0
  | 0xB4 => upred .vote w0
  | 0xB8 => setx .setx w0
  | 0xB9 => recset .recset w0
  | 0xBA => ldrec .ldrec w0
  | _ => .ok (.reservedOpcode (BitVec.ofNat 32 w0))

/-- R36, R38: the UQ opcodes. -/
def uniformQueue (op w0 : Nat) : Except DecodeError Instr :=
  match op with
  | 0xC0 => qbar .bararr w0
  | 0xC1 => qbar .barwait w0
  | 0xC2 => qbar .barsync w0
  | 0xC3 => qcount .phbarr w0
  | 0xC4 => qphase .phbwait w0
  | 0xC5 => qcaravan .cvbar w0
  | 0xC6 => qcaravan .cairnmin w0
  | 0xC7 => qcaravan .cairnrd w0
  | 0xC8 => qsrc .bclose w0
  | 0xC9 => qsrc .waitb w0
  | 0xCA => qfence .qfence w0
  | 0xCB => qreg .qw w0
  | 0xCC => qreg .qrd w0
  | _ => .ok (.reservedOpcode (BitVec.ofNat 32 w0))

/-- R36, R38: the ordering, launch and key-value opcodes. -/
def uniformSystem (op w0 : Nat) : Except DecodeError Instr :=
  match op with
  | 0xD0 => fence .fence w0
  | 0xD1 => bare .wcflush w0
  | 0xD2 => udst .rbatch w0
  | 0xD3 => udst .rwait w0
  | 0xD8 => ssrc .cfetch w0
  | 0xD9 => ssrc .cwait w0
  | 0xDA => ssrc .phase w0
  | 0xE0 => ur2 .launch w0
  | 0xE1 => ur3 .spawn w0
  | 0xE2 => ur3 .resolve w0
  | 0xE3 => ur2 .vquery w0
  | 0xE4 => ur3 .dtadd w0
  | 0xE5 => ur2 .dttake w0
  | 0xE6 => ur3 .dtbud w0
  | 0xE7 => ur2 .trdy w0
  | 0xE8 => ur3 .twait w0
  | 0xF0 => ur3 .kvwalk w0
  | 0xF1 => ur3 .kvext w0
  | 0xF2 => kvfork .kvfork w0
  | 0xF3 => ur3 .kvrel w0
  | 0xF4 => ur2 .pin w0
  | 0xF5 => ur2 .unpin w0
  | _ => .ok (.reservedOpcode (BitVec.ofNat 32 w0))

/-- R36, R38: the side-information, control-register and trap opcodes. -/
def uniformLast (op w0 : Nat) : Except DecodeError Instr :=
  match op with
  | 0xF8 => ur2 .sitreg w0
  | 0xF9 => ur2 .sitdrop w0
  | 0xFA => movc .movc w0
  | 0xFB => movcw .movcw w0
  | 0xFC => codef .trap w0
  | 0xFD => rte .rte w0
  | 0xFE => codef .bkpt w0
  | 0xFF => bare .exit w0
  | _ => .ok (.reservedOpcode (BitVec.ofNat 32 w0))

/-- R20, R36, R38: the opcode with its set bit chooses the instruction; an unlisted value is reserved. -/
def decodeOp (op w0 : Nat) (w1 : Option Nat) : Except DecodeError Instr :=
  if op ≤ 0x20 then laneInteger op w0 w1
  else if op ≤ 0x2C then lanePacked op w0 w1
  else if op ≤ 0x49 then laneFloat op w0
  else if op ≤ 0x5F then laneMatrixPred op w0
  else if op ≤ 0x6D then laneCross op w0
  else if op ≤ 0x7B then laneMem op w0 w1
  else if op ≤ 0x93 then uniformAlu op w0 w1
  else if op ≤ 0xBA then uniformControl op w0
  else if op ≤ 0xCC then uniformQueue op w0
  else if op ≤ 0xF5 then uniformSystem op w0
  else if op ≤ 0xFF then uniformLast op w0
  else .ok (.reservedOpcode (BitVec.ofNat 32 w0))

/-- One statement from its first word and the word after it in the segment, if there is one. -/
def decodeWords (w0 : Word) (w1 : Option Word) : Except DecodeError Instr :=
  decodeOp (w0.toNat / 16777216) w0.toNat (w1.map BitVec.toNat)

/-- The number of words of an instruction's own statement (R33); an INV's routine is not counted. -/
def wordCount : Instr → Nat
  | .movl _ | .ulit _ | .inv _ => 2
  | .ldbOrdered _ | .ldhOrdered _ | .ldwOrdered _ | .lddOrdered _ | .ldqOrdered _ => 2
  | .stbOrdered _ | .sthOrdered _ | .stwOrdered _ | .stdOrdered _ | .stqOrdered _ => 2
  | .atomAdd _ | .atomImin _ | .atomImax _ | .atomNmin _ | .atomNmax _ | .atomAnd _ | .atomOr _
  | .atomXor _ | .atomXchg _ | .atomCas _ | .atomFadd _ => 2
  | .dqopPush _ | .dqopPop _ | .dqopSteal _ => 2
  | _ => 1

/-- A word from four bytes, little-endian (R19). -/
def wordOfBytes (b0 b1 b2 b3 : Byte) : Word :=
  BitVec.ofNat 32 (b0.toNat + 256 * b1.toNat + 65536 * b2.toNat + 16777216 * b3.toNat)

/-- One statement from the bytes of a segment, and the bytes after it. -/
def decode : List Byte → Except DecodeError (Instr × List Byte)
  | b0 :: b1 :: b2 :: b3 :: rest =>
    let w1 := match rest with
      | c0 :: c1 :: c2 :: c3 :: _ => some (wordOfBytes c0 c1 c2 c3)
      | _ => none
    match decodeWords (wordOfBytes b0 b1 b2 b3) w1 with
    | .error e => .error e
    | .ok i => .ok (i, if wordCount i = 2 then rest.drop 4 else rest)
  | _ => .error .truncated

/-- The instruction the decoder reads from a word of the opcode table: bit 0 is the least significant bit
of the first word, and every bit from `nbits` on is 0. -/
def decodeTableWord (nbits w : Nat) : Option Instr :=
  let v := w % 2 ^ nbits
  match decodeWords (BitVec.ofNat 32 v) (some (BitVec.ofNat 32 (v / 2 ^ 32))) with
  | .ok i => some i
  | .error _ => none

/-! ### Encoding -/

/-- LR (R21). -/
def encLR3 (op : Nat) (f : LR3) : Word :=
  BitVec.ofNat 32 (op * 2 ^ 24 + f.g.toNat * 2 ^ 19 + f.d.toNat * 2 ^ 13 + f.a.toNat * 2 ^ 7 + f.b.toNat * 2 ^ 1 + f.w.toNat)
/-- LR, unary. -/
def encLR2 (op : Nat) (f : LR2) : Word :=
  BitVec.ofNat 32 (op * 2 ^ 24 + f.g.toNat * 2 ^ 19 + f.d.toNat * 2 ^ 13 + f.a.toNat * 2 ^ 7 + f.w.toNat)
/-- LR with a code in b (R35). -/
def encLCode (op : Nat) (f : LCode) : Word :=
  BitVec.ofNat 32 (op * 2 ^ 24 + f.g.toNat * 2 ^ 19 + f.d.toNat * 2 ^ 13 + f.a.toNat * 2 ^ 7 + f.c.toNat * 2 ^ 1 + f.w.toNat)
/-- LI (R22). -/
def encLImm (op : Nat) (f : LImm) : Word :=
  BitVec.ofNat 32 (op * 2 ^ 24 + f.g.toNat * 2 ^ 19 + f.d.toNat * 2 ^ 13 + f.a.toNat * 2 ^ 7 + f.imm.toNat)
/-- LI with a shift count (R168). -/
def encLShift (op : Nat) (f : LShift) : Word :=
  BitVec.ofNat 32 (op * 2 ^ 24 + f.g.toNat * 2 ^ 19 + f.d.toNat * 2 ^ 13 + f.a.toNat * 2 ^ 7 + f.c.toNat)
/-- MMA, ACCZ. -/
def encLCtl (op : Nat) (f : LCtl) : Word :=
  BitVec.ofNat 32 (op * 2 ^ 24 + f.g.toNat * 2 ^ 19 + f.a.toNat * 2 ^ 7 + f.w.toNat)
/-- ACCSC, ACCWR. -/
def encLCtl2 (op : Nat) (f : LCtl2) : Word :=
  BitVec.ofNat 32 (op * 2 ^ 24 + f.g.toNat * 2 ^ 19 + f.a.toNat * 2 ^ 7 + f.b.toNat * 2 ^ 1 + f.w.toNat)
/-- Compares (R37). -/
def encLCmp (op : Nat) (f : LCmp) : Word :=
  BitVec.ofNat 32 (op * 2 ^ 24 + f.g.toNat * 2 ^ 19 + f.p.toNat * 2 ^ 17 + f.d.toNat * 2 ^ 13 + f.a.toNat * 2 ^ 7 + f.b.toNat * 2 ^ 1 + f.w.toNat)
/-- Predicate logic (R37). -/
def encLPred (op : Nat) (f : LPred) : Word :=
  BitVec.ofNat 32 (op * 2 ^ 24 + f.g.toNat * 2 ^ 19 + f.d.toNat * 2 ^ 13 + f.x.toNat * 2 ^ 11 + f.a.toNat * 2 ^ 7 + f.y.toNat * 2 ^ 5 + f.b.toNat * 2 ^ 1)
/-- PSET (R37). -/
def encLPset (op : Nat) (f : LPset) : Word :=
  BitVec.ofNat 32 (op * 2 ^ 24 + f.g.toNat * 2 ^ 19 + f.d.toNat * 2 ^ 13 + f.a.toNat * 2 ^ 7 + f.c.toNat * 2 ^ 1 + f.w.toNat)
/-- PGET (R37). -/
def encLPget (op : Nat) (f : LPget) : Word :=
  BitVec.ofNat 32 (op * 2 ^ 24 + f.g.toNat * 2 ^ 19 + f.d.toNat * 2 ^ 13 + f.a.toNat * 2 ^ 7 + f.w.toNat)
/-- MOVS (R37). -/
def encLSpec (op : Nat) (f : LSpec) : Word :=
  BitVec.ofNat 32 (op * 2 ^ 24 + f.g.toNat * 2 ^ 19 + f.d.toNat * 2 ^ 13 + f.c.toNat * 2 ^ 1 + f.w.toNat)
/-- LM, relaxed (R23). -/
def encLMem (op : Nat) (f : LMem) : Word :=
  BitVec.ofNat 32 (op * 2 ^ 24 + f.g.toNat * 2 ^ 19 + f.d.toNat * 2 ^ 13 + f.a.toNat * 2 ^ 7 + f.r.toNat * 2 ^ 2)
/-- UR (R29). -/
def encUR3 (op : Nat) (f : UR3) : Word :=
  BitVec.ofNat 32 (op * 2 ^ 24 + f.d.toNat * 2 ^ 17 + f.a.toNat * 2 ^ 10 + f.b.toNat * 2 ^ 3 + f.i.toNat * 2 ^ 2)
/-- UR with b = 0. -/
def encUR2 (op : Nat) (f : UR2) : Word :=
  BitVec.ofNat 32 (op * 2 ^ 24 + f.d.toNat * 2 ^ 17 + f.a.toNat * 2 ^ 10 + f.i.toNat * 2 ^ 2)
/-- UI (R30). -/
def encUImm (op : Nat) (f : UImm) : Word :=
  BitVec.ofNat 32 (op * 2 ^ 24 + f.d.toNat * 2 ^ 17 + f.imm.toNat)
/-- UB with c = 0 (R31). -/
def encUBr (op : Nat) (f : UBr) : Word :=
  BitVec.ofNat 32 (op * 2 ^ 24 + f.off.toNat)
/-- UB (R31). -/
def encUBrC (op : Nat) (f : UBrC) : Word :=
  BitVec.ofNat 32 (op * 2 ^ 24 + f.c.toNat * 2 ^ 19 + f.off.toNat)
/-- BRX (R270). -/
def encLaneSrc (op : Nat) (f : LaneSrc) : Word :=
  BitVec.ofNat 32 (op * 2 ^ 24 + f.a.toNat * 2 ^ 10)
/-- UR, source only. -/
def encUSrc (op : Nat) (f : USrc) : Word :=
  BitVec.ofNat 32 (op * 2 ^ 24 + f.a.toNat * 2 ^ 10 + f.i.toNat * 2 ^ 2)
/-- UR, source only, i = 0. -/
def encSSrc (op : Nat) (f : SSrc) : Word :=
  BitVec.ofNat 32 (op * 2 ^ 24 + f.a.toNat * 2 ^ 10)
/-- UR, destination only. -/
def encUDst (op : Nat) (f : UDst) : Word :=
  BitVec.ofNat 32 (op * 2 ^ 24 + f.d.toNat * 2 ^ 17 + f.i.toNat * 2 ^ 2)
/-- EXAND, VOTE (R274). -/
def encUPred (op : Nat) (f : UPred) : Word :=
  BitVec.ofNat 32 (op * 2 ^ 24 + f.d.toNat * 2 ^ 17 + f.n.toNat * 2 ^ 7 + f.b.toNat * 2 ^ 3 + f.i.toNat * 2 ^ 2)
/-- SETX (R119). -/
def encSetxForm (op : Nat) (f : SetxForm) : Word :=
  BitVec.ofNat 32 (op * 2 ^ 24 + f.n.toNat * 2 ^ 17 + f.imm.toNat)
/-- RECSET (R117). -/
def encRecsetForm (op : Nat) (f : RecsetForm) : Word :=
  BitVec.ofNat 32 (op * 2 ^ 24 + f.d.toNat * 2 ^ 17 + f.a.toNat * 2 ^ 10 + f.b.toNat * 2 ^ 3 + f.i.toNat * 2 ^ 2)
/-- LDREC (R118). -/
def encLdrecForm (op : Nat) (f : LdrecForm) : Word :=
  BitVec.ofNat 32 (op * 2 ^ 24 + f.d.toNat * 2 ^ 17 + f.a.toNat * 2 ^ 10 + f.i.toNat * 2 ^ 2)
/-- UQ barriers (R275). -/
def encQBar (op : Nat) (f : QBar) : Word :=
  BitVec.ofNat 32 (op * 2 ^ 24 + f.a.toNat * 2 ^ 13 + f.n.toNat)
/-- PHBARR (R276). -/
def encQCount (op : Nat) (f : QCount) : Word :=
  BitVec.ofNat 32 (op * 2 ^ 24 + f.a.toNat * 2 ^ 13 + f.k.toNat)
/-- PHBWAIT (R276). -/
def encQPhase (op : Nat) (f : QPhase) : Word :=
  BitVec.ofNat 32 (op * 2 ^ 24 + f.a.toNat * 2 ^ 13 + f.p.toNat)
/-- CVBAR, CAIRNMIN, CAIRNRD (R134, R277). -/
def encQCaravan (op : Nat) (f : QCaravan) : Word :=
  BitVec.ofNat 32 (op * 2 ^ 24 + f.a.toNat * 2 ^ 13 + f.c.toNat)
/-- BCLOSE, WAITB (R106). -/
def encQSrc (op : Nat) (f : QSrc) : Word :=
  BitVec.ofNat 32 (op * 2 ^ 24 + f.a.toNat * 2 ^ 13)
/-- QFENCE (R107). -/
def encQFenceForm (op : Nat) (f : QFenceForm) : Word :=
  BitVec.ofNat 32 (op * 2 ^ 24 + f.w.toNat * 2 ^ 4 + f.m.toNat * 2 ^ 3 + f.q.toNat)
/-- QW, QRD (R95). -/
def encQReg (op : Nat) (f : QReg) : Word :=
  BitVec.ofNat 32 (op * 2 ^ 24 + f.q.toNat * 2 ^ 20 + f.a.toNat * 2 ^ 13)
/-- FENCE (R240). -/
def encFenceForm (op : Nat) (f : FenceForm) : Word :=
  BitVec.ofNat 32 (op * 2 ^ 24 + f.kind.toNat * 2 ^ 6 + f.scope.toNat * 2 ^ 3)
/-- KVFORK (R86). -/
def encKvforkForm (op : Nat) (f : KvforkForm) : Word :=
  BitVec.ofNat 32 (op * 2 ^ 24 + f.d.toNat * 2 ^ 17 + f.a.toNat * 2 ^ 10 + f.k.toNat * 2 ^ 3 + f.i.toNat * 2 ^ 2)
/-- MOVC (R144). -/
def encMovcForm (op : Nat) (f : MovcForm) : Word :=
  BitVec.ofNat 32 (op * 2 ^ 24 + f.d.toNat * 2 ^ 17 + f.c.toNat * 2 ^ 10 + f.i.toNat * 2 ^ 2)
/-- MOVCW (R144). -/
def encMovcwForm (op : Nat) (f : MovcwForm) : Word :=
  BitVec.ofNat 32 (op * 2 ^ 24 + f.c.toNat * 2 ^ 17 + f.a.toNat * 2 ^ 10 + f.i.toNat * 2 ^ 2)
/-- TRAP, BKPT (R314). -/
def encCodeForm (op : Nat) (f : CodeForm) : Word :=
  BitVec.ofNat 32 (op * 2 ^ 24 + f.n.toNat * 2 ^ 3)
/-- RTE (R315). -/
def encRteForm (op : Nat) (f : RteForm) : Word :=
  BitVec.ofNat 32 (op * 2 ^ 24 + f.skip.toNat * 2 ^ 3)
/-- SETPRI (R273). -/
def encPriForm (op : Nat) (f : PriForm) : Word :=
  BitVec.ofNat 32 (op * 2 ^ 24 + f.p.toNat)
/-- JMPF (R280). -/
def encFarForm (op : Nat) (f : FarForm) : Word :=
  BitVec.ofNat 32 (op * 2 ^ 24 + f.s.toNat * 2 ^ 10 + f.off.toNat)
/-- A word with an opcode and every other bit zero, or a UI word given by numbers. -/
def encUI (op d imm : Nat) : Word := BitVec.ofNat 32 (op * 2 ^ 24 + d * 2 ^ 17 + imm)
/-- MOVL's first word (R33). -/
def encMovl (f : LLit) : Word := BitVec.ofNat 32 (0x20 * 2 ^ 24 + f.g.toNat * 2 ^ 19 + f.d.toNat * 2 ^ 13)
/-- LM with its extension word (R23, R24). -/
def encMemX (op fn : Nat) (f : LMemX) : List Word :=
  [BitVec.ofNat 32 (op * 2 ^ 24 + f.g.toNat * 2 ^ 19 + f.d.toNat * 2 ^ 13 + f.a.toNat * 2 ^ 7
      + f.r.toNat * 2 ^ 2 + f.ord.toNat),
   BitVec.ofNat 32 (f.scope.toNat * 2 ^ 29 + f.policy.toNat * 2 ^ 27 + f.cbyp.toNat * 2 ^ 26 + fn * 2 ^ 22)]
/-- INV's two words (R25). -/
def encInv (f : InvForm) : List Word :=
  [BitVec.ofNat 32 (0x2C * 2 ^ 24 + f.g.toNat * 2 ^ 19 + f.n1.toNat * 2 ^ 15 + f.bracket.toNat * 2 ^ 12
      + f.xin.toNat * 2 ^ 6 + f.yout.toNat),
   BitVec.ofNat 32 (f.target.toNat * 2 ^ 24 + f.tol.toNat * 2 ^ 16 + f.status.toNat * 2 ^ 12
      + f.maxiter.toNat * 2 ^ 6 + f.flt.toNat * 2 ^ 5 + f.dec.toNat * 2 ^ 4)]

/-- The words of an instruction; none for a step that has no word. -/
def encode : Instr → List Word
  | .iadd f => [encLR3 0x01 f]
  | .isub f => [encLR3 0x02 f]
  | .imul f => [encLR3 0x03 f]
  | .imulh f => [encLR3 0x04 f]
  | .nmulh f => [encLR3 0x05 f]
  | .imad f => [encLR3 0x06 f]
  | .imin f => [encLR3 0x07 f]
  | .imax f => [encLR3 0x08 f]
  | .nmin f => [encLR3 0x09 f]
  | .nmax f => [encLR3 0x0A f]
  | .iabs f => [encLR2 0x0B f]
  | .and f => [encLR3 0x0C f]
  | .or f => [encLR3 0x0D f]
  | .xor f => [encLR3 0x0E f]
  | .andn f => [encLR3 0x0F f]
  | .shl f => [encLR3 0x10 f]
  | .shr f => [encLR3 0x11 f]
  | .sar f => [encLR3 0x12 f]
  | .shrr f => [encLR3 0x13 f]
  | .popc f => [encLR2 0x14 f]
  | .clz f => [encLR2 0x15 f]
  | .brev f => [encLR2 0x16 f]
  | .bfe f => [encLR3 0x17 f]
  | .bfi f => [encLR3 0x18 f]
  | .sel f => [encLR3 0x19 f]
  | .mov f => [encLR2 0x1A f]
  | .iaddi f => [encLImm 0x1B f]
  | .shli f => [encLShift 0x1C f]
  | .shri f => [encLShift 0x1D f]
  | .sari f => [encLShift 0x1E f]
  | .andi f => [encLImm 0x1F f]
  | .movl f => [encMovl f, f.lit]
  | .padd2 f => [encLR3 0x21 f]
  | .psub2 f => [encLR3 0x22 f]
  | .pmul2 f => [encLR3 0x23 f]
  | .pmac2 f => [encLR3 0x24 f]
  | .pmacx2 f => [encLR3 0x25 f]
  | .sadd f => [encLR3 0x26 f]
  | .ssub f => [encLR3 0x27 f]
  | .pack2 f => [encLR3 0x28 f]
  | .sxlo f => [encLR2 0x29 f]
  | .sxhi f => [encLR2 0x2A f]
  | .pshrr2 f => [encLR3 0x2B f]
  | .inv f => encInv f
  | .fadd f => [encLR3 0x30 f]
  | .fsub f => [encLR3 0x31 f]
  | .fmul f => [encLR3 0x32 f]
  | .ffma f => [encLR3 0x33 f]
  | .fmin f => [encLR3 0x34 f]
  | .fmax f => [encLR3 0x35 f]
  | .fneg f => [encLR2 0x36 f]
  | .fabs f => [encLR2 0x37 f]
  | .frcp f => [encLR2 0x38 f]
  | .frsq f => [encLR2 0x39 f]
  | .fsqrt f => [encLR2 0x3A f]
  | .fexp2 f => [encLR2 0x3B f]
  | .flog2 f => [encLR2 0x3C f]
  | .fsin f => [encLR2 0x3D f]
  | .fcos f => [encLR2 0x3E f]
  | .bfma2 f => [encLR3 0x3F f]
  | .badd2 f => [encLR3 0x40 f]
  | .bmul2 f => [encLR3 0x41 f]
  | .cvtfi f => [encLCode 0x42 f]
  | .cvtif f => [encLCode 0x43 f]
  | .cvtnf f => [encLCode 0x44 f]
  | .cvtfn f => [encLCode 0x45 f]
  | .cvtbf f => [encLCode 0x46 f]
  | .cvtfb f => [encLCode 0x47 f]
  | .cvtef f => [encLCode 0x48 f]
  | .cvtfe f => [encLCode 0x49 f]
  | .mma f => [encLCtl 0x4A f]
  | .accz f => [encLCtl 0x4B f]
  | .accrd f => [encLR2 0x4C f]
  | .accsc f => [encLCtl2 0x4D f]
  | .accwr f => [encLCtl2 0x4E f]
  | .qnt f => [encLR3 0x4F f]
  | .matrixEntryPerform  => []
  | .icmpeq f => [encLCmp 0x50 f]
  | .icmpne f => [encLCmp 0x51 f]
  | .icmplt f => [encLCmp 0x52 f]
  | .icmple f => [encLCmp 0x53 f]
  | .ncmplt f => [encLCmp 0x54 f]
  | .ncmple f => [encLCmp 0x55 f]
  | .fcmpeq f => [encLCmp 0x56 f]
  | .fcmpne f => [encLCmp 0x57 f]
  | .fcmplt f => [encLCmp 0x58 f]
  | .fcmple f => [encLCmp 0x59 f]
  | .fcmpun f => [encLCmp 0x5A f]
  | .pand f => [encLPred 0x5B f]
  | .por f => [encLPred 0x5C f]
  | .pxor f => [encLPred 0x5D f]
  | .pset f => [encLPset 0x5E f]
  | .pget f => [encLPget 0x5F f]
  | .slide f => [encLR3 0x60 f]
  | .slideh f => [encLR3 0x61 f]
  | .sliden f => [encLR3 0x62 f]
  | .swap f => [encLR3 0x63 f]
  | .perm f => [encLR3 0x64 f]
  | .bcast f => [encLCode 0x65 f]
  | .redsum f => [encLR2 0x66 f]
  | .rediadd f => [encLR2 0x67 f]
  | .redmax f => [encLR2 0x68 f]
  | .redmin f => [encLR2 0x69 f]
  | .scan f => [encLR2 0x6A f]
  | .movs f => [encLSpec 0x6B f]
  | .movu f => [encLR2 0x6C f]
  | .rng f => [encLR3 0x6D f]
  | .ldb f => [encLMem 0x70 f]
  | .ldh f => [encLMem 0x71 f]
  | .ldw f => [encLMem 0x72 f]
  | .ldd f => [encLMem 0x73 f]
  | .ldq f => [encLMem 0x74 f]
  | .ldbOrdered f => encMemX 0x70 0 f
  | .ldhOrdered f => encMemX 0x71 0 f
  | .ldwOrdered f => encMemX 0x72 0 f
  | .lddOrdered f => encMemX 0x73 0 f
  | .ldqOrdered f => encMemX 0x74 0 f
  | .stb f => [encLMem 0x75 f]
  | .sth f => [encLMem 0x76 f]
  | .stw f => [encLMem 0x77 f]
  | .std f => [encLMem 0x78 f]
  | .stq f => [encLMem 0x79 f]
  | .stbOrdered f => encMemX 0x75 0 f
  | .sthOrdered f => encMemX 0x76 0 f
  | .stwOrdered f => encMemX 0x77 0 f
  | .stdOrdered f => encMemX 0x78 0 f
  | .stqOrdered f => encMemX 0x79 0 f
  | .atomAdd f => encMemX 0x7A 0 f
  | .atomImin f => encMemX 0x7A 1 f
  | .atomImax f => encMemX 0x7A 2 f
  | .atomNmin f => encMemX 0x7A 3 f
  | .atomNmax f => encMemX 0x7A 4 f
  | .atomAnd f => encMemX 0x7A 5 f
  | .atomOr f => encMemX 0x7A 6 f
  | .atomXor f => encMemX 0x7A 7 f
  | .atomXchg f => encMemX 0x7A 8 f
  | .atomCas f => encMemX 0x7A 9 f
  | .atomFadd f => encMemX 0x7A 10 f
  | .dqopPush f => encMemX 0x7B 0 f
  | .dqopPop f => encMemX 0x7B 1 f
  | .dqopSteal f => encMemX 0x7B 2 f
  | .loadReply  => []
  | .uadd f => [encUR3 0x80 f]
  | .usub f => [encUR3 0x81 f]
  | .umul f => [encUR3 0x82 f]
  | .uand f => [encUR3 0x83 f]
  | .uor f => [encUR3 0x84 f]
  | .uxor f => [encUR3 0x85 f]
  | .ushl f => [encUR3 0x86 f]
  | .ushr f => [encUR3 0x87 f]
  | .usar f => [encUR3 0x88 f]
  | .umin f => [encUR3 0x89 f]
  | .umax f => [encUR3 0x8A f]
  | .umov f => [encUR2 0x8B f]
  | .ucmpeq f => [encUR3 0x8C f]
  | .ucmplt f => [encUR3 0x8D f]
  | .ucmplo f => [encUR3 0x8E f]
  | .nop => [encUI 0x8F 0 0]
  | .umovi f => [encUImm 0x90 f]
  | .uaddi f => [encUImm 0x91 f]
  | .ulit f => [encUI 0x92 f.d.toNat f.x.toNat, f.lit]
  | .ushli f => [encUImm 0x93 f]
  | .bra f => [encUBr 0xA0 f]
  | .brnz f => [encUBrC 0xA1 f]
  | .brz f => [encUBrC 0xA2 f]
  | .brd f => [encUBrC 0xA3 f]
  | .brx f => [encLaneSrc 0xA4 f]
  | .call f => [encUBr 0xA5 f]
  | .ret f => [encUSrc 0xA6 f]
  | .join => [encUI 0xA7 0 0]
  | .yield => [encUI 0xA8 0 0]
  | .setpri f => [encPriForm 0xA9 f]
  | .brez f => [encUBr 0xAA f]
  | .jmpf f => [encFarForm 0xAB f]
  | .joinRelease  => []
  | .starvationWin  => []
  | .splitWake  => []
  | .exget f => [encUDst 0xB0 f]
  | .exset f => [encUSrc 0xB1 f]
  | .exand f => [encUPred 0xB2 f]
  | .exelse f => [encUSrc 0xB3 f]
  | .vote f => [encUPred 0xB4 f]
  | .setx f => [encSetxForm 0xB8 f]
  | .recset f => [encRecsetForm 0xB9 f]
  | .ldrec f => [encLdrecForm 0xBA f]
  | .bararr f => [encQBar 0xC0 f]
  | .barwait f => [encQBar 0xC1 f]
  | .barsync f => [encQBar 0xC2 f]
  | .phbarr f => [encQCount 0xC3 f]
  | .phbwait f => [encQPhase 0xC4 f]
  | .cvbar f => [encQCaravan 0xC5 f]
  | .cairnmin f => [encQCaravan 0xC6 f]
  | .cairnrd f => [encQCaravan 0xC7 f]
  | .cairnUpdate  => []
  | .bclose f => [encQSrc 0xC8 f]
  | .waitb f => [encQSrc 0xC9 f]
  | .qfence f => [encQFenceForm 0xCA f]
  | .qw f => [encQReg 0xCB f]
  | .qrd f => [encQReg 0xCC f]
  | .fence f => [encFenceForm 0xD0 f]
  | .wcflush => [encUI 0xD1 0 0]
  | .rbatch f => [encUDst 0xD2 f]
  | .rwait f => [encUDst 0xD3 f]
  | .cfetch f => [encSSrc 0xD8 f]
  | .cwait f => [encSSrc 0xD9 f]
  | .cfetchComplete  => []
  | .phase f => [encSSrc 0xDA f]
  | .phaseTimerExpiry  => []
  | .launch f => [encUR2 0xE0 f]
  | .spawn f => [encUR3 0xE1 f]
  | .resolve f => [encUR3 0xE2 f]
  | .resolveTableStep  => []
  | .resolveComplete  => []
  | .vquery f => [encUR2 0xE3 f]
  | .dtadd f => [encUR3 0xE4 f]
  | .dttake f => [encUR2 0xE5 f]
  | .dtbud f => [encUR3 0xE6 f]
  | .trdy f => [encUR2 0xE7 f]
  | .twait f => [encUR3 0xE8 f]
  | .kvwalk f => [encUR3 0xF0 f]
  | .kvext f => [encUR3 0xF1 f]
  | .kvfork f => [encKvforkForm 0xF2 f]
  | .kvrel f => [encUR3 0xF3 f]
  | .pin f => [encUR2 0xF4 f]
  | .unpin f => [encUR2 0xF5 f]
  | .sitreg f => [encUR2 0xF8 f]
  | .sitdrop f => [encUR2 0xF9 f]
  | .movc f => [encMovcForm 0xFA f]
  | .movcw f => [encMovcwForm 0xFB f]
  | .trap f => [encCodeForm 0xFC f]
  | .rte f => [encRteForm 0xFD f]
  | .bkpt f => [encCodeForm 0xFE f]
  | .exit => [encUI 0xFF 0 0]
  | .gridFaultEnd  => []
  | .faultStatusWrite  => []
  | .copy  => []
  | .gather  => []
  | .fifofill  => []
  | .rcopy  => []
  | .cshuf  => []
  | .demote  => []
  | .requant  => []
  | .pageSwap  => []
  | .commandComplete  => []
  | .l2Request  => []
  | .nackReplay  => []
  | .walkRetry  => []
  | .coreStorageError  => []
  | .sweepEntry  => []
  | .scPerform  => []
  | .lamportAnnounce  => []
  | .lamportAnnounceReceive  => []
  | .sequenceAnnounce  => []
  | .sequenceAnnounceReceive  => []
  | .wcAgeExpiry  => []
  | .remoteWrite  => []
  | .remoteLoad  => []
  | .remoteAtomic  => []
  | .remoteReply  => []
  | .dependencyOnlyMessage  => []
  | .closeNotice  => []
  | .batchSummary  => []
  | .commitMessage  => []
  | .squashMessage  => []
  | .codingWindowArrival  => []
  | .codingWindowTimeout  => []
  | .codedDecode  => []
  | .resendRequest  => []
  | .contentionDecay  => []
  | .portFailure  => []
  | .deadplane  => []
  | .linkTraining  => []
  | .rdmaWriteArrival  => []
  | .bar2Write  => []
  | .bar2Read  => []
  | .blockDispatch  => []
  | .waitaddrPoll  => []
  | .shadowFill  => []
  | .shadowSwap  => []
  | .regionSpill  => []
  | .regionFill  => []
  | .gridComplete  => []
  | .powerStep  => []
  | .thermalTrip  => []
  | .xlinvPage  => []
  | .xlinvAsn  => []
  | .xlinvAll  => []
  | .xlinvComplete  => []
  | .vsenWrite  => []
  | .vslogWrite  => []
  | .feataccWrite  => []
  | .w1cClear  => []
  | .hostirq  => []
  | .frzrel  => []
  | .dbgctlStop  => []
  | .debugStopTaken  => []
  | .dbgctlResume  => []
  | .dbgctlStep  => []
  | .dbgctlCancel  => []
  | .dbgdataRead  => []
  | .dbgdataWrite  => []
  | .registerWrite  => []
  | .functionLevelReset  => []
  | .powerOnReset  => []
  | .memoryTraining  => []
  | .oasisRelease  => []
  | .clusterRelease  => []
  | .runtimeReady  => []
  | .getVersion  => []
  | .getCapabilities  => []
  | .negotiateAlgorithms  => []
  | .getDigests  => []
  | .getCertificate  => []
  | .challenge  => []
  | .getMeasurements  => []
  | .storeAcknowledgement  => []
  | .reservedOpcode w => [w]
  | .caravanHomeArrival  => []
  | .caravanGenerationCompletion  => []

end Sys2Proof
end

