-- ==== Sys2Proof/Machine/State.lean ====
section
/-!
DEFINITION. The state of one Ifehild package, as plain data: everything the spec gives the machine
(INVENTORY.md lists each piece with its rule and reset value), the outcome types, and the state after
reset. Fields with a default hold, at reset or when a group, block or core begins, the value written here.
-/

namespace Sys2Proof

/-! ### Messages and the arguments of steps -/

/-- One lane's part of a remote atomic: lane, address, operand, second operand (CAS). -/
structure RemoteOp where
  lane : Nat
  va : Nat
  x : Word
  y : Word
deriving DecidableEq, Repr

/-- The minimal path of a request (R215): which of X and Y comes first, and the directions taken on the two rings. -/
structure Path where
  yFirst : Bool := false
  minusX : Bool := false
  minusY : Bool := false
deriving DecidableEq, Repr

/-- A message between dies of the pod (R242, R243): its place in causal order, the version and batch it
carries (R208, R210), and the body of its kind. Fields that a kind does not use are 0 or empty. -/
structure Msg where
  /-- ι of the sending die. -/
  origin : Nat := 0
  /-- ι of the receiving die. -/
  dest : Nat := 0
  seq : Word := 0
  prev : Word := 0
  deps : List (Nat × Word) := []
  /-- the access VID at the origin, 0 for committed state. -/
  vid : Nat := 0
  /-- ancestors of vid at the origin, nearest first. -/
  chain : List Nat := []
  tag : BitVec 2 := 0
  /-- source group: 256 × (core key at the source) + group index. -/
  srcGrp : Nat := 0
  asn : Nat := 0
  va : Nat := 0
  size : Nat := 0
  /-- bytes written, or bytes of a reply, by virtual address. -/
  bytes : List (Nat × Byte) := []
  /-- the source's request number. -/
  req : Nat := 0
  func : Nat := 0
  /-- order, scope and time stamp of an SC access (R126, R238). -/
  ord : BitVec 2 := 0
  scope : BitVec 3 := 0
  stamp : DWord := 0
  ops : List RemoteOp := []
  /-- commit or squash list, in order (R211). -/
  vids : List Nat := []
  errs : BitVec 8 := 0
  count : Nat := 0
  /-- coding header of R221: pair, role, partner's block, destination offset, length, CRC. -/
  pair : Nat := 0
  role : Nat := 0
  pblk : Nat := 0
  doff : Nat := 0
  crc : Word := 0
  /-- the partner flow's length in a coded message. -/
  glen : Nat := 0
  /-- the partner flow's destination offset, block and CRC in a coded message. -/
  gdoff : Nat := 0
  gpblk : Nat := 0
  gcrc : Word := 0
  /-- the batch number of a CSHUF's command. -/
  batch : Nat := 0
  /-- the sending core's number of the request, which its acknowledgement names. -/
  ack : Nat := 0
  path : Path := {}
  /-- a write that its source counts by its completion (R213). -/
  std : Bool := false
  /-- generations that pages NACKed at the home are walked for, and the retries so far (R57, R60). -/
  expects : List (Nat × BitVec 16) := []
  retries : Nat := 0
deriving DecidableEq, Repr

/-- What a member group sends to a caravan's home, with the serial number of its instruction (R277, R134). -/
inductive CaravanArrival where
  | cvbar (core grp slot ser : Nat)
  | cairnMin (core grp slot ser : Nat) (value : DWord)
deriving DecidableEq, Repr

namespace Machine

/-- Which agent the step acts on: core key (208 × die + number), group index, split slot, an index, die, grid. -/
structure Sel where
  core : Nat := 0
  grp : Nat := 0
  slot : Nat := 0
  idx : Nat := 0
  die : Nat := 0
  gid : Nat := 0
deriving DecidableEq, Repr

/-- What a step from outside carries: a message, an address, bytes, a value, a caravan arrival. -/
structure Payload where
  msg : Msg := {}
  off : Nat := 0
  len : Nat := 0
  data : List Byte := []
  v : DWord := 0
  n : Nat := 0
  flag : Bool := false
  arrival : Option CaravanArrival := none
deriving DecidableEq, Repr

/-! ### Groups and splits (R261, R137) -/

/-- One lane's search in an INV: key bracket, target key, outputs at both ends (R199, R204). -/
structure InvLane where
  lane : Nat
  lo : Int
  hi : Int
  t : Int
  yl : Int := 0
  yh : Int := 0
deriving DecidableEq, Repr

/-- How a lane's search ended: the point and output it keeps, its bracket, and what it says (R200). -/
structure InvEnd where
  lane : Nat
  x : Int
  y : Int
  lo : Int
  hi : Int
  conv : Bool := false
  clamp : Bool := false
deriving DecidableEq, Repr

/-- The search state of an INV (R204): its active lanes, the lanes still searching, the runs begun, and the values R202
restores. -/
structure InvRun where
  act : Lanes
  lanes : List InvLane
  /-- runs that have ended: 0 the run at lo is in progress, 1 the run at hi, from 2 on a bisection run. -/
  runs : Nat := 0
  /-- words of the present run that have issued. -/
  word : Nat := 0
  /-- input and output registers, and what they, the bracket, the status predicate and INVX held at INV's issue. -/
  xin : Nat
  yout : Nat
  xin0 : List Word
  yout0 : List Word
  blo0 : List Word
  bhi0 : List Word
  status0 : Lanes
  invx0 : Lanes
  /-- buffer records and index registers as they stood at INV's issue (R198). -/
  recs : Map (BitVec 128)
  xs : Map (BitVec 16)
deriving DecidableEq, Repr

/-- STATE of a split slot (R261, R262). -/
inductive SplitSt where
  | free | ready | blocked | joinwait
deriving DecidableEq, Repr

/-- A split slot (R261), with what it waits for while it is BLOCKED (R262). -/
structure Split where
  st : SplitSt := .free
  /-- segment [14:10], word offset [9:0]. -/
  pc : BitVec 15 := 0
  mask : Lanes := 0
  exec : Lanes := 0
  pri : BitVec 8 := 128
  yld : Bool := false
  ypri : BitVec 8 := 0
  cre : BitVec 16 := 0
  /-- the instruction the split is blocked in. -/
  wait : Option Instr := none
  /-- how far that instruction has come: 0 nothing done yet. -/
  phase : Nat := 0
  /-- what it keeps for its completion (a generation, a count). -/
  wdata : DWord := 0
  /-- issue opportunities passed over (R294), and the win a starved split has coming (R266). -/
  passed : Nat := 0
  starved : Bool := false
  /-- a merge has ordered earlier accesses before the next instruction (R231). -/
  sync : Bool := false
  /-- BLOCKED by a stalled store of its own (R80). -/
  held : Bool := false
  /-- the search of an INV in progress (R204). -/
  search : Option InvRun := none
deriving DecidableEq, Repr

/-- STATE of an operand-log entry (R320). -/
inductive LogSt where
  | free | inFlight | pending | replaying
deriving DecidableEq, Repr

/-- An operand-log entry (R320), with the values that have returned so far. -/
structure LogEntry where
  st : LogSt := .free
  /-- 0-4 LDB-LDQ, 5 ATOM, 6 DQOP, 7 ACCRD, 8 routine load. -/
  kind : Nat := 0
  slot : Nat := 0
  dest : Nat := 0
  nreg : Nat := 0
  /-- lanes still owed, and MASK of the split at issue. -/
  lanes : Lanes := 0
  mask : Lanes := 0
  /-- serial number of the instruction within its core. -/
  ser : Nat := 0
  /-- later accesses of the split wait for this one: acquire or SC, at this scope (R229, R233). -/
  acq : Option (BitVec 3) := none
  recv : BitVec 128 := 0
  /-- per-lane offset after swizzle. -/
  offs : Map (BitVec 48) := []
  ext : Word := 0
  /-- ATOM and DQOP operands, by 64 × register in the run + lane. -/
  opnd : Map Word := []
  vid : Nat := 0
  /-- expected generation of each page touched, by VPN. -/
  gens : Map (BitVec 16) := []
  stamp : DWord := 0
  /-- lanes whose destination is written when the entry completes. -/
  wr : Lanes := 0
  /-- values returned, by 64 × register in the run + lane. -/
  data : Map Word := []
deriving DecidableEq, Repr

/-- What a memory request does at its performing point. -/
inductive ReqKind where
  | load | store | atom | dqop
deriving DecidableEq, Repr

/-- Where a memory request stands. -/
inductive ReqSt where
  /-- a QNT's store while the QNT is in the matrix queue (R194). -/
  | unsent
  /-- to be served, or held at its slice until the horizon passes it (SC). -/
  | waiting
  /-- NACKed: to be replayed through a fresh walk that expects a generation (R57). -/
  | nacked
  /-- a replay walk found nothing and backs off (R60). -/
  | backoff
  /-- sent to a peer; its reply is owed. -/
  | remote
  /-- performed; its acknowledgement has not reached the core. -/
  | performed
deriving DecidableEq, Repr

/-- One lane's part of a request: lane, virtual address, size, operands. -/
structure ReqLane where
  lane : Nat
  addr : Nat
  size : Nat
  x : Word := 0
  y : Word := 0
deriving DecidableEq, Repr

/-- A memory request of one line of one instruction (R122). -/
structure Req where
  id : Nat
  /-- serial number of its instruction within the core. -/
  ser : Nat
  st : ReqSt := .waiting
  kind : ReqKind
  grp : Nat
  slot : Nat
  /-- MASK of the split at issue: the split's program order (R227). -/
  mask : Lanes
  /-- PC of the instruction (R319). -/
  pc : BitVec 15 := 0
  gid : Nat
  blk : Nat
  log : Nat := 0
  /-- line address in its space, and the physical line and GEN of its translation (spaces 0 and 4). -/
  line : Nat
  pa : Nat := 0
  gen : BitVec 16 := 0
  /-- the address is in the device register window (R332). -/
  window : Bool := false
  /-- a store stalled for spill room (R80). -/
  stalled : Bool := false
  space : Nat
  peer : Nat := 0
  asn : Nat
  vid : Nat
  lanes : List ReqLane := []
  /-- bytes of a store by virtual address, the winning lane's (R129). -/
  data : List (Nat × Byte) := []
  func : Nat := 0
  ord : BitVec 2 := 0
  scope : BitVec 3 := 0
  policy : BitVec 2 := 0
  stamp : DWord := 0
  tag : BitVec 2 := 0
  /-- generation a replay expects, and its retries so far. -/
  expect : Option (BitVec 16) := none
  retries : Nat := 0
  /-- the fault a home or a failed walk gave it. -/
  refusedAt : Option Nat := none
  /-- acknowledgements of buffered stores to its peer line that a load waits for (R126). -/
  after : List Nat := []
  /-- place of a performed store among all performed requests, and whether the L1 has taken it (R226, R228). -/
  at_ : Nat := 0
  inL1 : Bool := false
deriving DecidableEq, Repr

/-- Where a context stands: on its core, in the shadow bank, or in the core's save frame (R322, R324). -/
inductive Residence where
  | resident | shadow | saved
deriving DecidableEq, Repr

/-- The trap frame (R311). -/
structure Frame where
  pc : BitVec 15 := 0
  mask : Lanes := 0
  exec : Lanes := 0
deriving DecidableEq, Repr

/-- A side-information miss recorded on a batch (R106, R222). -/
structure Miss where
  batch : BitVec 16
  pair : BitVec 16
  pblk : BitVec 32
  reported : Bool := false
deriving DecidableEq, Repr

/-- A closed batch (R105): its number, the commands it still waits for, and the marks WAITB reports. -/
structure Batch where
  num : BitVec 16
  open_ : Nat
  refused : Bool := false
  cancelled : Bool := false
  remote : Bool := false
deriving DecidableEq, Repr

/-- A remote batch tag (R208, R209): peers and planes touched, summaries owed, closed. -/
structure RTagState where
  /-- peers that received a write under the tag, with the planes used toward each (R209). -/
  used : List (Nat × Nat) := []
  /-- writes on standard-mode links whose completion is owed (R213). -/
  std : Nat := 0
  closed : Bool := false
  /-- peers whose summary is owed. -/
  owed : List Nat := []
  /-- error bits, and the peers that reported one. -/
  errs : BitVec 8 := 0
  errPeers : DWord := 0
deriving DecidableEq, Repr

/-- A QFENCE (R107): its queues, and the commands, instructions (by serial number) and remote writes (by acknowledgement)
that commands entered later wait for. -/
structure Fence where
  q : BitVec 3
  cmds : List Nat := []
  sers : List Nat := []
  acks : List Nat := []
deriving DecidableEq, Repr

/-- A resident group (R137, R143, R261, R311, R313, R281, R105, R208). -/
structure Group where
  /-- the slot holds a group. -/
  live : Bool := false
  place : Residence := .resident
  gid : Nat := 0
  /-- key of its block in the core. -/
  blk : Nat := 0
  /-- stage index and kind (R284). -/
  stage : Nat := 0
  grpin : Nat := 0
  sub : Nat := 0
  /-- lane-register budget (R27). -/
  budget : Nat := 256
  priv : Bool := false
  vid : Nat := 0
  asn : Nat := 0
  v : Map (List Word) := []
  s : Map DWord := []
  p : Map Lanes := []
  x : Map (BitVec 16) := []
  blo : Map (List Word) := []
  bhi : Map (List Word) := []
  d : Map (BitVec 128) := []
  sat : Lanes := 0
  clip : Lanes := 0
  qsat : Lanes := 0
  invx : Lanes := 0
  /-- FRAC 16, ADD 4,096 (R145). -/
  phmargin : DWord := 0x100010
  trapvec : DWord := 0
  rtag : BitVec 2 := 0
  splits : Map Split := []
  /-- spilled splits, newest first: PC and MASK (R263). -/
  spill : List (BitVec 15 × Lanes) := []
  nextCre : BitVec 16 := 0
  h : Bool := false
  frame : Frame := {}
  /-- trap and event records, oldest at the head but for traps (R313). -/
  q7 : List DWord := []
  q7ovf : Bool := false
  /-- words of records whose first word has been popped: how many entries stand behind each. -/
  q7cut : List Nat := []
  comp : Map (List DWord) := []
  compOvf : Map Bool := []
  asm_ : Map (List DWord) := []
  /-- QWs to engines that have issued and not ended: queue, slot and PC, in the order of their issue (R93). -/
  asmOrder : List (Nat × Nat × BitVec 15) := []
  lastClosed : BitVec 16 := 0
  /-- commands of the open batch not yet complete, and its marks so far. -/
  openBatch : Batch := { num := 0, open_ := 0 }
  batches : List Batch := []
  /-- marks of batches completed since the last WAITB. -/
  doneMarks : List Batch := []
  misses : List Miss := []
  fences : List Fence := []
  /-- phase timer (R281). -/
  expect : BitVec 32 := 0
  margin : Nat := 0
  phaseCount : Nat := 0
  phaseOn : Bool := false
  oplog : Map LogEntry := []
  /-- requests of loads cancelled into the operand log (R136, R321). -/
  parked : List Req := []
  rtags : Map RTagState := []
  /-- peers and error bits of the summaries returned since the last RWAIT (R209). -/
  rwPeers : DWord := 0
  rwErrs : BitVec 8 := 0
  cairnSeen : Map DWord := []
  stopReq : Bool := false
  stopped : Bool := false
  bkstop : Bool := false
  /-- stopped by the freezing of its core (R325). -/
  frz : Bool := false
  /-- its block has been ended; splits inside a run of an INV go on to its boundary (R204). -/
  dying : Bool := false
  /-- one instruction of this slot may issue although the group is stopped (R329 STEP). -/
  stepSlot : Option Nat := none
deriving DecidableEq, Repr

/-! ### Blocks (R108, R109, R189, R275, R94) -/

/-- A named barrier (R275). -/
structure Barrier where
  gen : BitVec 16 := 0
  arrivals : Nat := 0
  need : Nat := 0
deriving DecidableEq, Repr

/-- A bounded queue Q8 to Q15 (R94, R284). -/
structure BQueue where
  cap : Nat := 0
  prod : Nat := 0
  cons : Nat := 0
  q : List DWord := []
deriving DecidableEq, Repr

/-- An accumulator slot (R157, R189): cells by 96 × row + column. -/
structure AccSlot where
  int56 : Bool := false
  satbit : Bool := false
  cells : Map (BitVec 56) := []
deriving DecidableEq, Repr

/-- A stream in an operand FIFO (R110, R186, R187): header, its units' bytes, steps claimed and performed. -/
structure Stream where
  hdr : DWord := 0
  units : List (List Byte) := []
  claimed : Nat := 0
  done : Nat := 0
deriving DecidableEq, Repr

/-- A block resident on a core. -/
structure Block where
  live : Bool := false
  place : Residence := .resident
  gid : Nat := 0
  blk : Nat := 0
  order : Nat := 0
  cls : Nat := 0
  groups : List Nat := []
  /-- allotment sizes in bytes: shared, tile reservations; accumulator slots. -/
  sharedSize : Nat := 0
  /-- where its range of the core's shared memory begins (R108). -/
  sharedBase : Nat := 0
  slots : Nat := 0
  tileBytes : Nat := 0
  shared : Map Byte := []
  tile : Map Byte := []
  acc : Map AccSlot := []
  fifos : Map (List Stream) := []
  bars : Map Barrier := []
  queues : Map BQueue := []
  /-- caravan table index of each position; 0xFF none (R283). -/
  cvword : Word := 0xFFFFFFFF
  idem : Bool := false
  budgets : Nat := 0
  segs : Word := 0
deriving DecidableEq, Repr

/-! ### Cores -/

/-- A line of the L1 (R112), most recently used first in its list. -/
structure L1Line where
  line : Nat
  vid : Nat
  sectors : BitVec 4
  bytes : Map Byte
  mark : Bool := false
deriving DecidableEq, Repr

/-- A translation held by a TLB (R56). -/
structure TlbEntry where
  asn : Nat
  vpn : Nat
  stack : Nat
  frame : Nat
  perm : BitVec 2
  gen : BitVec 16
deriving DecidableEq, Repr

/-- A write-combining entry (R205). -/
structure WcEntry where
  grp : Nat
  gid : Nat
  asn : Nat
  peer : Nat
  /-- virtual line address / 128. -/
  line : Nat
  vid : Nat
  tag : BitVec 2
  data : Map Byte
  /-- the number its acknowledgement will name. -/
  ack : Nat := 0
  born : DWord
  age : BitVec 7
deriving DecidableEq, Repr

/-- Where an engine command stands (R102, R104). -/
inductive CmdSt where
  | queued | sent | swapping | done
deriving DecidableEq, Repr

/-- An engine command with the values it captured (R96, R105). -/
structure Cmd where
  id : Nat
  st : CmdSt := .queued
  w0 : DWord
  w1 : DWord := 0
  w2 : DWord := 0
  words : Nat
  grp : Nat
  blk : Nat
  gid : Nat
  asn : Nat
  vid : Nat
  batch : BitVec 16
  tag : BitVec 2
  srec : BitVec 128 := 0
  drec : BitVec 128 := 0
  /-- commands that must have completed before this one starts (R107). -/
  after : List Nat := []
  /-- instructions of the split and remote writes of the group that must have been performed first (M of R107). -/
  afterSers : List Nat := []
  afterAcks : List Nat := []
  clipped : Bool := false
  refused : Bool := false
  cancelled : Bool := false
  uncoded : Bool := false
  remoteErr : Bool := false
  /-- a page swap has been taken; its invalidation is owed. -/
  swapped : Bool := false
  count : Nat := 0
  owed : Nat := 0
  /-- generations that NACKed pages are to be walked for, and the retries so far (R57, R60). -/
  expects : Map (BitVec 16) := []
  retries : Nat := 0
  /-- the source bytes of a FIFOFILL, with whether each was clipped, once they have been read (R58, R110). -/
  taken : Option (List (Byte × Bool)) := none
deriving DecidableEq, Repr

/-- An entry of the matrix queue (R194): the instruction, its control word, lane values and claims. -/
structure MatEntry where
  op : Nat
  grp : Nat
  blk : Nat
  ctl : Word
  lanes : Lanes := 0
  vals : List Word := []
  log : Nat := 0
  /-- claimed streams: FIFO, stream number in it, step (R187). -/
  aStep : Nat := 0
  bStep : Nat := 0
deriving DecidableEq, Repr

/-- One core, main or Oasis. -/
structure Core where
  released : Bool := false
  groups : Map Group := []
  blocks : Map Block := []
  lamport : BitVec 48 := 0
  heard : BitVec 48 := 0
  /-- its last announcement, and the die clock then (R237). -/
  announced : BitVec 48 := 0
  announcedAt : DWord := 0
  wcage : BitVec 7 := 8
  /-- WCAGE of the saved context (R139, R143). -/
  wcageSaved : BitVec 7 := 8
  wc : List WcEntry := []
  l1 : List L1Line := []
  /-- slices of a fused cluster read since the last acquire at CLUSTER scope (R113). -/
  slicesRead : List Nat := []
  tlb : List TlbEntry := []
  /-- command queues of CE0, CE1, network engine, oldest first. -/
  eng : Map (List Cmd) := []
  /-- commands whose last word waits for room in their queue, in the order in which they were completed (R93). -/
  entering : Map (List Cmd) := []
  nextCmd : Nat := 0
  reqs : List Req := []
  nextReq : Nat := 0
  nextSer : Nat := 0
  matq : List MatEntry := []
  /-- instruction memory: the landed words of each grid, by 32768 × gid + PC (R16, R279). -/
  imem : Map Word := []
  /-- LANDED bits by grid (R279). -/
  landed : Map Word := []
  fetching : Map Word := []
  /-- a block, by grid and number, that is to take the core by a swap, and the blocks that took it so (R290). -/
  incoming : Option (Nat × Nat) := none
  preemptors : List Nat := []
  /-- regions still to be spilled and to be filled after a swap (R323). -/
  toSpill : List Nat := []
  toFill : List Nat := []
  frozen : Bool := false
  frozenEng : Map Bool := []
  /-- splits that have issued in this cycle, per sub-core: group and slot (R294). -/
  issued : Map (List (Nat × Nat)) := []
  /-- its first block has been placed, and its groups wait for the window of starts to move on (R293). -/
  startHeld : Bool := false
deriving DecidableEq, Repr

/-! ### Launch, versions, dies, package -/

/-- A stage of a launch record (R284). -/
structure Stage where
  kind : Nat
  groups : Nat
  budget : Nat
  entry : BitVec 15
deriving DecidableEq, Repr

/-- A lease range (R285). -/
structure Range where
  base : Nat
  len : Nat
  rw : Bool
deriving DecidableEq, Repr

/-- A caravan table entry (R259). -/
structure Caravan where
  valid : Bool := false
  scope : BitVec 2 := 0
  home : Nat := 0
  members : Nat := 0
  arrived : Nat := 0
  gen : BitVec 16 := 0
  cairn : DWord := 0xFFFFFFFFFFFFFFFF
deriving DecidableEq, Repr

/-- The fault that ended a grid (R319). -/
structure FaultRec where
  code : Nat
  detail : DWord
  blk : Nat := 0
  coreN : BitVec 16 := 0
  grpin : Nat := 0
  slot : Nat := 0
  pc : BitVec 15 := 0
  expgen : BitVec 16 := 0
  lease : BitVec 16 := 0
deriving DecidableEq, Repr

/-- How far a grid has come (R287, R297, R318): waiting for its lease and dependences, being dispatched, wholly
dispatched, faulted, its blocks ended by a fault or squash, or ended. -/
inductive GridSt where
  | waiting | dispatching | running | faulting | ending | ended
deriving DecidableEq, Repr

/-- An accepted grid: its launch record, lease, progress and status data (R283, R287, R319). -/
structure Grid where
  st : GridSt := .waiting
  die : Nat := 0
  order : Nat := 0
  vid : Nat := 0
  asn : Nat := 0
  cls : Nat := 0
  priv : Bool := false
  idem : Bool := false
  fuse : Bool := false
  kind : Nat := 0
  hseg : BitVec 5 := 0
  hen : Bool := false
  dies : Nat := 0
  nblk : Nat := 1
  stages : List Stage := []
  queues : Map BQueue := []
  sharedBytes : Nat := 0
  slots : Nat := 0
  tilekib : Nat := 0
  image : Nat := 0
  segmask : Word := 0
  ovlmask : Word := 0
  imagelen : Nat := 0
  seqslot : Nat := 0
  seqen : Bool := false
  recs : Map (BitVec 128) := []
  cvmap : Map Word := []
  cvdef : Word := 0xFFFFFFFF
  trbar : Nat := 0
  truse : Bool := false
  trgen : BitVec 16 := 0
  ranges : List Range := []
  waitaddr : Nat := 0
  waitval : DWord := 0
  doneaddr : Nat := 0
  stataddr : Nat := 0
  params : List DWord := []
  /-- blocks still to be dispatched, in order, and blocks that have ended. -/
  todo : List Nat := []
  doneBlks : Nat := 0
  leaseReady : Bool := false
  waitMet : Bool := false
  caravans : Map Caravan := []
  /-- cairn replicas by 256 × die + entry, and CVBAR generations completed at a die. -/
  replicas : Map DWord := []
  genSeen : Map (BitVec 16) := []
  /-- arrivals on their way to a caravan's home: caravan index and arrival (R277, R134). -/
  pendArr : List (Nat × CaravanArrival) := []
  /-- cores of the blocks of a co-resident launch (R260). -/
  placedAt : Map Nat := []
  /-- pages held by PIN, one entry per hold (R70). -/
  holds : List Nat := []
  /-- pages whose PINS this grid's lease raised, with their ASN (R62, R65). -/
  pinned : List Nat := []
  fault : Option FaultRec := none
  nfault : Nat := 0
  squashed : Bool := false
  leaseErr : Option Nat := none
  tagsOut : BitVec 4 := 0
  errbits : BitVec 8 := 0
  wcdrop : Nat := 0
deriving DecidableEq, Repr

/-- STATE of a version table entry (R73). -/
inductive VSt where
  | free | live | closed | committed | squashed
deriving DecidableEq, Repr

/-- A version table entry (R73). -/
structure Version where
  st : VSt := .free
  parent : Nat := 0
  depth : Nat := 0
  permit : Bool := false
  /-- die that spawned it and holds its permit (R301), and the grid whose block did (R256). -/
  die : Nat := 0
  spawner : Nat := 0
  foreign : Bool := false
  origin : Nat := 0
  ovid : Nat := 0
  asn : Nat := 0
  cstamp : BitVec 16 := 0
  spawnseq : Word := 0
  kvhead : Word := 0xFFFFFFFF
  peers : DWord := 0
  kvpool : Nat := 0
  /-- DONEADDR words of completed grids of the version, advanced at its commit (R297): ASN and address. -/
  dones : List (Nat × Nat) := []
  /-- sequence slots of its SEQEN grids: die and slot (R291). -/
  seqs : List (Nat × Nat) := []
deriving DecidableEq, Repr

/-- A line in its L2 slice (R72): a VID 0 line with its valid sectors and its dirty bytes, or a versioned copy that is
not spilled. Most recently used first in its list. -/
structure L2Line where
  line : Nat
  vid : Nat := 0
  valid : BitVec 4 := 0
  dirty : BitVec 128 := 0
  /-- eviction class: 0 normal, 1 streaming, 3 persistent. -/
  cls : Nat := 0
deriving DecidableEq, Repr

/-- A versioned copy of a 128-byte line (R75, R77). -/
structure LineCopy where
  line : Nat
  vid : Nat
  bytes : Map Byte
  /-- none: in the L2; some slot number: spilled (R79). -/
  spilled : Option Nat := none
deriving DecidableEq, Repr

/-- A side-information entry (R219). -/
structure SitEntry where
  asn : Nat
  blk : Nat
  gid : Nat
  va : Nat
  len : Nat
  crc : Word
deriving DecidableEq, Repr

/-- A draft-tree queue (R306). -/
structure DraftQueue where
  budget : Nat := 0
  q : List DWord := []
deriving DecidableEq, Repr

/-- What a home counts for a source group and batch tag until it sends the summary (R208). -/
structure CountRow where
  pkg : Nat
  grp : Nat
  tag : BitVec 2
  /-- 1 + number of the command whose own summary this is, 0 for the tag's. -/
  req : Nat := 0
  count : Nat := 0
  errs : BitVec 8 := 0
  /-- planes whose close notice has arrived. -/
  closed : Nat := 0
deriving DecidableEq, Repr

/-- An entry of the contention table (R217), most recently used first. -/
structure HotPage where
  page : Nat
  counter : Nat
  migrating : Bool := false
deriving DecidableEq, Repr

/-- A request of a die to a peer that is not acknowledged yet (R215, R216): who sent it, where it goes, its plane, line
and path, and the grid it belongs to. -/
structure OutReq where
  core : Nat
  ack : Nat
  peer : Nat
  plane : Nat
  line : Nat
  path : Path
  gid : Nat
  grp : Nat := 0
  /-- it pins the path of its line; a coded packet does not (R220). -/
  pins : Bool := true
  /-- a write that is counted by its completion, and its batch tag (R213). -/
  std : Bool := false
  tag : BitVec 2 := 0
deriving DecidableEq, Repr

/-- One compute die: clock, causal state, relay, launch block, event block, debug window. -/
structure Die where
  clk : DWord := 0
  tlb : List TlbEntry := []
  known : Map Word := []
  applied : Map Word := []
  sigma : Word := 0
  /-- last σ sent to each die, and the entries of KNOWN it has been told (R243). -/
  lastTo : Map Word := []
  told : Map (Map Word) := []
  /-- last σ applied from each die's channel, and dependencies gathered on it (R245). -/
  lastFrom : Map Word := []
  chanDeps : Map (Map Word) := []
  held : List (Instr × Msg) := []
  announces : List (Nat × Word × Option Word) := []
  egress : List (Instr × Msg) := []
  /-- requests not yet acknowledged, which pin the paths of their lines, and requests that wait at the source for a pin
  or for a dead plane to drain (R215, R216). -/
  out : List OutReq := []
  waiting : List (Instr × Msg) := []
  windows : Map (List (Msg × DWord)) := []
  /-- decode credits of each receiving die that its relay has spent and not got back, and those that the die itself, as a
  receiver, has given back to each relay (R221). -/
  creditsOut : Map Nat := []
  creditsBack : Map Nat := []
  /-- accesses for standard-mode links that wait for an earlier write's completion, and the links (ports) whose
  completion is owed (R213, R250). -/
  stdQueue : List (Instr × Msg) := []
  stdOwed : List Nat := []
  hot : List HotPage := []
  /-- migrated lines of this home, each with its owner: ι of a die of the pod (R218). -/
  migrated : List (Nat × Nat) := []
  /-- when the contention counters were last halved, and the clocks last announced (R217, R247). -/
  lastDecay : DWord := 0
  lastAnnounce : DWord := 0
  cap : BitVec 8 := 255
  limit : BitVec 8 := 255
  held_ : BitVec 8 := 0
  seqH : Map (BitVec 16) := []
  seqActive : Map Bool := []
  trbar : Map (BitVec 16) := []
  drafts : Map DraftQueue := []
  nextLaunch : Nat := 1
  /-- cycles at which cores of the die began issuing (R293). -/
  starts : List DWord := []
  cvsel : DWord := 0
  ethRing : Map DWord := []
  evbase : DWord := 0
  evlog : DWord := 0
  evtail : DWord := 0
  evhead : DWord := 0
  /-- sequence numbers raised so far by source (R328). -/
  srcSeq : Map Word := []
  dbgctl : DWord := 0
  dbgreg : DWord := 0
deriving DecidableEq, Repr

/-- The translation block (R51, R59). -/
structure XlBlock where
  ptbase : Map DWord := []
  anchbase : Map DWord := []
  wearbase : Map DWord := []
  wearlim : DWord := 3000
  xlinv : DWord := 0
  busy : Bool := false
  err : Bool := false
  done : BitVec 16 := 0
  /-- requests, by core and number, whose answers the invalidation awaits. -/
  awaits : List (Nat × Nat) := []
deriving DecidableEq, Repr

/-- The version block (R73, R78, R81). -/
structure VerBlock where
  tab : Map Version := []
  vsbase : DWord := 0
  vslog : DWord := 32
  vsen : Bool := false
  vsres : DWord := 491520
  nextSeq : Word := 0
  nextStamp : BitVec 16 := 0
  /-- entries that changed state, oldest first. -/
  sweep : List Nat := []
  /-- acknowledgements of commit and squash messages owed (R252, R256): for whom, and the peer; the next RESOLVE's
  number. -/
  acks : List (Nat × Nat) := []
  nextResolve : Nat := 1
  /-- a die that has not taken the last RESOLVE's table step yet, and the states that its copy of the table still holds of
  the entries that the step changed (R73, R81, R252). -/
  lag : Option (Nat × Map VSt) := none
  /-- versions of other packages (package, VID there) for which no entry was free, and those squashed here, with the die and
  σ of the acknowledgement, if it has one (R211, R252). -/
  lacking : List (Nat × Nat) := []
  ended : List ((Nat × Nat) × Option (Nat × Word)) := []
deriving DecidableEq, Repr

/-- Identity, features, boot, power (R333, R338, R341). -/
structure IdBlock where
  pkg : BitVec 6 := 0
  podmask : DWord := 1
  featoff : DWord := 0
  featacc : DWord := 0
  featacc1 : DWord := 0
  lock : Bool := false
  featErr : Bool := false
  stage : Nat := 0
  fail : Nat := 0
  image : Nat := 0
  meas : Map (BitVec 256) := []
  clusters : Nat := 0
  pwr : BitVec 16 := 0
  capw : BitVec 16 := 0
  temp : BitVec 8 := 0
  clkmhz : DWord := 850
  lowered : Bool := false
  tripped : Bool := false
  /-- North clock of the last power reading (R301, R341). -/
  lastPower : DWord := 0
deriving DecidableEq, Repr

/-- The host function and the links (R331, R336, R337, R213, R216). -/
structure HostBlock where
  frozen : Bool := false
  /-- MSI-X mask and pending bits of the 64 vectors. -/
  msixMask : DWord := 0
  msixPend : DWord := 0
  /-- the vectors whose messages have gone to the host, oldest first. -/
  msix : List Nat := []
  w2 : DWord := 0
  w2err : Bool := false
  /-- log2 of BAR2's size: 30 to 39 (R337). -/
  bar2log : Nat := 34
  replies : List (Nat × List Byte) := []
  /-- data returned to RDMA READs, by address (R223). -/
  ethReplies : List (Nat × List Byte) := []
  spdm : List (Nat × List (BitVec 256)) := []
  /-- scale-up ports trained: port, partner package, and whether both ends advertise the extension. -/
  links : List (Nat × Nat × Bool) := []
  dead : BitVec 4 := 0
  ethUp : Bool := false
deriving DecidableEq, Repr

/-- The machine. -/
structure State where
  sel : Sel := {}
  arg : Payload := {}
  /-- steps from outside that have not been taken yet, oldest first, each with its selection and argument. -/
  inputs : List (Instr × Sel × Payload) := []
  /-- the free-value counter (log entry 4). -/
  fresh : Nat := 0
  cores : Map Core := []
  grids : Map Grid := []
  nextOrder : Nat := 0
  vers : VerBlock := {}
  xl : XlBlock := {}
  north : Die := {}
  south : Die := {}
  /-- bytes at VID 0 by physical address, canonical (Machine/Ops.lean). -/
  mem : List Host.Cell := []
  copies : List LineCopy := []
  /-- steps that were due at the end of the last cycle, with the cycles they have been due for (R268, R269). -/
  due : List ((Instr × Sel) × Nat) := []
  /-- slices at which an atomic of another package has been performed in this cycle (R131, R218). -/
  remoteAtoms : List Nat := []
  /-- memory requests performed so far: the order in which a core's L1 takes acknowledged stores (R226, R228). -/
  performs : Nat := 0
  /-- lines in the L2 slices (R72). -/
  l2 : List L2Line := []
  /-- sectors, by physical address, whose reads are uncorrectable now, and those whose reads are corrected (R49). -/
  badSectors : List Nat := []
  weakSectors : List Nat := []
  /-- corrected-error counters by stack (R49). -/
  corrected : Map Nat := []
  sit : List SitEntry := []
  /-- batches of other packages' groups at this home (R208). -/
  counted : List CountRow := []
  /-- last announcement of each core key of the pod received by the slices (R237). -/
  horizon : Map (BitVec 48) := []
  annSent : List (Nat × BitVec 48) := []
  id : IdBlock := {}
  host : HostBlock := {}
deriving DecidableEq, Repr

/-- Why a step stops. -/
inductive Fault where
  /-- Raised by every instruction word when the selection names no split that can issue (log entry 14):
  the machine never takes such a step itself. Safe: the machine stops where the hardware issues nothing. -/
  | noIssuingSplit
deriving DecidableEq, Repr

/-- Why a step has no meaning. -/
inductive Refusal where
  /-- Raised by an arm of Dispatch.lean whose instruction has no meaning in the model yet. Safe. -/
  | notModelled (mnemonic : String)
deriving DecidableEq, Repr

/-- The package right after power-on reset (R338): no core has left reset, no grid is resident, and the
bring-up steps of R338 stand first among the steps to come. -/
def State.reset : State :=
  { inputs := (.powerOnReset, {}, {}) :: (.memoryTraining, {}, { flag := true }) :: (.oasisRelease, {}, {}) ::
      (List.replicate 50 (Instr.clusterRelease, ({} : Sel), ({} : Payload)) ++ [(.runtimeReady, {}, {})]) }

end Machine

end Sys2Proof
end

