-- ==== Sys2Proof/Machine/Ops.lean ====
section
/-!
DEFINITION. The named operations every meaning is built from: memory bytes, the agent a step acts on, the
register files, the issue checks of R40, raising a fault (R318, R319), taking a trap (R311), returning from
one (R315), and dividing and merging splits (R263, R264).
-/

namespace Sys2Proof.Machine

/-- What every meaning answers. -/
abbrev Result := Host.Outcome State Fault Refusal

/-! ### Bytes (R149) -/

/-- What an unlisted byte reads as (log entry 1). -/
def blankByte : Byte := 0

/-- One byte of a canonical byte store. -/
def memGet (m : List Host.Cell) (a : Nat) : Byte := mapGet blankByte m a

/-- Write one byte; a byte equal to what an unlisted byte reads as is not listed. -/
def memSet (m : List Host.Cell) (a : Nat) (b : Byte) : List Host.Cell :=
  if b = blankByte then mapDel m a else mapSet m a b

/-- The canonical form: addresses strictly rising, no entry equal to an unlisted byte. -/
def Memory.wf (m : List Host.Cell) : Bool := mapSortedFrom 0 m && m.all (fun c => c.2 != blankByte)

/-- Write listed bytes, in order. -/
def memSetAll (m : List Host.Cell) : List (Nat × Byte) → List Host.Cell
  | [] => m
  | (a, b) :: bs => memSetAll (memSet m a b) bs

/-- `n` bytes from `a` on. -/
def memBytes (m : List Host.Cell) (a : Nat) : Nat → List Byte
  | 0 => []
  | n + 1 => memGet m a :: memBytes m (a + 1) n

/-- The little-endian number of a list of bytes. -/
def leNat : List Byte → Nat
  | [] => 0
  | b :: bs => b.toNat + 256 * leNat bs

/-- The `n` little-endian bytes of a number. -/
def leBytes : Nat → Nat → List Byte
  | 0, _ => []
  | n + 1, v => BitVec.ofNat 8 v :: leBytes n (v / 256)

/-- Addresses `a`, `a + 1`, … beside the bytes. -/
def atAddr (a : Nat) : List Byte → List (Nat × Byte)
  | [] => []
  | b :: bs => (a, b) :: atAddr (a + 1) bs

/-- An `n`-byte little-endian number. -/
def memNat (m : List Host.Cell) (a n : Nat) : Nat := leNat (memBytes m a n)

/-- Store the low `n` bytes of a number. -/
def memSetNat (m : List Host.Cell) (a n v : Nat) : List Host.Cell := memSetAll m (atAddr a (leBytes n v))

/-! ### Lanes -/

/-- Whether the mask holds lane `l`. -/
def laneIn (m : Lanes) (l : Nat) : Bool := m.getLsbD l

/-- The mask of the lanes below 48 for which `p` holds. -/
def lanesWhere (p : Nat → Bool) : Lanes :=
  (List.range 48).foldl (fun m l => if p l then m ||| BitVec.ofNat 48 (2 ^ l) else m) 0

/-- The lanes of a mask, in increasing order. -/
def laneList (m : Lanes) : List Nat := (List.range 48).filter (laneIn m)

/-! ### The agents of the state -/

/-- Cores per die in a core key: 208 × die + number (R140). -/
def dieOf (k : Nat) : Nat := k / 208
/-- The core number within its die. -/
def coreNum (k : Nat) : Nat := k % 208
/-- Oasis cores are 200 to 207 (R140). -/
def isOasis (k : Nat) : Bool := 200 ≤ coreNum k
/-- Lanes of a group on the core (R257). -/
def widthOf (k : Nat) : Nat := if isOasis k then 16 else 48
/-- Every lane of a group on the core. -/
def allLanes (k : Nat) : Lanes := if isOasis k then 0xFFFF else 0xFFFFFFFFFFFF

def State.coreAt (s : State) (k : Nat) : Core := mapGet {} s.cores k
def State.setCore (s : State) (k : Nat) (c : Core) : State := { s with cores := mapSet s.cores k c }
def State.groupAt (s : State) (k g : Nat) : Group := mapGet {} (s.coreAt k).groups g
def State.setGroupAt (s : State) (k g : Nat) (x : Group) : State :=
  s.setCore k { s.coreAt k with groups := mapSet (s.coreAt k).groups g x }
def State.blockAt (s : State) (k b : Nat) : Block := mapGet {} (s.coreAt k).blocks b
def State.setBlockAt (s : State) (k b : Nat) (x : Block) : State :=
  s.setCore k { s.coreAt k with blocks := mapSet (s.coreAt k).blocks b x }
def State.dieAt (s : State) (d : Nat) : Die := if d = 0 then s.north else s.south
def State.setDie (s : State) (d : Nat) (x : Die) : State :=
  if d = 0 then { s with north := x } else { s with south := x }
/-- ι of a die of this package (R242). -/
def State.iota (s : State) (d : Nat) : Nat := 2 * s.id.pkg.toNat + d
def State.gridAt (s : State) (g : Nat) : Grid := mapGet {} s.grids g
def State.setGrid (s : State) (g : Nat) (x : Grid) : State := { s with grids := mapSet s.grids g x }
def Group.split (g : Group) (i : Nat) : Split := mapGet {} g.splits i
def Group.setSplit (g : Group) (i : Nat) (x : Split) : Group := { g with splits := mapSet g.splits i x }

/-- The group the selection names. -/
def State.group (s : State) : Group := s.groupAt s.sel.core s.sel.grp
def State.setGroup (s : State) (g : Group) : State := s.setGroupAt s.sel.core s.sel.grp g
/-- The split the selection names. -/
def State.split (s : State) : Split := s.group.split s.sel.slot
def State.setSplit (s : State) (p : Split) : State := s.setGroup (s.group.setSplit s.sel.slot p)
/-- The block of the selected group. -/
def State.block (s : State) : Block := s.blockAt s.sel.core s.group.blk
def State.setBlock (s : State) (b : Block) : State := s.setBlockAt s.sel.core s.group.blk b
/-- The grid of the selected group. -/
def State.grid (s : State) : Grid := s.gridAt s.group.gid
/-- The selected core. -/
def State.core (s : State) : Core := s.coreAt s.sel.core
/-- Lanes of the selected group. -/
def State.width (s : State) : Nat := widthOf s.sel.core

/-- The selected split can take a step: it is READY, or it is BLOCKED in an instruction it reissues. -/
def State.canIssue (s : State) : Bool :=
  s.group.live && s.group.place == .resident && (s.split.st == .ready || (s.split.st == .blocked && s.split.wait.isSome))

/-! ### Register files (R137) -/

/-- A lane register, one lane. -/
def Group.vAt (g : Group) (r l : Nat) : Word := (mapGet [] g.v r).getD l 0
/-- Write a lane register in the lanes of `m`. -/
def Group.setV (g : Group) (r : Nat) (m : Lanes) (f : Nat → Word) : Group :=
  { g with v := mapSet g.v r ((List.range 48).map fun l => if laneIn m l then f l else g.vAt r l) }
/-- A uniform register. -/
def Group.sAt (g : Group) (r : Nat) : DWord := mapGet 0 g.s r
def Group.setS (g : Group) (r : Nat) (x : DWord) : Group := { g with s := mapSet g.s r x }
/-- A predicate, one bit per lane. -/
def Group.pAt (g : Group) (r : Nat) : Lanes := mapGet 0 g.p r
/-- Write a predicate in the lanes of `m`. -/
def Group.setP (g : Group) (r : Nat) (m x : Lanes) : Group :=
  { g with p := mapSet g.p r ((g.pAt r &&& ~~~m) ||| (x &&& m)) }
/-- An index register. -/
def Group.xAt (g : Group) (r : Nat) : BitVec 16 := mapGet 0 g.x r
def Group.setX (g : Group) (r : Nat) (x : BitVec 16) : Group := { g with x := mapSet g.x r x }
/-- A buffer record. -/
def Group.dAt (g : Group) (r : Nat) : BitVec 128 := mapGet 0 g.d r
def Group.setD (g : Group) (r : Nat) (x : BitVec 128) : Group := { g with d := mapSet g.d r x }
/-- One half of a bracket register, one lane: `hi` chooses B.hi (R137). -/
def Group.bAt (g : Group) (hi : Bool) (r l : Nat) : Word :=
  (mapGet [] (if hi then g.bhi else g.blo) r).getD l 0
def Group.setB (g : Group) (hi : Bool) (r : Nat) (m : Lanes) (f : Nat → Word) : Group :=
  let row := (List.range 48).map fun l => if laneIn m l then f l else g.bAt hi r l
  if hi then { g with bhi := mapSet g.bhi r row } else { g with blo := mapSet g.blo r row }

/-- The key of a word of the selected group's code in its core's instruction memory. -/
def codeKey (gid : Nat) (pc : Nat) : Nat := 32768 * gid + pc
/-- The word at a PC of a grid on a core (R19, R279). -/
def State.codeAt (s : State) (k gid : Nat) (pc : Nat) : Word := mapGet 0 (s.coreAt k).imem (codeKey gid pc)
/-- LANDED of a segment of a grid on a core (R279). -/
def State.landedAt (s : State) (k gid seg : Nat) : Bool := (mapGet 0 (s.coreAt k).landed gid).getLsbD seg

/-! ### Words at the PC (R34, R315) -/

/-- Words of the instruction that begins with `w`, decided by `w` alone (R315). -/
def wordLength (w : Word) : Nat :=
  let op := (w >>> 24).toNat % 128
  if w.getLsbD 31 then (if op = 0x12 then 2 else 1)
  else if op = 0x2C ∨ op = 0x20 ∨ op = 0x7A ∨ op = 0x7B then 2
  else if 0x70 ≤ op ∧ op ≤ 0x79 ∧ w.toNat % 4 ≠ 0 then 2
  else 1

/-- The word at the selected split's PC. -/
def State.word0 (s : State) : Word := s.codeAt s.sel.core s.group.gid s.split.pc.toNat
/-- The word after it in its segment, if there is one. -/
def State.word1 (s : State) : Option Word :=
  if s.split.pc.toNat % 1024 = 1023 then none
  else some (s.codeAt s.sel.core s.group.gid (s.split.pc.toNat + 1))

/-- Detail of fault 0x12 and 0x13: the words of the instruction (R310). -/
def State.insnDetail (s : State) : DWord :=
  BitVec.ofNat 64 (s.word0.toNat +
    (if wordLength s.word0 = 2 then 2 ^ 32 * (s.word1.getD 0).toNat else 0))

/-! ### Faults (R318, R319) -/

/-- N of R236: package, die, core. -/
def State.coreN (s : State) (k : Nat) : BitVec 16 :=
  BitVec.ofNat 16 (1024 * s.id.pkg.toNat + 512 * dieOf k + 2 * coreNum k)

/-- Report a fault of a grid to its launch engine: the first decides, later ones are counted; a grid that has ended
or been squashed never faults (R318, R319). -/
def reportFault (gid : Nat) (f : FaultRec) (s : State) : State :=
  let g := s.gridAt gid
  if g.st == .ended || g.squashed then s
  else match g.fault with
  | none => s.setGrid gid { g with fault := some f, st := .faulting }
  | some _ => s.setGrid gid { g with nfault := min 255 (g.nfault + 1) }

/-- A fault of the selected split, with the LEASE of the page entry involved and the generation that its walks expected: it
performs nothing more (R318 item 1, R319). -/
def raiseFaultWith (lease expgen : BitVec 16) (code : Nat) (detail : DWord) (s : State) : State :=
  let f : FaultRec := { code, detail, blk := s.block.blk, coreN := s.coreN s.sel.core,
                        grpin := s.group.grpin, slot := s.sel.slot, pc := s.split.pc, expgen, lease }
  (reportFault s.group.gid f s).setSplit { s.split with st := .blocked, wait := none, search := none }

/-- A fault of the selected split that involves no page entry. -/
def raiseFault (code : Nat) (detail : DWord) (s : State) : State := raiseFaultWith 0 0 code detail s

/-- Fault 0x12 (R39, R310). -/
def illegal (s : State) : State := raiseFault 0x12 s.insnDetail s
/-- Fault 0x13 (R42, R310). -/
def privilegeViolation (s : State) : State := raiseFault 0x13 s.insnDetail s
/-- Fault 0x11: a space offset and its space (R370). -/
def allotmentFault (off space : Nat) (s : State) : State :=
  raiseFault 0x11 (BitVec.ofNat 64 (off % 2 ^ 32 + 2 ^ 32 * space)) s

/-! ### The program counter -/

/-- The split leaves its instruction: READY, nothing awaited, no search. -/
def Split.resumed (p : Split) (pc : BitVec 15) : Split :=
  { p with pc, st := .ready, wait := none, phase := 0, wdata := 0, search := none }

/-- Step past an instruction of `n` words; past word 1,023 is fault 0x12 after the full effect (R34). -/
def advance (n : Nat) (s : State) : State :=
  if s.split.pc.toNat % 1024 + n > 1023 then illegal s
  else s.setSplit (s.split.resumed (s.split.pc + BitVec.ofNat 15 n))

/-- Move the whole split to a word offset of its segment (R270). -/
def jumpTo (off : Nat) (s : State) : State :=
  s.setSplit (s.split.resumed (BitVec.ofNat 15 (s.split.pc.toNat / 1024 * 1024 + off)))

/-- The split blocks in instruction `i`, keeping a phase and a value (R262). -/
def blockIn (i : Instr) (phase : Nat) (w : DWord) (s : State) : State :=
  s.setSplit { s.split with st := .blocked, wait := some i, phase, wdata := w }

/-- The waits of a group at slots `slots` are abandoned, to be reissued: a QW that waits for room takes its word back, and
its command no longer waits to enter (R93). -/
def withdrawWords (k gi : Nat) : List Nat → State → State
  | [], s => s
  | i :: is, s =>
    let g := s.groupAt k gi
    let p := g.split i
    let s := match p.wait with
      | some (.qw f) =>
        let q := f.q.toNat
        if p.phase = 2 ∧ q ≤ 2 then
          let c := s.coreAt k
          let s := s.setCore k { c with entering := mapSet c.entering q ((mapGet [] c.entering q).filter fun x => x.grp != gi) }
          s.setGroupAt k gi ({ g with asm_ := mapSet g.asm_ q (mapGet [] g.asm_ q).dropLast }.setSplit i
            { p with phase := 0, wdata := 0 })
        else s
      | _ => s
    withdrawWords k gi is s

/-- The split stands inside a run of an INV, past its boundary (R204). -/
def Split.midRun (p : Split) : Bool :=
  match p.search with
  | some r => r.word ≠ 0
  | none => false

/-! ### Queue Q7 (R313) -/

/-- The bits of a record's word 0 (R313). -/
def recordWord (code kind slot pc : Nat) (ovf : Bool) (source seq : Nat) : DWord :=
  BitVec.ofNat 64 (code % 32 + 32 * (kind % 2) + 64 * (slot % 4) + 256 * (pc % 32768) +
    (if ovf then 2 ^ 23 else 0) + 2 ^ 32 * (source % 65536) + 2 ^ 48 * (seq % 65536))

/-- Whether word 0 of a record marks an event. -/
def isEventRecord (w : DWord) : Bool := w.getLsbD 5

/-- The records of Q7; a word whose record's first word has been popped, told by how many entries stand behind it, stands
alone. -/
def q7Records (cut : List Nat) : List DWord → List (List DWord)
  | [] => []
  | [w] => [[w]]
  | w0 :: w1 :: q => if cut.contains (q.length + 1) then [w0] :: q7Records cut (w1 :: q) else [w0, w1] :: q7Records cut q
/-- How many entries stand behind each word that stands alone. -/
def q7Cuts : List (List DWord) → List Nat
  | [] => []
  | r :: rs => if r.length = 1 then rs.flatten.length :: q7Cuts rs else q7Cuts rs

/-- The last record of some kind leaves. -/
def dropLast (p : List DWord → Bool) : List (List DWord) → Option (List (List DWord))
  | [] => none
  | r :: rs => match dropLast p rs with
    | some rs' => some (r :: rs')
    | none => if p r then some rs else none
/-- Drop one whole record from the tail: the newest event, else the oldest trap; a word that stands alone is part of no
record, and the last of them goes where no record is left (R313). -/
def dropRecord (rs : List (List DWord)) : List (List DWord) :=
  match dropLast (fun r => r.length = 2 && isEventRecord (r.headD 0)) rs with
  | some rs' => rs'
  | none => (dropLast (fun r => r.length = 2) rs).getD rs.dropLast

/-- Make room for a trap record by dropping from the tail (R313). -/
def makeRoom : Nat → List (List DWord) → List (List DWord) × Bool
  | 0, rs => (rs, false)
  | n + 1, rs => if rs.flatten.length ≤ 30 then (rs, false) else ((makeRoom n (dropRecord rs)).1, true)

/-- Push a trap record at the head of Q7 (R313). -/
def pushTrapRecord (g : Group) (code slot pc : Nat) (detail : DWord) : Group :=
  let w (ovf : Bool) : DWord := recordWord code 0 slot pc ovf 0 0
  if g.q7.length ≤ 30 then { g with q7 := w g.q7ovf :: detail :: g.q7, q7ovf := false }
  else
    let rs := (makeRoom 16 (q7Records g.q7cut g.q7)).1
    { g with q7 := w true :: detail :: rs.flatten, q7cut := q7Cuts rs, q7ovf := false }

/-- Push an event record at the tail of Q7, or drop it (R313). -/
def pushEventRecord (g : Group) (type : Nat) (payload : DWord) (source seq : Nat) : Group :=
  if g.q7.length + 2 > 30 then { g with q7ovf := true }
  else { g with q7 := g.q7 ++ [recordWord type 1 0 0 g.q7ovf source seq, payload], q7cut := g.q7cut.map (· + 2), q7ovf := false }

/-- A QRD takes the head of Q7: of a record's two words the second is left, alone. -/
def popQ7 (rest : List DWord) (g : Group) : Group :=
  { g with q7 := rest, q7cut := if g.q7cut.contains rest.length then g.q7cut.erase rest.length
      else if rest.isEmpty then g.q7cut else (rest.length - 1) :: g.q7cut }

/-! ### The idempotent mark (R296) -/

/-- The selected group's block loses the mark. -/
def endIdem (s : State) : State := s.setBlock { s.block with idem := false }

/-! ### Traps (R310, R311) -/

/-- Take a trap: the frame saves PC, MASK and EXEC, H is set, the record enters Q7, and the split goes on at
the handler with EXEC = MASK; inside a handler or without one it is a fault (R311). -/
def takeTrap (code : Nat) (detail : DWord) (savedpc : BitVec 15) (s : State) : State :=
  let g := s.group
  let seg := g.trapvec.toNat % 32
  if g.h then raiseFault 0x17 (BitVec.ofNat 64 code) s
  else if !g.trapvec.getLsbD 15 then raiseFault 0x16 (BitVec.ofNat 64 code) s
  else if !s.landedAt s.sel.core g.gid seg then raiseFault 0x16 (BitVec.ofNat 64 (code + 32)) s
  else
    let p := s.split
    let g1 := { g with frame := { pc := savedpc, mask := p.mask, exec := p.exec }, h := true }
    let g2 := pushTrapRecord g1 code s.sel.slot savedpc.toNat detail
    let pc := BitVec.ofNat 15 (1024 * seg + g.trapvec.toNat / 32 % 1024)
    s.setGroup (g2.setSplit s.sel.slot { p.resumed pc with exec := p.mask })

/-- Return from a trap (R315); a SKIP adds to the saved PC without a check (log entry 41). -/
def returnFromTrap (skip : Bool) (s : State) : State :=
  let g := s.group
  if !g.h then illegal s
  else if s.split.mask != g.frame.mask then illegal s
  else
    let n := if skip then wordLength (s.codeAt s.sel.core g.gid g.frame.pc.toNat) else 0
    let p := { s.split.resumed (g.frame.pc + BitVec.ofNat 15 n) with exec := g.frame.exec &&& s.split.mask }
    s.setGroup ({ g with h := false }.setSplit s.sel.slot p)

/-! ### Register fields and bounds (R27, R28) -/

/-- A register an instruction names: effective number of the first of a run, the run's length, and its file. -/
structure RegRef where
  uni : Bool
  first : Nat
  run : Nat := 1
deriving DecidableEq, Repr

/-- The detail of the register-bound trap for the first register that fails, if one does (R27, R310). -/
def boundFail (budget : Nat) : List RegRef → Option DWord
  | [] => none
  | r :: rs =>
    let lim := if r.uni then 128 else budget
    if r.first + r.run > lim then
      some (BitVec.ofNat 64 (max r.first lim + 2 ^ 17 * lim + (if r.uni then 2 ^ 26 else 0)))
    else boundFail budget rs

/-- Checks 3 to 5 of R40, then the instruction's own effect. -/
def checked (avail priv : Bool) (refs : List RegRef) (eff : State → State) (s : State) : State :=
  if !avail then illegal s
  else if !priv then privilegeViolation s
  else match boundFail s.group.budget refs with
    | some d => takeTrap 3 d s.split.pc s
    | none => eff s

/-- One instruction word of the selected split, with the issue checks of R40. -/
def runWord (avail priv : Bool) (refs : List RegRef) (eff : State → State) (s : State) : Result :=
  if s.canIssue then .next (checked avail priv refs eff s) else .fault .noIssuingSplit

/-- A word that acts and then steps past itself. -/
def plainWord (refs : List RegRef) (n : Nat) (eff : State → State) (s : State) : Result :=
  runWord true true refs (fun s => advance n (eff s)) s

/-- A step that is no instruction word: it always answers a next state (log entry 13). -/
def agentStep (eff : State → State) (s : State) : Result := .next (eff s)

/-- What arrives from outside the package acts, but not after a failure of the start-up, when the device accepts only
configuration space and the DOE mailbox (R338). -/
def fromOutside (eff : State → State) (s : State) : Result :=
  agentStep (fun s => if s.id.fail = 0 then eff s else s) s

/-! ### Splits (R261-R266) -/

/-- A group ends without a trap; its splits are free. -/
def Group.killed (g : Group) : Group :=
  { g with live := false, h := false, splits := [], spill := [], oplog := [], parked := [], stopReq := false,
           stopped := false, frz := false, dying := false, stepSlot := none, asmOrder := [] }

/-- Its block has ended: splits inside a run of an INV go on, with their loads, to its boundary (R204); nothing else does. -/
def Group.ended (g : Group) : Group :=
  if g.splits.any fun p => p.2.midRun then
    { g.killed with live := g.live, dying := true, phaseOn := false, splits := g.splits.filter (fun p => p.2.midRun),
                    oplog := g.oplog.filter fun e => e.2.kind == 8 }
  else g.killed

/-- `a` is older than `b`: creation numbers compared mod 2^16 (R261). -/
def olderCre (a b : BitVec 16) : Bool := 0 < (b - a).toNat && (b - a).toNat < 32768

/-- The slots of live splits, in slot order. -/
def liveSlots (g : Group) : List Nat := (List.range 4).filter fun i => (g.split i).st != .free

/-- The handler holds a split whose lanes are not the frame's (R311). -/
def heldSplit (g : Group) (m : Lanes) : Bool := g.h && (m &&& g.frame.mask) == 0

/-- Place a new split in the lowest free slot, or spill it; none: the spill area is full (R263). -/
def addSplit (g : Group) (like : Split) (m : Lanes) (pc : BitVec 15) : Option Group :=
  match (List.range 4).find? (fun i => (g.split i).st == .free) with
  | some i =>
    some { g.setSplit i { st := .ready, pc, mask := m, exec := m, pri := like.pri, yld := like.yld,
                          ypri := like.ypri, cre := g.nextCre } with nextCre := g.nextCre + 1 }
  | none => if g.spill.length < 16 then some { g with spill := (pc, m) :: g.spill } else none

/-- Place several new splits in order (R272). -/
def addSplits (like : Split) : List (Lanes × BitVec 15) → Group → Option Group
  | [], g => some g
  | (m, pc) :: r, g => match addSplit g like m pc with
    | some g' => addSplits like r g'
    | none => none

/-- Two splits that merge at this boundary; one inside an INV stands at no boundary (R203, R264). -/
def mergeable (g : Group) (i j : Nat) : Bool :=
  let a := g.split i
  let b := g.split j
  (a.st == .ready || a.st == .joinwait) && (b.st == .ready || b.st == .joinwait) && a.pc == b.pc &&
    a.search.isNone && b.search.isNone && !heldSplit g a.mask && !heldSplit g b.mask && olderCre a.cre b.cre

/-- PRI of a split as a merge takes it (R264). -/
def mergePri (p : Split) : Nat := if p.yld then p.ypri.toNat else p.pri.toNat

/-- Merge slot `j` into the older slot `i` (R264); it orders memory before the next instruction (R231). -/
def mergeInto (g : Group) (i j : Nat) : Group :=
  let a := g.split i
  let b := g.split j
  let m := { a with mask := a.mask ||| b.mask, exec := a.exec ||| b.exec,
                    pri := BitVec.ofNat 8 (max (mergePri a) (mergePri b)), yld := false, sync := true,
                    st := if a.st == .joinwait || b.st == .joinwait then .joinwait else .ready }
  (g.setSplit i m).setSplit j {}

/-- The newest spilled split takes a free slot (R263). -/
def popSpill (g : Group) : Option Group :=
  match g.spill, (List.range 4).find? (fun i => (g.split i).st == .free) with
  | (pc, m) :: rest, some i =>
    let live := liveSlots g
    let pri := if live.isEmpty then 128 else live.foldl (fun q k => max q (g.split k).pri.toNat) 0
    some { g.setSplit i { st := .ready, pc, mask := m, exec := m, pri := BitVec.ofNat 8 pri,
                          cre := g.nextCre } with nextCre := g.nextCre + 1, spill := rest }
  | _, _ => none

/-- Pairs of slots. -/
def slotPairs : List (Nat × Nat) :=
  [(0, 1), (0, 2), (0, 3), (1, 0), (1, 2), (1, 3), (2, 0), (2, 1), (2, 3), (3, 0), (3, 1), (3, 2)]

/-- Merges and pops until none is due. -/
def settleSplits : Nat → Group → Group
  | 0, g => g
  | n + 1, g =>
    match slotPairs.find? (fun ij => mergeable g ij.1 ij.2) with
    | some ij => settleSplits n (mergeInto g ij.1 ij.2)
    | none => match popSpill g with
      | some g' => settleSplits n g'
      | none => g

/-- What every issue boundary of the selected group does: merges (R264) and pops (R263). -/
def boundary (s : State) : State :=
  if s.group.live then s.setGroup (settleSplits 24 s.group) else s

end Sys2Proof.Machine
end

