-- ==== Sys2Proof/Machine/Operands.lean ====
section
/-!
DEFINITION. How the fields of an instruction word become operands: effective register numbers through the
index registers (R27, R28), guards and active lanes (R26, R18), and the registers each word names, in the
order in which the bound check takes them.
-/

namespace Sys2Proof.Machine

/-! ### Effective numbers -/

/-- A lane field of the group: X0, or X1 for the second window (R27). -/
def Group.lane (g : Group) (w : BitVec 1) (f : Nat) : Nat := f + (g.xAt (if w = 1 then 1 else 0)).toNat
/-- A uniform field of UR: X2 added when i = 1 (R28). -/
def Group.uni (g : Group) (i : BitVec 1) (f : Nat) : Nat := f + (if i = 1 then (g.xAt 2).toNat else 0)

/-- A lane register the bound check takes. -/
def laneRef (g : Group) (w : BitVec 1) (f : Nat) (run : Nat := 1) : RegRef := ⟨false, g.lane w f, run⟩
/-- A uniform register the bound check takes. -/
def uniRef (g : Group) (i : BitVec 1) (f : Nat) (run : Nat := 1) : RegRef := ⟨true, g.uni i f, run⟩

/-! ### Guards (R26) -/

/-- Lanes where a guard code holds. -/
def Group.guardMask (g : Group) (c : BitVec 5) : Lanes :=
  let n := c.toNat
  if n = 0 then BitVec.allOnes 48
  else if n ≤ 16 then g.pAt (n - 1)
  else ~~~ (g.pAt (n - 17))

/-- The active lanes of a guarded word of the selected split (R18). -/
def State.active (s : State) (c : BitVec 5) : Lanes := s.split.exec &&& s.group.guardMask c

/-! ### Registers of each format, in field order -/

end Sys2Proof.Machine

namespace Sys2Proof

open Sys2Proof.Machine

def LR3.refs (f : LR3) (g : Group) : List RegRef :=
  [laneRef g f.w f.d.toNat, laneRef g f.w f.a.toNat, laneRef g f.w f.b.toNat]
def LR2.refs (f : LR2) (g : Group) : List RegRef := [laneRef g f.w f.d.toNat, laneRef g f.w f.a.toNat]
def LCode.refs (f : LCode) (g : Group) : List RegRef := [laneRef g f.w f.d.toNat, laneRef g f.w f.a.toNat]
def LImm.refs (f : LImm) (g : Group) : List RegRef := [laneRef g 0 f.d.toNat, laneRef g 0 f.a.toNat]
def LShift.refs (f : LShift) (g : Group) : List RegRef := [laneRef g 0 f.d.toNat, laneRef g 0 f.a.toNat]
def LLit.refs (f : LLit) (g : Group) : List RegRef := [laneRef g 0 f.d.toNat]
def LCtl.refs (f : LCtl) (g : Group) : List RegRef := [laneRef g f.w f.a.toNat]
def LCtl2.refs (f : LCtl2) (g : Group) : List RegRef := [laneRef g f.w f.a.toNat, laneRef g f.w f.b.toNat]
def LCmp.refs (f : LCmp) (g : Group) : List RegRef := [laneRef g f.w f.a.toNat, laneRef g f.w f.b.toNat]
def LPset.refs (f : LPset) (g : Group) : List RegRef := [laneRef g f.w f.a.toNat]
def LPget.refs (f : LPget) (g : Group) : List RegRef := [laneRef g f.w f.d.toNat]
def LSpec.refs (f : LSpec) (g : Group) : List RegRef := [laneRef g f.w f.d.toNat]
/-- A load or store: a run of `n` data registers, then the index register. -/
def LMem.refs (f : LMem) (n : Nat) (g : Group) : List RegRef :=
  [laneRef g 0 f.d.toNat n, laneRef g 0 f.a.toNat]
def LMemX.refs (f : LMemX) (n : Nat) (g : Group) : List RegRef :=
  [laneRef g 0 f.d.toNat n, laneRef g 0 f.a.toNat]
/-- INV: xin, yout, target (R25, R27). -/
def InvForm.refs (f : InvForm) (g : Group) : List RegRef :=
  [laneRef g 0 f.xin.toNat, laneRef g 0 f.yout.toNat, laneRef g 0 f.target.toNat]
def UR3.refs (f : UR3) (g : Group) : List RegRef :=
  [uniRef g f.i f.d.toNat, uniRef g f.i f.a.toNat, uniRef g f.i f.b.toNat]
/-- UR with a pair of results in d and the register after it. -/
def UR3.refsPair (f : UR3) (g : Group) : List RegRef :=
  [uniRef g f.i f.d.toNat 2, uniRef g f.i f.a.toNat, uniRef g f.i f.b.toNat]
def UR2.refs (f : UR2) (g : Group) : List RegRef := [uniRef g f.i f.d.toNat, uniRef g f.i f.a.toNat]
def USrc.refs (f : USrc) (g : Group) : List RegRef := [uniRef g f.i f.a.toNat]
def UDst.refs (f : UDst) (g : Group) : List RegRef := [uniRef g f.i f.d.toNat]
def UPred.refs (f : UPred) (g : Group) : List RegRef := [uniRef g f.i f.d.toNat]
/-- RECSET: D in the d field is no register of the windows (R28). -/
def RecsetForm.refs (f : RecsetForm) (g : Group) : List RegRef :=
  [uniRef g f.i f.a.toNat, uniRef g f.i f.b.toNat]
/-- LDREC writes a pair (R118). -/
def LdrecForm.refs (f : LdrecForm) (g : Group) : List RegRef := [uniRef g f.i f.d.toNat 2]
/-- KVFORK reads the run a..a+1 (R86). -/
def KvforkForm.refs (f : KvforkForm) (g : Group) : List RegRef :=
  [uniRef g f.i f.d.toNat, uniRef g f.i f.a.toNat 2]
def MovcForm.refs (f : MovcForm) (g : Group) : List RegRef := [uniRef g f.i f.d.toNat]
def MovcwForm.refs (f : MovcwForm) (g : Group) : List RegRef := [uniRef g f.i f.a.toNat]

end Sys2Proof

namespace Sys2Proof.Machine

/-! ### Immediates -/

/-- imm7 sign-extended (R22). -/
def imm7 (x : BitVec 7) : Word := x.signExtend 32
/-- imm17 sign-extended (R30). -/
def imm17 (x : BitVec 17) : DWord := x.signExtend 64

end Sys2Proof.Machine
end

