-- ==== Sys2Proof/Machine/Flags.lean ====
section
/-!
DEFINITION. The sticky lane flags SAT, CLIP, QSAT and INVX (R141, R142, R147): set per lane, cleared only by
FPMODE. The clamping operations report whether they clamped, and the lane's flag is set from that report.
-/

namespace Sys2Proof.Machine

/-- Set SAT in the lanes of `m`. -/
def Group.setSat (g : Group) (m : Lanes) : Group := { g with sat := g.sat ||| m }
/-- Set CLIP in the lanes of `m` (R121). -/
def Group.setClip (g : Group) (m : Lanes) : Group := { g with clip := g.clip ||| m }
/-- Set QSAT in the lanes of `m` (R155). -/
def Group.setQsat (g : Group) (m : Lanes) : Group := { g with qsat := g.qsat ||| m }
/-- Set INVX in the lanes of `m`. -/
def Group.setInvx (g : Group) (m : Lanes) : Group := { g with invx := g.invx ||| m }

/-- STATUS of a lane (R140): [0] SAT, [1] CLIP, [2] QSAT, [3] INVX. -/
def Group.status (g : Group) (l : Nat) : Word :=
  BitVec.ofNat 32 ((laneIn g.sat l).toNat + 2 * (laneIn g.clip l).toNat + 4 * (laneIn g.qsat l).toNat +
    8 * (laneIn g.invx l).toNat)

/-- A write of FPMODE clears the named flags in the lanes of `m` (R147). -/
def Group.fpmodeWrite (g : Group) (m : Lanes) (x : DWord) : Group :=
  let keep (b : Nat) (f : Lanes) : Lanes := if x.getLsbD b then f &&& ~~~m else f
  { g with sat := keep 0 g.sat, clip := keep 1 g.clip, qsat := keep 2 g.qsat, invx := keep 3 g.invx }

/-- Clamp to `n`-bit two's complement; the second part says whether it clamped (R18, R149). -/
def satS (n : Nat) (x : Int) : Int × Bool :=
  let hi : Int := 2 ^ (n - 1) - 1
  let lo : Int := -(2 ^ (n - 1))
  if x > hi then (hi, true) else if x < lo then (lo, true) else (x, false)

/-- Clamp to `n`-bit unsigned (R149). -/
def satU (n : Nat) (x : Int) : Int × Bool :=
  if x > 2 ^ n - 1 then (2 ^ n - 1, true) else if x < 0 then (0, true) else (x, false)

/-- A lane function whose second part sets SAT: the lanes of `m` where it does. -/
def satLanes (m : Lanes) (f : Nat → Bool) : Lanes := lanesWhere fun l => laneIn m l && f l

end Sys2Proof.Machine
end

