-- ==== Sys2Proof/Machine/IntLane.lean ====
section
/-!
DEFINITION. The integer, immediate, packed and saturating lane instructions (R164-R169): each is a function of
the lane's operands x, y and old destination z, applied in every active lane.
-/

namespace Sys2Proof.Machine

/-! ### Shapes -/

/-- d := op x y z in the active lanes of an LR word (R162, R164). -/
def lane3 (f : LR3) (op : Word → Word → Word → Word) (s : State) : State :=
  let g := s.group
  let d := g.lane f.w f.d.toNat
  let a := g.lane f.w f.a.toNat
  let b := g.lane f.w f.b.toNat
  s.setGroup (g.setV d (s.active f.g) fun l => op (g.vAt a l) (g.vAt b l) (g.vAt d l))

/-- As `lane3`, with SAT set in the lanes whose operation clamped (R141). -/
def lane3Sat (f : LR3) (op : Word → Word → Word → Word × Bool) (s : State) : State :=
  let g := s.group
  let d := g.lane f.w f.d.toNat
  let r (l : Nat) := op (g.vAt (g.lane f.w f.a.toNat) l) (g.vAt (g.lane f.w f.b.toNat) l) (g.vAt d l)
  s.setGroup ((g.setV d (s.active f.g) fun l => (r l).1).setSat (satLanes (s.active f.g) fun l => (r l).2))

/-- d := op x in the active lanes of a unary word. -/
def lane2 (f : LR2) (op : Word → Word) (s : State) : State :=
  let g := s.group
  s.setGroup (g.setV (g.lane f.w f.d.toNat) (s.active f.g) fun l => op (g.vAt (g.lane f.w f.a.toNat) l))

/-- d := op x in the active lanes of an LI word (R168). -/
def laneImm (gd : BitVec 5) (d a : BitVec 6) (op : Word → Word) (s : State) : State :=
  let g := s.group
  s.setGroup (g.setV (g.lane 0 d.toNat) (s.active gd) fun l => op (g.vAt (g.lane 0 a.toNat) l))

/-! ### The functions -/

def fIadd (x y _z : Word) : Word := x + y
def fIsub (x y _z : Word) : Word := x - y
def fImul (x y _z : Word) : Word := x * y
/-- High half of the signed product. -/
def fImulh (x y _z : Word) : Word := BitVec.ofInt 32 (x.toInt * y.toInt / 2 ^ 32)
/-- High half of the unsigned product. -/
def fNmulh (x y _z : Word) : Word := BitVec.ofNat 32 (x.toNat * y.toNat / 2 ^ 32)
def fImad (x y z : Word) : Word := x * y + z
def fImin (x y _z : Word) : Word := if y.toInt < x.toInt then y else x
def fImax (x y _z : Word) : Word := if x.toInt < y.toInt then y else x
def fNmin (x y _z : Word) : Word := if y.toNat < x.toNat then y else x
def fNmax (x y _z : Word) : Word := if x.toNat < y.toNat then y else x
def fIabs (x : Word) : Word := BitVec.ofNat 32 x.toInt.natAbs
def fAnd (x y _z : Word) : Word := x &&& y
def fOr (x y _z : Word) : Word := x ||| y
def fXor (x y _z : Word) : Word := x ^^^ y
def fAndn (x y _z : Word) : Word := x &&& ~~~y
/-- The count is the whole 32-bit y. -/
def fShl (x y _z : Word) : Word := if y.toNat ≥ 32 then 0 else x <<< y.toNat
def fShr (x y _z : Word) : Word := if y.toNat ≥ 32 then 0 else x >>> y.toNat
/-- Sign fill for a count of 32 or more. -/
def fSar (x y _z : Word) : Word := x.sshiftRight (min 32 y.toNat)
/-- Signed right shift of an n-bit value, half toward +∞; 0 for every count of n or more (R165, R169). -/
def shrr (n : Nat) (x : Int) (c : Nat) : Int :=
  if c = 0 then x else if c ≥ n then 0 else (x + 2 ^ (c - 1)) / 2 ^ c
def fShrr (x y _z : Word) : Word := BitVec.ofInt 32 (shrr 32 x.toInt y.toNat)
def fPopc (x : Word) : Word := BitVec.ofNat 32 ((List.range 32).filter fun i => x.getLsbD i).length
def fClz (x : Word) : Word := if x = 0 then 32 else BitVec.ofNat 32 (31 - Nat.log2 x.toNat)
def fBrev (x : Word) : Word := x.reverse
/-- BFE's and BFI's effective length (R166). -/
def fieldLen (y : Word) : Nat := min (y.toNat / 256 % 64) (32 - y.toNat % 32)
def fBfe (x y _z : Word) : Word :=
  let pos := y.toNat % 32
  let e := fieldLen y
  let u := x.toNat / 2 ^ pos % 2 ^ e
  if e = 0 then 0
  else if y.getLsbD 16 && u ≥ 2 ^ (e - 1) then BitVec.ofInt 32 ((u : Int) - 2 ^ e)
  else BitVec.ofNat 32 u
def fBfi (x y z : Word) : Word :=
  let pos := y.toNat % 32
  let e := fieldLen y
  let hole : Word := BitVec.ofNat 32 ((2 ^ e - 1) * 2 ^ pos)
  (z &&& ~~~hole) ||| (BitVec.ofNat 32 (x.toNat % 2 ^ e * 2 ^ pos))
def fMov (x : Word) : Word := x

/-- Element i of a packed register, signed (R149). -/
def half (x : Word) (i : Nat) : Int := (x.extractLsb' (16 * i) 16).toInt
/-- Two elements, each modulo 2^16. -/
def pack (e0 e1 : Int) : Word := (BitVec.ofInt 16 e1 ++ BitVec.ofInt 16 e0 : BitVec 32)
def fPadd2 (x y _z : Word) : Word := pack (half x 0 + half y 0) (half x 1 + half y 1)
def fPsub2 (x y _z : Word) : Word := pack (half x 0 - half y 0) (half x 1 - half y 1)
def fPmul2 (x y _z : Word) : Word := pack (half x 0 * half y 0) (half x 1 * half y 1)
/-- A 32-bit saturating result (R169). -/
def sat32 (v : Int) : Word × Bool := (BitVec.ofInt 32 (satS 32 v).1, (satS 32 v).2)
def fPmac2 (x y z : Word) : Word × Bool := sat32 (z.toInt + half x 0 * half y 0 + half x 1 * half y 1)
def fPmacx2 (x y z : Word) : Word × Bool := sat32 (z.toInt + half x 0 * half y 1 + half x 1 * half y 0)
def fSadd (x y _z : Word) : Word × Bool := sat32 (x.toInt + y.toInt)
def fSsub (x y _z : Word) : Word × Bool := sat32 (x.toInt - y.toInt)
def fPack2 (x y _z : Word) : Word × Bool :=
  (pack (satS 16 x.toInt).1 (satS 16 y.toInt).1, (satS 16 x.toInt).2 || (satS 16 y.toInt).2)
def fSxlo (x : Word) : Word := (x.extractLsb' 0 16).signExtend 32
def fSxhi (x : Word) : Word := (x.extractLsb' 16 16).signExtend 32
def fPshrr2 (x y _z : Word) : Word :=
  pack (shrr 16 (half x 0) (y.toNat % 65536)) (shrr 16 (half x 1) (y.toNat / 65536))

/-- SEL: the g field selects, and every lane in EXEC is active (R26, R167). -/
def effSel (f : LR3) (s : State) : State :=
  let g := s.group
  let m := g.guardMask f.g
  s.setGroup (g.setV (g.lane f.w f.d.toNat) s.split.exec fun l =>
    if laneIn m l then g.vAt (g.lane f.w f.a.toNat) l else g.vAt (g.lane f.w f.b.toNat) l)

/-- MOVL: the literal (R33). -/
def effMovl (f : LLit) (s : State) : State :=
  let g := s.group
  s.setGroup (g.setV (g.lane 0 f.d.toNat) (s.active f.g) fun _ => f.lit)

/-! ### The instructions -/

/-- An LR word of three lane registers. -/
def word3 (f : LR3) (op : Word → Word → Word → Word) (s : State) : Result :=
  plainWord (f.refs s.group) 1 (lane3 f op) s
/-- An LR word of three lane registers that may set SAT. -/
def word3Sat (f : LR3) (op : Word → Word → Word → Word × Bool) (s : State) : Result :=
  plainWord (f.refs s.group) 1 (lane3Sat f op) s
/-- A unary LR word. -/
def word2 (f : LR2) (op : Word → Word) (s : State) : Result :=
  plainWord (f.refs s.group) 1 (lane2 f op) s

def execIadd (f : LR3) (s : State) : Result := word3 f fIadd s
def execIsub (f : LR3) (s : State) : Result := word3 f fIsub s
def execImul (f : LR3) (s : State) : Result := word3 f fImul s
def execImulh (f : LR3) (s : State) : Result := word3 f fImulh s
def execNmulh (f : LR3) (s : State) : Result := word3 f fNmulh s
def execImad (f : LR3) (s : State) : Result := word3 f fImad s
def execImin (f : LR3) (s : State) : Result := word3 f fImin s
def execImax (f : LR3) (s : State) : Result := word3 f fImax s
def execNmin (f : LR3) (s : State) : Result := word3 f fNmin s
def execNmax (f : LR3) (s : State) : Result := word3 f fNmax s
def execIabs (f : LR2) (s : State) : Result := word2 f fIabs s
def execAnd (f : LR3) (s : State) : Result := word3 f fAnd s
def execOr (f : LR3) (s : State) : Result := word3 f fOr s
def execXor (f : LR3) (s : State) : Result := word3 f fXor s
def execAndn (f : LR3) (s : State) : Result := word3 f fAndn s
def execShl (f : LR3) (s : State) : Result := word3 f fShl s
def execShr (f : LR3) (s : State) : Result := word3 f fShr s
def execSar (f : LR3) (s : State) : Result := word3 f fSar s
def execShrr (f : LR3) (s : State) : Result := word3 f fShrr s
def execPopc (f : LR2) (s : State) : Result := word2 f fPopc s
def execClz (f : LR2) (s : State) : Result := word2 f fClz s
def execBrev (f : LR2) (s : State) : Result := word2 f fBrev s
def execBfe (f : LR3) (s : State) : Result := word3 f fBfe s
def execBfi (f : LR3) (s : State) : Result := word3 f fBfi s
def execSel (f : LR3) (s : State) : Result := plainWord (f.refs s.group) 1 (effSel f) s
def execMov (f : LR2) (s : State) : Result := word2 f fMov s

/-- IADDI, ANDI: the sign-extended immediate (R168). -/
def fIaddi (i : BitVec 7) (x : Word) : Word := x + imm7 i
def fAndi (i : BitVec 7) (x : Word) : Word := x &&& imm7 i
def fShli (c : BitVec 5) (x : Word) : Word := x <<< c.toNat
def fShri (c : BitVec 5) (x : Word) : Word := x >>> c.toNat
def fSari (c : BitVec 5) (x : Word) : Word := x.sshiftRight c.toNat

def execIaddi (f : LImm) (s : State) : Result := plainWord (f.refs s.group) 1 (laneImm f.g f.d f.a (fIaddi f.imm)) s
def execShli (f : LShift) (s : State) : Result := plainWord (f.refs s.group) 1 (laneImm f.g f.d f.a (fShli f.c)) s
def execShri (f : LShift) (s : State) : Result := plainWord (f.refs s.group) 1 (laneImm f.g f.d f.a (fShri f.c)) s
def execSari (f : LShift) (s : State) : Result := plainWord (f.refs s.group) 1 (laneImm f.g f.d f.a (fSari f.c)) s
def execAndi (f : LImm) (s : State) : Result := plainWord (f.refs s.group) 1 (laneImm f.g f.d f.a (fAndi f.imm)) s
def execMovl (f : LLit) (s : State) : Result := plainWord (f.refs s.group) 2 (effMovl f) s

def execPadd2 (f : LR3) (s : State) : Result := word3 f fPadd2 s
def execPsub2 (f : LR3) (s : State) : Result := word3 f fPsub2 s
def execPmul2 (f : LR3) (s : State) : Result := word3 f fPmul2 s
def execPmac2 (f : LR3) (s : State) : Result := word3Sat f fPmac2 s
def execPmacx2 (f : LR3) (s : State) : Result := word3Sat f fPmacx2 s
def execSadd (f : LR3) (s : State) : Result := word3Sat f fSadd s
def execSsub (f : LR3) (s : State) : Result := word3Sat f fSsub s
def execPack2 (f : LR3) (s : State) : Result := word3Sat f fPack2 s
def execSxlo (f : LR2) (s : State) : Result := word2 f fSxlo s
def execSxhi (f : LR2) (s : State) : Result := word2 f fSxhi s
def execPshrr2 (f : LR3) (s : State) : Result := word3 f fPshrr2 s

end Sys2Proof.Machine
end

