-- ==== Sys2Proof/Machine/Num.lean ====
section
/-!
DEFINITION. The floating-point formats (R150-R152, R157): a pattern is read as an exact value, operations act
on exact values, and one rounding writes the result.
-/

namespace Sys2Proof.Machine

/-- What a floating-point pattern stands for: (-1)^neg × m × 2^e, an infinity, or a NaN. -/
inductive FVal where
  | nan
  | inf (neg : Bool)
  | fin (neg : Bool) (m : Nat) (e : Int)
deriving DecidableEq, Repr

/-- Read a pattern of an IEEE-like format with `p` significand bits (one implied) and lowest unit 2^q. -/
def readFloat (p : Nat) (q : Int) (expBits x : Nat) : FVal :=
  let frac := x % 2 ^ (p - 1)
  let ex := x / 2 ^ (p - 1) % 2 ^ expBits
  let neg := x / 2 ^ (p - 1 + expBits) % 2 == 1
  if ex = 2 ^ expBits - 1 then (if frac = 0 then .inf neg else .nan)
  else if ex = 0 then .fin neg frac q
  else .fin neg (frac + 2 ^ (p - 1)) (q + (ex : Int) - 1)

/-- F32 (R150). -/
def f32Val (x : Word) : FVal := readFloat 24 (-149) 8 x.toNat
/-- BF16 (R151). -/
def bf16Val (x : BitVec 16) : FVal := readFloat 8 (-133) 8 x.toNat
/-- E4M3 (R152): no infinities, NaN only at 0x7F and 0xFF. -/
def e4m3Val (x : BitVec 8) : FVal :=
  let m : Nat := x.toNat % 8
  let e : Nat := x.toNat / 8 % 16
  let neg := x.getLsbD 7
  if e = 15 ∧ m = 7 then .nan
  else if e = 0 then .fin neg m (-9)
  else .fin neg (m + 8) ((e : Int) - 10)
/-- f56 (R157): exponent 0 is zero whatever the fraction. -/
def f56Val (x : BitVec 56) : FVal :=
  let frac : Nat := x.toNat % 2 ^ 45
  let ex : Nat := x.toNat / 2 ^ 45 % 1024
  let neg := x.getLsbD 55
  if ex = 1023 then (if frac = 0 then .inf neg else .nan)
  else if ex = 0 then .fin neg 0 0
  else .fin neg (frac + 2 ^ 45) ((ex : Int) - 556)

/-! ### Rounding (codes of R35: 0 RN, 1 RZ, 2 RM, 3 RP) -/

/-- m / 2^sh rounded to an integer under a code; `sticky` says that the exact value lies a little above m. -/
def roundInt (mode : Nat) (neg sticky : Bool) (m sh : Nat) : Nat :=
  let q := m / 2 ^ sh
  let r := m % 2 ^ sh
  let up := match mode with
    | 0 => decide (2 * r > 2 ^ sh) || (decide (2 * r = 2 ^ sh) && (sticky || q % 2 == 1))
    | 2 => neg && (r != 0 || sticky)
    | 3 => !neg && (r != 0 || sticky)
    | _ => false
  if up then q + 1 else q

/-- m × 2^e rounded to `p` bits with no unit below 2^q: the significand and its unit's exponent. -/
def roundSig (p : Nat) (q : Int) (mode : Nat) (neg sticky : Bool) (m : Nat) (e : Int) : Nat × Int :=
  let k := max q (e + (Nat.log2 m : Int) + 1 - p)
  if k ≤ e then (m * 2 ^ (e - k).toNat, k) else (roundInt mode neg sticky m (k - e).toNat, k)

/-- The magnitude's pattern in an IEEE-like format whose infinity is `infBits`; overflow as the code says. -/
def packFloat (p : Nat) (q : Int) (infBits mode : Nat) (neg sticky : Bool) (m : Nat) (e : Int) : Nat :=
  if m = 0 then 0
  else
    let (n, k) := roundSig p q mode neg sticky m e
    let bits := (k - q).toNat * 2 ^ (p - 1) + n
    if bits < infBits then bits
    else match mode with
      | 0 => infBits
      | 2 => if neg then infBits else infBits - 1
      | 3 => if neg then infBits - 1 else infBits
      | _ => infBits - 1

/-- The canonical NaN of F32 (R150). -/
def nanF32 : Word := 0x7FC00000

/-- Write F32 from a magnitude with a sticky excess. -/
def f32Pack (mode : Nat) (neg sticky : Bool) (m : Nat) (e : Int) : Word :=
  BitVec.ofNat 32 (packFloat 24 (-149) 0x7F800000 mode neg sticky m e + (if neg then 2 ^ 31 else 0))

/-- Write F32 under a code (R150, R174). -/
def f32Of (mode : Nat) : FVal → Word
  | .nan => nanF32
  | .inf neg => if neg then 0xFF800000 else 0x7F800000
  | .fin neg m e => f32Pack mode neg false m e

/-- Write BF16 under a code (R151). -/
def bf16Of (mode : Nat) : FVal → BitVec 16
  | .nan => 0x7FC0
  | .inf neg => if neg then 0xFF80 else 0x7F80
  | .fin neg m e => BitVec.ofNat 16 (packFloat 8 (-133) 0x7F80 mode neg false m e + (if neg then 2 ^ 15 else 0))

/-- Write E4M3 under a code; the second part says that SAT is set (R152). -/
def e4m3Of (mode : Nat) : FVal → BitVec 8 × Bool
  | .nan => (0x7F, false)
  | .inf neg => (if neg then 0xFE else 0x7E, true)
  | .fin neg m e =>
    let (n, k) := if m = 0 then (0, (-9 : Int)) else roundSig 4 (-9) mode neg false m e
    let bits := (k + 9).toNat * 8 + n
    let sign := if neg then 128 else 0
    if bits ≤ 0x7E then (BitVec.ofNat 8 (bits + sign), false) else (BitVec.ofNat 8 (0x7E + sign), true)

/-- Write f56 (R157): round to 46 bits, then overflow to infinity and underflow to zero. -/
def f56Of : FVal → BitVec 56
  | .nan => BitVec.ofNat 56 (1023 * 2 ^ 45 + 2 ^ 44)
  | .inf neg => BitVec.ofNat 56 (1023 * 2 ^ 45 + (if neg then 2 ^ 55 else 0))
  | .fin neg m e =>
    let sign := if neg then 2 ^ 55 else 0
    if m = 0 then BitVec.ofNat 56 sign
    else
      let (n, k) := roundSig 46 (e + (Nat.log2 m : Int) - 100000) 0 neg false m e
      let (n, k) := if n = 2 ^ 46 then (2 ^ 45, k + 1) else (n, k)
      let ex := k + 556
      if ex ≥ 1023 then BitVec.ofNat 56 (1023 * 2 ^ 45 + sign)
      else if ex < 1 then BitVec.ofNat 56 sign
      else BitVec.ofNat 56 (ex.toNat * 2 ^ 45 + (n - 2 ^ 45) + sign)

/-! ### Exact operations (R170) -/

/-- The sign applied to a magnitude. -/
def signed (neg : Bool) (m : Nat) : Int := if neg then -(m : Int) else m

/-- Exact sum; an exact zero sum is -0 only when both are negative (R150). -/
def exAdd : FVal → FVal → FVal
  | .nan, _ => .nan
  | _, .nan => .nan
  | .inf a, .inf b => if a = b then .inf a else .nan
  | .inf a, _ => .inf a
  | _, .inf b => .inf b
  | .fin n1 m1 e1, .fin n2 m2 e2 =>
    let e := min e1 e2
    let t := signed n1 (m1 * 2 ^ (e1 - e).toNat) + signed n2 (m2 * 2 ^ (e2 - e).toNat)
    if t = 0 then .fin (n1 && n2) 0 e else .fin (decide (t < 0)) t.natAbs e

/-- Exact product. -/
def exMul : FVal → FVal → FVal
  | .nan, _ => .nan
  | _, .nan => .nan
  | .inf a, .inf b => .inf (a != b)
  | .inf a, .fin n m _ => if m = 0 then .nan else .inf (a != n)
  | .fin n m _, .inf b => if m = 0 then .nan else .inf (n != b)
  | .fin n1 m1 e1, .fin n2 m2 e2 => .fin (n1 != n2) (m1 * m2) (e1 + e2)

/-- Negate. -/
def exNeg : FVal → FVal
  | .nan => .nan
  | .inf a => .inf (!a)
  | .fin n m e => .fin (!n) m e

/-- Sum of a list, from a first value, exact at each step. -/
def exSum (v : FVal) (l : List FVal) : FVal := l.foldl exAdd v

/-- A signed integer as an exact value. -/
def intVal (x : Int) : FVal := .fin (decide (x < 0)) x.natAbs 0

/-- FADD (R170). -/
def f32Add (x y : Word) : Word := f32Of 0 (exAdd (f32Val x) (f32Val y))
/-- FMUL (R170). -/
def f32Mul (x y : Word) : Word := f32Of 0 (exMul (f32Val x) (f32Val y))
/-- FFMA (R170): one rounding. -/
def f32Fma (x y z : Word) : Word := f32Of 0 (exAdd (exMul (f32Val x) (f32Val y)) (f32Val z))
/-- An F32 NaN. -/
def isNaN (x : Word) : Bool := x.toNat % 2 ^ 31 > 0x7F800000

/-- A key that orders non-NaN F32 patterns with -0 below +0 (R171). -/
def minKey (x : Word) : Int := if x.getLsbD 31 then -(x.toNat % 2 ^ 31 : Nat) - 1 else x.toNat
/-- A key that orders non-NaN F32 values with -0 equal to +0 (R175). -/
def cmpKey (x : Word) : Int := if x.getLsbD 31 then -(x.toNat % 2 ^ 31 : Nat) else x.toNat

/-- FMIN and FMAX (R171). -/
def f32Pick (max : Bool) (x y : Word) : Word :=
  if isNaN x then (if isNaN y then nanF32 else y)
  else if isNaN y then x
  else if max then (if minKey x < minKey y then y else x)
  else (if minKey y < minKey x then y else x)

/-! ### Roots and reciprocals (R172) -/

/-- One bit of the integer square root: `r` is the root so far, bits `b` and below are still to be tried. -/
def sqrtBits (n : Nat) : Nat → Nat → Nat
  | 0, r => r
  | b + 1, r => let t := r + 2 ^ b; sqrtBits n b (if t * t ≤ n then t else r)

/-- floor(√n). -/
def isqrt (n : Nat) : Nat := sqrtBits n (Nat.log2 n / 2 + 1) 0

/-- FRCP. -/
def f32Rcp (x : Word) : Word :=
  match f32Val x with
  | .nan => nanF32
  | .inf neg => if neg then 0x80000000 else 0
  | .fin neg m e =>
    if m = 0 then (if neg then 0xFF800000 else 0x7F800000)
    else f32Pack 0 neg (2 ^ 80 % m != 0) (2 ^ 80 / m) (-80 - e)

/-- FSQRT. -/
def f32Sqrt (x : Word) : Word :=
  match f32Val x with
  | .nan => nanF32
  | .inf neg => if neg then nanF32 else 0x7F800000
  | .fin neg m e =>
    if m = 0 then x
    else if neg then nanF32
    else
      let h := (e - 60) / 2
      let n := m * 2 ^ (e - 2 * h).toNat
      let r := isqrt n
      f32Pack 0 false (r * r != n) r h

/-- FRSQ: 2^s / √m taken as the root of 2^(2s) / m. -/
def f32Rsq (x : Word) : Word :=
  match f32Val x with
  | .nan => nanF32
  | .inf neg => if neg then nanF32 else 0
  | .fin neg m e =>
    if m = 0 then (if neg then 0xFF800000 else 0x7F800000)
    else if neg then nanF32
    else
      let m' := if e % 2 = 0 then m else 2 * m
      let e' := if e % 2 = 0 then e else e - 1
      let r := isqrt (2 ^ 120 / m')
      f32Pack 0 false (r * r * m' != 2 ^ 120) r (-60 - e' / 2)

/-! ### Conversions (R174) -/

/-- A value rounded to an integer under a code; infinities have none. -/
def roundToInt (mode : Nat) (neg : Bool) (m : Nat) (e : Int) : Int :=
  signed neg (if e ≥ 0 then m * 2 ^ e.toNat else roundInt mode neg false m (-e).toNat)

/-- CVTFI and CVTFN: clamp to lo..hi; the second part sets SAT. -/
def f32ToInt (mode : Nat) (lo hi : Int) (x : Word) : Word × Bool :=
  match f32Val x with
  | .nan => (0, true)
  | .inf neg => (BitVec.ofInt 32 (if neg then lo else hi), true)
  | .fin neg m e =>
    let v := roundToInt mode neg m e
    if v < lo then (BitVec.ofInt 32 lo, true)
    else if v > hi then (BitVec.ofInt 32 hi, true)
    else (BitVec.ofInt 32 v, false)

end Sys2Proof.Machine
end

