-- ==== Sys2Proof/Machine/CrossLane.lean ====
section
/-!
DEFINITION. Instructions that read other lanes (R163, R178-R180), special values, uniform moves and RNG
(R181-R183).
-/

namespace Sys2Proof.Machine

/-- d[i] := op of whole rows in the active lanes: `op` gets the width, the rows a and b, and the lane. -/
def crossLane (f : LR3) (op : Nat → (Nat → Word) → (Nat → Word) → Nat → Word) (s : State) : State :=
  let g := s.group
  s.setGroup (g.setV (g.lane f.w f.d.toNat) (s.active f.g)
    (op s.width (g.vAt (g.lane f.w f.a.toNat)) (g.vAt (g.lane f.w f.b.toNat))))

def wordCross (f : LR3) (op : Nat → (Nat → Word) → (Nat → Word) → Nat → Word) (s : State) : Result :=
  plainWord (f.refs s.group) 1 (crossLane f op) s

/-- SLIDE: lane 0 receives the last lane of b (R178). -/
def xSlide (n : Nat) (a b : Nat → Word) (i : Nat) : Word := if i = 0 then b (n - 1) else a (i - 1)
/-- SLIDEH: half a lane (R178). -/
def xSlideh (n : Nat) (a b : Nat → Word) (i : Nat) : Word := (a i <<< 16) ||| (xSlide n a b i >>> 16)
/-- SLIDEN: lane n - 1 receives lane 0 of b (R178). -/
def xSliden (n : Nat) (a b : Nat → Word) (i : Nat) : Word := if i = n - 1 then b 0 else a (i + 1)
/-- SWAP (R179). -/
def xSwap (n : Nat) (a b : Nat → Word) (i : Nat) : Word :=
  let j := i ^^^ ((b i).toNat % 64)
  if j < n then a j else a i
/-- PERM (R179). -/
def xPerm (n : Nat) (a b : Nat → Word) (i : Nat) : Word :=
  let j := (b i).toNat % 64
  if j < n then a j else 0

def execSlide (f : LR3) (s : State) : Result := wordCross f xSlide s
def execSlideh (f : LR3) (s : State) : Result := wordCross f xSlideh s
def execSliden (f : LR3) (s : State) : Result := wordCross f xSliden s
def execSwap (f : LR3) (s : State) : Result := wordCross f xSwap s
def execPerm (f : LR3) (s : State) : Result := wordCross f xPerm s

/-- BCAST (R179). -/
def effBcast (f : LCode) (s : State) : State :=
  let g := s.group
  s.setGroup (g.setV (g.lane f.w f.d.toNat) (s.active f.g) fun _ => g.vAt (g.lane f.w f.a.toNat) f.c.toNat)

/-- A lane code of 48 or more fails check 2, one of 16 or more on an Oasis core check 3 (R35, R41). -/
def execBcast (f : LCode) (s : State) : Result :=
  runWord (f.c.toNat < s.width) true (f.refs s.group) (fun s => advance 1 (effBcast f s)) s

/-! ### Reductions (R159, R160, R180) -/

/-- One level of the tree: neighbours combined. -/
def pairUp (op : Word → Word → Word) : List Word → List Word
  | x :: y :: r => op x y :: pairUp op r
  | r => r

/-- The fixed tree: halve while more than three values stand (48 lanes), then left to right. -/
def treeReduce (op : Word → Word → Word) : Nat → List Word → Word
  | 0, l => l.headD 0
  | k + 1, l => match l with
    | [] => 0
    | [x] => x
    | [x, y, z] => op (op x y) z
    | l => treeReduce op k (pairUp op l)

/-- The lane values of a reduction: inactive lanes at the identity. -/
def reduceInputs (n : Nat) (m : Lanes) (ident : Word) (a : Nat → Word) : List Word :=
  (List.range n).map fun l => if laneIn m l then a l else ident

/-- The one result of a reduction, to every active lane. -/
def effReduce (f : LR2) (op : Word → Word → Word) (ident : Word) (s : State) : State :=
  let g := s.group
  let m := s.active f.g
  let r := treeReduce op 8 (reduceInputs s.width m ident (g.vAt (g.lane f.w f.a.toNat)))
  s.setGroup (g.setV (g.lane f.w f.d.toNat) m fun _ => r)

/-- The serial sums from a running value on (R160): the first lane's sum is its own value. -/
def scanFrom (acc : Word) : List Word → List Word
  | [] => []
  | x :: r => f32Add acc x :: scanFrom (f32Add acc x) r

/-- SCAN: y_0 := x_0, bit for bit, also where x_0 is a NaN (log entry 81). -/
def scanSums : List Word → List Word
  | [] => []
  | x :: r => x :: scanFrom x r

def effScan (f : LR2) (s : State) : State :=
  let g := s.group
  let m := s.active f.g
  let ys := scanSums (reduceInputs s.width m 0 (g.vAt (g.lane f.w f.a.toNat)))
  s.setGroup (g.setV (g.lane f.w f.d.toNat) m fun l => ys.getD l 0)

def wordReduce (f : LR2) (op : Word → Word → Word) (ident : Word) (s : State) : Result :=
  plainWord (f.refs s.group) 1 (effReduce f op ident) s

def execRedsum (f : LR2) (s : State) : Result := wordReduce f f32Add 0 s
def execRediadd (f : LR2) (s : State) : Result := wordReduce f (· + ·) 0 s
def execRedmax (f : LR2) (s : State) : Result := wordReduce f (f32Pick true) 0xFF800000 s
def execRedmin (f : LR2) (s : State) : Result := wordReduce f (f32Pick false) 0x7F800000 s
def execScan (f : LR2) (s : State) : Result := plainWord (f.refs s.group) 1 (effScan f) s

/-! ### Special values (R140, R181) -/

/-- The special value of a code in a lane. -/
def specialValue (s : State) (c l : Nat) : Word :=
  let g := s.group
  match c with
  | 0 => BitVec.ofNat 32 l
  | 1 => BitVec.ofNat 32 g.grpin
  | 2 => BitVec.ofNat 32 s.block.blk
  | 3 => BitVec.ofNat 32 s.grid.nblk
  | 4 => BitVec.ofNat 32 (coreNum s.sel.core)
  | 5 => BitVec.ofNat 32 (dieOf s.sel.core)
  | 6 => s.id.pkg.setWidth 32
  | 7 => BitVec.ofNat 32 s.sel.slot
  | 8 => (s.dieAt (dieOf s.sel.core)).clk.setWidth 32
  | 9 => g.status l
  | _ => BitVec.ofNat 32 g.vid

/-- MOVS. -/
def effMovs (f : LSpec) (s : State) : State :=
  let g := s.group
  s.setGroup (g.setV (g.lane f.w f.d.toNat) (s.active f.g) (specialValue s f.c.toNat))

def execMovs (f : LSpec) (s : State) : Result := plainWord (f.refs s.group) 1 (effMovs f) s

/-- MOVU: S[n] with n = a + 64 w, d always relative to X0 (R182). -/
def effMovu (f : LR2) (s : State) : State :=
  let g := s.group
  s.setGroup (g.setV (g.lane 0 f.d.toNat) (s.active f.g) fun _ =>
    (g.sAt (f.a.toNat + 64 * f.w.toNat)).setWidth 32)

def execMovu (f : LR2) (s : State) : Result :=
  plainWord [laneRef s.group 0 f.d.toNat] 1 (effMovu f) s

/-! ### RNG (R183) -/

/-- One round of Philox-4×32 on a counter. -/
def philoxRound (c : Word × Word × Word × Word) (k0 k1 : Word) : Word × Word × Word × Word :=
  let (c0, c1, c2, c3) := c
  let p := 0xD2511F53 * c0.toNat
  let q := 0xCD9E8D57 * c2.toNat
  (BitVec.ofNat 32 (q / 2 ^ 32) ^^^ c1 ^^^ k0, BitVec.ofNat 32 q,
   BitVec.ofNat 32 (p / 2 ^ 32) ^^^ c3 ^^^ k1, BitVec.ofNat 32 p)

/-- The rounds that remain, the key advanced after each. -/
def philoxRounds : Nat → Word × Word × Word × Word → Word → Word → Word × Word × Word × Word
  | 0, c, _, _ => c
  | n + 1, c, k0, k1 => philoxRounds n (philoxRound c k0 k1) (k0 + 0x9E3779B9) (k1 + 0xBB67AE85)

/-- Ten rounds, in one lane. -/
def philox (g : Group) (a b l : Nat) : Word × Word × Word × Word :=
  philoxRounds 10 (g.vAt a l, g.vAt (a + 1) l, g.vAt (a + 2) l, g.vAt (a + 3) l) (g.vAt b l) (g.vAt (b + 1) l)

def effRng (f : LR3) (s : State) : State :=
  let g := s.group
  let m := s.active f.g
  let d := g.lane f.w f.d.toNat
  let r (l : Nat) := philox g (g.lane f.w f.a.toNat) (g.lane f.w f.b.toNat) l
  s.setGroup ((((g.setV d m fun l => (r l).1).setV (d + 1) m fun l => (r l).2.1).setV (d + 2) m
    fun l => (r l).2.2.1).setV (d + 3) m fun l => (r l).2.2.2)

/-- RNG's registers: d to d+3, a to a+3, b and b+1, in field order (R27, R183). -/
def rngRefs (f : LR3) (g : Group) : List RegRef :=
  [laneRef g f.w f.d.toNat 4, laneRef g f.w f.a.toNat 4, laneRef g f.w f.b.toNat 2]

def execRng (f : LR3) (s : State) : Result := plainWord (rngRefs f s.group) 1 (effRng f) s

end Sys2Proof.Machine
end

