-- ==== Sys2Proof/Machine/Trans.lean ====
section
/-!
DEFINITION. FEXP2, FLOG2, FSIN and FCOS (R172), correctly rounded. An exact value is enclosed between two
integers over 2^n; when both ends round to one F32 value, that is the result; otherwise n doubles. Every
non-exact case is irrational, so some n decides it; log entry 11 says what stands behind the last n tried.
-/

namespace Sys2Proof.Machine

/-- An enclosure: lower and upper ends over 2^n. -/
abbrev Ival := Int × Int

/-- Round-to-nearest F32 of a signed integer over 2^n. -/
def f32Scaled (v : Int) (n : Int) : Word := f32Pack 0 (decide (v < 0)) false v.natAbs (-n)

/-- The terms of Σ t_j, where t_{j+1} = t_j × x / (2^n d_j): truncated series of a value 0 ≤ x ≤ 2^n.
Each term is rounded down; the error of the sum is below (terms + 1) units. -/
def seriesTerms (n : Nat) (x : Nat) : Nat → Nat → Nat → List Nat
  | 0, _, _ => []
  | k + 1, j, t => t :: seriesTerms n x k (j + 1) (t * x / (2 ^ n * (j + 1)))

/-- exp(x / 2^n) × 2^n for 0 ≤ x < 2^n, enclosed: `k` terms, of which the tail is below one unit. -/
def expIval (n x : Nat) : Ival :=
  let k := n + 8
  let lo : Nat := (seriesTerms n x k 0 (2 ^ n)).sum
  (lo, lo + 4 * k + 4)

/-- atanh(1/d) × 2^n: Σ 1 / ((2j+1) d^(2j+1)). -/
def atanhTerms (n d : Nat) : Nat → Nat → Nat → Nat
  | 0, _, _ => 0
  | k + 1, j, p => p / (2 * j + 1) + atanhTerms n d k (j + 1) (p / (d * d))

/-- Alternating partner: arctan(1/d) × 2^n, as an integer sum. -/
def atanTerms (n d : Nat) : Nat → Nat → Nat → Int
  | 0, _, _ => 0
  | k + 1, j, p => signed (j % 2 == 1) (p / (2 * j + 1)) + atanTerms n d k (j + 1) (p / (d * d))

/-- ln 2 × 2^n = 2 atanh(1/3), enclosed. -/
def ln2Ival (n : Nat) : Ival :=
  let v : Nat := 2 * atanhTerms n 3 (n + 4) 0 (2 ^ n / 3)
  (v, v + 8 * (n + 8))

/-- π × 2^n = 16 arctan(1/5) - 4 arctan(1/239), enclosed. -/
def piIval (n : Nat) : Ival :=
  let v := 16 * atanTerms n 5 (n + 4) 0 (2 ^ n / 5) - 4 * atanTerms n 239 (n + 4) 0 (2 ^ n / 239)
  (v - 64 * (n + 8), v + 64 * (n + 8))

/-- Try enclosures over 2^n of growing n until both ends round to one F32 value; past the last, whose ends lie
closer than any F32 operand brings a value to a rounding boundary, the rounding of the lower end (log entry 11). -/
def decideIval (f : Nat → Ival) : Nat → Nat → Word
  | 0, n => f32Scaled (f n).1 n
  | fuel + 1, n =>
    let (lo, hi) := f n
    if decide (0 < lo) == decide (0 < hi) && f32Scaled lo n == f32Scaled hi n && lo != 0 && hi != 0 then
      f32Scaled lo n
    else decideIval f fuel (2 * n)

/-- 2^x for x = k + r, 0 < r < 1, r = fr / 2^149: e^(r ln 2), scaled by 2^k with k = `up` - 200. -/
def exp2Ival (fr up n : Nat) : Ival :=
  let m := n + 200
  let (l2, h2) := ln2Ival m
  let r : Nat := fr * 2 ^ m / 2 ^ 149
  let (lo, _) := expIval m (l2.toNat * r / 2 ^ m)
  let (_, hi) := expIval m (h2.toNat * (r + 1) / 2 ^ m + 1)
  (lo * 2 ^ up / 2 ^ 400, hi * 2 ^ up / 2 ^ 400 + 1)

/-- FEXP2 (R172): for a non-integer x, the fraction over 2^149 decides r exactly. -/
def f32Exp2 (x : Word) : Word :=
  match f32Val x with
  | .nan => nanF32
  | .inf neg => if neg then 0 else 0x7F800000
  | .fin neg m e =>
    let v : Int := signed neg m * 2 ^ (e + 149).toNat
    if v ≥ 128 * 2 ^ 149 then 0x7F800000
    else if v ≤ -150 * 2 ^ 149 then 0
    else
      let k := v / 2 ^ 149
      let fr := (v % 2 ^ 149).toNat
      if fr = 0 then f32Pack 0 false false 1 k
      else decideIval (exp2Ival fr (k + 200).toNat) 7 256

/-- ln(u) × 2^n for u = m / 2^b in [1, 2): 2 atanh((u - 1) / (u + 1)). -/
def lnTerms (n y2 : Nat) : Nat → Nat → Nat → Nat
  | 0, _, _ => 0
  | k + 1, j, p => p / (2 * j + 1) + lnTerms n y2 k (j + 1) (p * y2 / 2 ^ n)

/-- log2 of m × 2^e with m not a power of two, times 2^n: c + ln u / ln 2. -/
def log2Ival (m : Nat) (e : Int) (n : Nat) : Ival :=
  let b := Nat.log2 m
  let g := n + 32
  let num := (m - 2 ^ b) * 2 ^ g
  let den := m + 2 ^ b
  let ylo := num / den
  let yhi := ylo + 1
  let lo := 2 * lnTerms g (ylo * ylo / 2 ^ g) g 0 ylo
  let hi := 2 * lnTerms g (yhi * yhi / 2 ^ g + 1) g 0 yhi + 8 * (g + 8)
  let (l2, h2) := ln2Ival g
  let c : Int := (e + b) * 2 ^ n
  (c + (lo : Int) * 2 ^ n / h2, c + (hi : Int) * 2 ^ n / l2 + 1)

/-- FLOG2 (R172). -/
def f32Log2 (x : Word) : Word :=
  match f32Val x with
  | .nan => nanF32
  | .inf neg => if neg then nanF32 else 0x7F800000
  | .fin neg m e =>
    if m = 0 then 0xFF800000
    else if neg then nanF32
    else if m = 2 ^ Nat.log2 m then f32Of 0 (intVal (e + (Nat.log2 m : Int)))
    else decideIval (log2Ival m e) 7 128

/-- Alternating series of sin (odd) or cos (even) at t / 2^n, 0 ≤ t ≤ 2^n: terms from `j` on. -/
def trigTerms (n t2 : Nat) : Nat → Nat → Nat → Int
  | 0, _, _ => 0
  | k + 1, j, p => (p : Int) - trigTerms n t2 k (j + 2) (p * t2 / (2 ^ n * ((j + 1) * (j + 2))))

/-- sin or cos of 0 ≤ t / 2^n ≤ 1, enclosed. -/
def trigIval (cosine : Bool) (n t : Nat) : Ival :=
  let t2 := t * t / 2 ^ n
  let v := if cosine then trigTerms n t2 (n + 2) 0 (2 ^ n) else trigTerms n t2 (n + 2) 1 t
  (v - 8 * (n + 8), v + 8 * (n + 8))

/-- sin or cos of |x| = m × 2^e: reduced by multiples of π/2 to within π/4, where the argument is below 1. -/
def sinCosIval (cosine : Bool) (m : Nat) (e : Int) (n : Nat) : Ival :=
  let g := n + 300
  let (plo, phi) := piIval (g + 150)
  -- the argument over 2^g, and the quotient by π/2
  let a : Int := if e ≥ 0 then m * 2 ^ (e.toNat + g) else m * 2 ^ g / 2 ^ (-e).toNat
  let q : Int := (4 * a * 2 ^ 150 / plo + 1) / 2
  let rlo := a - q * phi / 2 ^ 151 - 2
  let rhi := a + 1 - q * plo / 2 ^ 151 + 2
  let quad := (q + (if cosine then 1 else 0)) % 4
  let useCos := quad % 2 = 1
  let flip := quad ≥ 2
  let neg := decide (rlo < 0)
  let lo := rlo.natAbs
  let hi := rhi.natAbs
  let (u, v) := if lo ≤ hi then (lo, hi) else (hi, lo)
  -- on [0, 1] sin rises and cos falls
  let (l, h) := if useCos then ((trigIval true g v).1, (trigIval true g u).2)
    else ((trigIval false g u).1, (trigIval false g v).2)
  let odd := neg && !useCos
  let (l, h) := if odd != flip then (-h, -l) else (l, h)
  (l / 2 ^ 300, h / 2 ^ 300 + 1)

/-- FSIN and FCOS (R172): the argument is reduced exactly. -/
def f32SinCos (cosine : Bool) (x : Word) : Word :=
  match f32Val x with
  | .nan => nanF32
  | .inf _ => nanF32
  | .fin neg m e =>
    if m = 0 then (if cosine then 0x3F800000 else x)
    else
      let r := decideIval (sinCosIval cosine m e) 5 256
      if neg && !cosine then r ^^^ 0x80000000 else r

end Sys2Proof.Machine
end

