-- ==== Sys2Proof/Machine/FloatLane.lean ====
section
/-!
DEFINITION. The floating-point lane instructions and the conversions (R170-R174).
-/

namespace Sys2Proof.Machine

def fFadd (x y _z : Word) : Word := f32Add x y
/-- As FADD of x and -y (R170). -/
def fFsub (x y _z : Word) : Word := f32Of 0 (exAdd (f32Val x) (exNeg (f32Val y)))
def fFmul (x y _z : Word) : Word := f32Mul x y
def fFfma (x y z : Word) : Word := f32Fma x y z
def fFmin (x y _z : Word) : Word := f32Pick false x y
def fFmax (x y _z : Word) : Word := f32Pick true x y
/-- The canonical NaN for a NaN (R171). -/
def fFneg (x : Word) : Word := if isNaN x then nanF32 else x ^^^ 0x80000000
def fFabs (x : Word) : Word := if isNaN x then nanF32 else x &&& 0x7FFFFFFF
def fFrcp (x : Word) : Word := f32Rcp x
def fFrsq (x : Word) : Word := f32Rsq x
def fFsqrt (x : Word) : Word := f32Sqrt x
def fFexp2 (x : Word) : Word := f32Exp2 x
def fFlog2 (x : Word) : Word := f32Log2 x
def fFsin (x : Word) : Word := f32SinCos false x
def fFcos (x : Word) : Word := f32SinCos true x

/-- Element i of a packed BF16 register (R173). -/
def bfElem (x : Word) (i : Nat) : FVal := bf16Val (x.extractLsb' (16 * i) 16)
/-- One rounding to BF16 of each element. -/
def bfPair (v : Nat → FVal) : Word := (bf16Of 0 (v 1) ++ bf16Of 0 (v 0) : BitVec 32)
def fBfma2 (x y z : Word) : Word := bfPair fun i => exAdd (exMul (bfElem x i) (bfElem y i)) (bfElem z i)
def fBadd2 (x y _z : Word) : Word := bfPair fun i => exAdd (bfElem x i) (bfElem y i)
def fBmul2 (x y _z : Word) : Word := bfPair fun i => exMul (bfElem x i) (bfElem y i)

/-! ### Conversions: a rounding code and a source give a result and whether SAT is set (R174) -/

def fCvtfi (c : Nat) (x : Word) : Word × Bool := f32ToInt c (-(2 ^ 31)) (2 ^ 31 - 1) x
def fCvtif (c : Nat) (x : Word) : Word × Bool := (f32Of c (intVal x.toInt), false)
def fCvtnf (c : Nat) (x : Word) : Word × Bool := (f32Of c (intVal x.toNat), false)
def fCvtfn (c : Nat) (x : Word) : Word × Bool := f32ToInt c 0 (2 ^ 32 - 1) x
def fCvtbf (_c : Nat) (x : Word) : Word × Bool := (f32Of 0 (bf16Val (x.extractLsb' 0 16)), false)
def fCvtfb (c : Nat) (x : Word) : Word × Bool := ((bf16Of c (f32Val x)).setWidth 32, false)
def fCvtef (_c : Nat) (x : Word) : Word × Bool := (f32Of 0 (e4m3Val (x.extractLsb' 0 8)), false)
def fCvtfe (c : Nat) (x : Word) : Word × Bool :=
  ((e4m3Of c (f32Val x)).1.setWidth 32, (e4m3Of c (f32Val x)).2)

/-- A unary word with a rounding code. -/
def laneCode (f : LCode) (op : Nat → Word → Word × Bool) (s : State) : State :=
  let g := s.group
  let r (l : Nat) := op f.c.toNat (g.vAt (g.lane f.w f.a.toNat) l)
  s.setGroup ((g.setV (g.lane f.w f.d.toNat) (s.active f.g) fun l => (r l).1).setSat
    (satLanes (s.active f.g) fun l => (r l).2))

/-- A conversion. -/
def wordCode (f : LCode) (op : Nat → Word → Word × Bool) (s : State) : Result :=
  plainWord (f.refs s.group) 1 (laneCode f op) s

def execFadd (f : LR3) (s : State) : Result := word3 f fFadd s
def execFsub (f : LR3) (s : State) : Result := word3 f fFsub s
def execFmul (f : LR3) (s : State) : Result := word3 f fFmul s
def execFfma (f : LR3) (s : State) : Result := word3 f fFfma s
def execFmin (f : LR3) (s : State) : Result := word3 f fFmin s
def execFmax (f : LR3) (s : State) : Result := word3 f fFmax s
def execFneg (f : LR2) (s : State) : Result := word2 f fFneg s
def execFabs (f : LR2) (s : State) : Result := word2 f fFabs s
def execFrcp (f : LR2) (s : State) : Result := word2 f fFrcp s
def execFrsq (f : LR2) (s : State) : Result := word2 f fFrsq s
def execFsqrt (f : LR2) (s : State) : Result := word2 f fFsqrt s
def execFexp2 (f : LR2) (s : State) : Result := word2 f fFexp2 s
def execFlog2 (f : LR2) (s : State) : Result := word2 f fFlog2 s
def execFsin (f : LR2) (s : State) : Result := word2 f fFsin s
def execFcos (f : LR2) (s : State) : Result := word2 f fFcos s
def execBfma2 (f : LR3) (s : State) : Result := word3 f fBfma2 s
def execBadd2 (f : LR3) (s : State) : Result := word3 f fBadd2 s
def execBmul2 (f : LR3) (s : State) : Result := word3 f fBmul2 s
def execCvtfi (f : LCode) (s : State) : Result := wordCode f fCvtfi s
def execCvtif (f : LCode) (s : State) : Result := wordCode f fCvtif s
def execCvtnf (f : LCode) (s : State) : Result := wordCode f fCvtnf s
def execCvtfn (f : LCode) (s : State) : Result := wordCode f fCvtfn s
def execCvtbf (f : LCode) (s : State) : Result := wordCode f fCvtbf s
def execCvtfb (f : LCode) (s : State) : Result := wordCode f fCvtfb s
def execCvtef (f : LCode) (s : State) : Result := wordCode f fCvtef s
def execCvtfe (f : LCode) (s : State) : Result := wordCode f fCvtfe s

end Sys2Proof.Machine
end

