-- ==== Sys2Proof/Machine/Mem.lean ====
section
/-!
DEFINITION. Device memory and its versions (R47-R49, R71-R81): bytes at VID 0, versioned copies of lines, the
view a version has of a line, settling, and the spill area.
-/

namespace Sys2Proof.Machine

/-! ### The version table (R73, R74) -/

/-- A version table entry; VID 0 reads as zeros. -/
def State.ver (s : State) (v : Nat) : Version := mapGet {} s.vers.tab v
def State.setVer (s : State) (v : Nat) (x : Version) : State :=
  { s with vers := { s.vers with tab := mapSet s.vers.tab v x } }
/-- Live or closed. -/
def Version.open_ (x : Version) : Bool := x.st == .live || x.st == .closed
/-- PARENT, with a committed parent taken as the root (R81). -/
def State.parentOf (s : State) (v : Nat) : Nat :=
  let p := (s.ver v).parent
  if (s.ver p).st == .committed then 0 else p
/-- `v` and its ancestors up to the root, nearest first. -/
def State.lineage (s : State) : Nat → Nat → List Nat
  | 0, _ => []
  | n + 1, v => if v = 0 ∨ (s.ver v).st == .committed then [] else v :: State.lineage s n (s.ver v).parent
/-- `v`'s ancestors, itself included. -/
def State.ancestors (s : State) (v : Nat) : List Nat := s.lineage 256 v
/-- Whether `v` is `u` or a descendant of it. -/
def State.within (s : State) (u v : Nat) : Bool := (s.ancestors v).contains u
/-- Later in mod-2^16 order. -/
def later16 (a b : BitVec 16) : Bool := 0 < (a - b).toNat && (a - b).toNat < 32768
/-- (x - y) mod 2^16 lies below 2^15. -/
def atOrAfter (x y : BitVec 16) : Bool := (x - y).toNat < 32768

/-! ### Lines (R71, R72) -/

/-- Line address of a physical address. -/
def lineOf (pa : Nat) : Nat := pa / 128
/-- Home slice of a line. -/
def sliceOf (l : Nat) : Nat := ((l % 2 ^ 19) ^^^ (l / 2 ^ 19 % 2 ^ 19)) % 96
/-- Set of a line. -/
def setOf (l : Nat) : Nat := (l % 1024) ^^^ (l / 1024 % 1024)
/-- Home die of a physical address: the die of its stack (R47). -/
def homeDie (pa : Nat) : Nat :=
  let st := pa / 2 ^ 41
  if st ≤ 3 ∨ st = 8 then 0 else 1
/-- The versioned copy of a line. -/
def State.copyOf (s : State) (l v : Nat) : Option LineCopy := s.copies.find? fun c => c.line = l && c.vid = v
/-- Bytes of a VID 0 line, by offset. -/
def State.rootLine (s : State) (l : Nat) : Map Byte :=
  (atAddr 0 (memBytes s.mem (128 * l) 128)).filter fun c => c.2 != blankByte

/-! ### The spill area (R78-R80) -/

def State.spillBuckets (s : State) : Nat := 2 ^ (s.vers.vslog.toNat - 12)
/-- First bucket of a copy (R79). -/
def State.spillHome (s : State) (l v : Nat) : Nat :=
  ((l % 2 ^ 24) ^^^ (l / 2 ^ 24 % 2 ^ 14) ^^^ (v * 2 ^ 16)) % s.spillBuckets
/-- Slots in use, numbered 30 × bucket + slot. -/
def State.spillUsed (s : State) : List Nat := s.copies.filterMap (·.spilled)
/-- VSFREE (R78). -/
def State.vsfree (s : State) : Nat := 30 * s.spillBuckets - s.spillUsed.length
/-- FULL (R80). -/
def State.spillFull (s : State) : Bool := s.vsfree ≤ s.vers.vsres.toNat
/-- The first free slot among the eight buckets (R79); the area has none before VSEN enables it (R78; log entry 83). -/
def State.spillSlot (s : State) (l v : Nat) : Option Nat :=
  let b := s.spillHome l v
  if !s.vers.vsen then none
  else ((List.range 8).flatMap fun i => (List.range 30).map fun j => 30 * ((b + i) % s.spillBuckets) + j).find?
    fun k => !s.spillUsed.contains k
/-- Physical addresses of a slot's tag and line (R79). -/
def State.spillTag (s : State) (k : Nat) : Nat := s.vers.vsbase.toNat + 4096 * (k / 30) + 8 * (k % 30)
def State.spillLine (s : State) (k : Nat) : Nat := s.vers.vsbase.toNat + 4096 * (k / 30) + 256 + 128 * (k % 30)
/-- A tag word (R79). -/
def spillTagWord (l v : Nat) : Nat := l % 2 ^ 38 + 2 ^ 38 * v + 2 ^ 46

/-- Move a copy out to a slot: its tag and its line are written there. -/
def spillOut (c : LineCopy) (k : Nat) (s : State) : State :=
  let m1 := memSetNat s.mem (s.spillTag k) 8 (spillTagWord c.line c.vid)
  let m2 := memSetAll m1 (atAddr (s.spillLine k) ((List.range 128).map fun i => memGet c.bytes i))
  { s with mem := m2,
           copies := s.copies.map fun d => if d.line = c.line ∧ d.vid = c.vid then { d with spilled := some k } else d }

/-- Free the slot of a spilled copy: its tag is cleared. -/
def freeSlot (k : Option Nat) (s : State) : State :=
  match k with
  | none => s
  | some k => { s with mem := memSetNat s.mem (s.spillTag k) 8 0 }

/-- Drop the copies that `p` holds of, freeing their slots and their ways. -/
def dropCopies (p : LineCopy → Bool) (s : State) : State :=
  let t := (s.copies.filter p).foldl (fun t c => freeSlot c.spilled t) s
  let kept := t.copies.filter fun c => !p c
  { t with copies := kept,
           l2 := t.l2.filter fun e => e.vid = 0 || kept.any fun c => c.line = e.line && c.vid = e.vid }

/-! ### The sets of a slice (R71, R72) -/

/-- The die of the pod, by ι, whose slice holds a line and performs its accesses: its home die, or the owner it has
migrated to (R218); an access that the home forwards is performed in the same step (log entry 82). -/
def State.ownerOf (s : State) (l : Nat) : Nat :=
  ((s.dieAt (homeDie (128 * l))).migrated.find? fun m => m.1 = l).elim (s.iota (homeDie (128 * l))) (·.2)
/-- Another package owns the line: no slice here holds it. -/
def State.ownedFar (s : State) (l : Nat) : Bool := s.ownerOf l / 2 != s.id.pkg.toNat
/-- The slice where a line's accesses are performed. -/
def State.sliceKey (s : State) (l : Nat) : Nat := 100 * s.ownerOf l + sliceOf l
/-- Two lines of one set of one slice. -/
def State.sameSet (s : State) (a b : Nat) : Bool :=
  s.ownerOf a = s.ownerOf b && sliceOf a = sliceOf b && setOf a = setOf b
/-- The lines that stand in the set of a line, most recently used first. -/
def State.l2Set (s : State) (l : Nat) : List L2Line := s.l2.filter fun e => s.sameSet e.line l
/-- The line of a VID, if it stands in the L2. -/
def State.l2At (s : State) (l v : Nat) : Option L2Line := s.l2.find? fun e => e.line = l && e.vid = v

/-- Place of a line's class in the choice of victims: streaming, normal, persistent. -/
def L2Line.rank (e : L2Line) : Nat := if e.cls = 1 then 0 else if e.cls = 3 then 2 else 1
/-- Lines of a set in the order in which they are victims: by class, then least recently used first. -/
def victims (es : List L2Line) : List L2Line :=
  let r := es.reverse
  r.filter (fun e => e.rank = 0) ++ r.filter (fun e => e.rank = 1) ++ r.filter fun e => e.rank = 2

/-- The line can leave its set: a versioned copy needs a slot of the spill area (R79). -/
def State.canLeave (s : State) (e : L2Line) : Bool := e.vid = 0 || (s.spillSlot e.line e.vid).isSome

/-- The lines of which one must leave before one of version `v` comes in, first victim first: the versioned copies before a
ninth, least recently used first (R72), else all of a full set. -/
def State.l2Victims (s : State) (l v : Nat) : List L2Line :=
  let es := s.l2Set l
  let vs := es.filter fun e => e.vid ≠ 0
  if v ≠ 0 ∧ 8 ≤ vs.length then vs.reverse else if 16 ≤ es.length then victims es else []
/-- The line that must leave. -/
def State.l2Victim (s : State) (l v : Nat) : Option L2Line := (s.l2Victims l v).head?

/-- A line leaves its set: a VID 0 line's dirty bytes are in memory already; a versioned copy goes to its slot. -/
def l2Leave (e : L2Line) (s : State) : State :=
  let t := { s with l2 := s.l2.filter fun x => !(decide (x.line = e.line) && decide (x.vid = e.vid)) }
  if e.vid = 0 then t
  else match t.copyOf e.line e.vid, t.spillSlot e.line e.vid with
    | some c, some k => spillOut c k t
    | _, _ => t

/-- A line comes into its set, or becomes the most recently used. Where the victim cannot leave, a load takes the next
one that can (log entry 65); a store does not come here then (R80). -/
def l2Take (e : L2Line) (s : State) : State :=
  if s.ownedFar e.line then s
  else
  let t := if (s.l2At e.line e.vid).isSome then s
    else match s.l2Victim e.line e.vid with
      | none => s
      | some x => if s.canLeave x then l2Leave x s
        else match (s.l2Victims e.line e.vid).find? s.canLeave with
          | some y => l2Leave y s
          | none => s
  { t with l2 := e :: t.l2.filter fun x => !(decide (x.line = e.line) && decide (x.vid = e.vid)) }

/-! ### Migrated lines (R218) -/

/-- A line has a new owner: what the L2 held of it leaves its set and comes into the owner's, or leaves the package with
its spilled copies. -/
def rehome (l : Nat) (s : State) : State :=
  let es := s.l2.filter fun e => e.line = l
  let s := { s with l2 := s.l2.filter fun e => e.line != l }
  if s.ownedFar l then
    let t := (s.copies.filter fun c => c.line = l).foldl (fun t c => freeSlot c.spilled t) s
    { t with copies := t.copies.map fun c => if c.line = l then { c with spilled := none } else c }
  else es.foldr l2Take s

/-- A die of the pod becomes the owner of a line; its home die recalls it. -/
def giveLine (l owner : Nat) (s : State) : State :=
  let d := homeDie (128 * l)
  rehome l (s.setDie d { s.dieAt d with migrated := (l, owner) :: (s.dieAt d).migrated.filter fun m => m.1 != l })
def recallLine (l : Nat) (s : State) : State :=
  let d := homeDie (128 * l)
  let far := s.ownedFar l
  let s := rehome l (s.setDie d { s.dieAt d with migrated := (s.dieAt d).migrated.filter fun m => m.1 != l })
  if far then (s.copies.filter fun c => c.line = l).foldr (fun c t =>
    l2Take { line := l, vid := c.vid, valid := 15, dirty := BitVec.allOnes 128 } t) s
  else s

/-! ### Settling (R76) and the view of a version (R75) -/

/-- The package as the home die of a line sees its versions: a die that has not taken the last RESOLVE's table step yet
still holds the earlier states of the entries that the step changed (R73, R81, R252; log entry 9). -/
def State.seenAt (s : State) (l : Nat) : State :=
  match s.vers.lag with
  | none => s
  | some (d, old) =>
    if homeDie (128 * l) = d then
      { s with vers := { s.vers with tab := old.foldl (fun m e => mapSet m e.1 { mapGet {} m e.1 with st := e.2 }) s.vers.tab } }
    else s

/-- The committed copy with the greatest CSTAMP. -/
def State.newestCommitted (s : State) (l : Nat) : Option LineCopy :=
  (s.copies.filter fun c => c.line = l && ((s.seenAt l).ver c.vid).st == .committed).foldl
    (fun best c => match best with
      | none => some c
      | some b => if later16 (s.ver c.vid).cstamp (s.ver b.vid).cstamp then some c else best) none

/-- settle(λ). -/
def settle (l : Nat) (s : State) : State :=
  match s.newestCommitted l with
  | none => s
  | some c =>
    let t := { s with mem := memSetAll s.mem (atAddr (128 * l) ((List.range 128).map fun i => memGet c.bytes i)) }
    let cls := ((s.l2At l c.vid).map (·.cls)).getD 0
    l2Take { line := l, valid := 15, dirty := BitVec.allOnes 128, cls }
      (dropCopies (fun d => decide (d.line = l) && ((s.seenAt l).ver d.vid).st == .committed) t)

/-- The copy an access in version `v` sees, if it is not the root. -/
def State.seenCopy (s : State) (l v : Nat) : Option LineCopy :=
  ((s.seenAt l).ancestors v).findSome? fun u => s.copyOf l u

/-- One byte as version `v` sees it; the line is settled. -/
def State.viewByte (s : State) (v pa : Nat) : Byte :=
  match s.seenCopy (lineOf pa) v with
  | some c => memGet c.bytes (pa % 128)
  | none => memGet s.mem pa

/-- `n` bytes as version `v` sees them. -/
def State.viewBytes (s : State) (v pa : Nat) : Nat → List Byte
  | 0 => []
  | n + 1 => s.viewByte v pa :: State.viewBytes s v (pa + 1) n

/-- Lines of a range of bytes, without repeats. -/
def linesOf (pa n : Nat) : List Nat := (List.range ((pa + n - 1) / 128 - pa / 128 + 1)).map (· + pa / 128)

/-- Settle every line of a range. -/
def settleRange (pa n : Nat) (s : State) : State :=
  if n = 0 then s else (linesOf pa n).foldl (fun t l => settle l t) s

/-! ### Reads at the slice: sectors filled, errors met (R49, R72) -/

/-- Sectors of line `l` that bytes `pa` to `pa + n - 1` name. -/
def sectorsOf (l pa n : Nat) : BitVec 4 :=
  (List.range 4).foldl (fun m i =>
    if pa < 128 * l + 32 * (i + 1) ∧ 128 * l + 32 * i < pa + n then m ||| BitVec.ofNat 4 (2 ^ i) else m) 0

/-- Addresses of the sectors that a read of a line's root must fill: named, and not valid in the L2. -/
def State.toFill (s : State) (l : Nat) (need : BitVec 4) : List Nat :=
  let have_ := ((s.l2At l 0).map (·.valid)).getD 0
  ((List.range 4).filter fun i => need.getLsbD i && !have_.getLsbD i).map fun i => 128 * l + 32 * i

/-- A version's read of a line reaches its root in memory, not a copy. -/
def State.readsRoot (s : State) (v l : Nat) : Bool := (s.seenCopy l v).isNone && (s.newestCommitted l).isNone

/-- The sector at which a version's read of some sectors of a line is uncorrectable. -/
def State.lineFault (s : State) (v l : Nat) (need : BitVec 4) : Option Nat :=
  if s.readsRoot v l then (s.toFill l need).find? fun a => s.badSectors.contains a else none

/-- The same for a range of bytes. -/
def State.readFault (s : State) (v pa n : Nat) : Option Nat :=
  if n = 0 then none else (linesOf pa n).findSome? fun l => s.lineFault v l (sectorsOf l pa n)

/-- Reads of sectors from memory whose error is corrected raise the counter of their stack. -/
def countCorrected (as : List Nat) (s : State) : State :=
  (as.filter fun a => s.weakSectors.contains a).foldl (fun s a =>
    { s with corrected := mapSet s.corrected (a / 2 ^ 41) (mapGet 0 s.corrected (a / 2 ^ 41) + 1) }) s

/-- The class that an access of a policy gives the line it touches (R72). -/
def classOf (policy : BitVec 2) : Nat := if policy = 1 then 1 else if policy = 3 then 3 else 0

/-- A read of a settled line is served: its sectors are filled, and the line or copy it saw is the most recently used,
of the access's class. A spilled copy stays where it is. -/
def noteLine (v l : Nat) (need : BitVec 4) (cls : Nat) (s : State) : State :=
  match s.seenCopy l v with
  | some c => match s.l2At l c.vid with
    | some e => l2Take { e with cls } s
    | none => s
  | none =>
    let e := (s.l2At l 0).getD { line := l }
    l2Take { e with valid := e.valid ||| need, cls } (countCorrected (s.toFill l need) s)

/-- A read of a range is served, line by line. -/
def noteReads (v pa n : Nat) (s : State) : State :=
  if n = 0 then s else (linesOf pa n).foldl (fun t l => noteLine v l (sectorsOf l pa n) 0 (settle l t)) s

/-- Read a range in a version: settle, view, and what the read leaves in the L2. -/
def readView (v pa n : Nat) (s : State) : List Byte × State :=
  ((settleRange pa n s).viewBytes v pa n, noteReads v pa n s)

/-- Read at VID 0 without settling twice: the bytes VID 0 sees now. -/
def State.rootBytes (s : State) (pa n : Nat) : List Byte := (settleRange pa n s).viewBytes 0 pa n
def State.rootNat (s : State) (pa n : Nat) : Nat := leNat (s.rootBytes pa n)

/-- What a store needs before it can be performed (R77-R80). -/
inductive Room where
  | ready
  | full
  | noSlot
deriving DecidableEq, Repr

/-- The youngest live version (R80). -/
def State.youngest (s : State) : Nat :=
  s.vers.tab.foldl (fun b e => if e.2.st == .live ∧
    (b = 0 ∨ (let d := e.2.spawnseq - (s.ver b).spawnseq; 0 < d.toNat ∧ d.toNat < 2 ^ 31)) then e.1 else b) 0

/-- The slot of a version's own spilled copy of a line is freed: the copy is on its way back to the L2 (R79). -/
def unspill (l v : Nat) (s : State) : State :=
  match s.copyOf l v with
  | none => s
  | some c => freeSlot c.spilled { s with copies := s.copies.map fun d =>
      if d.line = l ∧ d.vid = v then { d with spilled := none } else d }

/-- A line of version `v` stands in its set, or can come in: what must leave for it can leave. -/
def State.roomFor (s : State) (l v : Nat) : Bool := (s.l2At l v).isSome || (s.l2Victim l v).all s.canLeave

/-- Whether a store of version `v` to line `l` can be performed now (R80): every line that it brings into the set, the root
that a new copy is read from among them, in the order in which `writeLine` brings them in. -/
def State.storeRoom (s : State) (l v cls : Nat) : Room :=
  if (s.l2At l v).isSome then .ready
  else if v ≠ 0 ∧ (s.copyOf l v).isNone && s.spillFull && v = s.youngest && (s.ver v).st == .live then .full
  else if s.ownedFar l then .ready
  else
    let t := settle l s
    let ok := if v = 0 then t.roomFor l 0
      else if (t.copyOf l v).isSome then (unspill l v t).roomFor l v
      else ((t.seenCopy l v).isSome || t.roomFor l 0) && (noteLine v l 15 cls t).roomFor l v
    if ok then .ready else .noSlot

/-- The bytes of a line that some bytes name. -/
def dirtyOf (bs : List (Nat × Byte)) : BitVec 128 := bs.foldl (fun m b => m ||| BitVec.ofNat 128 (2 ^ (b.1 % 128))) 0

/-- The copy of a settled line that a store of version `v ≠ 0` writes: its own, brought back to the L2, or a new one
made from the whole line as the version sees it (R77). -/
def ownCopy (v l cls : Nat) (s : State) : Map Byte × State :=
  match s.copyOf l v with
  | some c => (c.bytes, unspill l v s)
  | none => (match s.seenCopy l v with
      | some c => c.bytes
      | none => s.rootLine l, noteLine v l 15 cls s)

/-- Write bytes of one line in version `v` (R77): VID 0 in place, its sectors not filled (R72); else in the version's
copy. The line is the most recently used from now on, of the access's class. -/
def writeLine (v l : Nat) (bs : List (Nat × Byte)) (cls : Nat) (s : State) : State :=
  let s := settle l s
  if v = 0 then
    let e := (s.l2At l 0).getD { line := l }
    l2Take { e with dirty := e.dirty ||| dirtyOf bs, cls } { s with mem := memSetAll s.mem bs }
  else
    let (old, s) := ownCopy v l cls s
    let s := l2Take { line := l, vid := v, valid := 15, dirty := BitVec.allOnes 128, cls } s
    let new : LineCopy := { line := l, vid := v, bytes := memSetAll old (bs.map fun c => (c.1 % 128, c.2)) }
    { s with copies := new :: s.copies.filter fun c => !(decide (c.line = l) && decide (c.vid = v)) }

/-- Whether stores of a version to some lines, in this order, can all be performed now. -/
def State.roomLines (v cls : Nat) : List Nat → State → Bool
  | [], _ => true
  | l :: ls, s => s.storeRoom l v cls == .ready && State.roomLines v cls ls (writeLine v l [] cls s)

/-- The sector at which a store of a version to a line is uncorrectable: making a copy reads the whole line (R77). -/
def State.storeFault (s : State) (v l : Nat) : Option Nat :=
  if v = 0 ∨ (s.copyOf l v).isSome then none else s.lineFault v l 15

/-- Write bytes of any lines in a version. -/
def writeView (v : Nat) (bs : List (Nat × Byte)) (s : State) : State :=
  ((bs.map fun c => lineOf c.1).dedup).foldl (fun t l => writeLine v l (bs.filter fun c => lineOf c.1 = l) 0 t) s

/-- Store a number of `n` bytes in a version. -/
def writeNat (v pa n x : Nat) (s : State) : State := writeView v (atAddr pa (leBytes n x)) s

/-! ### Reads past the L2 (R49) -/

/-- The first sector of a range whose read from memory is uncorrectable: table reads of a walker. -/
def State.badSector (s : State) (pa n : Nat) : Option Nat :=
  if n = 0 then none
  else ((List.range ((pa + n - 1) / 32 - pa / 32 + 1)).map (fun i => 32 * (pa / 32 + i))).find?
    fun a => s.badSectors.contains a

end Sys2Proof.Machine
end

