-- ==== Sys2Proof/Machine/Xlate.lean ====
section
/-!
DEFINITION. Translation (R50-R60), leases (R61-R65) and device events (R326-R328): the walk of the inverted
page tables in memory, the translation caches, and the check of an access against a grid's ranges.
-/

namespace Sys2Proof.Machine

/-! ### Events (R326-R328) -/

/-- Master numbers (R326): kinds 0 core lanes, 1 CE0, 2 CE1, 3 network engine, 4 launch engine, 5 walker,
6 relay. -/
def masterNum (kind die core : Nat) : Nat := core + 256 * die + 512 * kind

/-- The die's next sequence number of a source. -/
def bumpSeq (d src : Nat) (s : State) : Nat × State :=
  let n := (mapGet 0 (s.dieAt d).srcSeq src).toNat + 1
  (n % 2 ^ 32, s.setDie d { s.dieAt d with srcSeq := mapSet (s.dieAt d).srcSeq src (BitVec.ofNat 32 n) })

/-- An MSI-X message of a vector, or its pending bit while the vector is masked (R331, R336). -/
def raiseMsix (v : Nat) (s : State) : State :=
  { s with host := if s.host.msixMask.getLsbD v then { s.host with msixPend := s.host.msixPend ||| BitVec.ofNat 64 (2 ^ v) }
                   else { s.host with msix := s.host.msix ++ [v] } }

/-- Write an event record to the die's ring and raise its MSI-X vector (R327, R336); a full ring drops the record
(R328), and EVLOG = 0 disables the ring. -/
def raiseEvent (d src type : Nat) (payload : List Byte) (s : State) : State :=
  let (seq, s) := bumpSeq d src s
  let e := s.dieAt d
  let cap := 2 ^ e.evlog.toNat
  if e.evlog = 0 ∨ (e.evtail + 1 - e.evhead).toNat > cap then s
  else
    let a := e.evbase.toNat + 32 * (e.evtail.toNat % cap)
    let rec_ := leBytes 2 src ++ leBytes 1 type ++ leBytes 1 0 ++ leBytes 4 seq ++ leBytes 8 e.clk.toNat ++
      (payload ++ List.replicate 16 0).take 16
    let t := writeView 0 (atAddr a rec_) s
    raiseMsix d (t.setDie d { t.dieAt d with evtail := e.evtail + 1 })

/-! ### Inverted tables (R51-R54) -/

/-- An entry as its 256 bits. -/
abbrev Pte := BitVec 256
def pteVpn (e : Pte) : Nat := e.toNat % 2 ^ 36
def pteAsn (e : Pte) : Nat := e.toNat / 2 ^ 36 % 4096
def pteGen (e : Pte) : BitVec 16 := (e >>> 48).setWidth 16
def pteNext (e : Pte) : Nat := e.toNat / 2 ^ 64 % 2 ^ 32
def pteLease (e : Pte) : Nat := e.toNat / 2 ^ 96 % 65536
def ptePins (e : Pte) : Nat := e.toNat / 2 ^ 112 % 65536
def pteHold (e : Pte) : Nat := e.toNat / 2 ^ 128 % 256
def pteV (e : Pte) : Bool := e.getLsbD 138
def pteBusy (e : Pte) : Bool := e.getLsbD 139
/-- PERM; a flash frame's write bit counts as clear (R52). -/
def ptePerm (stack : Nat) (e : Pte) : BitVec 2 :=
  let p : BitVec 2 := (e >>> 136).setWidth 2
  if stack ≥ 8 then p &&& 1 else p

/-- Replace a field of an entry. -/
def pteSet (e : Pte) (lo n x : Nat) : Pte :=
  BitVec.ofNat 256 (e.toNat - e.toNat / 2 ^ lo % 2 ^ n * 2 ^ lo + x % 2 ^ n * 2 ^ lo)

def State.ptbase (s : State) (k : Nat) : Nat := (mapGet 0 s.xl.ptbase k).toNat
def State.anchbase (s : State) (k : Nat) : Nat := (mapGet 0 s.xl.anchbase k).toNat
def State.pteAddr (s : State) (k frame : Nat) : Nat := s.ptbase k + 32 * frame
/-- An entry, read at VID 0. -/
def State.pte (s : State) (k frame : Nat) : Pte := BitVec.ofNat 256 (s.rootNat (s.pteAddr k frame) 32)
/-- A sector of the entry that cannot be read (R49). -/
def State.pteBad (s : State) (k frame : Nat) : Option Nat := s.badSector (s.pteAddr k frame) 32
def State.setPte (s : State) (k frame : Nat) (e : Pte) : State := writeNat 0 (s.pteAddr k frame) 32 e.toNat s

/-- The hash of R53. -/
def xlHash (asn vpn : Nat) : Nat :=
  ((vpn % 65536) ^^^ (vpn / 65536 % 65536) ^^^ (vpn / 2 ^ 32 % 16 * 4096) ^^^ asn) % 65536

/-- Address of an anchor. -/
def State.anchorAddr (s : State) (k h : Nat) : Nat := s.anchbase k + 4 * h

/-- What a walk finds. -/
inductive WalkHit where
  | found (stack frame : Nat) (e : Pte)
  | none
  /-- a sector of the tables could not be read (R49) -/
  | unreadable (pa : Nat)
deriving DecidableEq, Repr

/-- An answer stands unless the walk meets an unreadable sector elsewhere: every chain is read to its end (R49, R54). -/
def WalkHit.orUnreadable (x y : WalkHit) : WalkHit :=
  match y with
  | .unreadable pa => .unreadable pa
  | _ => x

/-- What a walk learns: its answer, the stacks whose chain was too long (R54), and the sectors it read. -/
structure WalkRes where
  hit : WalkHit
  long : List Nat := []
  reads : List Nat := []
deriving DecidableEq, Repr

/-- Frame `i` of stack `k` exists (R47, R48). -/
def frameOk (k i : Nat) : Bool := decide (i < if k ≥ 8 then 524288 else 32768)

/-- One stack's chain: the first match; a chain of which 256 entries are read is too long. A link that names no frame
of the stack ends the chain (log entry 66). -/
def walkChain (s : State) (k asn vpn : Nat) (expect : Option (BitVec 16)) : Nat → Nat → WalkRes
  | 0, _ => { hit := .none, long := [k] }
  | n + 1, i =>
    if !frameOk k i then { hit := .none }
    else
      let a := s.pteAddr k i
      match s.badSector a 32 with
      | some pa => { hit := .unreadable pa }
      | none =>
        let e := s.pte k i
        let here := pteV e && pteAsn e = asn && pteVpn e = vpn &&
          (match expect with | none => true | some g => atOrAfter (pteGen e) g)
        let rest := walkChain s k asn vpn expect n (pteNext e)
        { hit := if here then .orUnreadable (.found k i e) rest.hit else rest.hit, long := rest.long,
          reads := a / 32 * 32 :: rest.reads }

/-- The walk over the stacks, result taken in stack order. -/
def walkStacks (s : State) (asn vpn : Nat) (expect : Option (BitVec 16)) : List Nat → WalkRes
  | [] => { hit := .none }
  | k :: ks =>
    let rest := walkStacks s asn vpn expect ks
    let a := s.anchorAddr k (xlHash asn vpn)
    match s.badSector a 4 with
    | some pa => { rest with hit := .unreadable pa }
    | none =>
      let c := walkChain s k asn vpn expect 256 (s.rootNat a 4)
      { hit := match c.hit with
          | .none => rest.hit
          | .unreadable pa => .unreadable pa
          | x => .orUnreadable x rest.hit, long := c.long ++ rest.long,
        reads := a / 32 * 32 :: c.reads ++ rest.reads }

/-- The device register window takes the highest pages of every context: no table entry maps them (R332). -/
def windowVpn (vpn : Nat) : Bool := decide (0x1FFFFFFFE000000 / 2 ^ 21 ≤ vpn)

/-- What the walker of R54 finds for a page. -/
def State.walkOf (s : State) (asn vpn : Nat) (expect : Option (BitVec 16)) : WalkRes :=
  if windowVpn vpn then { hit := .none } else walkStacks s asn vpn expect (List.range 10)

/-- A walk by a die's walker, raising CHAINLONG for every chain of 256 entries (R54), its corrected errors counted. -/
def walk (d asn vpn : Nat) (expect : Option (BitVec 16)) (s : State) : WalkHit × State :=
  let r := s.walkOf asn vpn expect
  (r.hit, r.long.foldl (fun t k => raiseEvent d (masterNum 5 d 0) 2 (leBytes 8 k ++ leBytes 8 (xlHash asn vpn)) t)
    (countCorrected r.reads s))

/-! ### The entry a fault involves (R52, R319) -/

/-- LEASE of the entry of a page, or 0. -/
def State.leaseOf (s : State) (asn va : Nat) : BitVec 16 :=
  match (s.walkOf asn (va / 2 ^ 21) none).hit with
  | .found _ _ e => BitVec.ofNat 16 (pteLease e)
  | _ => 0

/-- LEASE of the entry involved in a fault of a context: of the page of an address (0x10), or of the frame of a sector
(0x14). -/
def State.leaseFor (s : State) (asn code detail : Nat) : BitVec 16 :=
  match code with
  | 0x10 => s.leaseOf asn detail
  | 0x14 => BitVec.ofNat 16 (pteLease (s.pte (detail / 2 ^ 41) (detail / 2 ^ 21 % 2 ^ 20)))
  | _ => 0

/-- A fault of the selected split's access. -/
def accessFault (code detail : Nat) (s : State) : State :=
  raiseFaultWith (s.leaseFor s.group.asn code detail) 0 code (BitVec.ofNat 64 detail) s

/-- Fault 0x10 at a virtual address (R370). -/
def leaseFault (va : Nat) (s : State) : State := accessFault 0x10 va s

/-! ### Translation caches (R56) -/

def tlbFind (l : List TlbEntry) (asn vpn : Nat) : Option TlbEntry := l.find? fun e => e.asn = asn && e.vpn = vpn
/-- Put a translation first, dropping the last beyond `cap`. -/
def tlbPut (cap : Nat) (l : List TlbEntry) (e : TlbEntry) : List TlbEntry :=
  (e :: l.filter fun x => !(decide (x.asn = e.asn) && decide (x.vpn = e.vpn))).take cap
def tlbDrop (l : List TlbEntry) (asn vpn : Nat) : List TlbEntry :=
  l.filter fun x => !(decide (x.asn = asn) && decide (x.vpn = vpn))

/-- A translation enters a core's and its die's TLB. -/
def fillTlb (k : Nat) (e : TlbEntry) (s : State) : State :=
  let d := dieOf k
  let s := s.setDie d { s.dieAt d with tlb := tlbPut 16384 (s.dieAt d).tlb e }
  s.setCore k { s.coreAt k with tlb := tlbPut 64 (s.coreAt k).tlb e }

/-- A source drops its translations of a page (R57). -/
def dropTlb (k asn vpn : Nat) (s : State) : State :=
  let d := dieOf k
  let s := s.setDie d { s.dieAt d with tlb := tlbDrop (s.dieAt d).tlb asn vpn }
  s.setCore k { s.coreAt k with tlb := tlbDrop (s.coreAt k).tlb asn vpn }

/-- What a translation gives its source. -/
inductive Xlated where
  | ok (e : TlbEntry)
  | none
  | unreadable (pa : Nat)
deriving DecidableEq, Repr

/-- Translate a page for a core: its TLB, the die's, then a walk without expectation (R54, R56). -/
def translate (k asn vpn : Nat) (s : State) : Xlated × State :=
  match tlbFind (s.coreAt k).tlb asn vpn with
  | some e => (.ok e, s)
  | none => match tlbFind (s.dieAt (dieOf k)).tlb asn vpn with
    | some e => (.ok e, fillTlb k e s)
    | none => match walk (dieOf k) asn vpn none s with
      | (.found st fr e, t) =>
        let x : TlbEntry := { asn, vpn, stack := st, frame := fr, perm := ptePerm st e, gen := pteGen e }
        (.ok x, fillTlb k x t)
      | (.none, t) => (.none, t)
      | (.unreadable pa, t) => (.unreadable pa, t)

/-- Physical address of a byte of a frame (R48). -/
def physOf (stack frame va : Nat) : Nat := 2 ^ 41 * stack + 2 ^ 21 * frame + va % 2 ^ 21
/-- Virtual page of an address (R50). -/
def vpnOf (va : Nat) : Nat := va / 2 ^ 21
/-- Stack and frame of a physical address. -/
def stackOf (pa : Nat) : Nat := pa / 2 ^ 41
def frameOf (pa : Nat) : Nat := pa / 2 ^ 21 % 2 ^ 20

/-- Whether the home accepts a request's generation (R57): none, or the frame's current GEN. -/
def State.staleGen (s : State) (pa : Nat) (gen : BitVec 16) : Option (BitVec 16) :=
  let e := s.pte (stackOf pa) (frameOf pa)
  if pteV e && pteGen e = gen then none else some (pteGen e)

/-! ### Leases (R61, R63) -/

/-- Whether a byte lies in a range of the grid that permits the access. -/
def Grid.permits (g : Grid) (write : Bool) (va : Nat) : Bool :=
  g.ranges.any fun r => decide (r.base ≤ va) && decide (va < r.base + r.len) && (!write || r.rw)

/-- The lowest byte of va .. va + n - 1 that the grid's lease does not permit, or that lies above bit 56. -/
def Grid.firstRefused (g : Grid) (write : Bool) (va n : Nat) : Option Nat :=
  ((List.range n).map (· + va)).find? fun a => !(decide (a < 2 ^ 57) && g.permits write a)

/-- PERM for a kind of access: a load needs bit 0; a store bit 1; an atomic or DQOP both (R52). -/
def permOk (perm : BitVec 2) (read write : Bool) : Bool :=
  (!read || perm.getLsbD 0) && (!write || perm.getLsbD 1)

/-- A page's fresh translation at a unit that acts in one step (walker unit, table unit, launch engine): a
walk, with its permission checked. -/
inductive PageAnswer where
  | at_ (pa : Nat)
  | refused
  | unreadable (pa : Nat)
deriving DecidableEq, Repr

/-- What such a unit finds for an address. -/
def State.pageOf (s : State) (asn va : Nat) (read write : Bool) : PageAnswer :=
  if va ≥ 2 ^ 57 then .refused
  else match (s.walkOf asn (vpnOf va) none).hit with
    | .found st fr e => if permOk (ptePerm st e) read write then .at_ (physOf st fr va) else .refused
    | .none => .refused
    | .unreadable pa => .unreadable pa

/-- Translate an address for such a unit of die `d`; the walk leaves its events behind. -/
def resolveVa (d asn va : Nat) (read write : Bool) (s : State) : PageAnswer × State :=
  (s.pageOf asn va read write, if va ≥ 2 ^ 57 then s else (walk d asn (vpnOf va) none s).2)

end Sys2Proof.Machine
end

