-- ==== Sys2Proof/Machine/Remote.lean ====
section
/-!
DEFINITION. The source side of the fabric (R205-R216, R242-R244): planes, messages and their place in causal
order, the write-combining buffer, and remote batch tags.
-/

namespace Sys2Proof.Machine

/-- The plane of a line: address bits [8:7], moved on to the next live plane (R214, R216). -/
def State.planeOf (s : State) (va : Nat) : Nat :=
  let k := va / 128 % 4
  (((List.range 4).map fun i => (k + i) % 4).find? fun q => !s.host.dead.getLsbD q).getD k

/-! ### Paths (R214, R215) -/

/-- A package's place on the torus of each plane. -/
def pkgX (p : Nat) : Nat := p % 8
def pkgY (p : Nat) : Nat := p / 8 % 8
/-- Steps from `a` to `b` around a ring of eight, counting up. -/
def ringUp (a b : Nat) : Nat := (b + 8 - a) % 8
/-- The shorter directions of a ring, or both; `true` counts down. -/
def ringWays (a b : Nat) : List Bool :=
  if ringUp a b = 4 then [false, true] else [decide (ringUp a b > 4)]

/-- The minimal paths between two packages, each once. -/
def minimalPaths (a b : Nat) : List Path :=
  let orders := if pkgX a = pkgX b ∨ pkgY a = pkgY b then [false] else [false, true]
  (ringWays (pkgX a) (pkgX b)).flatMap fun x => (ringWays (pkgY a) (pkgY b)).flatMap fun y =>
    orders.map fun f => { yFirst := f, minusX := x, minusY := y }

/-- The port by which a path leaves package `a` on a plane: 4 × plane + 0 to 3 for +X, -X, +Y, -Y (log entry 25). -/
def pathPort (p : Path) (plane a b : Nat) : Nat :=
  let alongX := if p.yFirst then pkgY a = pkgY b else pkgX a ≠ pkgX b
  4 * plane + (if alongX then (if p.minusX then 1 else 0) else if p.minusY then 3 else 2)

/-- The port by which a message leaves this package. -/
def State.msgPort (s : State) (m : Msg) : Nat := pathPort m.path (s.planeOf m.va) s.id.pkg.toNat (m.dest / 2)

/-- Whether a port's link runs in standard mode (R213): the extension is not accepted (R339), or the link was trained
without it. A port that has not been trained has no mode in the spec, and counts as extended (DESIGN CHOICE, log entry
86). -/
def State.linkStd (s : State) (port : Nat) : Bool :=
  !(s.id.lock && s.id.featacc.getLsbD 2) || s.host.links.any fun l => l.1 = port && !l.2.2

/-- Messages that wait to leave by a port: some of those that the dies have given it. How fast a port sends is not said
(DESIGN CHOICE, log entry 85). -/
def State.portLoad (s : State) (port : Nat) : Nat :=
  let n := ((s.north.egress ++ s.south.egress).filter fun x => x.2.dest / 2 != s.id.pkg.toNat && s.msgPort x.2 == port).length
  Config.portLoad s.fresh port % (n + 1)

/-- The path that an unacknowledged request of the die to a line pins, or one that waits to leave has (R215). -/
def State.pinOf (s : State) (d plane peer line : Nat) : Option Path :=
  match (s.dieAt d).out.find? fun o => o.pins && o.plane = plane && o.peer = peer && o.line = line with
  | some o => some o.path
  | none => ((s.dieAt d).waiting.find? fun x =>
      x.2.dest / 2 = peer && x.2.va / 128 = line && s.planeOf x.2.va = plane).map fun x => x.2.path

/-- The path whose first port is least occupied; which of several, the spec leaves open. -/
def choosePath (plane peer : Nat) (s : State) : Path × State :=
  let ps := minimalPaths s.id.pkg.toNat peer
  let load (p : Path) : Nat := s.portLoad (pathPort p plane s.id.pkg.toNat peer)
  let least := (ps.map load).foldl min (load (ps.getD 0 {}))
  match ps.filter fun p => load p = least with
  | [p] => (p, s)
  | best => (best.getD (Config.choice s.fresh best.length % best.length) {}, { s with fresh := s.fresh + 1 })

/-- The path of a request to a line. -/
def requestPath (d plane peer line : Nat) (s : State) : Path × State :=
  match s.pinOf d plane peer line with
  | some p => (p, s)
  | none => choosePath plane peer s

/-- Later in mod-2^32 order (R243). -/
def later32 (a b : Word) : Bool := 0 < (a - b).toNat && (a - b).toNat < 2 ^ 31

/-- Entries of the die's clock that changed since its last message to `dest`: at most 128. -/
def changedDeps (e : Die) (own dest : Nat) : List (Nat × Word) :=
  e.known.filter fun c => c.1 != own && mapGet 0 (mapGet [] e.told dest) c.1 != c.2

/-- One message enters the egress: it takes the next σ and names the previous one of its channel (R243). -/
def enqueueMsg (d : Nat) (kind : Instr) (m : Msg) (deps : List (Nat × Word)) (s : State) : State :=
  let e := s.dieAt d
  let sigma := e.sigma + 1
  let prev := (mapFind e.lastTo m.dest).getD sigma
  let m := { m with origin := s.iota d, seq := sigma, prev, deps }
  s.setDie d { e with
    sigma, lastTo := mapSet e.lastTo m.dest sigma,
    known := mapSet e.known (s.iota d) sigma,
    told := mapSet e.told m.dest (deps.foldl (fun t c => mapSet t c.1 c.2) (mapGet [] e.told m.dest)),
    egress := e.egress ++ [(kind, m)] }

/-- Dependency-only messages of four entries each, then the message with the entries that remain (R243). -/
def sendWithDeps (d : Nat) (kind : Instr) (m : Msg) : Nat → List (Nat × Word) → State → State
  | 0, deps, s => enqueueMsg d kind m deps s
  | n + 1, deps, s =>
    if deps.length ≤ 4 then enqueueMsg d kind m deps s
    else sendWithDeps d kind m n (deps.drop 4)
      (enqueueMsg d .dependencyOnlyMessage { dest := m.dest } (deps.take 4) s)

/-- Send a message from a die on the path it names; a standard-mode link carries no SEQ, PREV or DEP (R250). -/
def sendOn (d : Nat) (kind : Instr) (m : Msg) (s : State) : State :=
  if s.linkStd (s.msgPort m) then
    s.setDie d { s.dieAt d with egress := (s.dieAt d).egress ++ [(kind, { m with origin := s.iota d })] }
  else sendWithDeps d kind m 32 (changedDeps (s.dieAt d) (s.iota d) m.dest) s

/-- Send a message from a die on a path that its relay chooses (R215). -/
def sendMsg (d : Nat) (kind : Instr) (m : Msg) (s : State) : State :=
  let (path, s) := choosePath (s.planeOf m.va) (m.dest / 2) s
  sendOn d kind { m with path } s

/-- The package at `n` steps along the ring from `a`. -/
def ringStep (a n : Nat) (minus : Bool) : Nat := if minus then (a + 8 - n % 8) % 8 else (a + n) % 8

/-- Hops between two packages on a torus of 8 × 8, the shorter way round each ring (R214, R220). -/
def ringHops (a b : Nat) : Nat := min (ringUp a b) (ringUp b a)
def hops (p q : Nat) : Nat := ringHops (pkgX p) (pkgX q) + ringHops (pkgY p) (pkgY q)

/-- The fixed path of a coded pair, from its lower-numbered package `a` to the higher: X first; on a ring whose two ways
are equally short, the way that counts up (log entry 70). -/
def codedPath (a b : Nat) : Path :=
  { minusX := decide (ringUp (pkgX a) (pkgX b) > 4), minusY := decide (ringUp (pkgY a) (pkgY b) > 4) }
/-- A coded packet leaves on that path or on its reverse. -/
def shufflePath (own peer : Nat) : Path :=
  if own < peer then codedPath own peer
  else
    let p := codedPath peer own
    { yFirst := pkgX own ≠ pkgX peer ∧ pkgY own ≠ pkgY peer, minusX := !p.minusX, minusY := !p.minusY }
/-- The package of the meeting relay: half the hops from the lower-numbered package, rounded down (R220). -/
def meetingPkg (p q : Nat) : Nat :=
  let a := min p q
  let b := max p q
  let path := codedPath a b
  let n := hops a b / 2
  let dx := ringHops (pkgX a) (pkgX b)
  ringStep (pkgX a) (min n dx) path.minusX + 8 * ringStep (pkgY a) (n - dx) path.minusY

/-- The version fields of a message to a peer: the chain, the version itself at its head, goes with the version's first
message to that peer, whose bit in PEERS is set before the message leaves (R210). -/
def versionFields (v peer : Nat) (m : Msg) (s : State) : Msg × State :=
  if v = 0 then ({ m with vid := 0 }, s)
  else
    let x := s.ver v
    let chain := if x.peers.getLsbD peer then [] else s.ancestors v
    ({ m with vid := v, chain },
     s.setVer v { x with peers := x.peers ||| BitVec.ofNat 64 (2 ^ peer) })

/-! ### Remote batch tags (R208, R209) -/

/-- Change a tag's state of a group. -/
def modTag (k g : Nat) (t : BitVec 2) (f : RTagState → RTagState) (s : State) : State :=
  let x := s.groupAt k g
  s.setGroupAt k g { x with rtags := mapSet x.rtags t.toNat (f (mapGet {} x.rtags t.toNat)) }

/-- A write under a tag has been refused at the source (R213). -/
def refuseAtSource (k g : Nat) (t : BitVec 2) (peer bit : Nat) (s : State) : State :=
  modTag k g t (fun r => { r with errs := r.errs ||| BitVec.ofNat 8 (2 ^ bit),
                                  errPeers := r.errPeers ||| BitVec.ofNat 64 (2 ^ peer) }) s

/-- Change a command of a core's network engine. -/
def modNet (k id : Nat) (f : Cmd → Cmd) (s : State) : State :=
  let c := s.coreAt k
  s.setCore k { c with eng := mapSet c.eng 2 ((mapGet [] c.eng 2).map fun d => if d.id = id then f d else d) }

/-- The write belongs to a command with a summary of its own. -/
def ofCommand (m : Msg) : Bool := m.req != 0 && m.ord != 3

/-- A write is refused at its source: its tag has NOVER, its command its mark, and an SC store has ended (R213). -/
def refuseWrite (m : Msg) (s : State) : State :=
  let k := m.srcGrp / 256
  let s := refuseAtSource k (m.srcGrp % 256) m.tag (m.dest / 2) 2 s
  if ofCommand m then modNet k (m.req - 1) (fun c => { c with remoteErr := true }) s
  else if m.ord = 3 then
    s.setCore k { s.coreAt k with reqs := (s.coreAt k).reqs.map fun r => if r.id = m.req then { r with st := .performed } else r }
  else s

/-- A write that was to leave by an extended link finds a standard-mode one in its place: its completion counts too. -/
def countStd (m : Msg) (s : State) : State :=
  let k := m.srcGrp / 256
  let s := modTag k (m.srcGrp % 256) m.tag (fun r => { r with std := r.std + 1 }) s
  if ofCommand m then modNet k (m.req - 1) (fun c => { c with owed := c.owed + 1 }) s else s

/-! ### Requests leaving a die (R215, R216, R250) -/

/-- The messages that are requests to a line, of which a pin table knows. -/
def isRequest (kind : Instr) : Bool :=
  kind == .remoteWrite || kind == .remoteLoad || kind == .remoteAtomic || kind == .codingWindowArrival

/-- A coded packet travels a fixed path that is not pinned (R220). -/
def codedFlow (m : Msg) : Bool := m.func == 1 && m.role != 0

/-- The message carries a write of the engine command `id` of core `k`. -/
def cmdMsg (k id : Nat) (x : Instr × Msg) : Bool :=
  (x.1 == .remoteWrite || x.1 == .codingWindowArrival) && x.2.ord != 3 && x.2.srcGrp / 256 = k && x.2.req = id + 1

/-- A request must wait at its source: requests to its peer wait already; a dead plane of its quarter has requests that
are neither acknowledged nor lost (R216); or its line is not pinned and the pin table of 2,048 lines is full (R215). -/
def State.mustWait (s : State) (d : Nat) (kind : Instr) (m : Msg) : Bool :=
  let e := s.dieAt d
  let plane := s.planeOf m.va
  let line := m.va / 128
  e.waiting.any (fun x => x.2.dest / 2 = m.dest / 2) ||
    (isRequest kind && (e.out.any (fun o => o.line % 4 = line % 4 && s.host.dead.getLsbD o.plane) ||
      (!codedFlow m && (s.pinOf d plane (m.dest / 2) line).isNone &&
        decide (2048 ≤ ((e.out.filter fun o => o.pins && o.plane = plane).map fun o => (o.peer, o.line)).dedup.length))))

/-- A standard-mode link does not take the message: a write in a version, or a coded packet (R213). -/
def State.notTaken (s : State) (kind : Instr) (m : Msg) : Bool :=
  (kind == .remoteWrite || kind == .codingWindowArrival) && (m.vid != 0 || m.func == 1) && s.linkStd (s.msgPort m)

/-- A request leaves its die; on a standard-mode link it waits for the acknowledgement of the die's earlier writes on that
link (R250). -/
def departOn (d : Nat) (kind : Instr) (m : Msg) (s : State) : State :=
  let plane := s.planeOf m.va
  let m := if isRequest kind then { m with origin := s.iota d, dest := m.dest / 2 * 2 + plane / 2 } else m
  let k := m.srcGrp / 256
  let o : OutReq := { core := k, ack := m.ack, peer := m.dest / 2, plane, line := m.va / 128, path := m.path,
                      gid := (s.groupAt k (m.srcGrp % 256)).gid, grp := m.srcGrp % 256, pins := !codedFlow m,
                      std := m.std, tag := m.tag }
  let s := if isRequest kind then s.setDie d { s.dieAt d with out := (s.dieAt d).out ++ [o] } else s
  let port := s.msgPort m
  if isRequest kind && s.linkStd port then
    let e := s.dieAt d
    if e.stdOwed.contains port then s.setDie d { e with stdQueue := e.stdQueue ++ [(kind, m)] }
    else s.setDie d { e with egress := e.egress ++ [(kind, m)],
                             stdOwed := if kind == .remoteWrite then port :: e.stdOwed else e.stdOwed }
  else if isRequest kind then sendOn d kind m s
  else sendMsg d kind m s

/-- A request whose turn has come leaves by the link that its plane has now, or is refused there. -/
def depart (d : Nat) (kind : Instr) (m : Msg) (s : State) : State :=
  if s.notTaken kind m then refuseWrite m s
  else if kind == .remoteWrite && !m.std && s.linkStd (s.msgPort m) then departOn d kind { m with std := true } (countStd m s)
  else departOn d kind m s

/-- A request leaves its die, or waits at the source. -/
def submit (d : Nat) (kind : Instr) (m : Msg) (s : State) : State :=
  if s.mustWait d kind m then s.setDie d { s.dieAt d with waiting := (s.dieAt d).waiting ++ [(kind, m)] }
  else depart d kind m s

/-- Requests of a die that have not left it are dropped: those that wait at the source, and those that wait for their turn
on a standard-mode link, which no completion will answer. -/
def dropUnsent (d : Nat) (p : Instr × Msg → Bool) (s : State) : State :=
  let e := s.dieAt d
  let late := e.stdQueue.filter p
  let hit (o : OutReq) : Bool := late.any fun x => x.2.srcGrp / 256 = o.core && x.2.ack = o.ack
  let s := s.setDie d { e with waiting := e.waiting.filter (fun x => !p x), stdQueue := e.stdQueue.filter (fun x => !p x),
                               out := e.out.filter fun o => !hit o }
  (late.filter fun x => x.1 == .remoteWrite).foldl (fun t x =>
    modTag (x.2.srcGrp / 256) (x.2.srcGrp % 256) x.2.tag (fun r => { r with std := r.std - 1 }) t) s

/-- Requests that waited are submitted again, in order. -/
def submitAll (d : Nat) : List (Instr × Msg) → State → State
  | [], s => s
  | x :: xs, s => submitAll d xs (submit d x.1 x.2 s)
def drainWaiting (d : Nat) (s : State) : State :=
  submitAll d (s.dieAt d).waiting (s.setDie d { s.dieAt d with waiting := [] })

/-- A remote write of the group, by its acknowledgement's number, that the peer has not acknowledged. -/
def State.ackOwed (s : State) (k n : Nat) : Bool :=
  let e := s.dieAt (dieOf k)
  (s.coreAt k).wc.any (fun w => w.ack = n) || e.out.any (fun o => o.core = k && o.ack = n) ||
    e.waiting.any fun x => x.2.srcGrp / 256 = k && x.2.ack = n

/-- Numbers for `n` requests of a core. -/
def takeNumbers (k n : Nat) (s : State) : Nat × State :=
  ((s.coreAt k).nextReq, s.setCore k { s.coreAt k with nextReq := (s.coreAt k).nextReq + n })

/-- How a write left: on an extended link, on a standard-mode link, or not at all. -/
inductive Sent where
  | extended
  | standard
  | refused
deriving DecidableEq, Repr

/-- A write message leaves for a peer under a tag on a path; a standard-mode link refuses it there in a version, and a
coded packet in any (R213). -/
def sendWriteOn (path : Path) (kind : Instr) (k g peer : Nat) (m : Msg) (v : Nat) (t : BitVec 2) (s : State) : Sent × State :=
  let d := dieOf k
  let plane := s.planeOf m.va
  let m := { m with origin := s.iota d, dest := 2 * peer + plane / 2, tag := t, srcGrp := 256 * k + g, path }
  if s.linkStd (s.msgPort m) then
    if v ≠ 0 ∨ m.func = 1 then (.refused, refuseWrite m s)
    else (.standard, submit d kind { m with std := true } (modTag k g t (fun r => { r with std := r.std + 1 }) s))
  else
    let (m, s) := versionFields v peer m s
    (.extended, submit d kind m
      (modTag k g t (fun r => { r with used := r.used.filter (· != (peer, plane)) ++ [(peer, plane)] }) s))

/-- The same on the path of its line. -/
def sendWrite (k g peer : Nat) (m : Msg) (v : Nat) (t : BitVec 2) (s : State) : Sent × State :=
  let (path, s) := requestPath (dieOf k) (s.planeOf m.va) peer (m.va / 128) s
  sendWriteOn path .remoteWrite k g peer m v t s

/-- A load or atomic leaves for a peer. R213 refuses writes in a version on a standard-mode link and says nothing of these,
which go without their version there, as at VID 0 (DESIGN CHOICE, log entry 86). -/
def sendAccess (k : Nat) (kind : Instr) (peer v : Nat) (m : Msg) (s : State) : State :=
  let d := dieOf k
  let (path, s) := requestPath d (s.planeOf m.va) peer (m.va / 128) s
  let m := { m with origin := s.iota d, path }
  if s.linkStd (s.msgPort m) then submit d kind m s
  else
    let (m, s) := versionFields v peer m s
    submit d kind m s

/-- A space-3 request of a core leaves as a message (R126). -/
def sendRequest (k : Nat) (r : Req) (s : State) : State :=
  let plane := s.planeOf (128 * r.line)
  let m : Msg := { dest := 2 * r.peer + plane / 2, srcGrp := 256 * k + r.grp, asn := r.asn, va := 128 * r.line,
                   size := 128, req := r.id, ack := r.id, func := r.func, ord := r.ord, scope := r.scope,
                   stamp := r.stamp, tag := r.tag }
  match r.kind with
  | .store => (sendWrite k r.grp r.peer { m with bytes := r.data } r.vid r.tag s).2
  | .load => sendAccess k .remoteLoad r.peer r.vid
      { m with bytes := r.lanes.flatMap fun x => (List.range x.size).map fun i => (x.addr + i, 0) } s
  | _ => sendAccess k .remoteAtomic r.peer r.vid
      { m with ops := r.lanes.map fun x => { lane := x.lane, va := x.addr, x := x.x, y := x.y } } s

/-- Loads of a core go out once no buffered store to their line is owed an acknowledgement any more (R126). -/
def releaseLoads (k : Nat) (s : State) : State :=
  let c := s.coreAt k
  let left (r : Req) : List Nat := r.after.filter (s.ackOwed k)
  let ready (r : Req) : Bool := r.space = 3 && r.st == .waiting && !r.after.isEmpty && (left r).isEmpty
  let strike (r : Req) : Req := { r with after := left r, st := if ready r then .remote else r.st }
  let groups := c.groups.map fun g => (g.1, { g.2 with parked := g.2.parked.map fun r => { r with after := left r } })
  (c.reqs.filter ready).foldl (fun t r => sendRequest k r t) (s.setCore k { c with reqs := c.reqs.map strike, groups })

/-- Requests of a die that waited leave where they can now, and so do the loads that waited for them. -/
def settleWaits (d : Nat) (s : State) : State :=
  let s := drainWaiting d s
  ((s.cores.map (·.1)).filter fun k => dieOf k = d).foldl (fun t k => releaseLoads k t) s

/-- A peer has acknowledged a request of a core: its pin goes, and what waited for that leaves (R126, R215). -/
def takeAck (k n : Nat) (s : State) : State :=
  let d := dieOf k
  settleWaits d (s.setDie d { s.dieAt d with
    out := (s.dieAt d).out.filter fun o => !(decide (o.core = k) && decide (o.ack = n)) })

/-! ### The write-combining buffer (R205-R207) -/

/-- Send one entry: it becomes one write request. -/
def sendWcEntry (k : Nat) (e : WcEntry) (s : State) : State :=
  (sendWrite k e.grp e.peer
    { asn := e.asn, va := 128 * e.line, bytes := e.data.map fun c => (128 * e.line + c.1, c.2), size := 128,
      ack := e.ack } e.vid e.tag s).2

/-- Send the entries that `p` holds of, with every entry that shares a peer and line with one of them, all in
the order of their allocation (R206); the numbers of those whose acknowledgements are owed. -/
def sendWcAcked (k : Nat) (p : WcEntry → Bool) (s : State) : List Nat × State :=
  let c := s.coreAt k
  let hit (e : WcEntry) : Bool := c.wc.any fun f => p f && f.peer = e.peer && f.line = e.line
  let out := c.wc.filter hit
  let s := out.foldl (fun t e => sendWcEntry k e t) (s.setCore k { c with wc := c.wc.filter fun e => !hit e })
  ((out.map (·.ack)).filter (s.ackOwed k), s)
def sendWcWhere (k : Nat) (p : WcEntry → Bool) (s : State) : State := (sendWcAcked k p s).2

/-- Discard entries unsent (R207). -/
def dropWcWhere (k : Nat) (p : WcEntry → Bool) (s : State) : State :=
  let c := s.coreAt k
  s.setCore k { c with wc := c.wc.filter fun e => !p e }

/-- Whether two stores share an entry's key (R205). -/
def sameWc (a b : WcEntry) : Bool :=
  a.grp = b.grp && a.gid = b.gid && a.peer = b.peer && a.line = b.line && a.vid = b.vid && a.tag = b.tag

/-- Merge one line request into the buffer: into the entry of its key, or a new one; a full buffer sends its
oldest entry first, and a whole line is sent at once (R205, R206). -/
def mergeWc (k : Nat) (e : WcEntry) (s : State) : State :=
  let c := s.coreAt k
  let merged (f : WcEntry) : WcEntry :=
    { f with data := e.data.foldl (fun m b => mapSet m b.1 b.2) f.data }
  let s1 := match c.wc with
    | o :: _ => if c.wc.length < 64 then s else sendWcWhere k (fun f => f == o) s
    | [] => s
  let s2 := if c.wc.any (sameWc e)
    then s.setCore k { c with wc := c.wc.map fun f => if sameWc e f then merged f else f }
    else
      let (n, s1) := takeNumbers k 1 s1
      s1.setCore k { s1.coreAt k with wc := (s1.coreAt k).wc ++ [{ e with ack := n }] }
  sendWcWhere k (fun f => sameWc e f && f.data.length == 128) s2

/-- Writes of the group, under one tag or any, wait at the source. -/
def State.writesWait (s : State) (k g : Nat) (t : Option (BitVec 2)) : Bool :=
  (s.dieAt (dieOf k)).waiting.any fun x => x.1 == .remoteWrite && x.2.srcGrp = 256 * k + g &&
    (match t with | none => true | some t => x.2.tag = t)

/-- Every entry of the group has left the die (R209, R249). -/
def State.wcEmptyOf (s : State) (k g : Nat) : Bool :=
  !(s.coreAt k).wc.any (fun e => e.grp = g) && !s.writesWait k g none

/-- Commands of the group under a tag that have not sent their last write (R209). -/
def State.cmdsUnsent (s : State) (k g : Nat) (t : BitVec 2) : Bool :=
  (mapGet [] (s.coreAt k).eng 2 ++ mapGet [] (s.coreAt k).entering 2).any fun c => c.grp = g && c.tag = t && c.st == .queued

/-- Whether RBATCH can take its step (R209). -/
def State.canCloseTag (s : State) (k g : Nat) : Bool :=
  let x := s.groupAt k g
  let nxt := mapGet {} x.rtags (x.rtag + 1).toNat
  (!nxt.closed || (nxt.owed.isEmpty && nxt.std == 0)) && !s.cmdsUnsent k g x.rtag && !s.writesWait k g (some x.rtag)

/-- A tag whose last summary has come in gives its errors to RWAIT's state. -/
def settleTag (k g : Nat) (t : BitVec 2) (s : State) : State :=
  let x := s.groupAt k g
  let r := mapGet {} x.rtags t.toNat
  if r.closed && r.owed.isEmpty && r.std == 0 then
    s.setGroupAt k g { x with rwPeers := x.rwPeers ||| r.errPeers, rwErrs := x.rwErrs ||| r.errs,
                              rtags := mapSet x.rtags t.toNat {} }
  else s

/-- RBATCH's indivisible step: send the tag's entries, close it toward every peer on every plane used, open
the next tag; the number of peers closed (R209). A peer that was reached over standard-mode links only gets no close
notice, and is not counted (DESIGN CHOICE, log entry 86). -/
def closeTag (k g : Nat) (s : State) : Nat × State :=
  let t := (s.groupAt k g).rtag
  let s := sendWcWhere k (fun e => e.grp = g && e.tag = t) s
  let r := mapGet {} (s.groupAt k g).rtags t.toNat
  let peers := (r.used.map (·.1)).dedup
  let mask (p : Nat) : Nat := ((r.used.filter fun u => u.1 = p).map fun u => 2 ^ u.2).sum
  let s := r.used.foldl (fun s u => submit (dieOf k) .closeNotice
    { dest := 2 * u.1 + u.2 / 2, tag := t, srcGrp := 256 * k + g, va := 128 * u.2, role := u.2, count := mask u.1 } s) s
  let s := modTag k g t (fun r => { r with closed := true, owed := peers, used := [] }) s
  let x := s.groupAt k g
  (peers.length, settleTag k g t (s.setGroupAt k g { x with rtag := x.rtag + 1 }))

/-- The group's open tag has entries to send, peers to close or errors to report. -/
def State.tagOpen (s : State) (k g : Nat) : Bool :=
  let x := s.groupAt k g
  let r := mapGet {} x.rtags x.rtag.toNat
  (s.coreAt k).wc.any (fun e => e.grp = g) || s.writesWait k g none ||
    (!r.closed && (!r.used.isEmpty || r.std != 0 || r.errs != 0))

/-- Every closed tag of the group has all its summaries (R209). -/
def State.tagsSettled (s : State) (k g : Nat) : Bool :=
  (s.groupAt k g).rtags.all fun c => !c.2.closed || (c.2.owed.isEmpty && c.2.std == 0)

/-- RWAIT's result: peers with errors and the OR of the error bits, both cleared (R209). -/
def takeErrors (k g : Nat) (s : State) : DWord × BitVec 8 × State :=
  let x := s.groupAt k g
  (x.rwPeers, x.rwErrs, s.setGroupAt k g { x with rwPeers := 0, rwErrs := 0 })

end Sys2Proof.Machine
end

