-- ==== Sys2Proof/Machine/Order.lean ====
section
/-!
DEFINITION. The L1 (R112, R113, R226, R233) and the ordering of one split's accesses (R224-R241): what it
still waits for, releases, acquires, and sequentially consistent time stamps.
-/

namespace Sys2Proof.Machine

/-! ### The L1 -/

/-- The core whose L1 holds a line: the core itself, or its slice in a fused cluster (R113). -/
def l1Home (k : Nat) (fused : Bool) (l : Nat) : Nat :=
  if fused then 208 * dieOf k + 8 * (coreNum k / 8) + l % 8 else k
/-- Set of a line (R112, R113). -/
def l1Set (fused : Bool) (l : Nat) : Nat := if fused then l / 8 % 128 else l % 128

/-- First core key of a cluster; each Oasis core is one of its own (R224). -/
def clusterOf (k : Nat) : Nat := if isOasis k then k else 208 * dieOf k + coreNum k / 8 * 8
def State.clusterBlocks (s : State) (k : Nat) : List Block :=
  s.cores.flatMap fun c => if clusterOf c.1 = clusterOf k then c.2.blocks.map (·.2) else []

/-- The core's cluster runs fused: a block of a fused grid is resident in it (R113). -/
def State.clusterFused (s : State) (k : Nat) : Bool :=
  (s.clusterBlocks k).any fun b => b.place == .resident && (s.gridAt b.gid).fuse

/-- The L1s of a cluster begin empty where it has become fused, or ceased to be (R113; log entry 79). -/
def fuseChange (k : Nat) (before : Bool) (s : State) : State :=
  if s.clusterFused k == before then s
  else ((s.cores.map (·.1)).filter fun j => clusterOf j = clusterOf k).foldl
    (fun t j => t.setCore j { t.coreAt j with l1 := [], slicesRead := [] }) s

/-- A line of the L1 that serves all of the named sectors to a VID. -/
def l1Find (s : State) (k : Nat) (fused : Bool) (l v : Nat) (need : BitVec 4) : Option L1Line :=
  if isOasis k then none
  else (s.coreAt (l1Home k fused l)).l1.find? fun e => e.line = l && e.vid = v && (e.sectors &&& need) == need

def modL1 (kc : Nat) (f : List L1Line → List L1Line) (s : State) : State :=
  s.setCore kc { s.coreAt kc with l1 := f (s.coreAt kc).l1 }

/-- A core of a fused cluster has read a slice, its own among them (R113). -/
def noteSlice (k kc : Nat) (fused : Bool) (s : State) : State :=
  if !fused then s
  else s.setCore k { s.coreAt k with slicesRead := kc :: (s.coreAt k).slicesRead.filter (· != kc) }

/-- A hit or fill under a policy: policy 1 marks the line as its set's first victim; policies 0 and 3 clear the mark and
make the line most recently used (R112). -/
def l1Use (policy : BitVec 2) (e : L1Line) (l : List L1Line) : List L1Line :=
  let rest := l.filter fun x => !(decide (x.line = e.line) && decide (x.vid = e.vid))
  { e with mark := policy == 1 } :: rest

/-- The victim of a full set: a marked line, else the least recently used (R112). Of several marked lines the least recently
used is the model's choice (log entry 88). -/
def l1Victim (fused : Bool) (l : Nat) (es : List L1Line) : Option L1Line :=
  let set := es.filter fun e => l1Set fused e.line = l1Set fused l
  if set.length < 8 then none
  else match (set.filter (·.mark)).getLast? with
    | some e => some e
    | none => set.getLast?

/-- Fill sectors of a line (R112): merged into a line already present for the VID. -/
def l1Fill (k : Nat) (fused : Bool) (l v : Nat) (sectors : BitVec 4) (bytes : Map Byte) (policy : BitVec 2)
    (s : State) : State :=
  if isOasis k then s
  else
    let kc := l1Home k fused l
    let es := (s.coreAt kc).l1
    let s := noteSlice k kc fused s
    match es.find? fun e => e.line = l && e.vid = v with
    | some e =>
      let e' := { e with sectors := e.sectors ||| sectors, bytes := memSetAll e.bytes bytes }
      modL1 kc (l1Use policy e') s
    | none =>
      let drop := l1Victim fused l es
      modL1 kc (fun m => l1Use policy { line := l, vid := v, sectors, bytes := memSetAll [] bytes }
        (m.filter fun e => some e != drop)) s

/-- A slice takes an acknowledged store: the copy of the store's VID takes its bytes where their sectors are present, and
every other copy of the line goes (R112, R226). -/
def l1Take (l v : Nat) (bs : List (Nat × Byte)) (m : List L1Line) : List L1Line :=
  (m.filter fun e => !(decide (e.line = l) && decide (e.vid ≠ v))).map fun e =>
    if e.line = l then { e with bytes := memSetAll e.bytes (bs.filter fun b => e.sectors.getLsbD (b.1 / 32)) } else e

/-- A performed store to global memory that its L1 has not taken yet. -/
def Req.l1Owed (r : Req) (l : Nat) : Bool :=
  r.kind == .store && r.st == .performed && !r.inL1 && r.space == 0 && !r.window && r.pa == l && r.refusedAt.isNone

/-- Cores whose stores to a line go to the L1 of core `kc`: itself, or its cluster in a fused grid (R113). -/
def State.l1Sharers (s : State) (kc : Nat) (fused : Bool) : List Nat :=
  if fused then (s.cores.map (·.1)).filter fun k => k / 8 = kc / 8 else [kc]

/-- A performed request in its place in a list in the order of performing. -/
def insertByPlace (x : Nat × Req) : List (Nat × Req) → List (Nat × Req)
  | [] => [x]
  | y :: ys => if x.2.at_ ≤ y.2.at_ then x :: y :: ys else y :: insertByPlace x ys

/-- Performed stores to a line that the L1 of core `kc` has not taken yet, with their cores, in the order in which they
were performed and up to place `lim` (R228). -/
def State.l1Pending (s : State) (kc : Nat) (fused : Bool) (l lim : Nat) : List (Nat × Req) :=
  let rs := (s.l1Sharers kc fused).flatMap fun k =>
    ((s.coreAt k).reqs.filter fun r => r.l1Owed l && r.at_ ≤ lim).map fun r => (k, r)
  rs.foldr insertByPlace []

/-- The L1 that holds a line takes the stores performed up to place `lim`, in the order of their performing. The home
acknowledges stores to a line in that order, and before it answers a later load of it (log entry 68). -/
def l1Catch (k : Nat) (fused : Bool) (l lim : Nat) (s : State) : State :=
  if isOasis k then s
  else
    let kc := l1Home k fused l
    (s.l1Pending kc fused l lim).foldl (fun t x =>
      let t := modL1 kc (l1Take l x.2.vid (x.2.data.map fun b => (b.1 % 128, b.2))) t
      t.setCore x.1 { t.coreAt x.1 with reqs := (t.coreAt x.1).reqs.map fun r =>
        if r.id = x.2.id then { r with inL1 := true } else r }) s

/-- A line leaves the L1 (R102, R124). -/
def l1Remove (k : Nat) (fused : Bool) (l : Nat) (s : State) : State :=
  if isOasis k then s else modL1 (l1Home k fused l) (fun m => m.filter fun e => e.line != l) s

/-- An acquire at CLUSTER scope or wider empties the L1, or the slices read since the last one (R113, R233). -/
def l1Acquire (k : Nat) (fused : Bool) (s : State) : State :=
  if isOasis k then s
  else if !fused then modL1 k (fun _ => []) s
  else
    let c := s.coreAt k
    c.slicesRead.foldl (fun t kc => modL1 kc (fun _ => []) t) (s.setCore k { c with slicesRead := [] })

/-- Every L1 line tagged with a VID goes before the VID becomes free (R112). -/
def l1DropVid (v : Nat) (s : State) : State :=
  (s.cores.map (·.1)).foldl (fun t k => modL1 k (fun m => m.filter fun e => e.vid != v) t) s

/-! ### What a split waits for (R234, R240) -/

/-- A request the selected split's release waits for: an access to spaces 0, 1, 2 or 4, or a space-3 load or
atomic, that it or a split it came from has issued (R227, R234). -/
def ownRequest (g : Nat) (m : Lanes) (r : Req) : Bool :=
  r.grp = g && (r.mask &&& m) != 0 && !(decide (r.space = 3) && r.kind == .store)

/-- Earlier loads, ATOMs and DQOPs of the split have returned. -/
def State.loadsBack (s : State) : Bool :=
  !s.group.oplog.any fun e => e.2.st != .free && e.2.kind != 7 && (e.2.mask &&& s.split.mask) != 0
/-- Earlier accesses of the split have returned or been acknowledged (R234). -/
def State.drained (s : State) : Bool :=
  s.loadsBack && !s.core.reqs.any (ownRequest s.sel.grp s.split.mask)

/-- Errors of a POD release go to the grid's status (R234). -/
def errorsToGrid (s : State) : State :=
  let r := takeErrors s.sel.core s.sel.grp s
  let t := r.2.2
  let g := t.grid
  t.setGrid s.group.gid { g with errbits := g.errbits ||| r.2.1 }

/-- A release at a scope, then `eff` (R234): THREAD waits for nothing; up to DEVICE it waits until the split has
drained; POD and SYSTEM also perform WCFLUSH, RBATCH and RWAIT. Phases 0 and 1 of instruction `i`. -/
def releaseThen (i : Instr) (scope : Nat) (eff : State → State) (s : State) : State :=
  if scope = 0 then eff s
  else if s.split.phase = 0 ∧ !s.drained then blockIn i 0 s.split.wdata s
  else if scope ≤ 5 then eff s
  else
    let k := s.sel.core
    let g := s.sel.grp
    if s.split.phase = 0 then
      let t := sendWcWhere k (fun e => e.grp = g) s
      if t.canCloseTag k g then
        let u := (closeTag k g t).2
        if u.tagsSettled k g then eff (errorsToGrid u) else blockIn i 1 s.split.wdata u
      else blockIn i 0 s.split.wdata t
    else if s.tagsSettled k g then eff (errorsToGrid s)
    else blockIn i 1 s.split.wdata s

/-- An acquire at a scope by the selected group: at CLUSTER or wider the L1 is emptied (R233). -/
def acquireAt (scope : Nat) (s : State) : State :=
  if scope ≥ 3 then l1Acquire s.sel.core s.grid.fuse s else s

/-! ### SC time stamps (R236) -/

/-- C := max(C, G) + 1, and the stamp. -/
def scStamp (s : State) : DWord × State :=
  let c := s.core
  let n := max c.lamport.toNat c.heard.toNat + 1
  (BitVec.ofNat 64 (65536 * n + (s.coreN s.sel.core).toNat), s.setCore s.sel.core { c with lamport := BitVec.ofNat 48 n })

end Sys2Proof.Machine
end

