-- ==== Sys2Proof/Machine/Regs.lean ====
section
/-!
DEFINITION. The register blocks of BAR0 (R332-R341) as lane loads and stores, the host and the debugger reach
them: reading and writing a register, invalidations (R59), freezing (R325) and the debugger (R329, R330).
-/

namespace Sys2Proof.Machine

/-! ### Features (R339) -/

/-- A feature is in use: FEATACC is locked with its bit set. -/
def State.accepted (s : State) (n : Nat) : Bool := s.id.lock && s.id.featacc.getLsbD n

/-- FEATACC written before the lock within what is offered; otherwise ERR (R339). -/
def writeFeatacc (v : DWord) (s : State) : State :=
  if s.id.lock || (v &&& ~~~s.id.featoff) != 0 then { s with id := { s.id with featErr := true } }
  else { s with id := { s.id with featacc := v } }
/-- Bits [127:64] offer nothing. -/
def writeFeatacc1 (v : DWord) (s : State) : State :=
  if s.id.lock || v != 0 then { s with id := { s.id with featErr := true } } else s

/-- The lock: VSEN and the Ethernet ports follow the locked value (R339). -/
def lockFeatures (s : State) : State :=
  if s.id.lock then s
  else
    let f := s.id.featacc
    { s with id := { s.id with lock := true },
             vers := { s.vers with vsen := s.vers.vsen || f.getLsbD 0 },
             host := { s.host with ethUp := f.getLsbD 6 } }

/-! ### Invalidation (R59) -/

/-- Whether a request was issued under a translation that `p` removes and has not been answered. -/
def underRemoved (p : Nat → Nat → Bool) (r : Req) : Bool :=
  r.st == .waiting && !r.window && (r.space == 0 || r.space == 4) &&
    (match r.lanes with
      | x :: _ => p r.asn (vpnOf x.addr)
      | [] => match r.data with
        | b :: _ => p r.asn (vpnOf b.1)
        | [] => false)

/-- A cancelled load under a removed translation is replayed through a fresh walk that expects the generation its log
entry keeps (R320, R321); so is a store that a QNT in the matrix queue has not sent yet. -/
def unparked (p : Nat → Nat → Bool) (r : Req) : Req :=
  if !r.window && (r.space == 0 || r.space == 4) && p r.asn (vpnOf (128 * r.line)) then
    { r with st := .nacked, expect := some r.gen, retries := 0 }
  else r

/-- Remove translations from every TLB of the package, and wait for the requests issued under them. -/
def invalidate (p : Nat → Nat → Bool) (s : State) : State :=
  let keep (l : List TlbEntry) : List TlbEntry := l.filter fun e => !p e.asn e.vpn
  let awaits := s.cores.flatMap fun kc => (kc.2.reqs.filter (underRemoved p)).map fun r => (kc.1, r.id)
  { s with cores := s.cores.map fun kc => (kc.1, { kc.2 with
             tlb := keep kc.2.tlb,
             reqs := kc.2.reqs.map fun r => if r.st == .unsent then { unparked p r with st := .unsent } else r,
             groups := kc.2.groups.map fun g => (g.1, { g.2 with parked := g.2.parked.map (unparked p) }) }),
           north := { s.north with tlb := keep s.north.tlb }, south := { s.south with tlb := keep s.south.tlb },
           xl := { s.xl with busy := true, awaits } }

/-- Which translations a request of a kind names. -/
def xlinvNames (v : DWord) (asn vpn : Nat) : Bool :=
  match v.toNat / 2 ^ 48 % 4 with
  | 0 => asn == v.toNat / 2 ^ 36 % 4096 && vpn == v.toNat % 2 ^ 36
  | 1 => asn == v.toNat / 2 ^ 36 % 4096
  | _ => true

/-- A write of XLINV: GO starts an invalidation, or is dropped with ERR. -/
def writeXlinv (v : DWord) (s : State) : State :=
  if !v.getLsbD 63 then { s with xl := { s.xl with xlinv := v } }
  else
    let v' := v &&& 0x7FFFFFFFFFFFFFFF
    let s := { s with xl := { s.xl with xlinv := v' } }
    if s.xl.busy || v'.toNat / 2 ^ 48 % 4 == 3 || v'.toNat / 2 ^ 50 != 0 then
      { s with xl := { s.xl with err := true } }
    else invalidate (xlinvNames v') s

/-- The invalidation completes when none of those requests still waits. -/
def xlinvDone (s : State) : Bool :=
  s.xl.busy && !s.xl.awaits.any fun a => (s.coreAt a.1).reqs.any fun r => r.id = a.2 && r.st == .waiting
def completeXlinv (s : State) : State :=
  if xlinvDone s then { s with xl := { s.xl with busy := false, awaits := [], done := s.xl.done + 1 } } else s

/-! ### Debugger (R329, R330, R337) -/

/-- The group DBGCTL selects, on a die: core key, group key, and whether it is a saved one. Keys 32 to 63 are the
indices 0 to 31 of groups that took the core by a swap, and of those beside them (log entry 28). -/
def dbgTarget (d : Nat) (v : DWord) (s : State) : Nat × Nat × Bool :=
  let k := 208 * d + v.toNat % 256
  let i := v.toNat / 256 % 32
  let here (j : Nat) : Bool := match mapFind (s.coreAt k).groups j with
    | some g => (g.place == .saved) == v.getLsbD 26
    | none => false
  (k, if !here i && here (i + 32) then i + 32 else i, v.getLsbD 26)

def State.dbgGroup (s : State) (t : Nat × Nat × Bool) : Option Group :=
  match mapFind (s.coreAt t.1).groups t.2.1 with
  | some g => if (g.place == .saved) == t.2.2 then some g else none
  | none => none

def State.setDbgGroup (s : State) (t : Nat × Nat × Bool) (g : Group) : State := s.setGroupAt t.1 t.2.1 g

/-- A stop is taken: blocked waits are abandoned, to be reissued (R330). -/
def Group.stoppedNow (g : Group) : Group :=
  { g with stopped := true, stopReq := false, stepSlot := none,
           splits := g.splits.map fun e =>
             (e.1, if e.2.st == .blocked && e.2.wait.isSome then { e.2 with st := .ready, wait := none } else e.2) }

/-- A group's DEBUGSTOP event (R327, R330): core and group. -/
def debugStopEvent (k g : Nat) (s : State) : State :=
  raiseEvent (dieOf k) (masterNum 0 (dieOf k) (coreNum k)) 5 (leBytes 8 (coreNum k) ++ leBytes 8 (g % 32)) s

/-- Whether a requested stop can be set: every load in flight has landed, and no split is inside a run (R330). -/
def Group.canStop (g : Group) : Bool :=
  g.live && g.stopReq && !g.splits.any (fun e => e.2.midRun) &&
    !g.oplog.any fun e => e.2.st == .inFlight || e.2.st == .replaying

/-- STOP (R330): a saved group stops at once. -/
def dbgStop (t : Nat × Nat × Bool) (s : State) : State :=
  match s.dbgGroup t with
  | none => s
  | some g =>
    if !g.live || g.stopped then s
    else if t.2.2 then debugStopEvent t.1 t.2.1 (s.setDbgGroup t g.stoppedNow)
    else s.setDbgGroup t { g with stopReq := true }

/-- Where a cancelled load stands when it goes out again: a NACKed line is still to be translated, a performed one keeps
its value (R58), one of a peer waits for its buffered stores or leaves. -/
def Req.replaySt (r : Req) : ReqSt :=
  if r.st == .nacked || r.st == .performed then r.st else if r.space = 3 ∧ r.after.isEmpty then .remote else .waiting

/-- Replay the cancelled loads of a resident group in log order: to their slices, or to their peers (R321). -/
def replayParked (k gi : Nat) (s : State) : State :=
  let g := s.groupAt k gi
  let c := s.coreAt k
  let n := c.nextReq
  let rs := g.parked.zipIdx.map fun r =>
    { r.1 with id := n + r.2, grp := gi, st := r.1.replaySt }
  let log := g.oplog.map fun e => (e.1, if e.2.st == .pending then { e.2 with st := .replaying } else e.2)
  let s := (s.setCore k { c with reqs := c.reqs ++ rs, nextReq := n + rs.length }).setGroupAt k gi
    { g with parked := [], oplog := log }
  (rs.filter fun r => r.st == .remote).foldl (fun t r => sendRequest k r t) s

/-- A stopped group goes on, all of it or one split for one instruction; its cancelled loads replay (R330). -/
def resumeGroup (t : Nat × Nat × Bool) (slot : Option Nat) (s : State) : State :=
  match s.dbgGroup t with
  | none => s
  | some g =>
    let s := s.setDbgGroup t { g with stopped := false, stopReq := false, frz := false, stepSlot := slot }
    if t.2.2 then s else replayParked t.1 t.2.1 s

/-- The group was stopped by a freeze, which only FRZREL ends (R325). -/
def State.frozenGroup (s : State) (t : Nat × Nat × Bool) : Bool := ((s.dbgGroup t).map (·.frz)).getD false

/-- RESUME (R330). -/
def dbgResume (t : Nat × Nat × Bool) (s : State) : State :=
  if s.frozenGroup t then s else resumeGroup t none s

/-- STEP: the split issues one instruction, and the group stops again (R329). -/
def dbgStep (t : Nat × Nat × Bool) (slot : Nat) (s : State) : State :=
  if s.frozenGroup t || !((s.dbgGroup t).map (·.stopped)).getD false then s else resumeGroup t (some slot) s

/-- CANCEL frees a cancelled entry; its registers keep their values (R330). -/
def dbgCancel (t : Nat × Nat × Bool) (n : Nat) (s : State) : State :=
  match s.dbgGroup t with
  | none => s
  | some g =>
    match mapFind g.oplog n with
    | none => s
    | some e =>
      if e.st == .pending then
        s.setDbgGroup t { g with oplog := mapDel g.oplog n, parked := g.parked.filter fun r => r.ser != e.ser }
      else s

/-- The fields that DBGCTL keeps. -/
def dbgctlKeep : DWord := 0x5F71FFF

/-- A write of DBGCTL: BKSTOP goes to the group; the action bits act (R329). -/
def writeDbgctl (d : Nat) (v : DWord) (s : State) : State :=
  let s := s.setDie d { s.dieAt d with dbgctl := v &&& dbgctlKeep }
  let t := dbgTarget d v s
  match s.dbgGroup t with
  | none => s
  | some g =>
    let s := s.setDbgGroup t { g with bkstop := v.getLsbD 18 }
    let s := if v.getLsbD 13 then dbgStop t s else s
    let s := if v.getLsbD 14 then dbgResume t s else s
    let s := if v.getLsbD 15 then dbgStep t (v.toNat / 2 ^ 16 % 4) s else s
    if v.getLsbD 19 then dbgCancel t (v.toNat / 2 ^ 20 % 32) s else s

/-- DBGCTL as it reads. -/
def readDbgctl (d : Nat) (s : State) : DWord :=
  let v := (s.dieAt d).dbgctl
  match s.dbgGroup (dbgTarget d v s) with
  | some g => v ||| (if g.stopped then 0x2000000 else 0)
  | none => v

/-- A lane register lane that a cancelled load writes when it replays (R330). -/
def Group.pendingReg (g : Group) (r l : Nat) : Bool :=
  g.oplog.any fun e => e.2.st == .pending && decide (e.2.dest ≤ r) && decide (r < e.2.dest + e.2.nreg) &&
    laneIn e.2.wr l

/-- A split slot as the debugger sees it: the fields of R261 in order, lowest first (log entry 18). -/
def Split.bits (p : Split) : BitVec 256 :=
  let st : BitVec 2 := match p.st with | .free => 0 | .ready => 1 | .blocked => 2 | .joinwait => 3
  (st ++ p.cre ++ p.ypri ++ BitVec.ofBool p.yld ++ p.pri ++ p.exec ++ p.mask ++ p.pc : BitVec 146).setWidth 256

/-- A split slot from its bits. -/
def Split.ofBits (p : Split) (x : BitVec 256) : Split :=
  let f (lo n : Nat) : BitVec n := (x >>> lo).setWidth n
  let st : SplitSt := match (f 144 2).toNat with | 0 => .free | 1 => .ready | 2 => .blocked | _ => .joinwait
  { p with st, pc := f 0 15, mask := f 15 48, exec := f 63 48, pri := f 111 8, yld := x.getLsbD 119, ypri := f 120 8,
           cre := f 128 16, phase := if f 0 15 = p.pc then p.phase else 0,
           search := if f 0 15 = p.pc then p.search else none }

/-- An operand-log entry as the debugger sees it: the first fields of R320 in order (log entry 18). -/
def LogEntry.bits (e : LogEntry) : BitVec 256 :=
  let st : BitVec 2 := match e.st with | .free => 0 | .inFlight => 1 | .pending => 2 | .replaying => 3
  (e.recv ++ e.lanes ++ BitVec.ofNat 3 e.nreg ++ BitVec.ofNat 8 e.dest ++ BitVec.ofNat 2 e.slot ++
    BitVec.ofNat 4 e.kind ++ st : BitVec 195).setWidth 256

/-- An operand-log entry from its bits (log entry 18); a lane no longer owed is not written. -/
def LogEntry.ofBits (e : LogEntry) (x : BitVec 256) : LogEntry :=
  let f (lo n : Nat) : BitVec n := (x >>> lo).setWidth n
  let st : LogSt := match (f 0 2).toNat with | 0 => .free | 1 => .inFlight | 2 => .pending | _ => .replaying
  { e with st, kind := (f 2 4).toNat, slot := (f 6 2).toNat, dest := (f 8 8).toNat, nreg := (f 16 3).toNat,
           lanes := f 19 48, wr := e.wr &&& f 19 48, recv := f 67 128 }

/-- A write of an operand-log entry by the debugger; STATE 0 frees it, with its loads (log entry 18). -/
def Group.writeLog (g : Group) (n : Nat) (x : BitVec 256) : Group :=
  let e := (mapGet {} g.oplog n).ofBits x
  if e.st == .free then { g with oplog := mapDel g.oplog n, parked := g.parked.filter fun r => r.ser != e.ser }
  else { g with oplog := mapSet g.oplog n e }

/-- The 64-bit part of a wide value. -/
def part64 (x : BitVec 256) (w : Nat) : DWord := (x >>> (64 * w)).setWidth 64
def setPart64 (x : BitVec 256) (w : Nat) (v : DWord) : BitVec 256 :=
  (x &&& ~~~(BitVec.setWidth 256 (0xFFFFFFFFFFFFFFFF : DWord) <<< (64 * w))) ||| (v.setWidth 256 <<< (64 * w))

/-- DBGDATA read (R337): value and whether the register is pending. -/
def readDbgdata (d : Nat) (s : State) : DWord × Bool :=
  let r := (s.dieAt d).dbgreg.toNat
  let idx := r / 8 % 256
  let lane := r / 2 ^ 11 % 64
  let w := r / 2 ^ 17 % 4
  match s.dbgGroup (dbgTarget d (s.dieAt d).dbgctl s) with
  | none => (0, false)
  | some g =>
    if !g.stopped then (0, false)
    else match r % 8 with
      | 0 => if g.pendingReg idx lane then (0, true) else ((g.vAt idx lane).setWidth 64, false)
      | 1 => (g.sAt (idx % 128), false)
      | 2 => (if laneIn (g.pAt (idx % 16)) lane then 1 else 0, false)
      | 3 => ((g.xAt (idx % 4)).setWidth 64, false)
      | 4 => (g.bAt true (idx % 8) lane ++ g.bAt false (idx % 8) lane, false)
      | 5 => (part64 ((g.dAt (idx % 32)).setWidth 256) w, false)
      | 6 => (part64 (g.split (idx % 4)).bits w, false)
      | _ => (part64 (mapGet {} g.oplog (idx % 32)).bits w, false)

/-- DBGDATA write (R337, R330). -/
def writeDbgdata (d : Nat) (v : DWord) (s : State) : State :=
  let r := (s.dieAt d).dbgreg.toNat
  let idx := r / 8 % 256
  let lane := r / 2 ^ 11 % 64
  let w := r / 2 ^ 17 % 4
  let t := dbgTarget d (s.dieAt d).dbgctl s
  let one : Lanes := BitVec.ofNat 48 (2 ^ lane)
  match s.dbgGroup t with
  | none => s
  | some g =>
    if !g.stopped then s
    else s.setDbgGroup t (match r % 8 with
      | 0 => g.setV idx one fun _ => v.setWidth 32
      | 1 => g.setS (idx % 128) v
      | 2 => g.setP (idx % 16) one (if v.getLsbD 0 then one else 0)
      | 3 => g.setX (idx % 4) (v.setWidth 16)
      | 4 => (g.setB true (idx % 8) one fun _ => (v >>> 32).setWidth 32).setB false (idx % 8) one fun _ => v.setWidth 32
      | 5 => g.setD (idx % 32) ((setPart64 ((g.dAt (idx % 32)).setWidth 256) w v).setWidth 128)
      | 6 => g.setSplit (idx % 4) ((g.split (idx % 4)).ofBits (setPart64 (g.split (idx % 4)).bits w v))
      | _ => g.writeLog (idx % 32) (setPart64 (mapGet {} g.oplog (idx % 32)).bits w v))

/-- A DBGDATA read also sets PEND. -/
def noteDbgRead (d : Nat) (s : State) : State :=
  let e := s.dieAt d
  let p : DWord := if (readDbgdata d s).2 then 0x8000000000000000 else 0
  s.setDie d { e with dbgreg := (e.dbgreg &&& 0x7FFFFFFFFFFFFFFF) ||| p }

/-! ### Freezing (R325, R326) -/

/-- Every resident group of a frozen core stops as at a debugger stop (R325). -/
def Core.freezeGroups (c : Core) : Core :=
  { c with groups := c.groups.map fun e =>
      (e.1, if e.2.live && e.2.place == .resident && !e.2.stopped then { e.2 with stopReq := true, frz := true } else e.2) }

/-- A bus-level violation: the master is frozen and a FREEZE event is raised with the refused address. -/
def freezeMaster (m : Nat) (va : Nat) (s : State) : State :=
  let d := m / 256 % 2
  let k := 208 * d + m % 256
  let s := if m ≥ 32768 then { s with host := { s.host with frozen := true } }
    else match m / 512 % 8 with
      | 0 => s.setCore k ({ s.coreAt k with frozen := true }).freezeGroups
      | 1 => s.setCore k { s.coreAt k with frozenEng := mapSet (s.coreAt k).frozenEng 0 true }
      | 2 => s.setCore k { s.coreAt k with frozenEng := mapSet (s.coreAt k).frozenEng 1 true }
      | 3 => s.setCore k { s.coreAt k with frozenEng := mapSet (s.coreAt k).frozenEng 2 true }
      | _ => s
  raiseEvent d m 3 (leBytes 8 va ++ leBytes 8 m) s

/-- A release by FRZREL: a frozen core's groups go on as after a debugger resume (R336), also one that a swap has saved
meanwhile. -/
def releaseMaster (m : Nat) (s : State) : State :=
  let d := m / 256 % 2
  let k := 208 * d + m % 256
  if m ≥ 32768 then { s with host := { s.host with frozen := false } }
  else match m / 512 % 8 with
    | 0 =>
      if (s.coreAt k).frozen then
        ((s.coreAt k).groups.filter fun e => e.2.frz).foldl (fun t e => resumeGroup (k, e.1, e.2.place == .saved) none t)
          (s.setCore k { s.coreAt k with frozen := false })
      else s
    | 1 => s.setCore k { s.coreAt k with frozenEng := mapSet (s.coreAt k).frozenEng 0 false }
    | 2 => s.setCore k { s.coreAt k with frozenEng := mapSet (s.coreAt k).frozenEng 1 false }
    | 3 => s.setCore k { s.coreAt k with frozenEng := mapSet (s.coreAt k).frozenEng 2 false }
    | _ => s

/-! ### The register map -/

/-- A version table entry as its 256 bits (R73); a free one shows its reset value. -/
def Version.bits (v : Version) : BitVec 256 :=
  let st := match v.st with | .free => 0 | .live => 1 | .closed => 2 | .committed => 3 | .squashed => 4
  if v.st == .free then BitVec.ofNat 256 (2 ^ 96 * 0xFFFFFFFF)
  else BitVec.ofNat 256 (v.parent % 256 + 2 ^ 8 * (v.depth % 32) + 2 ^ 13 * st + (if v.permit then 2 ^ 16 else 0) +
    (if v.foreign then 2 ^ 17 else 0) + 2 ^ 18 * (v.origin % 64) + 2 ^ 24 * (v.ovid % 256) +
    2 ^ 32 * (v.asn % 4096) + 2 ^ 48 * v.cstamp.toNat + 2 ^ 64 * v.spawnseq.toNat + 2 ^ 96 * v.kvhead.toNat +
    2 ^ 128 * v.peers.toNat + 2 ^ 192 * (v.kvpool % 2 ^ 57))

/-- A split that waits in a store for the room of R80. -/
def Split.storeHeld (p : Split) : Bool :=
  p.st == .blocked && decide (p.phase = 2) && (match p.wait with
    | some (.stb _) | some (.sth _) | some (.stw _) | some (.std _) | some (.stq _) | some (.stbOrdered _)
    | some (.sthOrdered _) | some (.stwOrdered _) | some (.stdOrdered _) | some (.stqOrdered _) => true
    | _ => false)

/-- VSTAT (R78); without a spill area FULL keeps its reset value. -/
def State.vstat (s : State) : DWord :=
  let wait := (s.vers.tab.filter fun e => e.2.st == .committed || e.2.st == .squashed).length
  let noslot := s.cores.any fun c => c.2.reqs.any (fun r => r.stalled) ||
    c.2.groups.any fun g => g.2.live && g.2.splits.any fun p => p.2.storeHeld
  BitVec.ofNat 64 ((if s.vers.vsen && s.spillFull then 1 else 0) + (if noslot then 2 else 0) + 2 ^ 32 * wait)

/-- SPECPOOL (R301). -/
def Die.specpool (e : Die) : DWord := BitVec.ofNat 64 (e.cap.toNat + 256 * e.limit.toNat + 65536 * e.held_.toNat)

/-- A sequence-table entry (R291): H is 256 at reset. -/
def Die.seqEntry (e : Die) (n : Nat) : Nat :=
  (mapGet 256 e.seqH n).toNat + (if mapGet false e.seqActive n then 65536 else 0)

/-- A caravan table entry (R259); one without a caravan shows its reset value. -/
def Caravan.bits (c : Caravan) : BitVec 256 :=
  if !c.valid then BitVec.ofNat 256 (2 ^ 128 * c.cairn.toNat)
  else BitVec.ofNat 256 (1 + 2 * c.scope.toNat + 2 ^ 4 * (c.home % 128) + 2 ^ 16 * (c.members % 2 ^ 24) +
    2 ^ 40 * (c.arrived % 2 ^ 24) + 2 ^ 64 * c.gen.toNat + 2 ^ 128 * c.cairn.toNat)

/-- A grid is resident on a die: a block of it stands on one of the die's cores (R335). -/
def State.residentOn (s : State) (d gid : Nat) : Bool :=
  s.cores.any fun c => dieOf c.1 == d && c.2.blocks.any fun b => b.2.live && b.2.place == .resident && b.2.gid == gid

/-- The launch block of a die, by 8-byte offset. -/
def readLaunchBlock (d o : Nat) (s : State) : DWord :=
  let e := s.dieAt d
  if o = 0 then e.specpool
  else if 0x400 ≤ o ∧ o < 0x800 then
    BitVec.ofNat 64 (e.seqEntry ((o - 0x400) / 4) + 2 ^ 32 * e.seqEntry ((o - 0x400) / 4 + 1))
  else if 0x800 ≤ o ∧ o < 0x900 then
    BitVec.ofNat 64 ((mapGet 0 e.trbar ((o - 0x800) / 4)).toNat + 2 ^ 32 * (mapGet 0 e.trbar ((o - 0x800) / 4 + 1)).toNat)
  else if o = 0x1000 then e.cvsel
  else if 0x2000 ≤ o ∧ o < 0x4000 then
    match mapFind s.grids e.cvsel.toNat with
    | some g => if g.st != .ended && s.residentOn d e.cvsel.toNat then
        part64 (mapGet {} g.caravans ((o - 0x2000) / 32)).bits ((o - 0x2000) / 8 % 4) else 0
    | none => 0
  else if d = 0 ∧ o = 0x4000 then s.host.w2
  else if d = 0 ∧ o = 0x4008 then (if s.host.w2err then 1 else 0)
  else if 0x4100 ≤ o ∧ o < 0x4180 ∧ o % 16 = 0 then mapGet 0 e.ethRing ((o - 0x4100) / 16)
  else 0

/-- The identity block (R333). -/
def readIdentity (o : Nat) (s : State) : DWord :=
  if o = 0x000 then Config.devId.setWidth 64
  else if o = 0x010 then s.id.featoff
  else if o = 0x020 then s.id.featacc
  else if o = 0x028 then s.id.featacc1
  else if o = 0x030 then (if s.id.lock then 1 else 0) ||| (if s.id.featErr then 2 else 0)
  else if o = 0x040 then BitVec.ofNat 64 (s.id.stage % 16 + 16 * (s.id.fail % 16) + 256 * (s.id.image % 256))
  else if o = 0x048 then s.id.pkg.setWidth 64
  else if o = 0x050 then s.id.podmask
  else if 0x100 ≤ o ∧ o < 0x200 then part64 (mapGet 0 s.id.meas ((o - 0x100) / 32)) ((o - 0x100) / 8 % 4)
  else 0

/-- The translation block (R51). -/
def readXlBlock (o : Nat) (s : State) : DWord :=
  if o < 0x50 then mapGet 0 s.xl.ptbase (o / 8)
  else if 0x80 ≤ o ∧ o < 0xD0 then mapGet 0 s.xl.anchbase ((o - 0x80) / 8)
  else if o = 0x100 then mapGet 0 s.xl.wearbase 0
  else if o = 0x108 then mapGet 0 s.xl.wearbase 1
  else if o = 0x110 then s.xl.wearlim
  else if o = 0x120 then s.xl.xlinv
  else if o = 0x128 then
    (if s.xl.busy then 1 else 0) ||| (if s.xl.err then 2 else 0) ||| (s.xl.done.setWidth 64 <<< 16)
  else 0

/-- The version block (R73, R78). -/
def readVerBlock (o : Nat) (s : State) : DWord :=
  if o = 0x000 then s.vers.vsbase
  else if o = 0x008 then s.vers.vslog
  else if o = 0x010 then (if s.vers.vsen then 1 else 0)
  else if o = 0x018 then (if s.vers.vsen then BitVec.ofNat 64 s.vsfree else 0)
  else if o = 0x020 then s.vers.vsres
  else if o = 0x028 then s.vstat
  else if 0x1020 ≤ o ∧ o < 0x3000 then part64 (s.ver ((o - 0x1000) / 32)).bits ((o - 0x1000) / 8 % 4)
  else 0

/-- The event block of a die (R336). -/
def readEventBlock (d o : Nat) (s : State) : DWord :=
  let e := s.dieAt d
  match o with
  | 0x00 => e.evbase
  | 0x08 => e.evlog
  | 0x10 => e.evtail
  | 0x18 => e.evhead
  | _ => 0

/-- The debug window of a die (R337); without feature 7 it reads 0 (R339). -/
def readDebug (d o : Nat) (s : State) : DWord :=
  if !s.accepted 7 then 0
  else match o with
    | 0x00 => readDbgctl d s
    | 0x08 => (s.dieAt d).dbgreg
    | 0x10 => (readDbgdata d s).1
    | _ => 0

/-- The 8 bytes at a BAR0 offset that is a multiple of 8 (R332). -/
def readReg (o : Nat) (s : State) : DWord :=
  if o < 0x1000 then readIdentity o s
  else if o < 0x2000 then
    (match o with
      | 0x1000 => s.id.pwr.setWidth 64
      | 0x1008 => s.id.capw.setWidth 64
      | 0x1010 => s.id.temp.setWidth 64
      | 0x1018 => s.id.clkmhz
      | _ => 0)
  else if 0x10000 ≤ o ∧ o < 0x11000 then readXlBlock (o - 0x10000) s
  else if 0x20000 ≤ o ∧ o < 0x24000 then readVerBlock (o - 0x20000) s
  else if 0x40000 ≤ o ∧ o < 0x50000 then readLaunchBlock 0 (o - 0x40000) s
  else if 0x60000 ≤ o ∧ o < 0x70000 then readLaunchBlock 1 (o - 0x60000) s
  else if 0x80000 ≤ o ∧ o < 0x81000 then readEventBlock 0 (o - 0x80000) s
  else if 0x81000 ≤ o ∧ o < 0x82000 then readEventBlock 1 (o - 0x81000) s
  else if 0x100000 ≤ o ∧ o < 0x180000 then readDebug 0 (o - 0x100000) s
  else if 0x180000 ≤ o ∧ o < 0x200000 then readDebug 1 (o - 0x180000) s
  else 0

/-- `n` bytes (4 or 8, aligned) at an offset. -/
def readRegBytes (o n : Nat) (s : State) : List Byte :=
  ((leBytes 8 (readReg (o / 8 * 8) s).toNat).drop (o % 8)).take n

/-- What a read of DBGDATA leaves behind. -/
def afterRegRead (o n : Nat) (s : State) : State :=
  if !s.accepted 7 then s
  else if o / 8 * 8 = 0x100010 ∧ n > 0 then noteDbgRead 0 s
  else if o / 8 * 8 = 0x180010 ∧ n > 0 then noteDbgRead 1 s
  else s

/-- Bits [lo+n-1:lo] of a value kept, the rest zero. -/
def keepBits (v : DWord) (lo n : Nat) : DWord := BitVec.ofNat 64 (v.toNat / 2 ^ lo % 2 ^ n * 2 ^ lo)

/-- ACTIVE of one sequence slot (R291). -/
def writeSeqActive (d n : Nat) (x : Word) (s : State) : State :=
  s.setDie d { s.dieAt d with seqActive := mapSet (s.dieAt d).seqActive n (x.getLsbD 16) }

/-- The launch block: `v` the merged value, `lo` and `hi` the halves written, `w1c` the bits written as 1. -/
def writeLaunchBlock (d o : Nat) (v w1c : DWord) (lo hi : Bool) (s : State) : State :=
  let e := s.dieAt d
  if o = 0 then s.setDie d { e with cap := v.setWidth 8 }
  else if 0x400 ≤ o ∧ o < 0x800 then
    let n := (o - 0x400) / 4
    let s := if lo then writeSeqActive d n (v.setWidth 32) s else s
    if hi then writeSeqActive d (n + 1) ((v >>> 32).setWidth 32) s else s
  else if o = 0x1000 then s.setDie d { e with cvsel := keepBits v 0 32 }
  else if d = 0 ∧ o = 0x4000 then { s with host := { s.host with w2 := keepBits v 0 12 ||| keepBits v 30 27 } }
  else if d = 0 ∧ o = 0x4008 then { s with host := { s.host with w2err := s.host.w2err && !w1c.getLsbD 0 } }
  else if 0x4100 ≤ o ∧ o < 0x4180 ∧ o % 16 = 0 then s.setDie d { e with ethRing := mapSet e.ethRing ((o - 0x4100) / 16) v }
  else s

/-- VSLOG: 30 to 35, while VSEN is 0 (R78). -/
def writeVslog (v : DWord) (s : State) : State :=
  if s.vers.vsen || v.toNat < 30 || v.toNat > 35 then s else { s with vers := { s.vers with vslog := v } }
/-- VSEN: once 1 it stays 1 (R78); it stays 0 unless feature 0 is accepted (R339). -/
def writeVsen (v : DWord) (s : State) : State :=
  { s with vers := { s.vers with vsen := s.vers.vsen || (v.getLsbD 0 && s.accepted 0) } }

/-- HOSTIRQ raises an MSI-X vector from 2 to 63 (R336). -/
def writeHostirq (v : DWord) (s : State) : State :=
  if 2 ≤ v.toNat ∧ v.toNat ≤ 63 then raiseMsix v.toNat s else s

/-- W1C of FEATSTAT, XLSTAT (R333, R59). -/
def clearFeatErr (w1c : DWord) (s : State) : State :=
  { s with id := { s.id with featErr := s.id.featErr && !w1c.getLsbD 1 } }
def clearXlErr (w1c : DWord) (s : State) : State :=
  { s with xl := { s.xl with err := s.xl.err && !w1c.getLsbD 1 } }

/-- The event block (R336). -/
def writeEventBlock (d o : Nat) (v : DWord) (s : State) : State :=
  let e := s.dieAt d
  match o with
  | 0x00 => s.setDie d { e with evbase := keepBits v 12 52 }
  | 0x08 => if v = 0 ∨ (6 ≤ v.toNat ∧ v.toNat ≤ 16) then s.setDie d { e with evlog := v } else s
  | 0x18 => s.setDie d { e with evhead := v }
  | 0x20 => writeHostirq v s
  | _ => s

def writeDebug (d o : Nat) (v : DWord) (s : State) : State :=
  if !s.accepted 7 then s
  else match o with
    | 0x00 => writeDbgctl d v s
    | 0x08 => s.setDie d { s.dieAt d with dbgreg := keepBits v 0 19 ||| ((s.dieAt d).dbgreg &&& 0x8000000000000000) }
    | 0x10 => writeDbgdata d v s
    | _ => s

def writeXlBlock (o : Nat) (v w1c : DWord) (s : State) : State :=
  if o < 0x50 then { s with xl := { s.xl with ptbase := mapSet s.xl.ptbase (o / 8) (keepBits v 12 52) } }
  else if 0x80 ≤ o ∧ o < 0xD0 then
    { s with xl := { s.xl with anchbase := mapSet s.xl.anchbase ((o - 0x80) / 8) (keepBits v 12 52) } }
  else if o = 0x100 then { s with xl := { s.xl with wearbase := mapSet s.xl.wearbase 0 v } }
  else if o = 0x108 then { s with xl := { s.xl with wearbase := mapSet s.xl.wearbase 1 v } }
  else if o = 0x110 then { s with xl := { s.xl with wearlim := v } }
  else if o = 0x120 then writeXlinv v s
  else if o = 0x128 then clearXlErr w1c s
  else s

def writeVerBlock (o : Nat) (v : DWord) (s : State) : State :=
  if o = 0x000 then (if s.vers.vsen then s else { s with vers := { s.vers with vsbase := v } })
  else if o = 0x008 then writeVslog v s
  else if o = 0x010 then writeVsen v s
  else if o = 0x020 then { s with vers := { s.vers with vsres := v } }
  else s

def writeIdentity (o : Nat) (v w1c : DWord) (s : State) : State :=
  if o = 0x020 then writeFeatacc v s
  else if o = 0x028 then writeFeatacc1 v s
  else if o = 0x030 then clearFeatErr w1c s
  else if o = 0x050 then { s with id := { s.id with podmask := v } }
  else s

/-- Write the 8 bytes at an offset: `lo` and `hi` say which halves are written; the other half of a register
keeps its value, and a bit that acts when written as 1 acts only in a written half. -/
def writeReg (o : Nat) (x : DWord) (lo hi : Bool) (s : State) : State :=
  let m : DWord := (if lo then 0xFFFFFFFF else 0) ||| (if hi then 0xFFFFFFFF00000000 else 0)
  let w1c := x &&& m
  let v := w1c ||| (readReg o s &&& ~~~m)
  if o < 0x1000 then writeIdentity o v w1c s
  else if 0x10000 ≤ o ∧ o < 0x11000 then writeXlBlock (o - 0x10000) v w1c s
  else if 0x20000 ≤ o ∧ o < 0x24000 then writeVerBlock (o - 0x20000) v s
  else if 0x40000 ≤ o ∧ o < 0x50000 then writeLaunchBlock 0 (o - 0x40000) v w1c lo hi s
  else if 0x60000 ≤ o ∧ o < 0x70000 then writeLaunchBlock 1 (o - 0x60000) v w1c lo hi s
  else if 0x80000 ≤ o ∧ o < 0x81000 then writeEventBlock 0 (o - 0x80000) v s
  else if 0x81000 ≤ o ∧ o < 0x82000 then writeEventBlock 1 (o - 0x81000) v s
  else if 0x100000 ≤ o ∧ o < 0x180000 then writeDebug 0 (o - 0x100000) v s
  else if 0x180000 ≤ o ∧ o < 0x200000 then writeDebug 1 (o - 0x180000) v s
  else s

/-- Write 4 or 8 aligned bytes. -/
def writeRegBytes (o : Nat) (bs : List Byte) (s : State) : State :=
  let x := leNat bs
  if bs.length = 8 then writeReg o (BitVec.ofNat 64 x) true true s
  else if o % 8 = 0 then writeReg o (BitVec.ofNat 64 x) true false s
  else writeReg (o - 4) (BitVec.ofNat 64 (x * 2 ^ 32)) false true s

/-- The device register window (R332). -/
def windowBase : Nat := 0x1FFFFFFFE000000
def inWindow (va : Nat) : Bool := windowBase ≤ va && va < 2 ^ 57

end Sys2Proof.Machine
end

