-- ==== Sys2Proof/Machine/Serve.lean ====
section
/-!
DEFINITION. How a memory request is performed (R75-R77, R125, R128-R133, R226): the bytes of its space, the
functions of the atomics, the deque operations, NACKs and replays (R57-R60), and what its core keeps of it.
-/

namespace Sys2Proof.Machine

/-! ### Requests of a core -/

def State.reqAt (s : State) (k id : Nat) : Option Req := (s.coreAt k).reqs.find? fun r => r.id = id
/-- Change a request. -/
def modReq (k id : Nat) (f : Req → Req) (s : State) : State :=
  s.setCore k { s.coreAt k with reqs := (s.coreAt k).reqs.map fun r => if r.id = id then f r else r }
/-- Remove the requests that `p` holds of. -/
def dropReqs (k : Nat) (p : Req → Bool) (s : State) : State :=
  s.setCore k { s.coreAt k with reqs := (s.coreAt k).reqs.filter fun r => !p r }
/-- Change the log entry of a request, if it is still there. -/
def modLog (k : Nat) (r : Req) (f : LogEntry → LogEntry) (s : State) : State :=
  let x := s.groupAt k r.grp
  match mapFind x.oplog r.log with
  | some e => if e.ser = r.ser then s.setGroupAt k r.grp { x with oplog := mapSet x.oplog r.log (f e) } else s
  | none => s

/-- A fault of a request's instruction, found after it issued (R49, R60, R126, R133). -/
def requestFault (k : Nat) (r : Req) (code : Nat) (detail : Nat) (expgen : BitVec 16) (s : State) : State :=
  let f : FaultRec := { code, detail := BitVec.ofNat 64 detail, blk := (s.blockAt k r.blk).blk, coreN := s.coreN k,
                        grpin := (s.groupAt k r.grp).grpin, slot := r.slot, pc := r.pc, expgen,
                        lease := if r.space = 3 then 0 else s.leaseFor r.asn code detail }
  modReq k r.id (fun q => { q with refusedAt := some detail, st := .performed }) (reportFault r.gid f s)

/-- The first byte of the lowest-numbered lane of a request (R370). -/
def Req.firstAddr (r : Req) : Nat :=
  match r.lanes with
  | x :: _ => x.addr
  | [] => match r.data with
    | b :: _ => b.1
    | [] => 128 * r.line

/-- Byte offsets in its line that a request names. -/
def Req.offsets (r : Req) : List Nat :=
  r.lanes.flatMap (fun x => (List.range x.size).map fun i => (x.addr + i) % 128) ++ r.data.map fun b => b.1 % 128

/-! ### The bytes of a space -/

/-- Physical address of an address of the request's page. -/
def Req.physical (r : Req) (a : Nat) : Nat := 128 * r.pa + a % 128

/-- Read bytes of the request's line. -/
def spaceRead (k : Nat) (r : Req) (a n : Nat) (s : State) : List Byte :=
  if r.window then readRegBytes (a - windowBase) n s
  else match r.space with
    | 1 => memBytes (s.blockAt k r.blk).shared a n
    | 2 => memBytes (s.blockAt k r.blk).tile a n
    | _ => s.viewBytes r.vid (r.physical a) n

/-- Write bytes of the request's line. -/
def spaceWrite (k : Nat) (r : Req) (bs : List (Nat × Byte)) (s : State) : State :=
  let b := s.blockAt k r.blk
  match r.space with
  | 1 => s.setBlockAt k r.blk { b with shared := memSetAll b.shared bs }
  | 2 => s.setBlockAt k r.blk { b with tile := memSetAll b.tile bs }
  | _ => writeLine r.vid r.pa (bs.map fun c => (r.physical c.1, c.2)) (classOf r.policy) s

/-! ### Values that come back -/

/-- The registers that `n` bytes fill, lowest first (R128). -/
def loadWords : Nat → List Byte → List Word
  | 0, _ => []
  | n + 1, bs => BitVec.ofNat 32 (leNat (bs.take 4)) :: loadWords n (bs.drop 4)

/-- Values for one lane of a log entry. -/
def LogEntry.land (e : LogEntry) (lane : Nat) (ws : List Word) : LogEntry :=
  { e with data := ws.zipIdx.foldl (fun m w => mapSet m (64 * w.2 + lane) w.1) e.data,
           lanes := e.lanes &&& ~~~(BitVec.ofNat 48 (2 ^ lane)) }

/-- One lane of a load has its bytes. -/
def landLoad (k : Nat) (r : Req) (x : ReqLane) (bs : List Byte) (s : State) : State :=
  modLog k r (fun e => e.land x.lane (loadWords ((x.size + 3) / 4) bs)) s

/-- Every lane of a load reads its bytes. -/
def loadLanes (k : Nat) (r : Req) (s : State) : State :=
  r.lanes.foldl (fun t x => landLoad k r x (spaceRead k r x.addr x.size t) t) s

/-- Every lane of a request returns zeros (R77). -/
def zeroLanes (k : Nat) (r : Req) (s : State) : State :=
  r.lanes.foldl (fun t x => landLoad k r x (List.replicate x.size 0) t) s

/-! ### Atomics (R130, R131) -/

/-- The new word of an atomic, in the table's order of functions; none: nothing is written. -/
def atomWord (func : Nat) (m x y : Word) : Option Word :=
  match func with
  | 0 => some (m + x)
  | 1 => some (if x.toInt < m.toInt then x else m)
  | 2 => some (if m.toInt < x.toInt then x else m)
  | 3 => some (if x.toNat < m.toNat then x else m)
  | 4 => some (if m.toNat < x.toNat then x else m)
  | 5 => some (m &&& x)
  | 6 => some (m ||| x)
  | 7 => some (m ^^^ x)
  | 8 => some x
  | 9 => if m = x then some y else none
  | _ => some (f32Add m x)

/-- One lane of an atomic at its performing point. -/
def atomLane (k : Nat) (r : Req) (s : State) (x : ReqLane) : State :=
  let m := BitVec.ofNat 32 (leNat (spaceRead k r x.addr 4 s))
  let t := match atomWord r.func m x.x x.y with
    | some w => spaceWrite k r (atAddr x.addr (leBytes 4 w.toNat)) s
    | none => s
  modLog k r (fun e => e.land x.lane [m]) t

/-! ### Deques (R132, R133) -/

/-- A deque's header. -/
structure Deque where
  top : Nat
  bottom : Nat
  logcap : Nat
  arr : Nat
  ok : Bool

def readDeque (bs : List Byte) : Deque :=
  let f (o n : Nat) := leNat ((bs.drop o).take n)
  { top := f 0 4, bottom := f 4 4, logcap := f 8 4, arr := f 16 8,
    ok := 1 ≤ f 8 4 && f 8 4 ≤ 20 && f 12 4 == 0 && f 24 8 == 0 && f 16 8 % 4 == 0 }

/-- Why an element of a deque cannot be reached: the fault of its check, or a PUSH that must wait for room (R80). -/
inductive ElemStop where
  | fault (code detail : Nat)
  | stall
deriving DecidableEq, Repr

/-- Where an element of a deque is reached: a request of its own line. A POP or STEAL reads it there, settled; a PUSH
stores to it, which reads the whole line where it makes a copy and nothing else (R75-R77, R133). -/
def elementReq (k : Nat) (r : Req) (a : Nat) (s : State) : Except (ElemStop × State) (Req × State) :=
  if r.space = 1 then
    if a + 4 ≤ (s.blockAt k r.blk).sharedSize then .ok ({ r with line := a / 128 }, s)
    else .error (.fault 0x11 (max a (s.blockAt k r.blk).sharedSize % 2 ^ 32 + 2 ^ 32), s)
  else match (s.gridAt r.gid).firstRefused true a 4 with
    | some _ => .error (.fault 0x10 a, s)
    | none => match resolveVa (dieOf k) r.asn a true true s with
      | (.at_ pa, s) =>
        let l := lineOf pa
        let q : Req := { r with pa := l, line := a / 128 }
        match (if r.func = 0 then s.storeFault r.vid l else s.readFault r.vid pa 4) with
        | some b => .error (.fault 0x14 b, s)
        | none => .ok (q, if r.func = 0 then s
            else noteLine r.vid l (sectorsOf l pa 4) (classOf r.policy) (settle l s))
      | (.refused, s) => .error (.fault 0x10 a, s)
      | (.unreadable b, s) => .error (.fault 0x14 b, s)

/-- A PUSH has room for its element's line and its header's, in the order in which it writes them (R80). -/
def pushRoom (r q : Req) (s : State) : Bool :=
  r.space = 1 || s.roomLines r.vid (classOf r.policy) [q.pa, r.pa]

/-- The element's line leaves the issuing core's L1, or its fused slice, as the header's does (R124). -/
def elemDone (k : Nat) (r q : Req) (s : State) : State :=
  if r.space = 1 then s else l1Remove k (s.gridAt r.gid).fuse q.pa s

/-- The header's TOP and BOTTOM written back. -/
def dequeCounts (top bottom a : Nat) : List (Nat × Byte) := atAddr a (leBytes 4 top ++ leBytes 4 bottom)

/-- A lane's answer. -/
def dqAnswer (k : Nat) (r : Req) (lane : Nat) (w : Word) (s : State) : State :=
  modLog k r (fun e => e.land lane [w]) s

/-- A malformed header clips the lane (R121, R133). -/
def dqClip (k : Nat) (r : Req) (lane : Nat) (s : State) : State :=
  let g := s.groupAt k r.grp
  dqAnswer k r lane 0 (s.setGroupAt k r.grp (g.setClip (BitVec.ofNat 48 (2 ^ lane))))

/-- One lane of a DQOP: header and element in one step, or why its element cannot be reached. -/
def dqLane (k : Nat) (r : Req) (x : ReqLane) (s : State) : Except (ElemStop × State) State :=
  let h := readDeque (spaceRead k r x.addr 32 s)
  if !h.ok then .ok (dqClip k r x.lane s)
  else
    let c := 2 ^ h.logcap
    let size := (h.bottom + 2 ^ 32 - h.top) % 2 ^ 32
    let elem (i : Nat) : Nat := h.arr + 4 * (i % c)
    let fail : State := dqAnswer k r x.lane 0xFFFFFFFF s
    match r.func with
    | 0 =>
      if x.x = 0xFFFFFFFF ∨ size ≥ c then .ok fail
      else match elementReq k r (elem h.bottom) s with
        | .error e => .error e
        | .ok (q, s) =>
          if !pushRoom r q s then .error (.stall, s)
          else
            let t := elemDone k r q (spaceWrite k q (atAddr (elem h.bottom) (leBytes 4 x.x.toNat)) s)
            .ok (dqAnswer k r x.lane 0 (spaceWrite k r (dequeCounts h.top ((h.bottom + 1) % 2 ^ 32) x.addr) t))
    | 1 =>
      if size = 0 then .ok fail
      else
        let b := (h.bottom + 2 ^ 32 - 1) % 2 ^ 32
        match elementReq k r (elem b) s with
        | .error e => .error e
        | .ok (q, s) =>
          let w := BitVec.ofNat 32 (leNat (spaceRead k q (elem b) 4 s))
          .ok (dqAnswer k r x.lane w (spaceWrite k r (dequeCounts h.top b x.addr) (elemDone k r q s)))
    | _ =>
      if size = 0 then .ok fail
      else match elementReq k r (elem h.top) s with
        | .error e => .error e
        | .ok (q, s) =>
          let w := BitVec.ofNat 32 (leNat (spaceRead k q (elem h.top) 4 s))
          .ok (dqAnswer k r x.lane w (spaceWrite k r (dequeCounts ((h.top + 1) % 2 ^ 32) h.bottom x.addr) (elemDone k r q s)))

/-! ### Program order of one split (R227, R228) -/

/-- Two requests are made to one space: of one block, or of one peer. -/
def Req.sameSpace (a b : Req) : Bool :=
  a.space == b.space && a.window == b.window && a.peer == b.peer && ((a.space != 1 && a.space != 2) || a.blk == b.blk)

/-- Two requests name a common byte. A page that has moved is the same page: addresses are compared, not frames. -/
def Req.sameByte (a b : Req) : Bool :=
  a.sameSpace b && a.line == b.line && a.offsets.any fun o => b.offsets.contains o

/-- The arrays of the deques that a DQOP names, as their headers stand: address and bytes. -/
def dequeArrays (k : Nat) (r : Req) (s : State) : List (Nat × Nat) :=
  if r.kind != .dqop then []
  else r.lanes.filterMap fun x =>
    let h := readDeque (spaceRead k r x.addr 32 (if r.space = 0 then settle r.pa s else s))
    if h.ok then some (h.arr, 4 * 2 ^ h.logcap) else none

/-- One of them is a DQOP that may reach an element where the other names a byte. -/
def elemByte (k : Nat) (a b : Req) (s : State) : Bool :=
  let meets (x : Nat × Nat) (y : ReqLane) : Bool := decide (x.1 < y.addr + y.size) && decide (y.addr < x.1 + x.2)
  a.sameSpace b && ((dequeArrays k a s).any (fun x => b.lanes.any (meets x)) ||
    (dequeArrays k b s).any fun x => a.lanes.any (meets x))

/-- Older requests of the same split, or of a split it came from, hold a request of the same byte until they are
performed (R227, R228). -/
def State.byteFree (s : State) (k : Nat) (r : Req) : Bool :=
  !(s.coreAt k).reqs.any fun q =>
    decide (q.id < r.id) && q.grp = r.grp && (q.mask &&& r.mask) != 0 && q.st != .performed &&
      (q.sameByte r || elemByte k q r s)

/-- The lanes of a DQOP in increasing order, until one faults; none: a PUSH among them must wait for room. -/
def dqLanes (k : Nat) (r : Req) : List ReqLane → State → Option State
  | [], s => some s
  | x :: xs, s =>
    match dqLane k r x s with
    | .ok t => dqLanes k r xs t
    | .error (.fault code detail, t) => some (requestFault k r code detail 0 t)
    | .error (.stall, _) => none

/-! ### Contention (R217, R218) -/

/-- Recall the lines of pages that are in home mode again (R217). -/
def recallPages (d : Nat) (home : Nat → Bool) (s : State) : State :=
  (((s.dieAt d).migrated.filter fun m => home (m.1 / 2 ^ 14)).map (·.1)).foldl (fun t l => recallLine l t) s

/-- An atomic of another die, by ι, reaches the home: the page's counter rises, and a page above 32 is in migration mode;
then the line, if the home still owns it, moves to that die. -/
def noteAtomic (from_ : Nat) (pa : Nat) (s : State) : State :=
  let d := homeDie pa
  if from_ = s.iota d then s
  else
    let e := s.dieAt d
    let page := pa / 2 ^ 21
    let old := (e.hot.find? fun h => h.page = page).getD { page, counter := 0 }
    let c := min 255 (old.counter + 1)
    let new : HotPage := { page, counter := c, migrating := old.migrating || decide (c > 32) }
    let rest := e.hot.filter fun h => h.page != page
    let s := recallPages d (fun p => (rest.drop 1023).any fun h => h.page = p)
      (s.setDie d { e with hot := new :: rest.take 1023 })
    if new.migrating && s.ownerOf (lineOf pa) == s.iota d then giveLine (lineOf pa) from_ s else s

/-! ### Serving a request (R75-R77, R226) -/

/-- A load or atomic whose log entry is gone: its lanes have exited (R316). -/
def orphan (s : State) (k : Nat) (r : Req) : Bool :=
  r.kind != .store && !(s.groupAt k r.grp).oplog.any fun e => e.2.ser = r.ser

/-- The request is performed; a load or atomic has its values in the log. -/
def performed (k : Nat) (r : Req) (s : State) : State :=
  if orphan s k r then dropReqs k (fun q => q.id = r.id) s
  else modReq k r.id (fun q => { q with st := .performed, stalled := false, at_ := s.performs, inL1 := false })
    { s with performs := s.performs + 1 }

/-- A version that no access may write or read any more (R77). -/
def State.deadVid (s : State) (v : Nat) : Bool := v ≠ 0 && ((s.ver v).st == .squashed || (s.ver v).st == .free)

/-- A NACK: every line of the page that the instruction names is to be replayed; atomics that have been
performed stay (R57, R58, R136). -/
def nack (k : Nat) (r : Req) (gen : BitVec 16) (s : State) : State :=
  let hit (q : Req) : Bool := q.ser = r.ser && q.grp = r.grp && q.space = r.space && !q.window &&
    vpnOf (128 * q.line) = vpnOf (128 * r.line) && !(q.st == .performed && (q.kind == .atom || q.kind == .dqop))
  let c := s.coreAt k
  let back (q : Req) : Req := if hit q then { q with st := .nacked, expect := some gen, retries := 0 } else q
  s.setCore k { c with reqs := c.reqs.map back }

/-- Sectors of the line that the request names. -/
def Req.sectors (r : Req) : BitVec 4 := r.offsets.foldl (fun m o => m ||| BitVec.ofNat 4 (2 ^ (o / 32))) 0

/-- The sector at which serving a request is uncorrectable: a load or a VID 0 atomic fills the sectors it names, a store
reads none, and a copy made first reads the whole line (R49, R72, R77). -/
def badOf (r : Req) (s : State) : Option Nat :=
  if r.kind == .load || (r.kind != .store && r.vid = 0) then s.lineFault r.vid r.pa r.sectors
  else s.storeFault r.vid r.pa

/-- A load fills the L1 with the sectors it named (R112); an atomic removes the line (R124). -/
def afterServe (k : Nat) (r : Req) (s : State) : State :=
  let fused := (s.gridAt r.gid).fuse
  match r.kind with
  | .load =>
    if r.policy = 2 then s
    else
      let bs := (List.range 128).filter fun o => r.sectors.getLsbD (o / 32)
      l1Fill k fused r.pa r.vid r.sectors
        (bs.map fun o => (o, (s.viewBytes r.vid (128 * r.pa + o) 1).getD 0 0)) r.policy s
  | .store => s
  | _ => l1Remove k fused r.pa s

/-- The effect itself, once nothing stands in its way; none: a PUSH waits for its element's room (R80). -/
def serveBytes (k : Nat) (r : Req) (s : State) : Option State :=
  match r.kind with
  | .load => some (loadLanes k r s)
  | .store => some (spaceWrite k r r.data s)
  | .atom => some (r.lanes.foldl (fun t x => atomLane k r t x) s)
  | .dqop => dqLanes k r r.lanes s

/-- A READY split of some lanes is BLOCKED by a store of theirs that stalls (R80, R261): one inside a run at its boundary
(R203); not a handler's, which runs although the store is still to be performed (R317). -/
def Group.holds (g : Group) (m : Lanes) (p : Split) : Bool :=
  p.st == .ready && (p.mask &&& m) != 0 && !p.midRun && !(g.h && (p.mask &&& g.frame.mask) != 0)

/-- The splits that issued a store that stalls are BLOCKED by it. -/
def holdSplits (k : Nat) (r : Req) (s : State) : State :=
  let g := s.groupAt k r.grp
  if g.splits.any fun e => g.holds r.mask e.2 then
    s.setGroupAt k r.grp { g with splits := g.splits.map fun e =>
      (e.1, if g.holds r.mask e.2 then { e.2 with st := .blocked, held := true } else e.2) }
  else s

/-- A store that lanes of a mask have issued is stalled. -/
def State.stalledStore (s : State) (k gi : Nat) (m : Lanes) : Bool :=
  (s.coreAt k).reqs.any fun r => r.grp = gi && (r.mask &&& m) != 0 && r.stalled

/-- Splits of the selected group that are READY again are BLOCKED by stores of their own that are still stalled. -/
def holdAgain (s : State) : State :=
  (s.core.reqs.filter fun r => r.grp = s.sel.grp && r.stalled).foldl (fun t r => holdSplits s.sel.core r t) s

/-- A store stalls for spill room. -/
def stall (k : Nat) (r : Req) (s : State) : State :=
  holdSplits k r (modReq k r.id (fun q => { q with stalled := true }) s)

/-- A request reaches its slice: the line is settled, and touched by what reads it (R72, R76, R218). -/
def atSlice (k : Nat) (r : Req) (s : State) : State :=
  let t := if r.kind == .load || r.kind == .store then s else noteAtomic (s.iota (dieOf k)) (128 * r.pa) s
  let t := settle r.pa t
  if r.kind == .store then t else noteLine r.vid r.pa r.sectors (classOf r.policy) t

/-- What its home slice leaves of a request that it performs (R75-R77, R112, R218): its bytes, and what its core's L1
keeps. -/
def serveSlice (k : Nat) (r : Req) (s : State) : State :=
  match serveBytes k r (atSlice k r s) with
  | none => stall k r s
  | some u =>
    let u := performed k r u
    afterServe k r (if r.kind == .load then l1Catch k (s.gridAt r.gid).fuse r.pa s.performs u else u)

/-- Serve a request at its home slice (R75-R77, R125): it is dropped, NACKed, faulted, stalled or performed. -/
def serveHome (k : Nat) (r : Req) (s : State) : State :=
  if s.deadVid r.vid then performed k r (if r.kind == .store then s else zeroLanes k r s)
  else match s.staleGen (128 * r.pa) r.gen with
    | some gen => nack k r gen s
    | none => match badOf r s with
      | some a => requestFault k r 0x14 a 0 s
      | none => if r.kind != .load && s.storeRoom r.pa r.vid (classOf r.policy) != .ready then stall k r s else serveSlice k r s

/-- A stalled request would stall again: its version still stands, its page has not moved, and there is still no room. -/
def stallsYet (k : Nat) (r : Req) (s : State) : Bool :=
  r.stalled && !s.deadVid r.vid && (s.staleGen (128 * r.pa) r.gen).isNone && (badOf r s).isNone &&
    (s.storeRoom r.pa r.vid (classOf r.policy) != .ready || (serveBytes k r (atSlice k r s)).isNone)

/-- Serve a window access: a register is read or written (R332). -/
def serveWindow (k : Nat) (r : Req) (s : State) : State :=
  performed k r (match r.kind with
    | .store => r.lanes.foldl (fun t x =>
        writeRegBytes (x.addr - windowBase) (memBytes r.data x.addr x.size) t) s
    | _ => r.lanes.foldl (fun t x =>
        landLoad k r x (spaceRead k r x.addr x.size t) (afterRegRead (x.addr - windowBase) x.size t)) s)

/-- Serve a request where it is performed. -/
def serveReq (k : Nat) (r : Req) (s : State) : State :=
  if r.window then serveWindow k r s
  else if r.space = 1 ∨ r.space = 2 then performed k r ((serveBytes k r s).getD s)
  else serveHome k r s

/-! ### Regions (R323) -/

/-- The 4 KiB region of a block that an access reaches: shared regions from 0, tile regions from 256. -/
def regionOf (blk space a : Nat) : Nat := 1024 * blk + (if space = 2 then 256 else 0) + a / 4096
/-- Whether the request's region is in place. -/
def State.regionHere (s : State) (k : Nat) (r : Req) : Bool :=
  !((r.space = 1 || r.space = 2) && (s.coreAt k).toFill.contains (regionOf r.blk r.space (128 * r.line)))

/-! ### Replays (R57, R60) -/

/-- The first byte of the lowest-numbered lane of an instruction's requests of one page that are walked for again (R370). -/
def pageFirst (k : Nat) (r : Req) (s : State) : Nat :=
  let p := vpnOf (128 * r.line)
  let ls := ((s.coreAt k).reqs.filter fun q => q.ser = r.ser && q.grp = r.grp && q.space = r.space && !q.window &&
      (q.st == .nacked || q.st == .backoff)).flatMap
    fun q => q.lanes.filter fun x => vpnOf x.addr = p
  match ls.foldl (fun b x => match b with
    | none => some x
    | some y => if x.lane < y.lane then some x else some y) (none : Option ReqLane) with
  | some x => x.addr
  | none => r.firstAddr

/-- A replay walk's answer: the page's requests go out again, or back off, or fault. -/
def replayWalk (k : Nat) (r : Req) (s : State) : State :=
  let va := 128 * r.line
  let page (q : Req) : Bool := q.ser = r.ser && q.grp = r.grp && q.space = r.space && !q.window &&
    vpnOf (128 * q.line) = vpnOf va && (q.st == .nacked || q.st == .backoff)
  let (hit, s) := walk (dieOf k) r.asn (vpnOf va) r.expect s
  let c := s.coreAt k
  match hit with
  | .found st fr e =>
    let perm := ptePerm st e
    if !permOk perm (r.kind != .store) (r.kind != .load) then requestFault k r 0x10 (pageFirst k r s) 0 s
    else
      let t := fillTlb k { asn := r.asn, vpn := vpnOf va, stack := st, frame := fr, perm, gen := pteGen e } s
      let t := modLog k r (fun l => if r.kind == .store then l else { l with gens := mapSet l.gens (vpnOf va) (pteGen e) }) t
      let out (q : Req) : Req :=
        if page q then { q with st := .waiting, pa := lineOf (physOf st fr (128 * q.line)), gen := pteGen e,
                                expect := none, retries := 0 } else q
      t.setCore k { t.coreAt k with reqs := c.reqs.map out }
  | .none =>
    if r.retries ≥ 16 then requestFault k r 0x10 (pageFirst k r s) (r.expect.getD 0) s
    else
      let wait (q : Req) : Req := if page q then { q with st := .backoff, retries := q.retries + 1 } else q
      s.setCore k { c with reqs := c.reqs.map wait }
  | .unreadable pa => requestFault k r 0x14 pa 0 s

end Sys2Proof.Machine
end

