-- ==== Sys2Proof/Machine/LaneMem.lean ====
section
/-!
DEFINITION. The lane-set memory instructions (R114-R133): the per-lane checks, coalescing, translation, and the
requests they leave to the memory unit; loads, stores, atomics and deque operations.
-/

namespace Sys2Proof.Machine

/-! ### Records (R114-R116) -/

def recBase (d : BitVec 128) : Nat := d.toNat % 2 ^ 64
def recExtent (d : BitVec 128) : Nat := d.toNat / 2 ^ 64 % 2 ^ 32
def recStride (d : BitVec 128) : Nat := d.toNat / 2 ^ 96 % 2 ^ 16
def recSwz (d : BitVec 128) : Nat := d.toNat / 2 ^ 112 % 16
def recSpace (d : BitVec 128) : Nat := d.toNat / 2 ^ 116 % 16
def recPeer (d : BitVec 128) : Nat := d.toNat / 2 ^ 120 % 64

/-- Bits [lo+n-1:lo] of an offset replaced by their XOR with the bits from `src` on. -/
def xorField (o lo n src : Nat) : Nat :=
  o - o / 2 ^ lo % 2 ^ n * 2 ^ lo + ((o / 2 ^ lo % 2 ^ n) ^^^ (o / 2 ^ src % 2 ^ n)) * 2 ^ lo

/-- Swizzle (R116). -/
def swizzle (mode o : Nat) : Nat :=
  match mode with
  | 1 => xorField o 4 3 7
  | 2 => xorField o 4 4 8
  | 3 => xorField o 2 5 7
  | _ => o

/-- The space an access is performed in: space 3 naming this package is space 0 (R115). -/
def State.spaceOf (s : State) (d : BitVec 128) : Nat :=
  if recSpace d = 3 ∧ recPeer d = s.id.pkg.toNat then 0 else recSpace d

/-- Byte offset of an index before the swizzle (R120). -/
def indexOffset (d : BitVec 128) (x : Word) : Nat := if recStride d = 0 then x.toNat else x.toNat * recStride d

/-- The address of an offset in a space: mod 2^64 for virtual addresses (R120). -/
def spaceAddr (space : Nat) (d : BitVec 128) (o : Nat) : Nat :=
  let a := recBase d + swizzle (recSwz d) o
  if space = 1 ∨ space = 2 then a else a % 2 ^ 64

/-- Limits of the allotment of space 1 or 2 (R108, R115). -/
def Block.allotment (b : Block) (space : Nat) : Nat × Nat :=
  if space = 2 then (64512 * b.slots, 64512 * b.slots + b.tileBytes) else (0, b.sharedSize)

/-- The first of `n` bytes outside an allotment. -/
def outsideAllotment (lim : Nat × Nat) (a n : Nat) : Option Nat :=
  if a < lim.1 then some a else if a + n > lim.2 then some (max a lim.2) else none

/-! ### A memory instruction as the memory unit sees it -/

/-- Kind, access size, data registers, effective register numbers, record, order, function, log class. -/
structure MemOp where
  kind : ReqKind
  sz : Nat
  n : Nat
  d : Nat
  a : Nat
  r : Nat
  ord : BitVec 2 := 0
  scope : BitVec 3 := 0
  policy : BitVec 2 := 0
  cbyp : Bool := false
  func : Nat := 0
  log : Nat := 0
  ext : Word := 0

/-- What the checks of R120 say of one lane. -/
inductive LaneChk where
  | clip
  | go (addr off : Nat)
  | fail (code detail : Nat)

/-- The checks of one lane (R120). -/
def laneCheck (s : State) (m : MemOp) (d : BitVec 128) (l : Nat) : LaneChk :=
  let space := s.spaceOf d
  let off := indexOffset d (s.group.vAt m.a l)
  let addr := spaceAddr space d off
  if off + m.sz > recExtent d then .clip
  else if addr % m.sz ≠ 0 then .clip
  else if space = 1 ∨ space = 2 then
    match outsideAllotment (s.block.allotment space) addr m.sz with
    | some a => .fail 0x11 (a % 2 ^ 32 + 2 ^ 32 * space)
    | none => .go addr (swizzle (recSwz d) off)
  else if space = 0 ∧ inWindow addr then .go addr (swizzle (recSwz d) off)
  else match s.grid.firstRefused (m.kind != .load) addr m.sz with
    | some a => .fail 0x10 a
    | none => .go addr (swizzle (recSwz d) off)

/-- The checks made once for the group (R120): the fault they end in, if any. -/
def groupCheck (s : State) (m : MemOp) (d : BitVec 128) (act : Lanes) : Option (State → State) :=
  let space := s.spaceOf d
  if m.kind == .store && space = 4 then
    some (leaseFault (match laneList act with
      | l :: _ => spaceAddr 4 d (indexOffset d (s.group.vAt m.a l))
      | [] => recBase d))
  else if m.kind == .atom && (space = 2 || space = 4) then some illegal
  else if m.kind == .dqop && (space = 2 || space = 3 || space = 4) then some illegal
  else if recSwz d = 3 && (m.kind == .load || m.kind == .store) && m.sz ≥ 8 then some illegal
  else none

/-! ### Translation of the pages an instruction touches (R56, R58) -/

/-- Each page's translation, once. -/
def translatePages (k asn : Nat) : List Nat → State → List (Nat × Xlated) × State
  | [], s => ([], s)
  | p :: ps, s =>
    let r := translate k asn p s
    let t := translatePages k asn ps r.2
    ((p, r.1) :: t.1, t.2)

/-- Why a lane's page cannot be accessed: code and detail. -/
def pageFail (m : MemOp) (pages : List (Nat × Xlated)) (addr : Nat) : Option (Nat × Nat) :=
  match mapFind pages (vpnOf addr) with
  | some (.ok e) => if permOk e.perm (m.kind != .store) (m.kind != .load) then none else some (0x10, addr)
  | some (.unreadable pa) => some (0x14, pa)
  | _ => some (0x10, addr)

/-! ### Requests (R122) -/

/-- Bytes of a store by address: the highest-numbered lane supplies a byte that several write (R129). -/
def storeBytes (g : Group) (m : MemOp) (lanes : List (Nat × Nat)) : Map Byte :=
  lanes.foldl (fun acc la =>
    ((List.range m.sz).map fun i =>
      (la.2 + i, BitVec.ofNat 8 ((g.vAt (m.d + i / 4) la.1).toNat / 2 ^ (8 * (i % 4))))).foldl
        (fun t b => mapSet t b.1 b.2) acc) []

/-- One request: a line and the lanes, with their addresses, that name it. -/
def mkReq (s : State) (m : MemOp) (d : BitVec 128) (logIdx ser : Nat) (stamp : DWord) (line : Nat)
    (lanes : List (Nat × Nat)) : Req :=
  let g := s.group
  let win := s.spaceOf d = 0 && inWindow (128 * line)
  { id := s.core.nextReq, ser, kind := m.kind, grp := s.sel.grp, slot := s.sel.slot, mask := s.split.mask,
    pc := s.split.pc, gid := g.gid, blk := g.blk, log := logIdx, line, space := s.spaceOf d, peer := recPeer d,
    asn := g.asn, vid := if m.cbyp then 0 else if s.spaceOf d = 4 then 0 else g.vid, window := win,
    lanes := lanes.map fun la =>
      { lane := la.1, addr := la.2, size := m.sz, x := g.vAt m.d la.1, y := g.vAt (m.d + 1) la.1 },
    data := if m.kind == .store then storeBytes g m lanes else [],
    func := m.func, ord := if win then 3 else m.ord, scope := if win then 7 else m.scope, policy := m.policy,
    stamp := if m.ord = 3 ∨ win then stamp else 0, tag := g.rtag }

/-- Add a request to the core. -/
def addReq (r : Req) (s : State) : State :=
  let c := s.core
  s.setCore s.sel.core { c with reqs := c.reqs ++ [r], nextReq := c.nextReq + 1 }

/-- A load may look its line up in the L1 (R112, R233), and no access of the split to a byte it reads is still
owed (R227). -/
def State.mayHit (s : State) (r : Req) : Bool :=
  r.kind == .load && (r.space == 0 || r.space == 4) && !r.window && r.policy != 2 && r.ord != 3 &&
    !(r.ord == 1 && decide (r.scope.toNat ≥ 3)) &&
    !s.core.reqs.any fun q => q.grp = r.grp && (q.mask &&& r.mask) != 0 && q.sameByte r

/-- Serve a load from the L1, or leave the request to be served. -/
def l1OrHome (r : Req) (s : State) : State :=
  let k := s.sel.core
  let fused := s.grid.fuse
  match (if s.mayHit r then l1Find s k fused r.pa r.vid r.sectors else none) with
  | none => addReq r s
  | some e =>
    let kc := l1Home k fused r.pa
    let s := noteSlice k kc fused (modL1 kc (l1Use r.policy e) s)
    let t := r.lanes.foldl (fun t x =>
      modLog k r (fun l => l.land x.lane (loadWords ((x.size + 3) / 4) (memBytes e.bytes (x.addr % 128) x.size))) t) s
    addReq { r with st := .performed } t

/-- A load, atomic or SC store goes to its peer as a message, the entries of its line ahead of it (R126, R206, R227). A
load waits until they have been acknowledged. -/
def toPeer (r : Req) (s : State) : State :=
  let k := s.sel.core
  let (acks, s) := sendWcAcked k (fun e => e.peer = r.peer && e.line = r.line) s
  if acks.isEmpty || r.kind != .load then sendRequest k r (addReq { r with st := .remote } s) else addReq { r with after := acks } s

/-- A relaxed or releasing store to a peer enters the write-combining buffer (R126, R205). -/
def toBuffer (r : Req) (s : State) : State :=
  mergeWc s.sel.core { grp := r.grp, gid := r.gid, asn := r.asn, peer := r.peer, line := r.line, vid := r.vid,
                       tag := r.tag, data := r.data.map fun b => (b.1 % 128, b.2),
                       born := (s.dieAt (dieOf s.sel.core)).clk, age := s.core.wcage } s

/-- Send out one request of the instruction. A record whose SPACE names none of the spaces (5 to 15) makes no access; that
this, and offsets that SWZ 4 to 15 leave unswizzled, is what such a record does is the model's choice (log entry 88). -/
def sendReq (pages : List (Nat × Xlated)) (r : Req) (s : State) : State :=
  if r.window then addReq r s
  else match r.space with
    | 1 => if r.ord = 3 then serveReq s.sel.core r (addReq r s) else addReq r s
    | 2 => if r.ord = 3 then serveReq s.sel.core r (addReq r s) else addReq r s
    | 3 => if r.kind == .store && r.ord != 3 then toBuffer r s else toPeer r s
    | _ =>
      let va := 128 * r.line
      match mapFind pages (vpnOf va) with
      | some (.ok e) => l1OrHome { r with pa := lineOf (physOf e.stack e.frame va), gen := e.gen } s
      | _ => s

/-! ### The whole instruction -/

/-- The lowest free entry of the operand log (R320). -/
def Group.freeLog (g : Group) : Option Nat := (List.range 32).find? fun i => (mapFind g.oplog i).isNone

/-- Lanes of a list as a mask. -/
def lanesOf (ls : List Nat) : Lanes := ls.foldl (fun m l => m ||| BitVec.ofNat 48 (2 ^ l)) 0

/-- What ends the idempotent mark (R136, R296). -/
def MemOp.endsIdem (m : MemOp) (space : Nat) : Bool :=
  match m.kind with
  | .load => m.ord == 3
  | .store => m.ord == 2 || m.ord == 3 || space == 3
  | _ => true

/-- A frozen core's offending access (R325, R332). -/
def windowRefused (s : State) (m : MemOp) : Bool :=
  !s.group.priv || (m.sz ≠ 4 && m.sz ≠ 8) || m.kind == .atom || m.kind == .dqop

/-- The accesses leave the core (R122): clipped lanes flagged, a log entry for results owed, one request a line. -/
def memPerform (m : MemOp) (act : Lanes) (clips bad : List Nat) (go : List (Nat × Nat × Nat))
    (pages : List (Nat × Xlated)) (s : State) : State :=
  let d := s.group.dAt m.r
  let space := s.spaceOf d
  let s := s.setGroup (s.group.setClip (lanesOf clips))
  let win := go.any fun x => space = 0 && inWindow x.2.1
  let (stamp, s) := if m.ord = 3 ∨ win then scStamp s else (0, s)
  let ser := s.core.nextSer
  let s := s.setCore s.sel.core { s.core with nextSer := ser + 1 }
  let idx := (s.group.freeLog).getD 0
  let lines := (go.map fun x => x.2.1 / 128).dedup
  let owed := m.kind != .store && !go.isEmpty
  let entry : LogEntry :=
    { st := .inFlight, kind := m.log, slot := s.sel.slot, dest := m.d, nreg := if m.kind == .load then m.n else 1,
      lanes := lanesOf (go.map (·.1)), mask := s.split.mask, ser,
      acq := if win then some 7 else if m.ord = 1 ∨ m.ord = 3 then some m.scope else none,
      recv := d, offs := go.foldl (fun t x => mapSet t x.1 (BitVec.ofNat 48 x.2.2)) [], ext := m.ext,
      opnd := if m.kind == .load then [] else go.foldl (fun t x =>
        mapSet (mapSet t x.1 (s.group.vAt m.d x.1)) (64 + x.1) (s.group.vAt (m.d + 1) x.1)) [],
      vid := if m.cbyp || space = 4 then 0 else s.group.vid,
      gens := pages.foldl (fun t p => match p.2 with | .ok e => mapSet t p.1 e.gen | _ => t) [], stamp, wr := act }
  let s := if owed then s.setGroup { s.group with oplog := mapSet s.group.oplog idx entry } else s
  let s := lines.foldl (fun t l =>
    sendReq pages (mkReq t m d idx ser stamp l ((go.filter fun x => x.2.1 / 128 = l).map fun x => (x.1, x.2.1))) t) s
  let s := if owed || m.kind == .store then s
    else s.setGroup ((List.range (if m.kind == .load then m.n else 1)).foldl (fun g j => g.setV (m.d + j) act fun _ => 0) s.group)
  let s := if (m.ord = 3 || (m.ord = 1 && m.kind != .store)) && go.isEmpty then acquireAt m.scope.toNat s else s
  let s := match bad with
    | [] => s
    | l :: _ => freezeMaster (masterNum 0 (dieOf s.sel.core) (coreNum s.sel.core))
        (spaceAddr 0 d (indexOffset d (s.group.vAt m.a l))) s
  if m.endsIdem space then endIdem s else s

/-- An SC access to spaces 1 and 2 is performed at issue, so it waits for its split's own accesses to the space (R227,
R238). -/
def scHeld (s : State) (m : MemOp) (space : Nat) : Bool :=
  m.ord = 3 && (space = 1 || space = 2) &&
    s.core.reqs.any fun q => q.grp = s.sel.grp && (q.mask &&& s.split.mask) != 0 && q.space = space && q.st != .performed

/-- A space-3 access that names a byte of a load of its split which waits for buffered stores (R126) waits until that load
has left (R227). -/
def loadAhead (s : State) (m : MemOp) (d : BitVec 128) (addrs : List Nat) : Bool :=
  s.spaceOf d = 3 && s.core.reqs.any fun q =>
    q.grp = s.sel.grp && (q.mask &&& s.split.mask) != 0 && q.space = 3 && q.peer = recPeer d && !q.after.isEmpty &&
      q.lanes.any fun y => addrs.any fun a => decide (a < y.addr + y.size) && decide (y.addr < a + m.sz)

/-- A store to some addresses must wait for room in the L2 or the spill area (R80). -/
def roomLacks (s : State) (m : MemOp) (pages : List (Nat × Xlated)) (addrs : List Nat) : Bool :=
  let v := if m.cbyp then 0 else s.group.vid
  m.kind == .store && !s.deadVid v && addrs.any fun a => match mapFind pages (vpnOf a) with
    | some (.ok e) => s.storeRoom (lineOf (physOf e.stack e.frame a)) v (classOf m.policy) != .ready
    | _ => false

/-- The failure of the lowest-numbered lane that fails (R370): its own check, or its page's. -/
def laneFailure (m : MemOp) (pages : List (Nat × Xlated)) (isWin : Nat → Bool) (c : Nat × LaneChk) : Option (Nat × Nat) :=
  match c.2 with
  | .clip => none
  | .fail code detail => some (code, detail)
  | .go a _ => if isWin a then none else pageFail m pages a

/-- A lane-set memory instruction (R120-R133); phase 2 waits for a store's room (R80, R262). -/
def memIssue (i : Instr) (m : MemOp) (act : Lanes) (words : Nat) (s : State) : State :=
  let d := s.group.dAt m.r
  let space := s.spaceOf d
  if m.kind != .store && s.group.freeLog.isNone then s
  else match groupCheck s m d act with
    | some fault => fault s
    | none =>
      let chk := (laneList act).map fun l => (l, laneCheck s m d l)
      let clips := chk.filterMap fun c => match c.2 with | .clip => some c.1 | _ => none
      let all := chk.filterMap fun c => match c.2 with | .go a o => some (c.1, a, o) | _ => none
      let isWin (a : Nat) : Bool := space = 0 && inWindow a
      let mapped := space = 0 || space = 4
      let vps (l : List (Nat × Nat × Nat)) : List Nat :=
        if mapped then ((l.filter fun x => !isWin x.2.1).map fun x => vpnOf x.2.1).dedup else []
      let failure (pages : List (Nat × Xlated)) : Option (Nat × Nat) :=
        chk.findSome? (laneFailure m pages fun a => !mapped || isWin a)
      if chk.any fun c => match c.2 with | .fail _ _ => true | _ => false then
        let (pages, s) := translatePages s.sel.core s.group.asn (vps all) s
        match failure pages with
        | some f => accessFault f.1 f.2 s
        | none => s
      else if all.any (fun x => isWin x.2.1) && m.kind == .store && s.group.vid ≠ 0 then privilegeViolation s
      else if scHeld s m space || loadAhead s m d (all.map (·.2.1)) then s
      else
        let refused := windowRefused s m
        let go := if refused then all.filter fun x => !isWin x.2.1 else all
        let bad := if refused then (all.filter fun x => isWin x.2.1).map (·.1) else []
        let scope := if go.any fun x => isWin x.2.1 then 7 else if m.ord = 2 ∨ m.ord = 3 then m.scope.toNat else 0
        releaseThen i scope (fun s =>
          let (pages, s) := translatePages s.sel.core s.group.asn (vps go) s
          match failure pages with
          | some f => accessFault f.1 f.2 s
          | none =>
            if roomLacks s m pages ((go.filter fun x => mapped && !isWin x.2.1).map (·.2.1)) then blockIn i 2 s.split.wdata s
            else advance words (memPerform m act clips bad go pages s)) (if m.endsIdem space then endIdem s else s)

/-- A relaxed load or store: no extension word (R23). -/
def plainMem (i : Instr) (kind : ReqKind) (sz n log : Nat) (f : LMem) (s : State) : Result :=
  let g := s.group
  runWord true true (f.refs n g) (fun s =>
    memIssue i { kind, sz, n, d := g.lane 0 f.d.toNat, a := g.lane 0 f.a.toNat, r := f.r.toNat, log }
      (s.active f.g) 1 s) s

/-- An instruction with an extension word (R24); a cached bypass needs a privileged group (R42). -/
def extMem (i : Instr) (kind : ReqKind) (sz n log op func fn : Nat) (f : LMemX) (s : State) : Result :=
  let g := s.group
  runWord true (f.cbyp != 1 || g.priv) (f.refs n g) (fun s =>
    memIssue i { kind, sz, n, d := g.lane 0 f.d.toNat, a := g.lane 0 f.a.toNat, r := f.r.toNat, ord := f.ord,
                 scope := f.scope, policy := f.policy, cbyp := f.cbyp = 1, func, log,
                 ext := (encMemX op fn f).getD 1 0 }
      (s.active f.g) 2 s) s

def execLdb (f : LMem) (s : State) : Result := plainMem (.ldb f) .load 1 1 0 f s
def execLdh (f : LMem) (s : State) : Result := plainMem (.ldh f) .load 2 1 1 f s
def execLdw (f : LMem) (s : State) : Result := plainMem (.ldw f) .load 4 1 2 f s
def execLdd (f : LMem) (s : State) : Result := plainMem (.ldd f) .load 8 2 3 f s
def execLdq (f : LMem) (s : State) : Result := plainMem (.ldq f) .load 16 4 4 f s
def execStb (f : LMem) (s : State) : Result := plainMem (.stb f) .store 1 1 0 f s
def execSth (f : LMem) (s : State) : Result := plainMem (.sth f) .store 2 1 0 f s
def execStw (f : LMem) (s : State) : Result := plainMem (.stw f) .store 4 1 0 f s
def execStd (f : LMem) (s : State) : Result := plainMem (.std f) .store 8 2 0 f s
def execStq (f : LMem) (s : State) : Result := plainMem (.stq f) .store 16 4 0 f s
def execLdbOrdered (f : LMemX) (s : State) : Result := extMem (.ldbOrdered f) .load 1 1 0 0x70 0 0 f s
def execLdhOrdered (f : LMemX) (s : State) : Result := extMem (.ldhOrdered f) .load 2 1 1 0x71 0 0 f s
def execLdwOrdered (f : LMemX) (s : State) : Result := extMem (.ldwOrdered f) .load 4 1 2 0x72 0 0 f s
def execLddOrdered (f : LMemX) (s : State) : Result := extMem (.lddOrdered f) .load 8 2 3 0x73 0 0 f s
def execLdqOrdered (f : LMemX) (s : State) : Result := extMem (.ldqOrdered f) .load 16 4 4 0x74 0 0 f s
def execStbOrdered (f : LMemX) (s : State) : Result := extMem (.stbOrdered f) .store 1 1 0 0x75 0 0 f s
def execSthOrdered (f : LMemX) (s : State) : Result := extMem (.sthOrdered f) .store 2 1 0 0x76 0 0 f s
def execStwOrdered (f : LMemX) (s : State) : Result := extMem (.stwOrdered f) .store 4 1 0 0x77 0 0 f s
def execStdOrdered (f : LMemX) (s : State) : Result := extMem (.stdOrdered f) .store 8 2 0 0x78 0 0 f s
def execStqOrdered (f : LMemX) (s : State) : Result := extMem (.stqOrdered f) .store 16 4 0 0x79 0 0 f s
def execAtomAdd (f : LMemX) (s : State) : Result := extMem (.atomAdd f) .atom 4 1 5 0x7A 0 0 f s
def execAtomImin (f : LMemX) (s : State) : Result := extMem (.atomImin f) .atom 4 1 5 0x7A 1 1 f s
def execAtomImax (f : LMemX) (s : State) : Result := extMem (.atomImax f) .atom 4 1 5 0x7A 2 2 f s
def execAtomNmin (f : LMemX) (s : State) : Result := extMem (.atomNmin f) .atom 4 1 5 0x7A 3 3 f s
def execAtomNmax (f : LMemX) (s : State) : Result := extMem (.atomNmax f) .atom 4 1 5 0x7A 4 4 f s
def execAtomAnd (f : LMemX) (s : State) : Result := extMem (.atomAnd f) .atom 4 1 5 0x7A 5 5 f s
def execAtomOr (f : LMemX) (s : State) : Result := extMem (.atomOr f) .atom 4 1 5 0x7A 6 6 f s
def execAtomXor (f : LMemX) (s : State) : Result := extMem (.atomXor f) .atom 4 1 5 0x7A 7 7 f s
def execAtomXchg (f : LMemX) (s : State) : Result := extMem (.atomXchg f) .atom 4 1 5 0x7A 8 8 f s
/-- CAS names a pair of data registers (R130). -/
def execAtomCas (f : LMemX) (s : State) : Result := extMem (.atomCas f) .atom 4 2 5 0x7A 9 9 f s
def execAtomFadd (f : LMemX) (s : State) : Result := extMem (.atomFadd f) .atom 4 1 5 0x7A 10 10 f s
def execDqopPush (f : LMemX) (s : State) : Result := extMem (.dqopPush f) .dqop 32 1 6 0x7B 0 0 f s
def execDqopPop (f : LMemX) (s : State) : Result := extMem (.dqopPop f) .dqop 32 1 6 0x7B 1 1 f s
def execDqopSteal (f : LMemX) (s : State) : Result := extMem (.dqopSteal f) .dqop 32 1 6 0x7B 2 2 f s

end Sys2Proof.Machine
end

