-- ==== Sys2Proof/Machine/MemEvents.lean ====
section
/-!
DEFINITION. The steps of the memory system (R57-R60, R75, R128, R206, R226, R237, R238, R370): a home slice serves
a request, a NACKed request is replayed, a load returns, a store is acknowledged, SC accesses and announcements.
-/

namespace Sys2Proof.Machine

/-! ### Service -/

/-- A request its slice can serve next: an SC access waits for SC_PERFORM instead, and a load of a peer for its buffered
stores (R126). After an atomic of another package one of this package counts as of a later cycle: of one cycle the local
one is first (R131, R218). -/
def l2Due (s : State) (k : Nat) (r : Req) : Bool :=
  r.st == .waiting && r.ord != 3 && r.space != 3 && s.byteFree k r && s.regionHere k r && !stallsYet k r s &&
    !(r.space == 0 && (r.kind == .atom || r.kind == .dqop) && s.remoteAtoms.contains (s.sliceKey r.pa))

/-- L2_REQUEST (R75): serve request `idx` of the selected core. -/
def execL2Request (s : State) : Result :=
  agentStep (fun s => match s.reqAt s.sel.core s.sel.idx with
    | some r => if l2Due s s.sel.core r then serveReq s.sel.core r s else s
    | none => s) s

/-- Replays of a group go out in log order: an older instruction's replay is ahead (R321). -/
def replayAhead (s : State) (k : Nat) (r : Req) : Bool :=
  (s.coreAt k).reqs.any fun q => q.grp = r.grp && decide (q.ser < r.ser) && (q.st == .nacked || q.st == .backoff)

/-- A NACKed request can be replayed. -/
def nackDue (s : State) (k : Nat) (r : Req) : Bool := r.st == .nacked && !replayAhead s k r

/-- NACK_REPLAY (R57): the source drops its translations of the page and replays through a fresh walk. -/
def execNackReplay (s : State) : Result :=
  agentStep (fun s => match s.reqAt s.sel.core s.sel.idx with
    | some r =>
      if nackDue s s.sel.core r then
        replayWalk s.sel.core r (dropTlb s.sel.core r.asn (vpnOf (128 * r.line)) s)
      else s
    | none => s) s

/-- The backoff of a replay walk can pass: a replay of an older instruction is ahead (R321). -/
def retryDue (s : State) (k : Nat) (r : Req) : Bool := r.st == .backoff && !replayAhead s k r

/-- WALK_RETRY (R60): the backoff of a replay walk has passed. -/
def execWalkRetry (s : State) : Result :=
  agentStep (fun s => match s.reqAt s.sel.core s.sel.idx with
    | some r => if retryDue s s.sel.core r then replayWalk s.sel.core r s else s
    | none => s) s

/-! ### Returns -/

/-- Every request of a log entry has returned. -/
def logDone (s : State) (k g : Nat) (e : LogEntry) : Bool :=
  (e.st == .inFlight || e.st == .replaying) && e.kind != 7 &&
    !(s.coreAt k).reqs.any fun r => r.grp = g && r.ser = e.ser && (r.st != .performed || r.refusedAt.isSome)

/-- The destination registers of a completed entry are written together (R128). -/
def writeBack (e : LogEntry) (g : Group) : Group :=
  (List.range e.nreg).foldl (fun g j => g.setV (e.dest + j) e.wr fun l => mapGet 0 e.data (64 * j + l)) g

/-- LOAD_REPLY (R128): log entry `idx` of the selected group completes; an acquire empties the L1 (R233). -/
def execLoadReply (s : State) : Result :=
  agentStep (fun s =>
    let k := s.sel.core
    let g := s.sel.grp
    match mapFind s.group.oplog s.sel.idx with
    | some e =>
      if logDone s k g e then
        let x := writeBack e s.group
        let s := s.setGroup { x with oplog := mapDel x.oplog s.sel.idx }
        let s := dropReqs k (fun r => r.grp = g && r.ser = e.ser) s
        match e.acq with
        | some sc => acquireAt sc.toNat s
        | none => s
      else s
    | none => s) s

/-- The acknowledgement of a performed store can reach its core: no line of its page is to be replayed (R58), and
stores to its line performed earlier have been acknowledged (log entry 68). -/
def ackDue (s : State) (k : Nat) (r : Req) : Bool :=
  r.kind == .store && r.st == .performed && r.refusedAt.isNone &&
    !(s.coreAt k).reqs.any (fun q => q.ser = r.ser && q.grp = r.grp && vpnOf (128 * q.line) = vpnOf (128 * r.line) &&
      q.st != .performed) &&
    !(s.coreAt k).reqs.any fun q => q.l1Owed r.pa && r.l1Owed r.pa && decide (q.at_ < r.at_)

/-- STORE_ACKNOWLEDGEMENT (R226): the L1 takes the store; the last one of an SC store ends its wait as an
acquire (R238). -/
def execStoreAcknowledgement (s : State) : Result :=
  agentStep (fun s =>
    let k := s.sel.core
    match s.reqAt k s.sel.idx with
    | some r =>
      if ackDue s k r then
        let fused := (s.gridAt r.gid).fuse
        let s := if r.space = 0 ∧ !r.window then l1Catch k fused r.pa r.at_ s else s
        let s := dropReqs k (fun q => q.id = r.id) s
        if r.ord = 3 ∧ !(s.coreAt k).reqs.any (fun q => q.ser = r.ser && q.grp = r.grp) ∧ r.scope.toNat ≥ 3 then
          l1Acquire k fused s
        else s
      else s
    | none => s) s

/-! ### SC accesses and announcements (R237, R238) -/

/-- Key of a core of the pod: 416 × package + core key. -/
def podCore (pkg k : Nat) : Nat := 416 * pkg + k

/-- Packages whose cores an access of a scope waits for (R237, R334). -/
def State.domain (s : State) (scope : Nat) : List Nat :=
  if scope ≤ 5 then [s.id.pkg.toNat]
  else (List.range 64).filter fun p => p = s.id.pkg.toNat || s.id.podmask.getLsbD p

/-- H for a scope: the least announcement of every core of the domain. -/
def State.horizonOf (s : State) (scope : Nat) : Nat :=
  ((s.domain scope).flatMap fun p => (List.range 416).map fun k => (mapGet 0 s.horizon (podCore p k)).toNat).foldl
    min (2 ^ 48)

/-- The counter of a time stamp. -/
def stampCounter (t : DWord) : Nat := t.toNat / 65536

/-- The slice, or register block, where a request is performed. -/
def performingSlice (s : State) (r : Req) : Nat :=
  if r.window then 100000 + r.line / 32 else s.sliceKey r.pa

/-- An SC request that its slice holds and the horizon has passed. -/
def scReady (s : State) (r : Req) : Bool :=
  r.st == .waiting && r.ord == 3 && r.space != 3 && decide (stampCounter r.stamp < s.horizonOf r.scope.toNat)

/-- SC requests of the package with the key of their core. -/
def State.scRequests (s : State) : List (Nat × Req) :=
  s.cores.flatMap fun kc => (kc.2.reqs.filter fun r => r.ord == 3).map fun r => (kc.1, r)

/-- The home line of a message's first byte, if its page is mapped. -/
def State.msgLine (s : State) (m : Msg) : Option Nat :=
  match (s.walkOf m.asn (vpnOf m.va) none).hit with
  | .found st fr _ => some (lineOf (physOf st fr m.va))
  | _ => none

/-- Slice of an SC message. -/
def State.msgSlice (s : State) (m : Msg) : Option Nat :=
  (s.msgLine m).map s.sliceKey

/-- An SC message that a slice of the package holds and the horizon has passed. -/
def scMsgReady (s : State) (m : Msg) : Bool := m.ord == 3 && decide (stampCounter m.stamp < s.horizonOf m.scope.toNat)

/-- A slice holds an SC access of a lower stamp that the horizon has passed: a request, or another package's message
(R238). -/
def lowerAtSlice (s : State) (slice : Nat) (stamp : DWord) : Bool :=
  s.scRequests.any (fun q => decide (q.2.stamp.toNat < stamp.toNat) && performingSlice s q.2 = slice && scReady s q.2) ||
    (s.north.held ++ s.south.held).any fun x =>
      scMsgReady s x.2 && decide (x.2.stamp.toNat < stamp.toNat) && s.msgSlice x.2 == some slice

/-- An SC access of a lower stamp to the page has been NACKed and is on its way to its new home (R238, R239). -/
def lowerNacked (s : State) (asn vpn : Nat) (stamp : DWord) : Bool :=
  s.scRequests.any fun q => decide (q.2.stamp.toNat < stamp.toNat) && (q.2.st == .nacked || q.2.st == .backoff) &&
    q.2.asn = asn && vpnOf (128 * q.2.line) = vpn

/-- A held SC request is the next of its slice. -/
def scDue (s : State) (k : Nat) (r : Req) : Bool :=
  scReady s r && s.byteFree k r && s.regionHere k r && !stallsYet k r s &&
    !lowerAtSlice s (performingSlice s r) r.stamp && (r.window || !lowerNacked s r.asn (vpnOf (128 * r.line)) r.stamp)

/-- SC_PERFORM (R238). -/
def execScPerform (s : State) : Result :=
  agentStep (fun s => match s.reqAt s.sel.core s.sel.idx with
    | some r => if scDue s s.sel.core r then serveReq s.sel.core r s else s
    | none => s) s

/-- SC accesses of a core that have not been performed. -/
def scInFlight (s : State) (k : Nat) : Bool := (s.coreAt k).reqs.any fun r => r.ord == 3 && r.st != .performed

/-- Counters of a core's SC accesses that have not set out for their performing point: they are NACKed (R57), wait for the
buffered stores of their line (R126), or wait at the source (R215, R216, R250). -/
def unreachedCounters (s : State) (k : Nat) : List Nat :=
  (((s.coreAt k).reqs.filter fun r => r.ord == 3 && (r.st == .nacked || r.st == .backoff || !r.after.isEmpty)).map
    fun r => stampCounter r.stamp) ++
  ((((s.dieAt (dieOf k)).stdQueue ++ (s.dieAt (dieOf k)).waiting).filter fun x => x.2.ord == 3 && x.2.srcGrp / 256 == k).map
    fun x => stampCounter x.2.stamp)

/-- C as an announcement leaves it: an idle core first sets it to G. -/
def lamportAt (s : State) (k : Nat) : BitVec 48 :=
  let c := s.coreAt k
  if !scInFlight s k && decide (c.lamport.toNat < c.heard.toNat) then c.heard else c.lamport

/-- The value that a core announces next: C + 1, or less where an access below it has not set out (log entry 31). -/
def nextAnnounce (s : State) (k : Nat) : BitVec 48 :=
  BitVec.ofNat 48 ((unreachedCounters s k).foldl min ((lamportAt s k).toNat + 1))

/-- LAMPORT_ANNOUNCE (R237): an idle core first sets C to G; the value leaves for the slices and the cores. -/
def execLamportAnnounce (s : State) : Result :=
  agentStep (fun s =>
    let k := s.sel.core
    let a := nextAnnounce s k
    let s := s.setCore k { s.coreAt k with lamport := lamportAt s k, announced := a, announcedAt := (s.dieAt (dieOf k)).clk }
    let me := podCore s.id.pkg.toNat k
    let d := dieOf k
    let far := ((List.range 64).filter fun p => p != s.id.pkg.toNat && s.id.podmask.getLsbD p).map fun p =>
      (Instr.lamportAnnounceReceive, ({ origin := s.iota d, dest := 2 * p, count := me, stamp := a.setWidth 64 } : Msg))
    let s := s.setDie d { s.dieAt d with egress := (s.dieAt d).egress ++ far }
    { s with annSent := s.annSent ++ [(me, a)] }) s

/-- LAMPORT_ANNOUNCE_RECEIVE (R237): the announcement `arg.v` of core `arg.n` of the pod reaches every slice and
core of the package; one of this package is the oldest of those on their way from that core. A package whose PODMASK bit
is clear is not heard (R334). -/
def execLamportAnnounceReceive (s : State) : Result :=
  agentStep (fun s =>
    let a : Nat × BitVec 48 := (s.arg.n, s.arg.v.setWidth 48)
    let own := a.1 / 416 = s.id.pkg.toNat
    if (own ∧ !s.annSent.contains a) ∨ (!own ∧ (s.id.fail ≠ 0 ∨ !s.id.podmask.getLsbD (a.1 / 416))) then s
    else
      let s := if own then { s with annSent := s.annSent.erase a } else s
      let old := mapGet 0 s.horizon a.1
      let hear (c : Core) : Core := { c with heard := if c.heard.toNat < a.2.toNat then a.2 else c.heard }
      { s with horizon := mapSet s.horizon a.1 (if old.toNat < a.2.toNat then a.2 else old),
               cores := s.cores.map fun kc => (kc.1, hear kc.2) }) s

/-! ### Write-combining age (R206, R148) -/

/-- An entry's timer has reached its AGE: units of 0.25 µs, 212.5 cycles of the 850 MHz clock. -/
def wcAged (s : State) (k : Nat) (e : WcEntry) : Bool :=
  2 * ((s.dieAt (dieOf k)).clk - e.born).toNat ≥ 425 * e.age.toNat

/-- WC_AGE_EXPIRY (R206): entry `idx` of the selected core's buffer is sent. -/
def execWcAgeExpiry (s : State) : Result :=
  agentStep (fun s =>
    let k := s.sel.core
    match s.core.wc[s.sel.idx]? with
    | some e => if wcAged s k e then sendWcWhere k (fun f => f == e) s else s
    | none => s) s

/-! ### Storage errors (R370) -/

/-- CORE_STORAGE_ERROR: state of the selected group, or (flag) state that no single grid owns, which ends the grids resident
on the core. -/
def execCoreStorageError (s : State) : Result :=
  agentStep (fun s =>
    let k := s.sel.core
    let hit (g : Group) : FaultRec :=
      { code := 0x14, detail := 0xFFFFFFFFFFFFFFFF, blk := (s.blockAt k g.blk).blk, coreN := s.coreN k,
        grpin := g.grpin }
    if s.arg.flag then
      (((s.core.groups.filter fun g => g.2.live && g.2.place == .resident).map fun g => g.2.gid).dedup).foldl (fun t gid =>
        reportFault gid { code := 0x14, detail := 0xFFFFFFFFFFFFFFFF, coreN := s.coreN k } t) s
    else if s.group.live then reportFault s.group.gid (hit s.group) s
    else s) s

/-! ### Invalidations (R59) -/

/-- A GO of a kind with the page and context of the argument. -/
def xlinvGo (kind : Nat) (v : DWord) : DWord := keepBits v 0 48 ||| BitVec.ofNat 64 (2 ^ 63 + kind * 2 ^ 48)

/-- A host write reaches a register unless the host function is frozen (R325) or boot has failed (R338). -/
def hostWrite (f : State → State) (s : State) : State :=
  if s.host.frozen || s.id.fail != 0 then s else f s

def execXlinvPage (s : State) : Result := agentStep (hostWrite fun s => writeXlinv (xlinvGo 0 s.arg.v) s) s
def execXlinvAsn (s : State) : Result := agentStep (hostWrite fun s => writeXlinv (xlinvGo 1 s.arg.v) s) s
def execXlinvAll (s : State) : Result := agentStep (hostWrite fun s => writeXlinv (xlinvGo 2 s.arg.v) s) s
/-- XLINV_COMPLETE (R59). -/
def execXlinvComplete (s : State) : Result := agentStep completeXlinv s

end Sys2Proof.Machine
end

