-- ==== Sys2Proof/Machine/Blocks.lean ====
section
/-!
DEFINITION. The end of groups and blocks (R257, R316, R104): lanes that exit, a group whose last lane has exited,
and a block that frees its place once its commands, stores and batches are done.
-/

namespace Sys2Proof.Machine

/-- Lanes of the live and spilled splits of a group. -/
def Group.lanesLeft (g : Group) : Lanes :=
  (liveSlots g).foldl (fun m i => m ||| (g.split i).mask) 0 ||| g.spill.foldl (fun m p => m ||| p.2) 0

/-- Loads owed to lanes that exit are discarded; a log entry that keeps no lane is freed (R316). -/
def Group.discardLoads (g : Group) (m : Lanes) : Group :=
  { g with oplog := (g.oplog.map fun e => (e.1, { e.2 with wr := e.2.wr &&& ~~~m, mask := e.2.mask &&& ~~~m })).filter
             fun e => e.2.mask != 0 }

/-- Load requests whose log entry is gone leave the core; atomics that have left it are still performed. -/
def dropOrphanLoads (k g : Nat) (s : State) : State :=
  dropReqs k (fun r => r.grp = g && (r.kind == .load || r.st == .performed) && orphan s k r) s

/-- Every lane of slot `sel.slot`'s MASK ends and the slot is free; a handler with no lane left ends (R316). -/
def exitLanes (s : State) : State :=
  let g := s.group
  let m := s.split.mask
  let g := (g.discardLoads m).setSplit s.sel.slot {}
  let g := if g.h && (g.lanesLeft &&& g.frame.mask) == 0 then { g with h := false } else g
  dropOrphanLoads s.sel.core s.sel.grp (s.setGroup g)

/-- A group whose last lane has exited lives no longer; nor does one of a block that has been ended, once no split of it is
inside a run (R204). -/
def endGroup (s : State) : State :=
  if s.group.dying && !s.group.splits.any (fun p => p.2.midRun) then s.setGroup s.group.killed
  else if s.group.live && s.group.lanesLeft == 0 then s.setGroup { s.group with live := false } else s

/-- Groups of a core that have ended close the batch tags they left open, once their commands have sent their writes
(R297; log entry 16). -/
def closeEnded (k : Nat) (s : State) : State :=
  (((s.coreAt k).groups.filter fun g => !g.2.live).map (·.1)).foldl (fun t g =>
    if t.tagOpen k g && t.canCloseTag k g then (closeTag k g t).2 else t) s

/-- Commands of a block's groups that have not completed, or not yet entered their queue. -/
def cmdsOf (s : State) (k b : Nat) : Bool :=
  ((s.coreAt k).eng ++ (s.coreAt k).entering).any fun q => q.2.any fun c => c.blk = b && c.st != .done

/-- A block can free its place: its groups have ended, and its commands, accesses, matrix entries, buffered stores
and batches are done (R104, R257, R297). -/
def blockDone (s : State) (k b : Nat) : Bool :=
  let x := s.blockAt k b
  let c := s.coreAt k
  x.live && x.groups.all (fun g => !(s.groupAt k g).live && s.tagsSettled k g && !s.tagOpen k g) &&
    !cmdsOf s k b && !c.reqs.any (fun r => r.blk = b) && !c.matq.any (fun e => e.blk = b)

/-- A block leaves its core: allotments, slots and groups are free; batch errors go to the grid (R297). -/
def retireBlock (k b : Nat) (s : State) : State :=
  let x := s.blockAt k b
  let errs := x.groups.foldl (fun e g => e ||| (s.groupAt k g).rwErrs) 0
  let fused := s.clusterFused k
  let c := s.coreAt k
  let g := s.gridAt x.gid
  let s := s.setCore k { c with
    groups := c.groups.filter fun e => !x.groups.contains e.1, blocks := mapDel c.blocks b,
    preemptors := c.preemptors.filter (· != b) }
  fuseChange k fused (s.setGrid x.gid { g with doneBlks := g.doneBlks + 1, errbits := g.errbits ||| errs })

/-- Every block of a core that is done leaves it. -/
def retireCore (k : Nat) (s : State) : State :=
  let s := closeEnded k s
  ((s.coreAt k).blocks.map (·.1)).foldl (fun t b => if blockDone t k b then retireBlock k b t else t) s

/-- What stands after every step's own effect: the boundary of the selected group (R263, R264), its splits that a stalled
store blocks (R80), its end, and the end of blocks of its core. -/
def settleStep (s : State) : State := retireCore s.sel.core (endGroup (holdAgain (boundary s)))

end Sys2Proof.Machine
end

