-- ==== Sys2Proof/Machine/PredLane.lean ====
section
/-!
DEFINITION. Compares and predicate logic (R175-R177).
-/

namespace Sys2Proof.Machine

/-- P[d] := relation in the active lanes, and the complement to P[d xor 1] when the pair bit is set (R175). -/
def effCmp (f : LCmp) (rel : Word → Word → Bool) (s : State) : State :=
  let g := s.group
  let m := s.active f.g
  let c := lanesWhere fun l => rel (g.vAt (g.lane f.w f.a.toNat) l) (g.vAt (g.lane f.w f.b.toNat) l)
  let g1 := g.setP f.d.toNat m c
  s.setGroup (if f.p = 1 then g1.setP (f.d ^^^ 1).toNat m (~~~c) else g1)

/-- A compare word. -/
def wordCmp (f : LCmp) (rel : Word → Word → Bool) (s : State) : Result :=
  plainWord (f.refs s.group) 1 (effCmp f rel) s

def rIcmpeq (x y : Word) : Bool := x == y
def rIcmpne (x y : Word) : Bool := x != y
def rIcmplt (x y : Word) : Bool := decide (x.toInt < y.toInt)
def rIcmple (x y : Word) : Bool := decide (x.toInt ≤ y.toInt)
def rNcmplt (x y : Word) : Bool := decide (x.toNat < y.toNat)
def rNcmple (x y : Word) : Bool := decide (x.toNat ≤ y.toNat)
def rFcmpun (x y : Word) : Bool := isNaN x || isNaN y
def rFcmpeq (x y : Word) : Bool := !rFcmpun x y && cmpKey x == cmpKey y
def rFcmpne (x y : Word) : Bool := !rFcmpeq x y
def rFcmplt (x y : Word) : Bool := !rFcmpun x y && decide (cmpKey x < cmpKey y)
def rFcmple (x y : Word) : Bool := !rFcmpun x y && decide (cmpKey x ≤ cmpKey y)

def execIcmpeq (f : LCmp) (s : State) : Result := wordCmp f rIcmpeq s
def execIcmpne (f : LCmp) (s : State) : Result := wordCmp f rIcmpne s
def execIcmplt (f : LCmp) (s : State) : Result := wordCmp f rIcmplt s
def execIcmple (f : LCmp) (s : State) : Result := wordCmp f rIcmple s
def execNcmplt (f : LCmp) (s : State) : Result := wordCmp f rNcmplt s
def execNcmple (f : LCmp) (s : State) : Result := wordCmp f rNcmple s
def execFcmpeq (f : LCmp) (s : State) : Result := wordCmp f rFcmpeq s
def execFcmpne (f : LCmp) (s : State) : Result := wordCmp f rFcmpne s
def execFcmplt (f : LCmp) (s : State) : Result := wordCmp f rFcmplt s
def execFcmple (f : LCmp) (s : State) : Result := wordCmp f rFcmple s
def execFcmpun (f : LCmp) (s : State) : Result := wordCmp f rFcmpun s

/-- A predicate operand with its invert bit (R176). -/
def Group.predIn (g : Group) (n : BitVec 4) (inv : BitVec 1) : Lanes :=
  if inv = 1 then ~~~(g.pAt n.toNat) else g.pAt n.toNat

/-- PAND, POR, PXOR. -/
def effPred (f : LPred) (op : Lanes → Lanes → Lanes) (s : State) : State :=
  let g := s.group
  s.setGroup (g.setP f.d.toNat (s.active f.g) (op (g.predIn f.a f.x) (g.predIn f.b f.y)))

def wordPred (f : LPred) (op : Lanes → Lanes → Lanes) (s : State) : Result :=
  plainWord [] 1 (effPred f op) s

def execPand (f : LPred) (s : State) : Result := wordPred f (· &&& ·) s
def execPor (f : LPred) (s : State) : Result := wordPred f (· ||| ·) s
def execPxor (f : LPred) (s : State) : Result := wordPred f (· ^^^ ·) s

/-- The conditions of R35 on a word. -/
def psetCond (c : Nat) (x : Word) : Bool :=
  match c with
  | 0 => x != 0
  | 1 => x == 0
  | 2 => x.getLsbD 31
  | 3 => !x.getLsbD 31
  | 4 => isNaN x
  | _ => x == 0x7F800000 || x == 0xFF800000

/-- PSET (R177). -/
def effPset (f : LPset) (s : State) : State :=
  let g := s.group
  s.setGroup (g.setP f.d.toNat (s.active f.g)
    (lanesWhere fun l => psetCond f.c.toNat (g.vAt (g.lane f.w f.a.toNat) l)))

/-- PGET (R177). -/
def effPget (f : LPget) (s : State) : State :=
  let g := s.group
  s.setGroup (g.setV (g.lane f.w f.d.toNat) (s.active f.g) fun l =>
    if laneIn (g.pAt f.a.toNat) l then 1 else 0)

def execPset (f : LPset) (s : State) : Result := plainWord (f.refs s.group) 1 (effPset f) s
def execPget (f : LPget) (s : State) : Result := plainWord (f.refs s.group) 1 (effPget f) s

end Sys2Proof.Machine
end

