-- ==== Sys2Proof/Machine/Control.lean ====
section
/-!
DEFINITION. Control flow within a group (R267-R274, R280, R281, R314-R316): branches, divisions, JOIN, EXEC
masking, instruction memory, the phase timer, TRAP, BKPT, RTE and EXIT.
-/

namespace Sys2Proof.Machine

/-! ### Branches (R270, R271) -/

/-- Word offset of the target, or none outside the segment. -/
def branchTarget (s : State) (off : BitVec 19) : Option Nat :=
  let t : Int := ((s.split.pc.toNat % 1024 : Nat) : Int) + off.toInt
  if 0 ≤ t ∧ t ≤ 1023 then some t.toNat else none

/-- The whole split moves, or the branch is illegal. -/
def takeBranch (off : BitVec 19) (s : State) : State :=
  match branchTarget s off with
  | some t => jumpTo t s
  | none => illegal s

def execBra (f : UBr) (s : State) : Result := runWord true true [] (takeBranch f.off) s
def execBrnz (f : UBrC) (s : State) : Result :=
  runWord true true [] (fun s => if s.group.sAt f.c.toNat = 0 then advance 1 s else takeBranch f.off s) s
def execBrz (f : UBrC) (s : State) : Result :=
  runWord true true [] (fun s => if s.group.sAt f.c.toNat = 0 then takeBranch f.off s else advance 1 s) s
def execBrez (f : UBr) (s : State) : Result :=
  runWord true true [] (fun s => if s.split.exec = 0 then takeBranch f.off s else advance 1 s) s

/-- The link of CALL: segment [15:11], the next word offset [10:0]. -/
def callLink (pc : BitVec 15) : DWord := BitVec.ofNat 64 (pc.toNat / 1024 * 2048 + pc.toNat % 1024 + 1)
/-- CALL. -/
def effCall (f : UBr) (s : State) : State :=
  match branchTarget s f.off with
  | some t => jumpTo t (s.setGroup (s.group.setS 127 (callLink s.split.pc)))
  | none => illegal s
def execCall (f : UBr) (s : State) : Result := runWord true true [] (effCall f) s

/-- RET. -/
def effRet (f : USrc) (s : State) : State :=
  let x := (s.group.sAt (s.group.uni f.i f.a.toNat)).toNat
  if x / 65536 ≠ 0 ∨ x / 2048 ≠ s.split.pc.toNat / 1024 ∨ x % 2048 > 1023 then illegal s
  else jumpTo (x % 2048) s
def execRet (f : USrc) (s : State) : Result := runWord true true (f.refs s.group) (effRet f) s

/-! ### Divisions (R263, R272) -/

/-- The slot keeps `keep` at its PC; the new splits are placed in order; a full spill area is fault 0x15 with the
MASK that found no room. -/
def divide (news : List (Lanes × BitVec 15)) (keep : Split) (s : State) : Except Lanes State :=
  let g := s.group.setSplit s.sel.slot keep
  match addSplits s.split news g with
  | some g' => .ok (s.setGroup g')
  | none =>
    let room := ((List.range 4).filter fun i => (g.split i).st == .free).length + (16 - g.spill.length)
    .error ((news.map (·.1)).getD room 0)

/-- BRD. -/
def effBrd (f : UBrC) (s : State) : State :=
  let p := s.split
  let t := p.exec &&& s.group.guardMask f.c
  if t = 0 then advance 1 s
  else match branchTarget s f.off with
    | none => illegal s
    | some off =>
      if t = p.mask then jumpTo off s
      else
        let pc := BitVec.ofNat 15 (p.pc.toNat / 1024 * 1024 + off)
        match divide [(t, pc)] { p with mask := p.mask &&& ~~~t, exec := p.exec &&& ~~~t } s with
        | .ok u => advance 1 u
        | .error m => raiseFault 0x15 (m.setWidth 64) s
def execBrd (f : UBrC) (s : State) : Result := runWord true true [] (effBrd f) s

/-- Offsets named by the lanes of a list, each once, in order of its lowest lane. -/
def brxTargets (v : Nat → Nat) (lanes : List Nat) : List Nat :=
  lanes.foldl (fun ts l => if ts.contains (v l) then ts else ts ++ [v l]) []

/-- BRX. -/
def effBrx (f : LaneSrc) (s : State) : State :=
  let p := s.split
  let g := s.group
  let r := g.lane 0 f.a.toNat
  let lanes := laneList p.exec
  if lanes.any fun l => (g.vAt r l).toNat ≥ 1024 then illegal s
  else if p.exec = 0 then advance 1 s
  else
    let v (l : Nat) : Nat := (g.vAt r l).toNat
    let at_ (t : Nat) : BitVec 15 := BitVec.ofNat 15 (p.pc.toNat / 1024 * 1024 + t)
    let takers (t : Nat) : Lanes := lanesWhere fun l => laneIn p.exec l && v l = t
    let rest := p.mask &&& ~~~p.exec
    let ts := brxTargets v lanes
    let news := if rest ≠ 0 then ts else ts.drop 1
    let keep : Split := if rest ≠ 0 then { p with mask := rest, exec := 0 }
      else { p with mask := takers (ts.headD 0), exec := takers (ts.headD 0) }
    match divide (news.map fun t => (takers t, at_ t)) keep s with
    | .ok u => if rest ≠ 0 then advance 1 u else jumpTo (ts.headD 0) u
    | .error m => raiseFault 0x15 (m.setWidth 64) s
def execBrx (f : LaneSrc) (s : State) : Result := runWord true true [laneRef s.group 0 f.a.toNat] (effBrx f) s

/-! ### JOIN, YIELD, SETPRI (R265, R273) -/

def execJoin (s : State) : Result :=
  runWord true true [] (fun s => s.setSplit { s.split with st := .joinwait, wait := none, phase := 0 }) s

/-- The JOINWAIT split that proceeds next: no other live split that the handler does not hold is READY, and none
waits at a lower PC (R265). -/
def joinReleased (g : Group) : Option Nat :=
  let free := (liveSlots g).filter fun i => !heldSplit g (g.split i).mask
  if free.any fun i => (g.split i).st == .ready then none
  else (free.filter fun i => (g.split i).st == .joinwait).foldl
    (fun b i => match b with
      | none => some i
      | some j => if (g.split i).pc.toNat < (g.split j).pc.toNat then some i else some j) none

/-- JOIN_RELEASE (R265). -/
def execJoinRelease (s : State) : Result :=
  agentStep (fun s => if s.group.live && joinReleased s.group = some s.sel.slot then advance 1 s else s) s

/-- Lowest PRI of the live splits. -/
def lowestPri (g : Group) : Nat := (liveSlots g).foldl (fun m i => min m (g.split i).pri.toNat) 255
def effYield (s : State) : State :=
  let p := s.split
  let q := if p.yld then p else { p with ypri := p.pri, yld := true }
  s.setSplit { q with pri := BitVec.ofNat 8 (lowestPri s.group - 1) }
def execYield (s : State) : Result := plainWord [] 1 effYield s
def execSetpri (f : PriForm) (s : State) : Result :=
  plainWord [] 1 (fun s => s.setSplit { s.split with pri := f.p, yld := false }) s

/-! ### EXEC (R267, R274) -/

/-- EXEC as a uniform value. -/
def lanes64 (m : Lanes) : DWord := m.setWidth 64
/-- A uniform value as lanes of the split. -/
def ofUniform (s : State) (x : DWord) : Lanes := x.setWidth 48 &&& allLanes s.sel.core &&& s.split.mask

def execExget (f : UDst) (s : State) : Result :=
  plainWord (f.refs s.group) 1 (fun s => s.setGroup (s.group.setS (s.group.uni f.i f.d.toNat) (lanes64 s.split.exec))) s
def execExset (f : USrc) (s : State) : Result :=
  plainWord (f.refs s.group) 1
    (fun s => s.setSplit { s.split with exec := ofUniform s (s.group.sAt (s.group.uni f.i f.a.toNat)) }) s
def effExand (f : UPred) (s : State) : State :=
  let g := s.group
  let e := s.split.exec
  (s.setGroup (g.setS (g.uni f.i f.d.toNat) (lanes64 e))).setSplit { s.split with exec := e &&& g.predIn f.b f.n }
def execExand (f : UPred) (s : State) : Result := plainWord (f.refs s.group) 1 (effExand f) s
def execExelse (f : USrc) (s : State) : Result :=
  plainWord (f.refs s.group) 1
    (fun s => s.setSplit { s.split with
      exec := ofUniform s (s.group.sAt (s.group.uni f.i f.a.toNat)) &&& ~~~s.split.exec }) s
def execVote (f : UPred) (s : State) : Result :=
  plainWord (f.refs s.group) 1 (fun s => s.setGroup (s.group.setS (s.group.uni f.i f.d.toNat)
    (lanes64 (s.split.exec &&& s.group.predIn f.b f.n)))) s

/-! ### Instruction memory (R279, R280) -/

/-- A live or spilled split of the grid on the core has its PC in a segment, or a group's handler lies there. -/
def segmentInUse (s : State) (k gid seg : Nat) : Bool :=
  (s.coreAt k).groups.any fun e => e.2.live && e.2.gid = gid &&
    ((liveSlots e.2).any (fun i => (e.2.split i).pc.toNat / 1024 = seg) || e.2.spill.any (fun p => p.1.toNat / 1024 = seg) ||
      e.2.trapvec.toNat % 32 = seg)

/-- The segment in S[a], if bits [63:5] are zero. -/
def segmentArg (s : State) (a : Nat) : Option Nat :=
  let x := (s.group.sAt a).toNat
  if x < 32 then some x else none

def effCfetch (f : SSrc) (s : State) : State :=
  match segmentArg s f.a.toNat with
  | none => illegal s
  | some n =>
    let k := s.sel.core
    let gid := s.group.gid
    if !s.grid.ovlmask.getLsbD n then illegal s
    else if s.landedAt k gid n then advance 1 s
    else if segmentInUse s k gid n then illegal s
    else
      let c := s.core
      advance 1 (s.setCore k { c with fetching := mapSet c.fetching gid (mapGet 0 c.fetching gid ||| BitVec.ofNat 32 (2 ^ n)) })
def execCfetch (f : SSrc) (s : State) : Result := runWord true true [] (effCfetch f) s

/-- Words of a segment in the kernel's image, read at VID 0; or the fault of the fetch. -/
def fetchSegment (d asn image seg : Nat) (s : State) : Except (Nat × Nat) (List Word) × State :=
  let (page, s) := resolveVa d asn (image + 4096 * seg) true false s
  match page with
  | .at_ pa => match s.readFault 0 pa 4096 with
    | some b => (.error (0x14, b), s)
    | none =>
      let (bs, s) := readView 0 pa 4096 s
      (.ok ((List.range 1024).map fun i => BitVec.ofNat 32 (leNat ((bs.drop (4 * i)).take 4))), s)
  | .refused => (.error (0x10, image + 4096 * seg), s)
  | .unreadable b => (.error (0x14, b), s)

/-- A segment's words stand in a core's instruction memory. -/
def installSegment (k gid seg : Nat) (ws : List Word) (s : State) : State :=
  let c := s.coreAt k
  s.setCore k { c with
    imem := ws.zipIdx.foldl (fun m w => mapSet m (codeKey gid (1024 * seg + w.2)) w.1) c.imem,
    landed := mapSet c.landed gid (mapGet 0 c.landed gid ||| BitVec.ofNat 32 (2 ^ seg)),
    fetching := mapSet c.fetching gid (mapGet 0 c.fetching gid &&& ~~~(BitVec.ofNat 32 (2 ^ seg))) }

/-- CFETCH_COMPLETE (R280): segment `idx` of grid `gid` has been fetched to the selected core, or could not be. -/
def execCfetchComplete (s : State) : Result :=
  agentStep (fun s =>
    let k := s.sel.core
    let gid := s.sel.gid
    let seg := s.sel.idx
    if (mapGet 0 s.core.fetching gid).getLsbD seg then
      let g := s.gridAt gid
      match fetchSegment (dieOf k) g.asn g.image seg s with
      | (.ok ws, s) => installSegment k gid seg ws s
      | (.error e, s) => reportFault gid { code := e.1, detail := BitVec.ofNat 64 e.2, coreN := s.coreN k,
                                           lease := s.leaseFor g.asn e.1 e.2 } s
    else s) s

/-- CWAIT: the segment is kept while the split waits. -/
def effCwait (f : SSrc) (s : State) : State :=
  let arg := if s.split.phase = 2 then some s.split.wdata.toNat else segmentArg s f.a.toNat
  match arg with
  | none => illegal s
  | some n =>
    if !s.grid.segmask.getLsbD n then illegal s
    else if s.landedAt s.sel.core s.group.gid n then advance 1 s
    else blockIn (.cwait f) 2 (BitVec.ofNat 64 n) s
def execCwait (f : SSrc) (s : State) : Result := runWord true true [] (effCwait f) s

/-- JMPF. -/
def effJmpf (f : FarForm) (s : State) : State :=
  if !s.grid.segmask.getLsbD f.s.toNat then illegal s
  else if !s.landedAt s.sel.core s.group.gid f.s.toNat then takeTrap 6 (f.s.setWidth 64) s.split.pc s
  else s.setSplit (s.split.resumed (f.s ++ f.off : BitVec 15))
def execJmpf (f : FarForm) (s : State) : Result := runWord true true [] (effJmpf f) s

/-! ### The phase timer (R281, R317) -/

/-- E + floor(E × FRAC / 64) + ADD (R145, R281). -/
def phaseLimit (e : Nat) (m : DWord) : Nat := e + e * (m.toNat % 256) / 64 + m.toNat / 256 % 2 ^ 24

def effPhase (f : SSrc) (s : State) : State :=
  let x := (s.group.sAt f.a.toNat).toNat
  if x ≥ 2 ^ 32 then illegal s
  else advance 1 (s.setGroup { s.group with
    expect := BitVec.ofNat 32 x, margin := phaseLimit x s.group.phmargin, phaseCount := 0, phaseOn := x != 0 })
def execPhase (f : SSrc) (s : State) : Result := runWord true true [] (effPhase f) s

/-- The counter has passed its margin. -/
def phaseDue (g : Group) : Bool := g.live && g.phaseOn && decide (g.phaseCount > g.margin)

/-- PHASE_TIMER_EXPIRY (R317): the selected split takes the trap at its next instruction; a wait is abandoned,
and the timer is off until the next PHASE. -/
def execPhaseTimerExpiry (s : State) : Result :=
  agentStep (fun s =>
    let g := s.group
    if phaseDue g && s.split.st != .free && s.split.search.isNone then
      let s := withdrawWords s.sel.core s.sel.grp [s.sel.slot] (s.setGroup { g with phaseOn := false })
      let s := s.setSplit { s.split with st := .ready, wait := none, phase := 0, wdata := 0, held := false }
      takeTrap 5 (BitVec.ofNat 64 (g.expect.toNat + 2 ^ 32 * (g.phaseCount % 2 ^ 32))) s.split.pc s
    else s) s

/-! ### TRAP, BKPT, RTE, EXIT (R314-R316) -/

/-- A word's trap saves the word after it; entering the handler is no step past word 1,023 (R34; log entry 41). -/
def effTrap (code : Nat) (n : BitVec 7) (s : State) : State :=
  takeTrap code (n.setWidth 64) (s.split.pc + 1) s
def execTrap (f : CodeForm) (s : State) : Result := runWord true true [] (effTrap 8 f.n) s

/-- BKPT stops the group for the debugger, or takes trap 9. -/
def effBkpt (f : CodeForm) (s : State) : State :=
  if s.group.bkstop then advance 1 (s.setGroup { s.group with stopReq := true }) else effTrap 9 f.n s
def execBkpt (f : CodeForm) (s : State) : Result := runWord true true [] (effBkpt f) s

def execRte (f : RteForm) (s : State) : Result := runWord true true [] (returnFromTrap (f.skip = 1)) s

/-- EXIT. -/
def execExit (s : State) : Result := runWord true true [] exitLanes s

/-- RESERVED_OPCODE (R39): fault 0x12. -/
def execReservedOpcode (_w : Word) (s : State) : Result := runWord true true [] illegal s

end Sys2Proof.Machine
end

