-- ==== Sys2Proof/Machine/Sync.lean ====
section
/-!
DEFINITION. Barriers (R275-R278), cairn registers (R134, R135, R251), FENCE (R240), and the remote batch
instructions WCFLUSH, RBATCH and RWAIT (R209). A waiting instruction keeps its phase: 0 and 1 its release, 2 its
own wait, 3 an answer from a caravan's home, 4 the wait for that answer.
-/

namespace Sys2Proof.Machine

/-- An arrival takes effect only after every matrix instruction of the group issued before (R195). -/
def afterMatrix (i : Instr) (eff : State → State) (s : State) : State :=
  if s.core.matq.any fun e => e.grp = s.sel.grp then blockIn i 0 s.split.wdata s else eff s

/-! ### Named barriers (R275) -/

def Block.bar (b : Block) (n : Nat) : Barrier := mapGet {} b.bars n
/-- One arrival: the first of a generation sets the number needed. -/
def Barrier.arrive (x : Barrier) (c : Nat) : Barrier :=
  let need := if x.arrivals = 0 then c else x.need
  if x.arrivals + 1 = need then { gen := x.gen + 1, arrivals := 0, need } else { x with arrivals := x.arrivals + 1, need }
/-- Generation `g` has completed: (generation − g) mod 2^16 lies in 1 .. 2^15 − 1. -/
def passed16 (now g : BitVec 16) : Bool := later16 now g

/-- BARARR and BARSYNC count one arrival and write the generation and count; the generation. -/
def barArrive (a n : Nat) (s : State) : BitVec 16 × State :=
  let b := s.block
  let x := b.bar n
  let c := (s.group.sAt a).toNat % 64
  let s := s.setBlock { b with bars := mapSet b.bars n (x.arrive c) }
  (x.gen, s.setGroup (s.group.setS a (BitVec.ofNat 64 (65536 * x.gen.toNat + c))))

def effBararr (f : QBar) (s : State) : State :=
  if (s.group.sAt f.a.toNat).toNat % 64 = 0 then illegal s
  else releaseThen (.bararr f) 2 (afterMatrix (.bararr f) fun s => advance 1 (barArrive f.a.toNat f.n.toNat s).2) s
def execBararr (f : QBar) (s : State) : Result := runWord true true [] (effBararr f) s

/-- Wait for generation `g` of a barrier. -/
def barAwait (i : Instr) (n : Nat) (g : BitVec 16) (s : State) : State :=
  if passed16 (s.block.bar n).gen g then advance 1 s else blockIn i 2 (g.setWidth 64) s

def effBarwait (f : QBar) (s : State) : State :=
  let g : BitVec 16 := if s.split.phase = 2 then s.split.wdata.setWidth 16
    else (s.group.sAt f.a.toNat >>> 16).setWidth 16
  barAwait (.barwait f) f.n.toNat g s
def execBarwait (f : QBar) (s : State) : Result := runWord true true [] (effBarwait f) s

def effBarsync (f : QBar) (s : State) : State :=
  if s.split.phase = 2 then barAwait (.barsync f) f.n.toNat (s.split.wdata.setWidth 16) s
  else if (s.group.sAt f.a.toNat).toNat % 64 = 0 then illegal s
  else releaseThen (.barsync f) 2 (afterMatrix (.barsync f) fun s =>
    let r := barArrive f.a.toNat f.n.toNat s
    barAwait (.barsync f) f.n.toNat r.1 r.2) s
def execBarsync (f : QBar) (s : State) : Result := runWord true true [] (effBarsync f) s

/-! ### Phase barriers (R276) -/

/-- The shared offset in S[a], or the fault of its check. -/
def phaseWordAt (s : State) (x : DWord) : Except (State → State) Nat :=
  let o := x.toNat
  if o ≥ 2 ^ 32 ∨ o % 8 ≠ 0 then .error illegal
  else if o + 8 > s.block.sharedSize then .error (allotmentFault (max o s.block.sharedSize) 1)
  else .ok o

def effPhbarr (f : QCount) (s : State) : State :=
  if f.k = 0 then illegal s
  else match phaseWordAt s (s.group.sAt f.a.toNat) with
    | .error fault => fault s
    | .ok o => releaseThen (.phbarr f) 2 (afterMatrix (.phbarr f) fun s =>
      let w := memNat s.block.shared o 8
      let count := w % 65536
      let left := w / 65536 % 65536
      let phase := w / 2 ^ 32 % 2
      if count = 0 ∨ left = 0 ∨ left > count ∨ w / 2 ^ 33 ≠ 0 then illegal s
      else
        let w' := if f.k.toNat ≥ left then count + 65536 * count + 2 ^ 32 * (1 - phase)
          else count + 65536 * (left - f.k.toNat) + 2 ^ 32 * phase
        advance 1 (s.setBlock { s.block with shared := memSetNat s.block.shared o 8 w' })) s
def execPhbarr (f : QCount) (s : State) : Result := runWord true true [] (effPhbarr f) s

/-- A store or atomic of the selected split to some bytes of the block's shared memory has not been performed: the split's
later reads of them wait (R227). -/
def State.ownStoreAt (s : State) (space a n : Nat) : Bool :=
  s.core.reqs.any fun r => r.grp = s.sel.grp && (r.mask &&& s.split.mask) != 0 && r.space = space && !r.window &&
    r.kind != .load && r.st != .performed && decide (r.line ≤ (a + n - 1) / 128) && decide (a / 128 ≤ r.line)

def effPhbwait (f : QPhase) (s : State) : State :=
  let x := if s.split.phase = 2 then s.split.wdata else s.group.sAt f.a.toNat
  match phaseWordAt s x with
  | .error fault => fault s
  | .ok o =>
    if !s.ownStoreAt 1 o 8 && memNat s.block.shared o 8 / 2 ^ 32 % 2 ≠ f.p.toNat then advance 1 s
    else blockIn (.phbwait f) 2 x s
def execPhbwait (f : QPhase) (s : State) : Result := runWord true true [] (effPhbwait f) s

/-! ### Caravans (R259, R260, R277, R134, R135) -/

/-- Table index of the block's caravan at position `c`; none where the launch entry names none. -/
def State.caravanAt (s : State) (c : BitVec 2) : Option Nat :=
  let i := s.block.cvword.toNat / 2 ^ (8 * c.toNat) % 256
  if i = 255 then none else some i

def Grid.caravan (g : Grid) (i : Nat) : Caravan := mapGet {} g.caravans i
/-- Die of a caravan's home. -/
def Caravan.homeDie (c : Caravan) : Nat := c.home % 2
/-- A die's replica of a cairn register. -/
def Grid.replica (g : Grid) (d i : Nat) : DWord := mapGet 0xFFFFFFFFFFFFFFFF g.replicas (256 * d + i)
def Grid.setReplica (g : Grid) (d i : Nat) (v : DWord) : Grid := { g with replicas := mapSet g.replicas (256 * d + i) v }
/-- CVBAR generations completed, as a die has heard. -/
def Grid.seen (g : Grid) (d i : Nat) : BitVec 16 := mapGet 0 g.genSeen (256 * d + i)

/-- The split awaits the home's answer to its arrival of that serial number (phase 4). -/
def Split.awaitsHome (p : Split) (ser : Nat) : Bool :=
  p.phase = 4 && p.wdata = BitVec.ofNat 64 ser &&
    (match p.wait with | some (.cvbar _) => true | some (.cairnmin _) => true | _ => false)

/-- The home's answer `v` reaches the member's split, if it still awaits it: a phase-timer trap may have abandoned the wait
(R317). -/
def answerMember (k gi slot ser : Nat) (v : DWord) (s : State) : State :=
  let g := s.groupAt k gi
  let p := g.split slot
  if p.awaitsHome ser then s.setGroupAt k gi (g.setSplit slot { p with phase := 3, wdata := v })
  else s

/-- One CVBAR arrival at the home: it is counted, and the generation it belongs to goes to the member. -/
def homeCvbar (gid i k gi slot ser : Nat) (s : State) : State :=
  let g := s.gridAt gid
  let c := g.caravan i
  let full := c.arrived + 1 = c.members
  let c' := if full then { c with arrived := 0, gen := c.gen + 1 } else { c with arrived := c.arrived + 1 }
  let g' := { g with caravans := mapSet g.caravans i c' }
  let g' := if full then { g' with genSeen := mapSet g'.genSeen (256 * c.homeDie + i) c'.gen } else g'
  answerMember k gi slot ser (c.gen.setWidth 64) (s.setGrid gid g')

/-- One CAIRNMIN at the home: the register falls, the home die's replica with it (R134, R135). -/
def homeCairn (gid i k gi slot ser : Nat) (v : DWord) (s : State) : State :=
  let g := s.gridAt gid
  let c := g.caravan i
  let n := if v.toNat < c.cairn.toNat then v else c.cairn
  let g' := { g with caravans := mapSet g.caravans i { c with cairn := n } }
  let s := s.setGrid gid (g'.setReplica c.homeDie i n)
  answerMember k gi slot ser n s

/-- An arrival is performed at the home. -/
def homeArrival (gid i : Nat) (a : CaravanArrival) (s : State) : State :=
  match a with
  | .cvbar k g slot ser => homeCvbar gid i k g slot ser s
  | .cairnMin k g slot ser v => homeCairn gid i k g slot ser v s

/-- An arrival is performed at once on the home die, or leaves for it. -/
def sendArrival (i : Nat) (a : CaravanArrival) (s : State) : State :=
  let gid := s.group.gid
  let g := s.grid
  if (g.caravan i).homeDie = dieOf s.sel.core then homeArrival gid i a s
  else s.setGrid gid { g with pendArr := g.pendArr ++ [(i, a)] }

/-- CARAVAN_HOME_ARRIVAL: arrival `idx` of grid `gid` reaches its home. -/
def execCaravanHomeArrival (s : State) : Result :=
  agentStep (fun s =>
    let g := s.gridAt s.sel.gid
    match g.pendArr[s.sel.idx]? with
    | some (i, a) => homeArrival s.sel.gid i a (s.setGrid s.sel.gid { g with pendArr := g.pendArr.eraseIdx s.sel.idx })
    | none => s) s

/-- CARAVAN_GENERATION_COMPLETION: the completed generations of caravan `idx` of grid `gid` reach die `die`. -/
def execCaravanGenerationCompletion (s : State) : Result :=
  agentStep (fun s =>
    let g := s.gridAt s.sel.gid
    s.setGrid s.sel.gid { g with
      genSeen := mapSet g.genSeen (256 * s.sel.die + s.sel.idx) (g.caravan s.sel.idx).gen }) s

/-- CAIRN_UPDATE (R251): the register of caravan `idx` of grid `gid` reaches die `die`'s replica. -/
def execCairnUpdate (s : State) : Result :=
  agentStep (fun s =>
    let g := s.gridAt s.sel.gid
    s.setGrid s.sel.gid (g.setReplica s.sel.die s.sel.idx (g.caravan s.sel.idx).cairn)) s

/-- The selected core numbers an instruction. -/
def takeSerial (s : State) : Nat × State :=
  (s.core.nextSer, s.setCore s.sel.core { s.core with nextSer := s.core.nextSer + 1 })

/-- CVBAR (R277): a release, the arrival, the wait for its generation on this die, an acquire. -/
def effCvbar (f : QCaravan) (s : State) : State :=
  match s.caravanAt f.c with
  | none => illegal s
  | some i =>
    let scope := 3 + (s.grid.caravan i).scope.toNat
    let finish (s : State) : State :=
      if passed16 (s.grid.seen (dieOf s.sel.core) i) (s.split.wdata.setWidth 16) then
        advance 1 (acquireAt scope (s.setGroup (s.group.setS f.a.toNat (s.split.wdata &&& 0xFFFF))))
      else blockIn (.cvbar f) 3 s.split.wdata s
    if s.split.phase = 3 then finish s
    else if s.split.phase = 4 then blockIn (.cvbar f) 4 s.split.wdata s
    else releaseThen (.cvbar f) scope (afterMatrix (.cvbar f) fun s =>
      let (n, s) := takeSerial s
      let s := sendArrival i (.cvbar s.sel.core s.sel.grp s.sel.slot n) (blockIn (.cvbar f) 4 (BitVec.ofNat 64 n) s)
      if s.split.phase = 3 then finish s else s) (endIdem s)
def execCvbar (f : QCaravan) (s : State) : Result := runWord true true [] (effCvbar f) s

/-- The last value the group saw of a cairn. -/
def Group.cairnLast (g : Group) (i : Nat) : DWord := mapGet 0xFFFFFFFFFFFFFFFF g.cairnSeen i
def minU (x y : DWord) : DWord := if y.toNat < x.toNat then y else x

/-- CAIRNMIN (R134, R135): it ends once every die's replica holds the decrease. -/
def effCairnmin (f : QCaravan) (s : State) : State :=
  match s.caravanAt f.c with
  | none => illegal s
  | some i =>
    let finish (s : State) : State :=
      let v := s.split.wdata
      if (List.range 2).all fun d => decide ((s.grid.replica d i).toNat ≤ v.toNat) then
        let g := s.group
        advance 1 (s.setGroup { g.setS f.a.toNat v with cairnSeen := mapSet g.cairnSeen i (minU v (g.cairnLast i)) })
      else blockIn (.cairnmin f) 3 v s
    if s.split.phase = 3 then finish s
    else if s.split.phase = 4 then blockIn (.cairnmin f) 4 s.split.wdata s
    else
      let v := s.group.sAt f.a.toNat
      let (n, s) := takeSerial s
      let s := endIdem (blockIn (.cairnmin f) 4 (BitVec.ofNat 64 n) s)
      let s := sendArrival i (.cairnMin s.sel.core s.sel.grp s.sel.slot n v) s
      if s.split.phase = 3 then finish s else s
def execCairnmin (f : QCaravan) (s : State) : Result := runWord true true [] (effCairnmin f) s

/-- CAIRNRD (R134). -/
def effCairnrd (f : QCaravan) (s : State) : State :=
  match s.caravanAt f.c with
  | none => illegal s
  | some i =>
    let g := s.group
    let v := minU (s.grid.replica (dieOf s.sel.core) i) (g.cairnLast i)
    advance 1 (s.setGroup { g.setS f.a.toNat v with cairnSeen := mapSet g.cairnSeen i v })
def execCairnrd (f : QCaravan) (s : State) : Result := runWord true true [] (effCairnrd f) s

/-! ### FENCE (R240, R241) -/

/-- The acquire part: earlier loads have returned, then the L1 is emptied at CLUSTER scope or wider. -/
def fenceAcquire (f : FenceForm) (s : State) : State :=
  let sc := f.scope.toNat
  if sc ≥ 1 ∧ !s.loadsBack then blockIn (.fence f) 2 0 s else advance 1 (acquireAt sc s)

def effFence (f : FenceForm) (s : State) : State :=
  let sc := f.scope.toNat
  let acq (s : State) : State := if f.kind = 2 then advance 1 s else fenceAcquire f s
  if s.split.phase = 2 then fenceAcquire f s
  else if f.kind = 1 then fenceAcquire f s
  else releaseThen (.fence f) sc acq (if sc ≥ 1 then endIdem s else s)
def execFence (f : FenceForm) (s : State) : Result := runWord true true [] (effFence f) s

/-! ### WCFLUSH, RBATCH, RWAIT (R209) -/

/-- WCFLUSH: the group's entries are sent; it ends when all have left the die (R249). -/
def effWcflush (s : State) : State :=
  let s := sendWcWhere s.sel.core (fun e => e.grp = s.sel.grp) s
  if s.wcEmptyOf s.sel.core s.sel.grp then advance 1 s else blockIn .wcflush 0 0 s
def execWcflush (s : State) : Result := runWord true true [] effWcflush s

/-- RBATCH: it waits for the next tag, the open tag's commands, and its entries that must wait at the source (R249), then
closes the tag in one step. -/
def effRbatch (f : UDst) (s : State) : State :=
  let k := s.sel.core
  let g := s.sel.grp
  let d := s.group.uni f.i f.d.toNat
  let t := s.group.rtag
  let u := sendWcWhere k (fun e => e.grp = g && e.tag = t) s
  if s.canCloseTag k g && u.writesWait k g (some t) then
    blockIn (.rbatch { d := BitVec.ofNat 7 d, i := 0 }) (s.split.phase + 1) 0 (endIdem u)
  else if s.canCloseTag k g then
    let r := closeTag k g u
    advance 1 (endIdem (r.2.setGroup (r.2.group.setS d (BitVec.ofNat 64 (t.toNat + 256 * r.1)))))
  else blockIn (.rbatch { d := BitVec.ofNat 7 d, i := 0 }) 0 0 (endIdem s)
def execRbatch (f : UDst) (s : State) : Result := runWord true true (f.refs s.group) (effRbatch f) s

/-- RWAIT: errors since the previous one, once every closed tag has its summaries. -/
def effRwait (f : UDst) (s : State) : State :=
  let k := s.sel.core
  let d := s.group.uni f.i f.d.toNat
  if s.tagsSettled k s.sel.grp then
    let r := takeErrors k s.sel.grp s
    advance 1 (r.2.2.setGroup ((r.2.2.group.setS d r.1).setS (d + 1) (r.2.1.setWidth 64)))
  else blockIn (.rwait { d := BitVec.ofNat 7 d, i := 0 }) 0 0 s
def execRwait (f : UDst) (s : State) : Result :=
  runWord true true [uniRef s.group f.i f.d.toNat 2] (effRwait f) s

end Sys2Proof.Machine
end

