-- ==== Sys2Proof/Machine/Queues.lean ====
section
/-!
DEFINITION. Queue registers (R92-R96, R101), batches and queue fences (R105-R107): QW, QRD, BCLOSE, WAITB, QFENCE.
-/

namespace Sys2Proof.Machine

/-! ### Command words (R96) -/

def Cmd.kind (c : Cmd) : Nat := c.w0.toNat % 16
/-- Bits [lo+n-1:lo] of a command word. -/
def bits64 (x : DWord) (lo n : Nat) : Nat := x.toNat / 2 ^ lo % 2 ^ n
def Cmd.tagByte (c : Cmd) : Nat := bits64 c.w0 8 8
def Cmd.notify (c : Cmd) : Bool := c.w0.getLsbD 6
/-- Word count of a kind, CONT counted. -/
def kindWords (w0 : DWord) : Nat :=
  match w0.toNat % 16 with
  | 1 => 2
  | 2 => 2
  | 3 => if w0.getLsbD 24 then 2 else 3
  | 4 => 2
  | 5 => 3
  | 6 => 2
  | 7 => 3
  | _ => 0
/-- The kind is assigned and belongs to the queue (R101 check 1). -/
def kindQueue (w0 : DWord) (q : Nat) : Bool :=
  match w0.toNat % 16 with
  | 1 => q ≤ 1
  | 2 => q ≤ 1
  | 3 => q ≤ 1
  | 4 => q == 2
  | 5 => q == 2
  | 6 => q ≤ 1
  | 7 => q ≤ 1
  | _ => false

/-- Source and destination spaces of a kind (R97, R100); the record's own SPACE. -/
def kindSpaces (kind src dst : Nat) : Bool :=
  match kind with
  | 1 => (src ≤ 2 || src = 4) && dst ≤ 2
  | 2 => (src ≤ 2 || src = 4) && dst ≤ 2
  | 3 => src ≤ 2 || src = 4
  | 4 => src ≤ 2 && dst = 3
  | 5 => src ≤ 1 && dst = 3
  | _ => true

/-- Fields that R96 leaves unlisted are zero, codes are in range, LIST is aligned (R101 check 2; R97-R100, R110). -/
def commandFieldsOk (w0 w1 w2 : DWord) : Bool :=
  !w0.getLsbD 7 &&
  match w0.toNat % 16 with
  | 1 => bits64 w0 26 6 = 0
  | 2 => bits64 w0 26 6 = 0 && bits64 w0 32 16 ≠ 0 && bits64 w1 0 32 % 4 = 0
  | 3 =>
    bits64 w0 25 7 = 0 && bits64 w1 32 32 = 0 &&
      (w0.getLsbD 24 ||
        (let fmt := bits64 w2 0 2
         let planes := bits64 w2 2 4
         fmt ≠ 3 && (if fmt = 0 then 2 ≤ planes && planes ≤ 8 else planes = 0) && bits64 w2 6 2 ≠ 3 &&
           bits64 w2 8 8 = 0 && bits64 w2 16 16 ≠ 0))
  | 4 => bits64 w0 26 6 = 0
  | 5 =>
    bits64 w0 26 6 = 0 && bits64 w0 45 3 = 0 && 1 ≤ bits64 w0 32 13 && bits64 w0 32 13 ≤ 4096 &&
      bits64 w2 0 2 ≠ 3 && bits64 w2 2 30 = 0
  | 6 => bits64 w0 36 28 = 0 && bits64 w1 0 21 = 0 && bits64 w1 57 7 = 0
  | 7 =>
    bits64 w0 40 24 = 0 && bits64 w1 0 21 = 0 && bits64 w1 57 7 = 0 && bits64 w0 16 4 ≤ 7 &&
      bits64 w0 20 20 < 32768 && 2 ≤ bits64 w2 0 4 && bits64 w2 0 4 ≤ 8 && bits64 w2 4 60 = 0
  | _ => false

/-- The record a command names at bit `lo` of its first word. -/
def commandRec (s : State) (w0 : DWord) (lo : Nat) : BitVec 128 := s.group.dAt (bits64 w0 lo 5)

/-- The checks of a whole command (R101): the fault they end in, if any. -/
def commandFault (s : State) (q : Nat) (ws : List DWord) : Option (State → State) :=
  let w0 := ws.getD 0 0
  let w1 := ws.getD 1 0
  let w2 := ws.getD 2 0
  let kind := w0.toNat % 16
  let src := recSpace (commandRec s w0 16)
  let dst := recSpace (commandRec s w0 21)
  let named := if kind ≤ 2 ∨ kind = 4 ∨ kind = 5 then [src, dst] else if kind = 3 then [src] else []
  if !kindQueue w0 q then some illegal
  else if ws.length ≠ kindWords w0 then some illegal
  else if !commandFieldsOk w0 w1 w2 || !kindSpaces kind src dst then some illegal
  else if isOasis s.sel.core && (kind = 3 || named.contains 2) then some illegal
  else if (kind = 6 ∨ kind = 7) ∧ !s.group.priv then some privilegeViolation
  else none

/-! ### Engine queues (R92, R93) -/

def State.engQueue (s : State) (k q : Nat) : List Cmd := mapGet [] (s.coreAt k).eng q
def State.setEngQueue (s : State) (k q : Nat) (l : List Cmd) : State :=
  s.setCore k { s.coreAt k with eng := mapSet (s.coreAt k).eng q l }
/-- Free words: a queue holds 64 words of commands that have not started. -/
def State.engFree (s : State) (k q : Nat) : Nat :=
  64 - (((s.engQueue k q).filter fun c => c.st == .queued).map (·.words)).sum

/-- What a command entering queue `q` waits for: the fences that name the queue, as one (R107). -/
def fenceAfter (g : Group) (q : Nat) : Fence :=
  let hit := g.fences.filter fun f => f.q.getLsbD q
  { q := 0, cmds := (hit.flatMap (·.cmds)).dedup, sers := (hit.flatMap (·.sers)).dedup, acks := (hit.flatMap (·.acks)).dedup }

/-- A local copy keeps the idempotent mark; every other command ends it (R104, R296). -/
def keepsIdem (s : State) (w0 : DWord) : Bool :=
  (w0.toNat % 16 = 1 || w0.toNat % 16 = 2) &&
    (recSpace (commandRec s w0 21) = 1 || recSpace (commandRec s w0 21) = 2)

/-- The command that a QW completes, with the records and the tag as they stand at that QW (R96, R208). -/
def wholeCmd (ws : List DWord) (s : State) : Cmd :=
  let g := s.group
  let w0 := ws.getD 0 0
  { id := 0, w0, w1 := ws.getD 1 0, w2 := ws.getD 2 0, words := ws.length, grp := s.sel.grp, blk := g.blk,
    gid := g.gid, asn := g.asn, vid := g.vid, batch := 0, tag := g.rtag,
    srec := commandRec s w0 16, drec := commandRec s w0 21 }

/-- A whole command enters its queue in the group's open batch (R93, R95, R105), and its assembly buffer is free. -/
def enterCommand (q : Nat) (c : Cmd) (s : State) : State :=
  let g := s.group
  let f := fenceAfter g q
  let cmd := { c with id := s.core.nextCmd, batch := g.lastClosed + 1, after := f.cmds, afterSers := f.sers, afterAcks := f.acks }
  let s := s.setEngQueue s.sel.core q (s.engQueue s.sel.core q ++ [cmd])
  let s := s.setCore s.sel.core { s.core with nextCmd := cmd.id + 1 }
  s.setGroup { g with asm_ := mapSet g.asm_ q [], openBatch := { g.openBatch with open_ := g.openBatch.open_ + 1 } }

/-- The assembly buffer holds a whole command (R93). -/
def wholeCommand (ws : List DWord) : Bool :=
  match ws with
  | [] => false
  | w :: _ => ws.length = bits64 w 4 2 + 1

/-- Completed commands that wait for room, in the order in which they were completed (R93). -/
def State.entering (s : State) (k q : Nat) : List Cmd := mapGet [] (s.coreAt k).entering q
def State.setEntering (s : State) (k q : Nat) (l : List Cmd) : State :=
  s.setCore k { s.coreAt k with entering := mapSet (s.coreAt k).entering q l }

/-- A QW still has its place in the order of issue: its split waits in it, or is to reissue it, at once or after a handler
(R93). -/
def Group.standing (g : Group) (x : Nat × Nat × BitVec 15) : Bool :=
  let p := g.split x.2.1
  p.st != .free && (p.pc == x.2.2 || (g.h && g.frame.pc == x.2.2 && (p.mask &&& g.frame.mask) != 0))
/-- QWs to the queue that issued before the selected split's. -/
def qwAhead (q : Nat) (s : State) : Bool :=
  !(((s.group.asmOrder.filter fun x => x.1 = q && s.group.standing x).takeWhile fun x => x.2.1 != s.sel.slot).isEmpty)
/-- The selected split's QW takes a place in the order of issue, and leaves it. -/
def qwPlace (q : Nat) (s : State) : Nat × Nat × BitVec 15 := (q, s.sel.slot, s.split.pc)
def takePlace (q : Nat) (s : State) : State :=
  let l := s.group.asmOrder.filter s.group.standing
  if l.contains (qwPlace q s) then s else s.setGroup { s.group with asmOrder := l ++ [qwPlace q s] }
def leavePlace (q : Nat) (s : State) : State :=
  s.setGroup { s.group with asmOrder := s.group.asmOrder.filter (· != qwPlace q s) }

/-- The group's completed command enters its queue once it is the first that waits and there is room; its QW ends. -/
def enterFirst (f : QReg) (s : State) : State :=
  let k := s.sel.core
  let q := f.q.toNat
  match s.entering k q with
  | c :: rest =>
    if c.grp = s.sel.grp ∧ c.words ≤ s.engFree k q then advance 1 (leavePlace q (enterCommand q c (s.setEntering k q rest)))
    else blockIn (.qw f) 2 0 s
  | [] => blockIn (.qw f) 2 0 s

/-- QW to an engine: phase 2 waits for room with its command whole, phase 3 for the buffer, behind those that issued before
it. -/
def qwEngine (f : QReg) (s : State) : State :=
  let k := s.sel.core
  let q := f.q.toNat
  let buf := mapGet [] s.group.asm_ q
  if s.split.phase = 2 then enterFirst f s
  else
    let w := if s.split.phase = 3 then s.split.wdata else s.group.sAt f.a.toNat
    if wholeCommand buf || qwAhead q s then blockIn (.qw f) 3 w (takePlace q s)
    else
      let ws := buf ++ [w]
      let t := s.setGroup { s.group with asm_ := mapSet s.group.asm_ q ws }
      if wholeCommand ws then
        match commandFault s q ws with
        | some fault => fault s
        | none =>
          let t := if keepsIdem s (ws.getD 0 0) then t else endIdem t
          enterFirst f (takePlace q (t.setEntering k q (t.entering k q ++ [wholeCmd ws s])))
      else advance 1 (leavePlace q t)

/-! ### Bounded queues (R94) -/

def Block.queue (b : Block) (q : Nat) : BQueue := mapGet {} b.queues q
def Block.declared (b : Block) (q : Nat) : Bool := decide ((b.queue q).cap > 0)

/-- QW to Q8-Q15: a release at BLOCK scope, then a push once there is room. -/
def qwBlock (f : QReg) (s : State) : State :=
  let q := f.q.toNat
  if !s.block.declared q then illegal s
  else
    let w := if s.split.phase = 2 then s.split.wdata else s.group.sAt f.a.toNat
    let push (s : State) : State :=
      let b := s.block
      let x := b.queue q
      if x.q.length < x.cap then advance 1 (s.setBlock { b with queues := mapSet b.queues q { x with q := x.q ++ [w] } })
      else blockIn (.qw f) 2 w s
    if s.split.phase = 2 then push s else releaseThen (.qw f) 2 push (endIdem s)

/-- QW (R95). -/
def effQw (f : QReg) (s : State) : State :=
  let q := f.q.toNat
  if 3 ≤ q ∧ q ≤ 7 then illegal s else if q ≤ 2 then qwEngine f s else qwBlock f s
def execQw (f : QReg) (s : State) : Result := runWord true true [] (effQw f) s

/-- Pop a group's record queue, or wait. -/
def qrdRecord (f : QReg) (l : List DWord) (rest : List DWord → Group → Group) (s : State) : State :=
  match l with
  | [] => blockIn (.qrd f) 2 0 s
  | x :: xs => advance 1 (s.setGroup ((rest xs s.group).setS f.a.toNat x))

/-- QRD (R95). -/
def effQrd (f : QReg) (s : State) : State :=
  let q := f.q.toNat
  if q = 3 then illegal s
  else if q ≤ 2 then
    advance 1 (s.setGroup (s.group.setS f.a.toNat (BitVec.ofNat 64 (s.engFree s.sel.core q))))
  else if q ≤ 6 then
    qrdRecord f (mapGet [] s.group.comp (q - 4)) (fun xs g => { g with comp := mapSet g.comp (q - 4) xs }) s
  else if q = 7 then qrdRecord f s.group.q7 popQ7 s
  else if !s.block.declared q then illegal s
  else
    let b := s.block
    let x := b.queue q
    match x.q with
    | [] => blockIn (.qrd f) 2 0 s
    | v :: vs =>
      let s := s.setBlock { b with queues := mapSet b.queues q { x with q := vs } }
      advance 1 (s.setGroup (s.group.setS f.a.toNat v))
def execQrd (f : QReg) (s : State) : Result := runWord true true [] (effQrd f) s

/-! ### Batches (R105, R106) -/

/-- BCLOSE. -/
def effBclose (f : QSrc) (s : State) : State :=
  let g := s.group
  if g.batches.length ≥ 8 then blockIn (.bclose f) 0 0 s
  else
    let n := g.lastClosed + 1
    let b := { g.openBatch with num := n }
    let g := { g with lastClosed := n, openBatch := { num := 0, open_ := 0 },
                      batches := if b.open_ = 0 then g.batches else g.batches ++ [b],
                      doneMarks := if b.open_ = 0 then g.doneMarks ++ [b] else g.doneMarks }
    advance 1 (s.setGroup (g.setS f.a.toNat (n.setWidth 64)))
def execBclose (f : QSrc) (s : State) : Result := runWord true true [] (effBclose f) s

/-- Batch `m` lies at or before `n`. -/
def upTo (n m : BitVec 16) : Bool := atOrAfter n m

/-- The first unreported miss of the batches up to `n`: by batch, then in the order of recording. -/
def firstMiss (g : Group) (n : BitVec 16) : Option Miss :=
  (g.misses.filter fun m => !m.reported && upTo n m.batch).foldl
    (fun b m => match b with
      | none => some m
      | some x => if (n - m.batch).toNat > (n - x.batch).toNat then some m else some x) none

/-- WAITB: S[a] keeps the number while it waits (phase 2). A batch that completed before the previous WAITB but is numbered
above what that one waited for is reported by the first WAITB that covers it (log entry 69). -/
def effWaitb (f : QSrc) (s : State) : State :=
  let g := s.group
  let x : DWord := if s.split.phase = 2 then s.split.wdata
    else
      let n : BitVec 16 := (g.sAt f.a.toNat).setWidth 16
      if later16 n g.lastClosed then g.lastClosed.setWidth 64 ||| 0x10000 else n.setWidth 64
  let n : BitVec 16 := x.setWidth 16
  if g.batches.any fun b => upTo n b.num then blockIn (.waitb f) 2 x s
  else match firstMiss g n with
    | some m =>
      let keep (m : Miss) : Miss := if upTo n m.batch then { m with reported := true } else m
      takeTrap 7 (BitVec.ofNat 64 (m.batch.toNat + 65536 * m.pair.toNat + 2 ^ 32 * m.pblk.toNat)) s.split.pc
        (s.setGroup { g with misses := (g.misses.map keep).filter fun m => !m.reported })
    | none =>
      let hit := g.doneMarks.filter fun b => upTo n b.num
      let bit (p : Batch → Bool) (i : Nat) : Nat := if hit.any p then 2 ^ i else 0
      let r := n.toNat + bit (·.refused) 16 + bit (·.cancelled) 17 + (if x.getLsbD 16 then 2 ^ 18 else 0) +
        bit (·.remote) 19
      let g := { g with doneMarks := g.doneMarks.filter fun b => !upTo n b.num }
      advance 1 (s.setGroup (g.setS f.a.toNat (BitVec.ofNat 64 r)))
def execWaitb (f : QSrc) (s : State) : Result := runWord true true [] (effWaitb f) s

/-! ### QFENCE (R107) -/

/-- Commands of the selected group in the fenced queues, of numbers below `lim`. -/
def fencedCmds (s : State) (q : BitVec 3) (lim : Nat) : List Nat :=
  ((List.range 3).filter fun i => q.getLsbD i).flatMap fun i =>
    ((s.engQueue s.sel.core i).filter fun c => c.grp = s.sel.grp && decide (c.id < lim)).map (·.id)

/-- Accesses of the split before the fence (M): its instructions with an access owed, and the remote writes of the group
that no peer has acknowledged yet (R107, R254). -/
def fencedSers (s : State) : List Nat :=
  let mine (g : Nat) (m : Lanes) : Bool := g = s.sel.grp && (m &&& s.split.mask) != 0
  (((s.core.reqs.filter fun r => mine r.grp r.mask).map (·.ser)) ++
    ((s.group.oplog.filter fun e => e.2.st != .free && (e.2.mask &&& s.split.mask) != 0).map fun e => e.2.ser)).dedup
def fencedAcks (s : State) : List Nat :=
  let k := s.sel.core
  let e := s.dieAt (dieOf k)
  ((s.core.wc.filter fun w => w.grp = s.sel.grp).map (·.ack)) ++
    ((e.out.filter fun o => o.core = k && o.grp = s.sel.grp).map (·.ack)) ++
    (e.waiting.filter fun x => x.2.srcGrp = 256 * k + s.sel.grp).map fun x => x.2.ack

/-- QFENCE: phase 2 waits for the commands numbered below its value. -/
def effQfence (f : QFenceForm) (s : State) : State :=
  if f.q = 0 then illegal s
  else if s.split.phase = 2 then
    if (fencedCmds s f.q s.split.wdata.toNat).isEmpty then advance 1 s else blockIn (.qfence f) 2 s.split.wdata s
  else
    let lim := s.core.nextCmd
    let cmds := fencedCmds s f.q lim
    let fence : Fence := if f.m = 1 then { q := f.q, cmds, sers := fencedSers s, acks := fencedAcks s } else { q := f.q, cmds }
    let s := s.setGroup { s.group with fences := s.group.fences ++ [fence] }
    if f.w = 1 ∧ !cmds.isEmpty then blockIn (.qfence f) 2 (BitVec.ofNat 64 lim) s else advance 1 s
def execQfence (f : QFenceForm) (s : State) : Result := runWord true true [] (effQfence f) s

end Sys2Proof.Machine
end

