-- ==== Sys2Proof/Machine/Engines.lean ====
section
/-!
DEFINITION. The copy engines and the network engine (R96-R104, R110, R254, R255): when a command may start, its
bytes and their checks, and its completion. One command is performed as one step, FIFOFILL as much of it as the
FIFO has room for.
-/

namespace Sys2Proof.Machine

/-! ### When a command starts (R102, R107) -/

/-- An instruction that a fence with M named has returned, or been performed if it is a store (R107). -/
def serPassed (s : State) (k gi ser : Nat) : Bool :=
  !(s.coreAt k).reqs.any (fun r => r.grp = gi && r.ser = ser && !(r.kind == .store && r.st == .performed)) &&
    !(s.groupAt k gi).oplog.any fun e => e.2.st != .free && e.2.ser = ser

/-- A command is still in some queue of the core. -/
def cmdPending (s : State) (k id : Nat) : Bool := (s.coreAt k).eng.any fun q => q.2.any fun c => c.id = id

/-- Bytes of a FIFO of the block (R109): each block without tile storage has FIFOs of its own (log entry 71). -/
def Block.fifoBytes (b : Block) : Nat := ((768 - 63 * b.slots) * 1024 - b.tileBytes) / 8 / 128 * 128

/-- The 4 KiB regions of a block that some bytes of a space lie in (R323). -/
def rangeRegions (blk space a n : Nat) : List Nat :=
  if n = 0 then [] else (List.range ((a + n - 1) / 4096 - a / 4096 + 1)).map fun i => regionOf blk space (4096 * (a / 4096 + i))
/-- Regions of an operand FIFO: the FIFOs follow the byte reservations (R109). -/
def Block.fifoRegions (b : Block) (blk f : Nat) : List Nat :=
  rangeRegions blk 2 (64512 * b.slots + b.tileBytes + f * b.fifoBytes) b.fifoBytes
/-- Regions that a command's offsets into a record name. -/
def recRegions (s : State) (c : Cmd) (d : BitVec 128) (offs : List Nat) : List Nat :=
  let sp := s.spaceOf d
  if sp = 1 ∨ sp = 2 then
    ((offs.filter fun o => o < recExtent d).map fun o => regionOf c.blk sp (spaceAddr sp d o)).dedup
  else []

def Cmd.len (c : Cmd) : Nat := bits64 c.w0 32 32
def Cmd.soff (c : Cmd) : Nat := bits64 c.w1 0 32
def Cmd.doff (c : Cmd) : Nat := bits64 c.w1 32 32
def Cmd.shufLen (c : Cmd) : Nat := bits64 c.w0 32 13
/-- Source and destination offsets of a contiguous command. -/
def copyPairs (c : Cmd) (n : Nat) : List (Nat × Nat) := (List.range n).map fun i => (c.soff + i, c.doff + i)

/-- The index of row `i` in the block's shared allotment, or the fault of its read. -/
def gatherIndex (k : Nat) (c : Cmd) (s : State) (i : Nat) : Except (Nat × Nat) Nat :=
  let a := bits64 c.w1 0 32 + 4 * i
  let b := s.blockAt k c.blk
  if a + 4 ≤ b.sharedSize then .ok (memNat b.shared a 4) else .error (0x11, max a b.sharedSize % 2 ^ 32 + 2 ^ 32)

/-- The offsets of every row (R97). -/
def gatherPairs (k : Nat) (c : Cmd) (s : State) : List Nat → Except (Nat × Nat) (List (Nat × Nat))
  | [] => .ok []
  | i :: r =>
    match gatherIndex k c s i with
    | .error e => .error e
    | .ok x => match gatherPairs k c s r with
      | .error e => .error e
      | .ok l =>
        let rowb := bits64 c.w0 32 16
        let src := if recStride c.srec = 0 then x else x * recStride c.srec
        .ok ((List.range rowb).map (fun j => (src + j, c.doff + i * rowb + j)) ++ l)
def gatherRows (c : Cmd) : List Nat := List.range (bits64 c.w0 48 16)

/-- Bytes of a unit in the source, and the offsets of those kept, by stream header. -/
def unitSize (hdr : DWord) : Nat := if bits64 hdr 0 2 = 1 then 1536 else 800
def unitKept (hdr : DWord) : List Nat :=
  match bits64 hdr 0 2 with
  | 0 => List.range (96 * bits64 hdr 2 4) ++ (List.range 32).map (· + 768)
  | 1 => List.range 1536
  | _ => List.range 800
/-- The FIFO of a FIFOFILL, its units, and the header of the stream it feeds. -/
def Cmd.fifo (c : Cmd) : Nat := bits64 c.w0 21 3
def Cmd.units (c : Cmd) : Nat := bits64 c.w0 32 32
def fillHeader (k : Nat) (c : Cmd) (s : State) : Option DWord :=
  if c.w0.getLsbD 24 then ((mapGet [] (s.blockAt k c.blk).fifos c.fifo).getLast?).map (·.hdr) else some c.w2
/-- Source offsets of the bytes that a FIFOFILL keeps, unit after unit. -/
def fillOffs (c : Cmd) (hdr : DWord) : List Nat :=
  (List.range c.units).flatMap fun i => (unitKept hdr).map (· + (c.soff + i * unitSize hdr))

/-- The regions a command touches; of a GATHER those of its list, and of its rows once the list can be read. -/
def commandRegions (k : Nat) (c : Cmd) (s : State) : List Nat :=
  let pairs (l : List (Nat × Nat)) : List Nat :=
    recRegions s c c.srec (l.map (·.1)) ++ recRegions s c c.drec (l.map (·.2))
  match c.kind with
  | 1 => pairs (copyPairs c c.len)
  | 2 =>
    let list := rangeRegions c.blk 1 (bits64 c.w1 0 32) (4 * bits64 c.w0 48 16)
    if list.any (s.coreAt k).toFill.contains then list
    else list ++ (match gatherPairs k c s (gatherRows c) with | .ok l => pairs l | .error _ => [])
  | 3 => (s.blockAt k c.blk).fifoRegions c.blk c.fifo ++
      (match fillHeader k c s with | some h => recRegions s c c.srec (fillOffs c h) | none => [])
  | 4 => pairs (copyPairs c c.len)
  | 5 => pairs (copyPairs c c.shufLen)
  | _ => []
/-- Every region the command touches is in place (R323). -/
def commandPlaced (k : Nat) (c : Cmd) (s : State) : Bool :=
  (s.coreAt k).toFill.isEmpty || !(commandRegions k c s).any (s.coreAt k).toFill.contains

/-- The command of a queue that could start next, but for regions that are not in place: those before it have sent or
performed every write, the fences it stands behind are passed, and its engine is not frozen. -/
def nextCommand (s : State) (k q : Nat) : Option Cmd :=
  let l := s.engQueue k q
  match l.find? fun c => c.st == .queued with
  | none => none
  | some c =>
    let before := l.takeWhile fun d => d.id != c.id
    let left (d : Cmd) : Bool := d.st == .sent &&
      (q != 2 || !((s.dieAt (dieOf k)).waiting ++ (s.dieAt (dieOf k)).stdQueue).any (cmdMsg k d.id))
    if before.all left && !mapGet false (s.coreAt k).frozenEng q &&
        c.after.all (fun i => !cmdPending s k i) && c.afterSers.all (serPassed s k c.grp) &&
        c.afterAcks.all (fun n => !s.ackOwed k n) then some c else none

/-- The command of a queue that starts next, if it may (R102, R107, R323). -/
def startable (s : State) (k q : Nat) : Option Cmd :=
  match nextCommand s k q with
  | some c => if commandPlaced k c s then some c else none
  | none => none

/-- Change a command. -/
def modCmd (k q id : Nat) (f : Cmd → Cmd) (s : State) : State :=
  s.setEngQueue k q ((s.engQueue k q).map fun c => if c.id = id then f c else c)

/-- The generation that a command's last walk expected in vain at an address, or 0 (R60). -/
def Cmd.goneGen (c : Cmd) (detail : Nat) (s : State) : BitVec 16 :=
  match mapFind c.expects (vpnOf detail) with
  | some g => if c.retries ≥ 16 && (s.walkOf c.asn (vpnOf detail) (some g)).hit == .none then g else 0
  | none => 0

/-- A fault that a running command meets: its grid ends (R101). -/
def commandAbort (k q : Nat) (c : Cmd) (code detail : Nat) (s : State) : State :=
  let f : FaultRec := { code, detail := BitVec.ofNat 64 detail, blk := (s.blockAt k c.blk).blk, coreN := s.coreN k,
                        grpin := (s.groupAt k c.grp).grpin, expgen := if code = 0x10 then c.goneGen detail s else 0,
                        lease := s.leaseFor c.asn code detail }
  modCmd k q c.id (fun d => { d with st := .sent, cancelled := true }) (reportFault c.gid f s)

/-! ### Pages of a command (R56-R58, R60) -/

/-- What translating a command's pages gives: each page once (R58), also one that the sixteenth retry did not find (R60);
or the command waits, its pages NACKed or not found yet (R57, R60). -/
inductive Pages where
  | ok (l : Map Xlated)
  | again

/-- One page: through the TLBs, or after a NACK by a fresh walk that expects a generation. -/
def cmdPage (k : Nat) (c : Cmd) (p : Nat) (s : State) : Xlated × State :=
  match mapFind c.expects p with
  | none => translate k c.asn p s
  | some g => match walk (dieOf k) c.asn p (some g) s with
    | (.found st fr e, t) =>
      let x : TlbEntry := { asn := c.asn, vpn := p, stack := st, frame := fr, perm := ptePerm st e, gen := pteGen e }
      (.ok x, fillTlb k x t)
    | (.none, t) => (.none, t)
    | (.unreadable pa, t) => (.unreadable pa, t)

def cmdPageList (k : Nat) (c : Cmd) : List Nat → State → Map Xlated × State
  | [], s => ([], s)
  | p :: ps, s =>
    let r := cmdPage k c p s
    let t := cmdPageList k c ps r.2
    (mapSet t.1 p r.1, t.2)

/-- The pages of some addresses; the home NACKs a page whose generation has changed, and its walk is retried. -/
def commandPages (k q : Nat) (c : Cmd) (vas : List Nat) (s : State) : Pages × State :=
  let (l, s) := cmdPageList k c (vas.map vpnOf).dedup s
  let stale := l.filterMap fun x => match x.2 with
    | .ok e => (s.staleGen (physOf e.stack e.frame 0) e.gen).map fun g => (x.1, g)
    | _ => none
  if stale.isEmpty then
    if c.retries < 16 && l.any fun x => x.2 == .none && (mapFind c.expects x.1).isSome then
      (.again, modCmd k q c.id (fun d => { d with retries := d.retries + 1 }) s)
    else (.ok l, s)
  else (.again, stale.foldl (fun t x => dropTlb k c.asn x.1
    (modCmd k q c.id (fun d => { d with expects := mapSet d.expects x.1 x.2, retries := 0 }) t)) s)

/-- Go on with a command whose pages are translated. -/
def withPages (k q : Nat) (c : Cmd) (vas : List Nat) (f : Map Xlated → State → State) (s : State) : State :=
  match commandPages k q c vas s with
  | (.ok l, s) => f l s
  | (.again, s) => s

/-- Virtual addresses of a record's bytes that need a translation: within the extent, in spaces 0 and 4. -/
def recVas (s : State) (d : BitVec 128) (offs : List Nat) : List Nat :=
  let sp := s.spaceOf d
  if sp = 0 ∨ sp = 4 then (offs.filter fun o => o < recExtent d).map (spaceAddr sp d) else []
def pairVas (c : Cmd) (l : List (Nat × Nat)) (s : State) : List Nat :=
  recVas s c.srec (l.map (·.1)) ++ recVas s c.drec (l.map (·.2))

/-! ### Bytes of a command (R98) -/

/-- Where a byte of a command lies. -/
inductive Place where
  | clip
  | shared (a : Nat)
  | tile (a : Nat)
  | mem (pa : Nat)
  | peer (va : Nat)
deriving DecidableEq, Repr

/-- The place of a record's byte offset, or the fault of its check. -/
def bytePlace (k : Nat) (c : Cmd) (pages : Map Xlated) (d : BitVec 128) (write : Bool) (off : Nat) (s : State) : Except (Nat × Nat) Place :=
  let space := s.spaceOf d
  if off ≥ recExtent d then .ok .clip
  else
    let a := spaceAddr space d off
    if space = 1 ∨ space = 2 then
      let lim := (s.blockAt k c.blk).allotment space
      if lim.1 ≤ a ∧ a < lim.2 then .ok (if space = 1 then .shared a else .tile a)
      else .error (0x11, a % 2 ^ 32 + 2 ^ 32 * space)
    else match (s.gridAt c.gid).firstRefused write a 1 with
      | some _ => .error (0x10, a)
      | none =>
        if space = 3 then .ok (.peer a)
        else match mapFind pages (vpnOf a) with
          | some (.ok e) => if permOk e.perm (!write) write then .ok (.mem (physOf e.stack e.frame a)) else .error (0x10, a)
          | some (.unreadable b) => .error (0x14, b)
          | _ => .error (0x10, a)

/-- Read a byte at a place; a place beyond the extent reads as zero. -/
def placeRead (k : Nat) (c : Cmd) (v : Nat) (p : Place) (s : State) : Except (Nat × Nat) Byte :=
  match p with
  | .shared a => .ok (memGet (s.blockAt k c.blk).shared a)
  | .tile a => .ok (memGet (s.blockAt k c.blk).tile a)
  | .mem pa => match s.readFault v pa 1 with
    | some b => .error (0x14, b)
    | none => .ok ((settle (lineOf pa) s).viewByte v pa)
  | _ => .ok 0

/-- Version of a source record's bytes: space 4 reads the VID 0 copy. -/
def srcVid (c : Cmd) (d : BitVec 128) : Nat := if recSpace d = 4 then 0 else c.vid

/-- One byte of the source record. -/
def sourceByte (k : Nat) (c : Cmd) (pages : Map Xlated) (off : Nat) (s : State) : Except (Nat × Nat) (Place × Byte) :=
  match bytePlace k c pages c.srec false off s with
  | .error e => .error e
  | .ok p => match placeRead k c (srcVid c c.srec) p s with
    | .error e => .error e
    | .ok b => .ok (p, b)

/-- The values of a list of bytes, or the failure of the first that fails. -/
def firstFailure {α : Type} : List (Except (Nat × Nat) α) → Except (Nat × Nat) (List α)
  | [] => .ok []
  | .error e :: _ => .error e
  | .ok v :: r => match firstFailure r with
    | .error e => .error e
    | .ok vs => .ok (v :: vs)

/-- One byte moved: where it comes from, its value, where it goes. -/
structure Move where
  src : Place
  byte : Byte
  dst : Place

/-- The moves of a list of source and destination offsets, or the failure of the lowest byte of the command that fails,
its source before its destination (R370; log entry 29). -/
def moveBytes (k : Nat) (c : Cmd) (pages : Map Xlated) (s : State) (pairs : List (Nat × Nat)) :
    Except (Nat × Nat) (List Move) :=
  firstFailure (pairs.map fun p => match sourceByte k c pages p.1 s with
    | .error e => .error e
    | .ok x => match bytePlace k c pages c.drec true p.2 s with
      | .error e => .error e
      | .ok d => .ok { src := x.1, byte := x.2, dst := d })

/-- Some byte was clipped (R98). -/
def anyClipped (l : List Move) : Bool := l.any fun m => m.src == .clip || m.dst == .clip

/-- Global addresses among some places, and what their reads leave in the L2. -/
def memOf (l : List Place) : List Nat := l.filterMap fun x => match x with | .mem a => some a | _ => none
def noteBytes (v : Nat) (pas : List Nat) (s : State) : State :=
  ((pas.map lineOf).dedup).foldl (fun t ln =>
    noteLine v ln ((pas.filter fun a => lineOf a = ln).foldl (fun m a => m ||| sectorsOf ln a 1) 0) 0 (settle ln t)) s

/-- Write the bytes of spaces 0, 1 and 2; each global line leaves the pushing core's L1 (R102). -/
def writePlaces (k : Nat) (c : Cmd) (l : List Move) (s : State) : State :=
  let sh := l.filterMap fun x => match x.dst with | .shared a => some (a, x.byte) | _ => none
  let ti := l.filterMap fun x => match x.dst with | .tile a => some (a, x.byte) | _ => none
  let me := l.filterMap fun x => match x.dst with | .mem a => some (a, x.byte) | _ => none
  let b := s.blockAt k c.blk
  let s := s.setBlockAt k c.blk { b with shared := memSetAll b.shared sh, tile := memSetAll b.tile ti }
  let s := if s.deadVid c.vid then s else writeView c.vid me s
  ((me.map fun x => lineOf x.1).dedup).foldl (fun t ln => l1Remove k (s.gridAt c.gid).fuse ln t) s

/-- Lines of global memory that some moves write. -/
def linesWritten (l : List Move) : List Nat := ((memOf (l.map (·.dst))).map lineOf).dedup

/-! ### COPY and GATHER (R97) -/

/-- Perform the moves of a local command as one step, once there is room for the lines it writes (R80). -/
def performMoves (k q : Nat) (c : Cmd) (pairs : List (Nat × Nat)) (s : State) : State :=
  withPages k q c (pairVas c pairs s) (fun pages s =>
    match moveBytes k c pages s pairs with
    | .error e => commandAbort k q c e.1 e.2 s
    | .ok l =>
      match (if s.deadVid c.vid then none else (linesWritten l).findSome? (s.storeFault c.vid)) with
      | some b => commandAbort k q c 0x14 b s
      | none =>
        if !s.deadVid c.vid && !s.roomLines c.vid 0 (linesWritten l) then s
        else modCmd k q c.id (fun d => { d with st := .sent, clipped := anyClipped l })
          (writePlaces k c l (noteBytes (srcVid c c.srec) (memOf (l.map (·.src))) s))) s

/-- A start of a command of one kind on queue `sel.idx` of the selected core. -/
def startKind (kind : Nat) (f : Nat → Nat → Cmd → State → State) (s : State) : Result :=
  agentStep (fun s => match startable s s.sel.core s.sel.idx with
    | some c => if c.kind = kind then f s.sel.core s.sel.idx c s else s
    | none => s) s

def execCopy (s : State) : Result := startKind 1 (fun k q c s => performMoves k q c (copyPairs c c.len) s) s

def execGather (s : State) : Result :=
  startKind 2 (fun k q c s =>
    match gatherPairs k c s (gatherRows c) with
    | .error e => commandAbort k q c e.1 e.2 s
    | .ok pairs => performMoves k q c pairs s) s

/-! ### FIFOFILL (R110) -/

/-- Bytes of units a FIFO holds. -/
def fifoUsed (l : List Stream) : Nat := (l.map fun x => (x.units.map (·.length)).sum).sum

/-- A unit joins the last stream of a FIFO. -/
def appendUnit (u : List Byte) : List Stream → List Stream
  | [] => []
  | [x] => [{ x with units := x.units ++ [u] }]
  | x :: xs => x :: appendUnit u xs

/-- A new stream's header; a stream whose last step has been performed goes. -/
def appendHeader (h : DWord) (l : List Stream) : List Stream :=
  (l.filter fun x => x.done < bits64 x.hdr 16 16) ++ [{ hdr := h }]

/-- A FIFOFILL reads its whole source under one translation of each page, and appends its header (R58, R110). -/
def fillRead (k q : Nat) (c : Cmd) (hdr : DWord) (s : State) : State :=
  let offs := fillOffs c hdr
  withPages k q c (recVas s c.srec offs) (fun pages s =>
    match firstFailure (offs.map fun o => sourceByte k c pages o s) with
    | .error e => commandAbort k q c e.1 e.2 s
    | .ok l =>
      let b := s.blockAt k c.blk
      let old := mapGet [] b.fifos c.fifo
      let new := if c.w0.getLsbD 24 then old else appendHeader c.w2 old
      modCmd k q c.id (fun d => { d with taken := some (l.map fun x => (x.2, x.1 == .clip)) })
        ((noteBytes (srcVid c c.srec) (memOf (l.map (·.1))) s).setBlockAt k c.blk { b with fifos := mapSet b.fifos c.fifo new })) s

/-- The next unit of what a FIFOFILL has read joins its FIFO, once there is room. -/
def fillUnit (k q : Nat) (c : Cmd) (bytes : List (Byte × Bool)) (s : State) : State :=
  let b := s.blockAt k c.blk
  let l := mapGet [] b.fifos c.fifo
  if c.count ≥ c.units then modCmd k q c.id (fun d => { d with st := .sent }) s
  else match l.getLast? with
    | none => modCmd k q c.id (fun d => { d with st := .sent }) s
    | some st =>
      let n := (unitKept st.hdr).length
      if fifoUsed l + n > b.fifoBytes then s
      else
        let u := bytes.take n
        modCmd k q c.id (fun d => { d with count := c.count + 1, taken := some (bytes.drop n),
                                           clipped := d.clipped || u.any (·.2),
                                           st := if c.count + 1 ≥ c.units then .sent else .queued })
          (s.setBlockAt k c.blk { b with fifos := mapSet b.fifos c.fifo (appendUnit (u.map (·.1)) l) })

/-- One step of a FIFOFILL: its read, or one unit. A CONT command with no stream to continue has nothing to do. -/
def fillStep (k q : Nat) (c : Cmd) (s : State) : State :=
  match c.taken, fillHeader k c s with
  | some bytes, _ => fillUnit k q c bytes s
  | none, some hdr => fillRead k q c hdr s
  | none, none => modCmd k q c.id (fun d => { d with st := .sent }) s

def execFifofill (s : State) : Result := startKind 3 fillStep s

/-! ### RCOPY and CSHUF (R97, R100, R208, R220) -/

/-- Bytes for a peer by virtual address. -/
def peerBytes (l : List Move) : List (Nat × Byte) :=
  l.filterMap fun x => match x.dst with | .peer a => some (a, x.byte) | _ => none

/-- What a command's writes leave it to wait for: completions of standard-mode writes, and planes to close. -/
structure CmdSent where
  std : Nat := 0
  planes : List Nat := []
  refused : Bool := false

def CmdSent.add (r : CmdSent) (plane : Nat) : Sent → CmdSent
  | .extended => { r with planes := if r.planes.contains plane then r.planes else r.planes ++ [plane] }
  | .standard => { r with std := r.std + 1 }
  | .refused => { r with refused := true }

/-- One write message a line, all under the command's number (R208); they are counted against the tag too. -/
def sendLines (k : Nat) (c : Cmd) (peer : Nat) (bs : List (Nat × Byte)) (s : State) : CmdSent × State :=
  ((bs.map fun b => b.1 / 128).dedup).foldl (fun r ln =>
    let (n, t) := takeNumbers k 1 r.2
    let x := sendWrite k c.grp peer { asn := c.asn, va := 128 * ln, size := 128, req := c.id + 1, ack := n,
                                      bytes := bs.filter fun b => b.1 / 128 = ln } c.vid c.tag t
    (r.1.add (t.planeOf (128 * ln)) x.1, x.2)) ({}, s)

/-- The command closes its own summary with the peer after its last write (R208). -/
def closeCommand (k : Nat) (c : Cmd) (peer : Nat) (planes : List Nat) (s : State) : State :=
  planes.foldl (fun t p => submit (dieOf k) .closeNotice
    { dest := 2 * peer + p / 2, tag := c.tag, srcGrp := 256 * k + c.grp, role := p, req := c.id + 1,
      count := (planes.map fun x => 2 ^ x).sum } t) s

/-- The command has sent its writes: it waits for its completions and for its summary (R104). -/
def commandSent (k q : Nat) (c : Cmd) (peer : Nat) (clip : Bool) (r : CmdSent) (s : State) : State :=
  modCmd k q c.id (fun d => { d with st := .sent, clipped := clip, remoteErr := d.remoteErr || r.refused,
                                     owed := d.owed + r.std + (if r.planes.isEmpty then 0 else 1) })
    (closeCommand k c peer r.planes s)

def rcopyStep (k q : Nat) (c : Cmd) (s : State) : State :=
  let pairs := copyPairs c c.len
  if s.spaceOf c.drec ≠ 3 then performMoves k q c pairs s
  else withPages k q c (pairVas c pairs s) (fun pages s =>
    match moveBytes k c pages s pairs with
    | .error e => commandAbort k q c e.1 e.2 s
    | .ok l =>
      let r := sendLines k c (recPeer c.drec) (peerBytes l) (noteBytes (srcVid c c.srec) (memOf (l.map (·.src))) s)
      commandSent k q c (recPeer c.drec) (anyClipped l) r.1 r.2) s
def execRcopy (s : State) : Result := startKind 4 rcopyStep s

/-- Reflected CRC-32C of a byte string (R219). -/
def crcBit (c : Word) : Word := if c.getLsbD 0 then (c >>> 1) ^^^ 0x82F63B78 else c >>> 1
def crcByte (c : Word) (b : Byte) : Word :=
  crcBit (crcBit (crcBit (crcBit (crcBit (crcBit (crcBit (crcBit (c ^^^ b.setWidth 32))))))))
def crc32c (bs : List Byte) : Word := ~~~(bs.foldl crcByte 0xFFFFFFFF)

def Cmd.pair (c : Cmd) : Nat := bits64 c.w0 48 16
def Cmd.role (c : Cmd) : Nat := bits64 c.w2 0 2
def Cmd.pblk (c : Cmd) : Nat := bits64 c.w2 32 32

/-- The shuffle packet (R220, R221): coded when it can meet its partner, on the path that R220 fixes; one of ROLE 0 or a
resend takes the route of R215. -/
def sendShuf (k : Nat) (c : Cmd) (bs : List (Nat × Byte)) (uncoded : Bool) (s : State) : CmdSent × State :=
  let peer := recPeer c.drec
  let own := s.id.pkg.toNat
  let role := if uncoded then 0 else c.role
  let va := spaceAddr 3 c.drec c.doff
  let (n, s) := takeNumbers k 1 s
  let m : Msg :=
    { asn := c.asn, va, size := bs.length, bytes := bs, req := c.id + 1, ack := n, pair := c.pair, role, func := 1,
      pblk := c.pblk, doff := c.doff, crc := crc32c (bs.map (·.2)), batch := c.batch.toNat }
  let (path, s) := if role = 0 then requestPath (dieOf k) (s.planeOf va) peer (va / 128) s else (shufflePath own peer, s)
  let kind : Instr := if role ≠ 0 ∧ hops own peer ≥ 2 then .codingWindowArrival else .remoteWrite
  let x := sendWriteOn path kind k c.grp peer m c.vid c.tag s
  ((({} : CmdSent).add (s.planeOf va) x.1), x.2)

/-- The bytes a CSHUF carries: every byte is read and checked, and those below the destination extent are sent (R98,
R100). -/
def cshufStep (k q : Nat) (c : Cmd) (s : State) : State :=
  let pairs := copyPairs c c.shufLen
  if s.spaceOf c.drec ≠ 3 ∧ s.accepted 1 then performMoves k q c pairs s
  else withPages k q c (pairVas c pairs s) (fun pages s =>
    match moveBytes k c pages s pairs with
    | .error e => commandAbort k q c e.1 e.2 s
    | .ok l =>
      let s := noteBytes (srcVid c c.srec) (memOf (l.map (·.src))) s
      let bs := peerBytes l
      if !s.accepted 1 then modCmd k q c.id (fun d => { d with st := .sent, clipped := anyClipped l, remoteErr := true }) s
      else
        let r := if bs.isEmpty then ({}, s) else sendShuf k c bs false s
        commandSent k q c (recPeer c.drec) (anyClipped l) r.1 r.2) s
def execCshuf (s : State) : Result := startKind 5 cshufStep s

/-! ### DEMOTE, REQUANT and the table unit (R66-R69, R99) -/

/-- The page a command acts on, found by the table unit's walk. -/
def commandPage (k : Nat) (c : Cmd) (s : State) : WalkHit × State :=
  walk (dieOf k) c.asn (vpnOf (bits64 c.w1 0 57)) none s

/-- Target stack and frame. -/
def commandTarget (c : Cmd) : Nat × Nat :=
  if c.kind = 6 then (if c.w0.getLsbD 16 then 9 else 8, bits64 c.w0 17 19) else (bits64 c.w0 16 4, bits64 c.w0 20 20)

/-- Address of a frame's wear counter (R66). -/
def State.wearAddr (s : State) (stack frame : Nat) : Nat := (mapGet 0 s.xl.wearbase (stack - 8)).toNat + 4 * frame

/-- A sector of the tables that the checks or the swap read and that cannot be read: the target's entry and wear counter, the
anchor of its chain (R49). -/
def tableFault (c : Cmd) (e : Pte) (s : State) : Option Nat :=
  let t := commandTarget c
  (s.pteBad t.1 t.2).or ((if c.kind = 6 then s.badSector (s.wearAddr t.1 t.2) 4 else none).or
    (s.badSector (s.anchorAddr t.1 (xlHash (pteAsn e) (pteVpn e))) 4))

/-- The checks before a DEMOTE or REQUANT starts (R67, R99). A DEMOTE moves an HBM page: one of a page that lies in HBF
already is refused (log entry 72). -/
def swapChecks (c : Cmd) (src : Nat × Nat × Pte) (s : State) : Bool :=
  let t := commandTarget c
  let e := src.2.2
  s.accepted (if c.kind = 6 then 4 else 5) && pteV e && (c.kind ≠ 6 || decide (src.1 ≤ 7)) && !(ptePerm src.1 e).getLsbD 1 &&
    pteHold e = 0 && !pteBusy e && !pteV (s.pte t.1 t.2) &&
    (c.kind ≠ 6 || decide (s.rootNat (s.wearAddr t.1 t.2) 4 < s.xl.wearlim.toNat))

/-- A command completes as refused. -/
def refuseCmd (k q : Nat) (c : Cmd) (s : State) : State := modCmd k q c.id (fun d => { d with st := .sent, refused := true }) s

/-- Round an integer over 2^n to nearest, ties to even (R99). -/
def roundShift (x : Int) (n : Nat) : Int :=
  let q := x / 2 ^ n
  let r := x % 2 ^ n
  if 2 * r > 2 ^ n ∨ (2 * r = 2 ^ n ∧ q % 2 = 1) then q + 1 else q

/-- One element requantised to its top K planes; whether it was clamped. -/
def requantElem (K : Nat) (q : BitVec 8) : BitVec 8 × Bool :=
  let t := roundShift q.toInt (8 - K)
  let c := satS K t
  (BitVec.ofInt 8 (c.1 * 2 ^ (8 - K)), c.2)

/-- Element `i` of an NI segment (R153). -/
def niElem (seg : Array Byte) (i : Nat) : BitVec 8 :=
  BitVec.ofNat 8 (((List.range 8).map fun p => ((seg.getD (96 * (7 - p) + i / 8) 0).getLsbD (i % 8)).toNat * 2 ^ p).sum)

/-- A segment requantised; how many elements were clamped. -/
def requantSegment (K : Nat) (bs : List Byte) : List Byte × Nat :=
  let seg := bs.toArray
  let es := (List.range 768).map fun i => requantElem K (niElem seg i)
  let ea := (es.map (·.1)).toArray
  let plane (p j : Nat) : Byte :=
    BitVec.ofNat 8 (((List.range 8).map fun b => ((ea.getD (8 * j + b) 0).getLsbD p).toNat * 2 ^ b).sum)
  (((List.range 8).flatMap fun i => (List.range 96).map fun j => plane (7 - i) j) ++ bs.drop 768,
   (es.filter (·.2)).length)

/-- The whole page requantised: 2,621 segments and a tail copied unchanged. -/
def requantPage (K : Nat) (bs : List Byte) : List Byte × Nat :=
  let segs := (List.range 2621).map fun i => requantSegment K ((bs.drop (800 * i)).take 800)
  (segs.flatMap (·.1) ++ bs.drop 2096800, (segs.map (·.2)).sum)

/-- The first address from `va` on that no range of the grid permits. -/
def Grid.coveredTo (g : Grid) (write : Bool) : Nat → Nat → Nat
  | 0, va => va
  | n + 1, va => match g.ranges.find? fun r => decide (r.base ≤ va) && decide (va < r.base + r.len) && (!write || r.rw) with
    | some r => Grid.coveredTo g write n (r.base + r.len)
    | none => va

/-- Why the page a DEMOTE or REQUANT reads cannot be read: the lease, its permission, or a sector (R49, R63). -/
def sourceFault (c : Cmd) (st fr : Nat) (e : Pte) (s : State) : Option (Nat × Nat) :=
  let g := s.gridAt c.gid
  let va := bits64 c.w1 0 57
  let ok := g.coveredTo false (g.ranges.length + 1) va
  if ok < va + 2 ^ 21 then some (0x10, ok)
  else if !permOk (ptePerm st e) true false then some (0x10, va)
  else (s.readFault 0 (physOf st fr 0) (2 ^ 21)).map fun b => (0x14, b)

/-- Every line of a frame leaves the pushing core's L1, or the slices of its cluster in a fused grid (R102). -/
def l1DropFrame (k : Nat) (fused : Bool) (stack frame : Nat) (s : State) : State :=
  let here := if fused then (List.range 8).map fun i => l1Home k true i else [k]
  here.foldl (fun t kc => modL1 kc (fun m => m.filter fun e => e.line / 2 ^ 14 != 2 ^ 20 * stack + frame) t) s

/-- The checks, BUSY, and the target frame written (R67, R68); the wear counter of an HBF frame rises (R66). -/
def programFrame (k q : Nat) (c : Cmd) (s : State) : State :=
  match commandPage k c s with
  | (.none, s) => refuseCmd k q c s
  | (.unreadable b, s) => commandAbort k q c 0x14 b s
  | (.found st fr e, s) =>
    if let some b := tableFault c e s then commandAbort k q c 0x14 b s
    else if !swapChecks c (st, fr, e) s then refuseCmd k q c s
    else match sourceFault c st fr e s with
      | some f => commandAbort k q c f.1 f.2 s
      | none =>
        let t := commandTarget c
        let (bs, s) := readView 0 (physOf st fr 0) (2 ^ 21) s
        let out := if c.kind = 7 then requantPage (bits64 c.w2 0 4) bs else (bs, 0)
        let s := s.setPte st fr (pteSet e 139 1 1)
        let s := if c.kind = 6 then
            writeNat 0 (s.wearAddr t.1 t.2) 4 (min 0xFFFFFFFF (s.rootNat (s.wearAddr t.1 t.2) 4 + 1)) s else s
        let s := l1DropFrame k (s.gridAt c.gid).fuse t.1 t.2 (writeView 0 (atAddr (physOf t.1 t.2 0) out.1) s)
        modCmd k q c.id (fun d => { d with st := .swapping, count := min 255 out.2 }) s

def execDemote (s : State) : Result := startKind 6 programFrame s
def execRequant (s : State) : Result := startKind 7 programFrame s

/-- A line of the frame has a live versioned copy: of a live or closed version, or of a committed one that has not been
settled or swept yet, whose bytes the frame lacks; a squashed one does not count (R69; log entry 73). -/
def versionedIn (s : State) (stack frame : Nat) : Bool :=
  s.copies.any fun c => c.line / 2 ^ 14 = 2 ^ 20 * stack + frame && ((s.ver c.vid).open_ || (s.ver c.vid).st == .committed)

/-- A page moves to a frame, as one step of the table unit: the target entry takes the source's with GEN + 1 and the
permissions, linked at the head of its chain, and the source entry becomes invalid (R67). -/
def movePage (st fr : Nat) (e : Pte) (perm : Nat) (t : Nat × Nat) (s : State) : State :=
  let h := xlHash (pteAsn e) (pteVpn e)
  let gen := (pteGen e + 1).toNat
  let head := s.rootNat (s.anchorAddr t.1 h) 4
  let tgt : Pte := BitVec.ofNat 256 (pteVpn e + 2 ^ 36 * pteAsn e + 2 ^ 48 * gen + 2 ^ 64 * head + 2 ^ 96 * pteLease e +
    2 ^ 112 * ptePins e + 2 ^ 136 * perm + 2 ^ 138)
  let s := s.setPte st fr (pteSet (pteSet (pteSet e 48 16 gen) 138 1 0) 139 1 0)
  writeNat 0 (s.anchorAddr t.1 h) 4 t.2 (s.setPte t.1 t.2 tgt)

/-- The swap, refused while the page is held or its versioned lines live, and the invalidation after it. The flag
of the argument says that programming the frame met an error (R67). It acts on the entry that maps the page then, the
write bit of a flash frame counting as clear (R52); log entry 84 says what that is for a page that software has moved. -/
def swapPage (k q : Nat) (c : Cmd) (s : State) : State :=
  match commandPage k c s with
  | (.none, s) => refuseCmd k q c s
  | (.unreadable b, s) => commandAbort k q c 0x14 b s
  | (.found st fr e, s) =>
    if let some b := tableFault c e s then commandAbort k q c 0x14 b s
    else if pteHold e ≠ 0 ∨ s.arg.flag ∨ versionedIn s st fr then
      refuseCmd k q c (s.setPte st fr (pteSet e 139 1 0))
    else
      let vpn := pteVpn e
      modCmd k q c.id (fun d => { d with st := .sent, swapped := true })
        (invalidate (fun a v => a == c.asn && v == vpn)
          (movePage st fr e (ptePerm st e).toNat (commandTarget c) s))

/-- The command that the table unit can swap for: programmed, with no invalidation in progress. -/
def swapDue (s : State) (k q : Nat) : Option Cmd :=
  if s.xl.busy then none else (s.engQueue k q).find? fun c => c.st == .swapping

/-- PAGE_SWAP (R67). -/
def execPageSwap (s : State) : Result :=
  agentStep (fun s => match swapDue s s.sel.core s.sel.idx with
    | some c => swapPage s.sel.core s.sel.idx c s
    | none => s) s

/-! ### Completion (R103-R105) -/

/-- STATUS by rank (R104). -/
def Cmd.status (c : Cmd) : Nat :=
  if c.cancelled then 3 else if c.remoteErr then 5 else if c.uncoded then 4 else if c.refused then 2
  else if c.clipped then 1 else 0

/-- The completion record (R103). -/
def completionRecord (c : Cmd) (ovf : Bool) : DWord :=
  BitVec.ofNat 64 (c.batch.toNat + 2 ^ 16 * c.status + 2 ^ 20 * c.kind + (if ovf then 2 ^ 24 else 0) +
    2 ^ 32 * (if c.kind = 7 then c.count % 256 else 0) + 2 ^ 40 * c.tagByte)

/-- The batch's marks and count after one of its commands has completed. -/
def Batch.after (b : Batch) (c : Cmd) : Batch :=
  { b with open_ := b.open_ - 1, refused := b.refused || c.status == 2, cancelled := b.cancelled || c.status == 3,
           remote := b.remote || c.status == 4 || c.status == 5 }

/-- The command leaves its batch (R105). -/
def leaveBatch (c : Cmd) (g : Group) : Group :=
  if c.batch = g.lastClosed + 1 then { g with openBatch := g.openBatch.after c }
  else
    let bs := g.batches.map fun b => if b.num = c.batch then b.after c else b
    { g with batches := bs.filter (fun b => b.open_ ≠ 0), doneMarks := g.doneMarks ++ bs.filter fun b => b.open_ = 0 }

/-- One record enters the group's completion queue, or is lost (R103). -/
def pushRecord (q : Nat) (c : Cmd) (g : Group) : Group :=
  if !c.notify then g
  else
    let l := mapGet [] g.comp q
    if l.length ≥ 16 then { g with compOvf := mapSet g.compOvf q true }
    else { g with comp := mapSet g.comp q (l ++ [completionRecord c (mapGet false g.compOvf q)]),
                  compOvf := mapSet g.compOvf q false }

/-- The command that completes next in a queue: the first, so that its record stands for the earlier ones too (R254). -/
def completable (s : State) (k q : Nat) : Option Cmd :=
  match s.engQueue k q with
  | c :: _ => if c.st == .sent && c.owed == 0 && !(c.swapped && s.xl.busy) then some c else none
  | [] => none

/-- A side-information miss of a CSHUF: its event record in Q7, whose source is the network engine of the core's die, and its
mark on the batch (R222, R106, R366). -/
def recordMiss (k : Nat) (c : Cmd) (s : State) : State :=
  let src := masterNum 3 (dieOf k) 0
  let (seq, s) := bumpSeq (dieOf k) src s
  let m : Miss := { batch := c.batch, pair := BitVec.ofNat 16 c.pair, pblk := BitVec.ofNat 32 c.pblk }
  let g := s.groupAt k c.grp
  let g := pushEventRecord g 1 (BitVec.ofNat 64 (m.batch.toNat + 2 ^ 16 * m.pair.toNat + 2 ^ 32 * m.pblk.toNat)) src seq
  s.setGroupAt k c.grp { g with misses := g.misses ++ [m] }

/-- COMMAND_COMPLETE (R104). -/
def execCommandComplete (s : State) : Result :=
  agentStep (fun s =>
    let k := s.sel.core
    let q := s.sel.idx
    match completable s k q with
    | some c =>
      let s := s.setEngQueue k q ((s.engQueue k q).filter fun d => d.id != c.id)
      let g := s.groupAt k c.grp
      if g.blk = c.blk && g.gid = c.gid && (mapFind (s.coreAt k).groups c.grp).isSome then
        let s := if c.uncoded && !c.cancelled then recordMiss k c s else s
        s.setGroupAt k c.grp (pushRecord q c (leaveBatch c (s.groupAt k c.grp)))
      else s
    | none => s) s

end Sys2Proof.Machine
end

