-- ==== Sys2Proof/Machine/Matrix.lean ====
section
/-!
DEFINITION. The matrix engine (R184-R196, R153-R158): MMA, ACCZ, ACCRD, ACCSC, ACCWR and QNT at issue, the
matrix queue, and the step that performs its oldest entry.
-/

namespace Sys2Proof.Machine

/-! ### Control words (R184, R185, R191) -/

def fAfmt (f : Word) : Nat := f.toNat % 4
def fPlanes (f : Word) : Nat := f.toNat / 4 % 16
def fBfmt (f : Word) : Nat := f.toNat / 64 % 4
def fSparse (f : Word) : Nat := f.toNat / 256 % 4
def fInt56 (f : Word) : Bool := f.getLsbD 10
def fAfifo (f : Word) : Nat := f.toNat / 2048 % 4
def fBfifo (f : Word) : Nat := 4 + f.toNat / 8192 % 4
def fSlot (f : Word) : Nat := f.toNat / 65536 % 16

/-- The pairings of R185. -/
def pairingOk (f : Word) : Bool :=
  match fAfmt f, fBfmt f with
  | 0, 0 => true
  | 0, 2 => !fInt56 f
  | 2, 0 => !fInt56 f
  | 2, 2 => !fInt56 f
  | 1, 1 => !fInt56 f && fSparse f = 0
  | _, _ => false

/-- A format word that R185 accepts for a block with `slots` accumulator slots. -/
def formatOk (f : Word) (slots : Nat) : Bool :=
  pairingOk f && fSparse f ≠ 3 && (if fAfmt f = 0 then 2 ≤ fPlanes f && fPlanes f ≤ 8 else fPlanes f = 0) &&
    !f.getLsbD 15 && f.toNat / 2 ^ 20 = 0 && decide (fSlot f < slots)

/-- K (R185). -/
def fK (f : Word) : Nat := if fAfmt f = 1 then 32 else if fAfmt f = 2 ∨ fBfmt f = 2 then 48 else 96

def cSlot (w : Word) : Nat := w.toNat % 16
def cHalf (w : Word) : Nat := w.toNat / 16 % 2
def cRow (w : Word) : Nat := w.toNat / 32 % 128
def cCv (w : Word) : Nat := w.toNat / 4096 % 4

/-- A control word that R191 and R192 accept: 1 ACCZ, 2 ACCRD, 3 ACCSC, 4 ACCWR. -/
def controlOk (op : Nat) (w : Word) (slots : Nat) : Bool :=
  decide (cSlot w < 12) && decide (cSlot w < slots) && w.toNat / 2 ^ 14 = 0 &&
  match op with
  | 1 => cHalf w = 0 && cRow w = 0 && cCv w ≤ 1
  | 2 => cRow w < 96 && cCv w ≤ 2
  | 3 => cRow w = 0 && cCv w = 0
  | _ => cRow w < 96 && (cCv w = 0 || cCv w = 2)

/-! ### Streams (R186, R187) -/

/-- Accumulator slot of the block. -/
def Block.slot (b : Block) (n : Nat) : AccSlot := mapGet {} b.acc n

def hdrFmt (h : DWord) : Nat := bits64 h 0 2
def hdrPlanes (h : DWord) : Nat := bits64 h 2 4
def hdrSparse (h : DWord) : Nat := bits64 h 6 2
def hdrSteps (h : DWord) : Nat := bits64 h 16 16
def hdrSeed (h : DWord) : Word := (h >>> 32).setWidth 32

/-- The stream whose step is claimed next. -/
def claimStream (l : List Stream) : Option Stream := l.find? fun x => x.claimed < hdrSteps x.hdr
/-- Claim the next step of a FIFO. -/
def claim : List Stream → List Stream
  | [] => []
  | x :: xs => if x.claimed < hdrSteps x.hdr then { x with claimed := x.claimed + 1 } :: xs else x :: claim xs
/-- The stream whose step is performed next. -/
def performStream (l : List Stream) : Option Stream := l.find? fun x => x.done < hdrSteps x.hdr

/-- Elements of a unit and its bytes in the FIFO. -/
def unitElems : Nat := 768
/-- Stored elements of one line: m of each 24 (R186). -/
def keptPerBlock (sparse : Nat) : Nat := match sparse with | 1 => 12 | 2 => 6 | _ => 24
def storedPerLine (k sparse : Nat) : Nat := k / 24 * keptPerBlock sparse + (if k = 32 then 32 - k / 24 * 24 else 0)

/-- The units from the first that step `t` needs to its last. -/
def unitsNeeded (k sparse t : Nat) : Nat := (96 * (t + 1) * storedPerLine k sparse + 767) / 768
/-- The data of a stream's next step has arrived (R194). -/
def stepPresent (k : Nat) (x : Stream) : Bool := decide (unitsNeeded k (hdrSparse x.hdr) x.done ≤ x.units.length)

/-- A step has been performed: units it consumed to their last position are freed, and all of them after the
stream's last step (R186, R194). That whole units beyond what the steps need are freed with the last step, or stay in the
stream if they come after it, is the model's choice (log entry 89). -/
def finishStep (k : Nat) : List Stream → List Stream
  | [] => []
  | x :: xs =>
    if x.done < hdrSteps x.hdr then
      let done := x.done + 1
      let gone := if done = hdrSteps x.hdr then x.units.length else 96 * done * storedPerLine k (hdrSparse x.hdr) / 768
      { x with done, units := x.units.zipIdx.map fun u => if u.2 < gone then [] else u.1 } :: xs
    else x :: finishStep k xs

/-- Positions that a sparse stream keeps of a block (R111): a partial Fisher-Yates shuffle by xorshift. -/
def xorshift (x : Word) : Word :=
  let a := x ^^^ (x <<< 13)
  let b := a ^^^ (a >>> 17)
  b ^^^ (b <<< 5)
def swapAt (e : List Nat) (i k : Nat) : List Nat := (e.set i (e.getD k 0)).set k (e.getD i 0)
def keptFrom : Nat → Nat → Word → List Nat → List Nat
  | 0, _, _, e => e
  | n + 1, i, x, e =>
    let x' := xorshift x
    keptFrom n (i + 1) x' (swapAt e i (i + x'.toNat % (24 - i)))
/-- Kept positions in increasing order. -/
def keptPositions (sparse : Nat) (seed : Word) (j : Nat) : List Nat :=
  let m := keptPerBlock sparse
  if m = 24 then List.range 24
  else
    let e := (keptFrom m 0 (seed ^^^ BitVec.ofNat 32 j) (List.range 24)).take m
    (List.range 24).filter fun p => e.contains p

/-! ### Elements (R153-R156) -/

/-- Element `i` of an NI unit of `p` planes, top planes first: q̂ of R154. -/
def niValue (u : Array Byte) (p i : Nat) : Int :=
  let t : Nat := ((List.range p).map fun j => ((u.getD (96 * j + i / 8) 0).getLsbD (i % 8)).toNat * 2 ^ (p - 1 - j)).sum
  let t' : Int := if t < 2 ^ (p - 1) then t else (t : Int) - 2 ^ p
  t' * 2 ^ (8 - p) + (if p < 8 then 2 ^ (7 - p) else 0)

/-- Element `i` of a unit as an exact value without its scale. -/
def elemValue (h : DWord) (u : Array Byte) (i : Nat) : FVal :=
  match hdrFmt h with
  | 0 => intVal (niValue u (hdrPlanes h) i)
  | 1 => bf16Val ((u.getD (2 * i + 1) 0 ++ u.getD (2 * i) 0 : BitVec 16))
  | _ => e4m3Val (u.getD i 0)

/-- Scale exponent of element `i`'s run of 24 (R158). -/
def elemScale (h : DWord) (u : Array Byte) (i : Nat) : Int :=
  match hdrFmt h with
  | 0 => ((u.getD (96 * hdrPlanes h + i / 24) 0).toNat : Int) - 134
  | 1 => 0
  | _ => ((u.getD (768 + i / 24) 0).toNat : Int) - 127

/-- One block of a line: its scale and the elements at its kept positions. -/
def blockElems (x : Stream) (us : Array (Array Byte)) (k line b : Nat) : Int × List (Nat × FVal) :=
  let h := x.hdr
  let m := keptPerBlock (hdrSparse h)
  let per := storedPerLine k (hdrSparse h)
  let first := (96 * x.done + line) * per + b * m
  let pos := keptPositions (hdrSparse h) (hdrSeed h) ((96 * x.done + line) * (k / 24) + b)
  let at_ (i : Nat) : Array Byte := us.getD (i / 768) #[]
  (elemScale h (at_ first) (first % 768), pos.zipIdx.map fun p =>
    (p.1, elemValue h (at_ (first + p.2)) ((first + p.2) % 768)))

/-- A BF16 line of 32 elements. -/
def lineElems (x : Stream) (us : Array (Array Byte)) (line : Nat) : List (Nat × FVal) :=
  let first := (96 * x.done + line) * 32
  (List.range 32).map fun i => (i, elemValue x.hdr (us.getD ((first + i) / 768) #[]) ((first + i) % 768))

/-- The exact sum of the products at common positions; missing positions count as 0. Where every product present is -0 the
sum is -0 also in a sparse block, and 0 times a negative NI element counts as -0 (log entry 74). -/
def dotProduct (a b : List (Nat × FVal)) : FVal :=
  match a.filterMap fun x => (mapFind b x.1).map fun y => exMul x.2 y with
  | [] => .fin false 0 0
  | p :: ps => exSum p ps

/-- Multiply by a power of two. -/
def scaleBy (n : Int) : FVal → FVal
  | .fin s m e => .fin s m (e + n)
  | v => v

/-- The integer that an exact value of integers is. -/
def intOf : FVal → Int
  | .fin s m e => signed s (m * 2 ^ e.toNat)
  | _ => 0

/-! ### Cells (R157) -/

def AccSlot.cell (a : AccSlot) (r c : Nat) : BitVec 56 := mapGet 0 a.cells (96 * r + c)
/-- Write a cell; a zero cell is not listed. -/
def AccSlot.setCell (a : AccSlot) (r c : Nat) (x : BitVec 56) : AccSlot :=
  { a with cells := if x = 0 then mapDel a.cells (96 * r + c) else mapSet a.cells (96 * r + c) x }

/-- One cell after an MMA, and whether an int56 addition saturated. -/
def mmaCell (f : Word) (old : BitVec 56) (ab bb : List (Int × List (Nat × FVal))) : BitVec 56 × Bool :=
  if fInt56 f then
    (ab.zip bb).foldl (fun acc p =>
      let r := satS 56 (acc.1.toInt + intOf (dotProduct p.1.2 p.2.2))
      (BitVec.ofInt 56 r.1, acc.2 || r.2)) (old, false)
  else
    ((ab.zip bb).foldl (fun acc p =>
      f56Of (exAdd (f56Val acc) (scaleBy (p.1.1 + p.2.1) (dotProduct p.1.2 p.2.2)))) old, false)

/-- The blocks of a line, or a BF16 line as one block without scale. -/
def lineBlocks (f : Word) (x : Stream) (us : Array (Array Byte)) (line : Nat) : List (Int × List (Nat × FVal)) :=
  if fK f = 32 then [(0, lineElems x us line)]
  else (List.range (fK f / 24)).map fun b => blockElems x us (fK f) line b

/-- An MMA on its slot, as one step (R188). -/
def mmaSlot (f : Word) (a b : Stream) (s : AccSlot) : AccSlot :=
  let ua := (a.units.map (·.toArray)).toArray
  let ub := (b.units.map (·.toArray)).toArray
  let cols := ((List.range 96).map fun c => lineBlocks f b ub c).toArray
  (List.range 96).foldl (fun s r =>
    let row := lineBlocks f a ua r
    (List.range 96).foldl (fun s c =>
      let y := mmaCell f (s.cell r c) row (cols.getD c [])
      { s.setCell r c y.1 with satbit := s.satbit || y.2 }) s) s

/-- ACCRD's conversion, and whether it clamped (R157). -/
def convertCell (int56 : Bool) (cv : Nat) (x : BitVec 56) : Word × Bool :=
  let v := if int56 then intVal x.toInt else f56Val x
  match cv with
  | 0 => (f32Of 0 v, false)
  | 1 => ((bf16Of 0 v).setWidth 32, false)
  | _ => match v with
    | .nan => (0, true)
    | .inf neg => (if neg then 0x80000000 else 0x7FFFFFFF, true)
    | .fin neg m e =>
      let r := satS 32 (roundToInt 0 neg m e)
      (BitVec.ofInt 32 r.1, r.2)

/-- ACCWR's value in a slot. -/
def writeCell (int56 : Bool) (cv : Nat) (x : Word) : BitVec 56 :=
  if cv = 0 then f56Of (f32Val x) else if int56 then x.signExtend 56 else f56Of (intVal x.toInt)

/-! ### Issue (R188, R192, R194, R195) -/

/-- Splits of the group that wait at a barrier (R195). -/
def atBarrier (g : Group) : Bool :=
  (liveSlots g).any fun i => match (g.split i).wait with
    | some (.barwait _) => true
    | some (.barsync _) => true
    | some (.phbwait _) => true
    | some (.cvbar _) => true
    | _ => false

/-- Accumulator slot of a queued entry; a QNT (5) has none. -/
def MatEntry.slot (e : MatEntry) : Option Nat := if e.op = 5 then none else some (if e.op = 0 then fSlot e.ctl else cSlot e.ctl)

/-- Regions of the tile store that a matrix instruction touches (R196, R323): cells of its slot, and an MMA's FIFOs. -/
def entryRegions (b : Block) (e : MatEntry) : List Nat :=
  let cells (a n : Nat) : List Nat := rangeRegions e.blk 2 (64512 * e.slot.getD 0 + a) n
  match e.op with
  | 0 => cells 0 64512 ++ b.fifoRegions e.blk (fAfifo e.ctl) ++ b.fifoRegions e.blk (fBfifo e.ctl)
  | 1 => cells 0 64512
  | 3 => cells (32256 * cHalf e.ctl) 32256
  | 5 => []
  | _ => cells (672 * cRow e.ctl + 336 * cHalf e.ctl) 336
/-- Every region an entry touches is in place. -/
def entryPlaced (s : State) (k : Nat) (e : MatEntry) : Bool :=
  (s.coreAt k).toFill.isEmpty || !(entryRegions (s.blockAt k e.blk) e).any (s.coreAt k).toFill.contains

/-- An instruction is held at issue: the queue is full, an earlier matrix instruction of the group on its slot is owed,
or the group waits at a barrier (R194, R195). -/
def matHold (s : State) (e : MatEntry) : Bool :=
  decide (s.core.matq.length ≥ 8) || s.core.matq.any (fun x => x.grp = s.sel.grp && x.slot.isSome && x.slot = e.slot) ||
    atBarrier s.group

/-- Enter the core's matrix queue. -/
def enterMatrix (e : MatEntry) (s : State) : State :=
  s.setCore s.sel.core { s.core with matq := s.core.matq ++ [e] }

/-- Lanes whose word differs from a reference word. -/
def differing (s : State) (r : Nat) (w : Word) (m : Lanes) : Lanes :=
  lanesWhere fun l => laneIn m l && s.group.vAt r l != w

/-- A FIFO's next step can be claimed under the format word, or a trap, or the header has not arrived (R187). -/
def headerCheck (b : Block) (f : Word) : Option Bool :=
  match claimStream (mapGet [] b.fifos (fAfifo f)), claimStream (mapGet [] b.fifos (fBfifo f)) with
  | some x, some y =>
    some (hdrFmt x.hdr = fAfmt f && hdrPlanes x.hdr = fPlanes f && hdrSparse x.hdr = fSparse f &&
      hdrFmt y.hdr = fBfmt f && hdrPlanes y.hdr = (if fBfmt f = 0 then 8 else 0) && hdrSparse y.hdr = 0)
  | _, _ => none

def effMma (f : LCtl) (s : State) : State :=
  let g := s.group
  let r := g.lane f.w f.a.toNat
  let w := g.vAt r 0
  let diff := differing s r w (allLanes s.sel.core)
  if s.active f.g != allLanes s.sel.core then takeTrap 2 (lanes64 s.split.exec) s.split.pc s
  else if diff ≠ 0 then takeTrap 1 (lanes64 diff) s.split.pc s
  else if !formatOk w s.block.slots then illegal s
  else if matHold s { op := 0, grp := s.sel.grp, blk := g.blk, ctl := w } then s
  else if !entryPlaced s s.sel.core { op := 0, grp := s.sel.grp, blk := g.blk, ctl := w } then blockIn (.mma f) 0 0 s
  else if (s.block.slot (fSlot w)).int56 != fInt56 w then takeTrap 1 0 s.split.pc s
  else match headerCheck s.block w with
    | none => blockIn (.mma f) 0 0 s
    | some false => takeTrap 1 0 s.split.pc s
    | some true =>
      let b := s.block
      let fifos := mapSet b.fifos (fAfifo w) (claim (mapGet [] b.fifos (fAfifo w)))
      let fifos := mapSet fifos (fBfifo w) (claim (mapGet [] fifos (fBfifo w)))
      advance 1 (enterMatrix { op := 0, grp := s.sel.grp, blk := g.blk, ctl := w } (s.setBlock { b with fifos }))
def execMma (f : LCtl) (s : State) : Result :=
  runWord (!isOasis s.sel.core) true (f.refs s.group) (effMma f) s

/-- The checks that ACCZ, ACCRD, ACCSC and ACCWR share, then the entry (R192); no active lane: nothing. -/
def accIssue (i : Instr) (op r : Nat) (g5 : BitVec 5) (eff : Word → Lanes → State → State) (s : State) : State :=
  let act := s.active g5
  match laneList act with
  | [] => advance 1 s
  | l :: _ =>
    let w := s.group.vAt r l
    let diff := differing s r w act
    if diff ≠ 0 then takeTrap 1 (lanes64 diff) s.split.pc s
    else if !controlOk op w s.block.slots then illegal s
    else if matHold s { op, grp := s.sel.grp, blk := s.group.blk, ctl := w } then s
    else if !entryPlaced s s.sel.core { op, grp := s.sel.grp, blk := s.group.blk, ctl := w } then blockIn i 0 0 s
    else
      let int56 := (s.block.slot (cSlot w)).int56
      if int56 && (op = 3 || (op = 4 && cCv w = 0)) then takeTrap 1 0 s.split.pc s
      else advance 1 (eff w act s)

/-- An entry with the values of a source register. -/
def accEntry (op : Nat) (vals : Option Nat) (w : Word) (act : Lanes) (s : State) : State :=
  enterMatrix { op, grp := s.sel.grp, blk := s.group.blk, ctl := w, lanes := act,
                vals := match vals with | some r => (List.range 48).map (s.group.vAt r) | none => [] } s

def execAccz (f : LCtl) (s : State) : Result :=
  let g := s.group
  runWord (!isOasis s.sel.core) true (f.refs g)
    (accIssue (.accz f) 1 (g.lane f.w f.a.toNat) f.g (accEntry 1 none)) s
def execAccsc (f : LCtl2) (s : State) : Result :=
  let g := s.group
  runWord (!isOasis s.sel.core) true (f.refs g)
    (accIssue (.accsc f) 3 (g.lane f.w f.a.toNat) f.g (accEntry 3 (some (g.lane f.w f.b.toNat)))) s
def execAccwr (f : LCtl2) (s : State) : Result :=
  let g := s.group
  runWord (!isOasis s.sel.core) true (f.refs g)
    (accIssue (.accwr f) 4 (g.lane f.w f.a.toNat) f.g (accEntry 4 (some (g.lane f.w f.b.toNat)))) s

/-- ACCRD also takes an entry of the operand log (R192, R320). -/
def accrdEntry (d : Nat) (w : Word) (act : Lanes) (s : State) : State :=
  let idx := s.group.freeLog.getD 0
  let ser := s.core.nextSer
  let e : LogEntry := { st := .inFlight, kind := 7, slot := s.sel.slot, dest := d, nreg := 1, lanes := act,
                        mask := s.split.mask, ser, vid := s.group.vid, wr := act }
  let s := s.setCore s.sel.core { s.core with nextSer := ser + 1 }
  let s := s.setGroup { s.group with oplog := mapSet s.group.oplog idx e }
  enterMatrix { op := 2, grp := s.sel.grp, blk := s.group.blk, ctl := w, lanes := act, log := ser } s
def execAccrd (f : LR2) (s : State) : Result :=
  let g := s.group
  runWord (!isOasis s.sel.core) true (f.refs g) (fun s =>
    if s.group.freeLog.isNone && s.active f.g != 0 then s
    else accIssue (.accrd f) 2 (g.lane f.w f.a.toNat) f.g (accrdEntry (g.lane f.w f.d.toNat)) s) s

/-! ### QNT (R193, R155) -/

/-- floor(log2 (m × 2^e)). -/
def log2Of (m : Nat) (e : Int) : Int := (Nat.log2 m : Int) + e
/-- Whether |m1 × 2^e1| < |m2 × 2^e2|. -/
def magLess (m1 : Nat) (e1 : Int) (m2 : Nat) (e2 : Int) : Bool :=
  let e := min e1 e2
  decide (m1 * 2 ^ (e1 - e).toNat < m2 * 2 ^ (e2 - e).toNat)

/-- The largest finite magnitude of a block. -/
def blockMax (xs : List FVal) : Nat × Int :=
  xs.foldl (fun b x => match x with
    | .fin _ m e => if magLess b.1 b.2 m e then (m, e) else b
    | _ => b) (0, 0)

/-- x / 2^(s − 134) rounded to an integer; none for a NaN or an infinity. -/
def quantOne (s : Nat) (x : FVal) : Option Int :=
  match x with
  | .fin neg m e => some (roundToInt 0 neg m (e - ((s : Int) - 134)))
  | _ => none

/-- At most two raises of the scale (R155). -/
def raiseScale (xs : List FVal) : Nat → Nat → Nat
  | 0, s => s
  | n + 1, s =>
    if s = 255 ∨ xs.all (fun x => match quantOne s x with | some q => decide (-128 ≤ q ∧ q ≤ 127) | none => true) then s
    else raiseScale xs n (s + 1)

/-- A block of 24 values quantised: elements, scale byte, and which elements set QSAT. -/
def quantBlock (xs : List FVal) : List (BitVec 8) × Nat × List Bool :=
  let anyInf := xs.any fun x => match x with | .inf _ => true | _ => false
  let m := blockMax xs
  let s0 := if anyInf then 255 else if m.1 = 0 then 0 else (log2Of m.1 m.2 + 128).toNat
  let s := raiseScale xs 2 (min 255 s0)
  let one (x : FVal) : BitVec 8 × Bool :=
    match x with
    | .nan => (0, true)
    | .inf neg => (if neg then 0x80 else 0x7F, true)
    | .fin _ _ _ =>
      let r := satS 8 ((quantOne s x).getD 0)
      (BitVec.ofInt 8 r.1, r.2)
  (xs.map fun x => (one x).1, s, xs.map fun x => (one x).2)

/-- The 96 values of QNT: element i from lane i mod 48 of V[a] or V[a+1]. -/
def qntValues (g : Group) (a : Nat) : List FVal :=
  (List.range 96).map fun i => f32Val (g.vAt (a + i / 48) (i % 48))

/-- The 100 bytes that QNT writes, by byte of the segment (R193, R153). -/
def qntBytes (G : Nat) (bl : List (List (BitVec 8) × Nat × List Bool)) : List (Nat × Byte) :=
  let q := (bl.flatMap (·.1)).toArray
  ((List.range 8).flatMap fun i => (List.range 12).map fun j =>
    (96 * i + 12 * G + j,
     BitVec.ofNat 8 (((List.range 8).map fun b => ((q.getD (8 * j + b) 0).getLsbD (7 - i)).toNat * 2 ^ b).sum))) ++
  bl.zipIdx.map fun b => (768 + 4 * G + b.2, BitVec.ofNat 8 b.1.2.1)

/-- Lanes whose elements set QSAT. -/
def qsatLanes (bl : List (List (BitVec 8) × Nat × List Bool)) : Lanes :=
  let f := (bl.flatMap (·.2.2)).toArray
  lanesWhere fun l => f.getD l false || f.getD (l + 48) false

/-- The first byte of a QNT outside the device register window that its check refuses: code and detail. -/
def qntRefused (s : State) (space : Nat) (addrs : List Nat) : Option (Nat × Nat) :=
  if space = 1 ∨ space = 2 then
    (addrs.findSome? fun a => outsideAllotment (s.block.allotment space) a 1).map fun a => (0x11, a % 2 ^ 32 + 2 ^ 32 * space)
  else (addrs.findSome? fun a => if inWindow a then none else s.grid.firstRefused true a 1).map fun a => (0x10, a)

/-- A QNT enters the matrix queue (R194). Its plain store, one request a line, stands from now on among the core's
requests, and goes out when the engine performs the QNT. Bytes in the device register window are a bus-level violation
(R332). -/
def qntStore (m : MemOp) (d : BitVec 128) (bs : List (Nat × Byte)) (s : State) : State :=
  let space := s.spaceOf d
  let win (a : Nat) : Bool := space = 0 && inWindow a
  let out := bs.filter fun b => !win b.1
  let vps := if space = 0 then (out.map fun b => vpnOf b.1).dedup else []
  let (pages, s) := translatePages s.sel.core s.group.asn vps s
  match (if space = 0 then out.findSome? fun b => pageFail m pages b.1 else none) with
  | some f => accessFault f.1 f.2 s
  | none =>
    let (ser, s) := takeSerial s
    let placed (r : Req) : Req := match mapFind pages (vpnOf (128 * r.line)) with
      | some (.ok e) => { r with pa := lineOf (physOf e.stack e.frame (128 * r.line)), gen := e.gen }
      | _ => r
    let s := ((out.map fun b => b.1 / 128).dedup).foldl (fun t ln =>
      addReq (placed { mkReq t m d 0 ser 0 ln [] with
        st := .unsent, data := (out.filter fun b => b.1 / 128 = ln).foldl (fun m b => mapSet m b.1 b.2) [] }) t) s
    let s := match bs.find? fun b => win b.1 with
      | some b => freezeMaster (masterNum 0 (dieOf s.sel.core) (coreNum s.sel.core)) b.1 s
      | none => s
    advance 1 (enterMatrix { op := 5, grp := s.sel.grp, blk := s.group.blk, ctl := 0, log := ser } s)

def effQnt (f : LR3) (s : State) : State :=
  let g := s.group
  let all := allLanes s.sel.core
  let rd := g.lane f.w f.d.toNat
  let ra := g.lane f.w f.a.toNat
  let rb := g.lane f.w f.b.toNat
  let w := g.vAt rb 0
  let x := g.vAt rd 0
  let diff := differing s rb w all ||| differing s rd x all
  if s.active f.g != all then takeTrap 2 (lanes64 s.split.exec) s.split.pc s
  else if diff ≠ 0 then takeTrap 1 (lanes64 diff) s.split.pc s
  else
    let d := g.dAt (w.toNat % 32)
    let G := w.toNat / 32 % 8
    if w.toNat / 256 ≠ 0 ∨ recSpace d > 2 ∨ recSwz d ≠ 0 then illegal s
    else
      let off := indexOffset d x
      if off + 800 > recExtent d then advance 1 (s.setGroup (g.setClip all))
      else
        let v := qntValues g ra
        let bl := (List.range 4).map fun j => quantBlock ((v.drop (24 * j)).take 24)
        let bs := (qntBytes G bl).map fun b => (spaceAddr (recSpace d) d (off + b.1), b.2)
        let hold := s.core.matq.length ≥ 8 || atBarrier g
        match qntRefused s (recSpace d) (bs.map (·.1)) with
        | some e => accessFault e.1 e.2 s
        | none =>
          if recSpace d = 0 ∧ g.vid ≠ 0 ∧ bs.any (fun b => inWindow b.1) then privilegeViolation s
          else if hold then s
          else qntStore { kind := .store, sz := 1, n := 1, d := rd, a := ra, r := w.toNat % 32 } d bs
            (s.setGroup (g.setQsat (qsatLanes bl)))
/-- V[a] and V[a+1] are a run (R193). -/
def qntRefs (f : LR3) (g : Group) : List RegRef :=
  [laneRef g f.w f.d.toNat, laneRef g f.w f.a.toNat 2, laneRef g f.w f.b.toNat]
def execQnt (f : LR3) (s : State) : Result :=
  runWord (!isOasis s.sel.core) true (qntRefs f s.group) (effQnt f) s

/-! ### Performing an entry (R194) -/

/-- The head of a core's matrix queue can be performed: the data of an MMA has arrived. -/
def matReady (s : State) (k : Nat) : Bool :=
  match (s.coreAt k).matq with
  | [] => false
  | e :: _ =>
    let b := s.blockAt k e.blk
    entryPlaced s k e && (e.op ≠ 0 ||
      (match performStream (mapGet [] b.fifos (fAfifo e.ctl)), performStream (mapGet [] b.fifos (fBfifo e.ctl)) with
        | some x, some y => stepPresent (fK e.ctl) x && stepPresent (fK e.ctl) y
        | _, _ => false))

/-- ACCRD returns: the destination is written, SAT where the slot's bit is set or the conversion clamped. -/
def performAccrd (k : Nat) (e : MatEntry) (s : State) : State :=
  let a := (s.blockAt k e.blk).slot (cSlot e.ctl)
  let g := s.groupAt k e.grp
  match g.oplog.find? fun l => l.2.ser = e.log && l.2.kind = 7 with
  | none => s
  | some l =>
    let v (i : Nat) : Word × Bool := convertCell a.int56 (cCv e.ctl) (a.cell (cRow e.ctl) (48 * cHalf e.ctl + i))
    let g := g.setV l.2.dest l.2.wr fun i => (v i).1
    let g := g.setSat (lanesWhere fun i => laneIn l.2.wr i && (a.satbit || (v i).2))
    s.setGroupAt k e.grp { g with oplog := mapDel g.oplog l.1 }

/-- The slot after ACCZ, ACCSC or ACCWR. -/
def performSlot (e : MatEntry) (a : AccSlot) : AccSlot :=
  match e.op with
  | 1 => { int56 := cCv e.ctl = 1 }
  | 3 => (laneList e.lanes).foldl (fun a i => (List.range 96).foldl (fun a c =>
      let r := 48 * cHalf e.ctl + i
      a.setCell r c (f56Of (exMul (f56Val (a.cell r c)) (f32Val (e.vals.getD i 0))))) a) a
  | _ => (laneList e.lanes).foldl (fun a i =>
      a.setCell (cRow e.ctl) (48 * cHalf e.ctl + i) (writeCell a.int56 (cCv e.ctl) (e.vals.getD i 0))) a

/-- Perform an entry on its block; the store of a QNT goes out. -/
def performEntry (k : Nat) (e : MatEntry) (s : State) : State :=
  let b := s.blockAt k e.blk
  match e.op with
  | 0 =>
    let af := mapGet [] b.fifos (fAfifo e.ctl)
    let bf := mapGet [] b.fifos (fBfifo e.ctl)
    match performStream af, performStream bf with
    | some x, some y =>
      let fifos := mapSet b.fifos (fAfifo e.ctl) (finishStep (fK e.ctl) af)
      let fifos := mapSet fifos (fBfifo e.ctl) (finishStep (fK e.ctl) bf)
      let acc := mapSet b.acc (fSlot e.ctl) (mmaSlot e.ctl x y (b.slot (fSlot e.ctl)))
      s.setBlockAt k e.blk { b with fifos := fifos, acc := acc }
    | _, _ => s
  | 2 => performAccrd k e s
  | 5 => s.setCore k { s.coreAt k with reqs := (s.coreAt k).reqs.map fun r =>
      if r.grp = e.grp ∧ r.ser = e.log ∧ r.st == .unsent
        then { r with st := if r.expect.isSome then .nacked else .waiting } else r }
  | _ => s.setBlockAt k e.blk { b with acc := mapSet b.acc (cSlot e.ctl) (performSlot e (b.slot (cSlot e.ctl))) }

/-- MATRIX_ENTRY_PERFORM (R194). -/
def execMatrixEntryPerform (s : State) : Result :=
  agentStep (fun s =>
    let k := s.sel.core
    if matReady s k then
      match (s.coreAt k).matq with
      | e :: rest => performEntry k e (s.setCore k { s.coreAt k with matq := rest })
      | [] => s
    else s) s

/-- Regions that a split blocked in a matrix instruction waits for (R323). -/
def matWaitRegions (g : Group) (b : Block) (p : Split) : List Nat :=
  let at_ (op : Nat) (w : BitVec 1) (a : Nat) : List Nat :=
    let r := g.lane w a
    let ctl := match laneList p.exec with | l :: _ => g.vAt r l | [] => 0
    entryRegions b { op, grp := 0, blk := g.blk, ctl }
  if p.st != .blocked then []
  else match p.wait with
    | some (.mma f) => at_ 0 f.w f.a.toNat
    | some (.accz f) => at_ 1 f.w f.a.toNat
    | some (.accrd f) => at_ 2 f.w f.a.toNat
    | some (.accsc f) => at_ 3 f.w f.a.toNat
    | some (.accwr f) => at_ 4 f.w f.a.toNat
    | _ => []

end Sys2Proof.Machine
end

