-- ==== Sys2Proof/Machine/Uniform.lean ====
section
/-!
DEFINITION. The uniform ALU (R43, R44), NOP (R46), index registers and buffer records (R117-R119), and the
control registers (R143-R148).
-/

namespace Sys2Proof.Machine

/-! ### Uniform ALU -/

/-- S[d] := op S[a] S[b] (R43). -/
def uni3 (f : UR3) (op : DWord → DWord → DWord) (s : State) : State :=
  let g := s.group
  s.setGroup (g.setS (g.uni f.i f.d.toNat) (op (g.sAt (g.uni f.i f.a.toNat)) (g.sAt (g.uni f.i f.b.toNat))))

def wordUni (f : UR3) (op : DWord → DWord → DWord) (s : State) : Result :=
  plainWord (f.refs s.group) 1 (uni3 f op) s

/-- A truth value as a uniform word. -/
def flag64 (b : Bool) : DWord := if b then 1 else 0

def uUadd (x y : DWord) : DWord := x + y
def uUsub (x y : DWord) : DWord := x - y
def uUmul (x y : DWord) : DWord := x * y
def uUand (x y : DWord) : DWord := x &&& y
def uUor (x y : DWord) : DWord := x ||| y
def uUxor (x y : DWord) : DWord := x ^^^ y
/-- The count is the whole 64-bit y. -/
def uUshl (x y : DWord) : DWord := if y.toNat ≥ 64 then 0 else x <<< y.toNat
def uUshr (x y : DWord) : DWord := if y.toNat ≥ 64 then 0 else x >>> y.toNat
def uUsar (x y : DWord) : DWord := x.sshiftRight (min 64 y.toNat)
def uUmin (x y : DWord) : DWord := if y.toInt < x.toInt then y else x
def uUmax (x y : DWord) : DWord := if x.toInt < y.toInt then y else x
def uUcmpeq (x y : DWord) : DWord := flag64 (x == y)
def uUcmplt (x y : DWord) : DWord := flag64 (decide (x.toInt < y.toInt))
def uUcmplo (x y : DWord) : DWord := flag64 (decide (x.toNat < y.toNat))

def execUadd (f : UR3) (s : State) : Result := wordUni f uUadd s
def execUsub (f : UR3) (s : State) : Result := wordUni f uUsub s
def execUmul (f : UR3) (s : State) : Result := wordUni f uUmul s
def execUand (f : UR3) (s : State) : Result := wordUni f uUand s
def execUor (f : UR3) (s : State) : Result := wordUni f uUor s
def execUxor (f : UR3) (s : State) : Result := wordUni f uUxor s
def execUshl (f : UR3) (s : State) : Result := wordUni f uUshl s
def execUshr (f : UR3) (s : State) : Result := wordUni f uUshr s
def execUsar (f : UR3) (s : State) : Result := wordUni f uUsar s
def execUmin (f : UR3) (s : State) : Result := wordUni f uUmin s
def execUmax (f : UR3) (s : State) : Result := wordUni f uUmax s
def execUcmpeq (f : UR3) (s : State) : Result := wordUni f uUcmpeq s
def execUcmplt (f : UR3) (s : State) : Result := wordUni f uUcmplt s
def execUcmplo (f : UR3) (s : State) : Result := wordUni f uUcmplo s

/-- UMOV (R43). -/
def effUmov (f : UR2) (s : State) : State :=
  let g := s.group
  s.setGroup (g.setS (g.uni f.i f.d.toNat) (g.sAt (g.uni f.i f.a.toNat)))
def execUmov (f : UR2) (s : State) : Result := plainWord (f.refs s.group) 1 (effUmov f) s

/-- NOP (R46). -/
def execNop (s : State) : Result := plainWord [] 1 id s

/-- S[d] := op S[d], with no window (R44). -/
def uniImm (d : BitVec 7) (op : DWord → DWord) (s : State) : State :=
  s.setGroup (s.group.setS d.toNat (op (s.group.sAt d.toNat)))

def execUmovi (f : UImm) (s : State) : Result := plainWord [] 1 (uniImm f.d fun _ => imm17 f.imm) s
def execUaddi (f : UImm) (s : State) : Result := plainWord [] 1 (uniImm f.d fun x => x + imm17 f.imm) s
def execUshli (f : UImm) (s : State) : Result :=
  plainWord [] 1 (uniImm f.d fun x => if f.imm.toNat ≥ 64 then 0 else x <<< f.imm.toNat) s
/-- The literal, sign- or zero-extended (R44). -/
def ulitValue (f : ULitForm) : DWord := if f.x = 1 then f.lit.signExtend 64 else f.lit.setWidth 64
def execUlit (f : ULitForm) (s : State) : Result := plainWord [] 2 (uniImm f.d fun _ => ulitValue f) s

/-! ### Index registers and records -/

/-- SETX (R119). -/
def effSetx (f : SetxForm) (s : State) : State := s.setGroup (s.group.setX f.n.toNat f.imm)
def execSetx (f : SetxForm) (s : State) : Result := plainWord [] 1 (effSetx f) s

/-- Whether the high half of a record is legal (R117). -/
def recordHighOk (hi : DWord) : Bool :=
  let sp := hi.toNat / 2 ^ 52 % 16
  let sw := hi.toNat / 2 ^ 48 % 16
  let pr := hi.toNat / 2 ^ 56 % 64
  hi.toNat / 2 ^ 62 == 0 && decide (sp ≤ 4) && decide (sw ≤ 3) && (sp == 3 || pr == 0)

/-- RECSET: both halves read before the write; an illegal high half is fault 0x12 (R117). -/
def effRecset (f : RecsetForm) (s : State) : State :=
  let g := s.group
  let lo := g.sAt (g.uni f.i f.a.toNat)
  let hi := g.sAt (g.uni f.i f.b.toNat)
  if recordHighOk hi then advance 1 (s.setGroup (g.setD f.d.toNat (hi ++ lo : BitVec 128))) else illegal s
def execRecset (f : RecsetForm) (s : State) : Result := runWord true true (f.refs s.group) (effRecset f) s

/-- LDREC (R118). -/
def effLdrec (f : LdrecForm) (s : State) : State :=
  let g := s.group
  let d := g.uni f.i f.d.toNat
  let r := g.dAt f.a.toNat
  s.setGroup ((g.setS d (r.setWidth 64)).setS (d + 1) ((r >>> 64).setWidth 64))
def execLdrec (f : LdrecForm) (s : State) : Result := plainWord (f.refs s.group) 1 (effLdrec f) s

/-! ### Control registers (R143) -/

/-- The value MOVC reads: FPMODE reads 0. -/
def controlRead (s : State) (c : Nat) : DWord :=
  match c with
  | 0 => s.group.phmargin
  | 1 => s.group.trapvec
  | 2 => s.group.rtag.setWidth 64
  | 4 => s.core.wcage.setWidth 64
  | _ => 0

def effMovc (f : MovcForm) (s : State) : State :=
  s.setGroup (s.group.setS (s.group.uni f.i f.d.toNat) (controlRead s f.c.toNat))
def execMovc (f : MovcForm) (s : State) : Result := plainWord (f.refs s.group) 1 (effMovc f) s

/-- Write a control register, or none where the value breaks its map (R144-R148). -/
def controlWrite (c : Nat) (x : DWord) (s : State) : Option State :=
  let g := s.group
  match c with
  | 0 => if x.toNat < 2 ^ 32 then some (s.setGroup { g with phmargin := x }) else none
  | 1 => if x.toNat < 2 ^ 16 then some (s.setGroup { g with trapvec := x }) else none
  | 3 => if x.toNat < 16 then some (s.setGroup (g.fpmodeWrite s.split.exec x)) else none
  | 4 => if 1 ≤ x.toNat ∧ x.toNat ≤ 64 then
      some (s.setCore s.sel.core { s.core with wcage := x.setWidth 7 }) else none
  | _ => none

def effMovcw (f : MovcwForm) (s : State) : State :=
  match controlWrite f.c.toNat (s.group.sAt (s.group.uni f.i f.a.toNat)) s with
  | some t => advance 1 (if f.c.toNat = 4 then endIdem t else t)
  | none => illegal s
/-- WCAGE is written by privileged groups only (R42, R143). -/
def execMovcw (f : MovcwForm) (s : State) : Result :=
  runWord true (f.c.toNat != 4 || s.group.priv) (f.refs s.group) (effMovcw f) s

end Sys2Proof.Machine
end

