-- ==== Sys2Proof/Machine/WordRegs.lean ====
section
/-!
DEFINITION. The registers every instruction word names, in the order of the bound check (R27, R28, R40 check 5),
and checks 3 and 4 of R40 (R41, R42), said once for the words of an INV routine (R198) and for the scoreboard
(R128).
-/

namespace Sys2Proof.Machine

/-- Registers of the lane set's words; a word of the uniform set names none here. -/
def laneWordRefs (i : Instr) (g : Group) : List RegRef :=
  match i with
  | .iadd f | .isub f | .imul f | .imulh f | .nmulh f | .imad f | .imin f | .imax f | .nmin f | .nmax f
  | .and f | .or f | .xor f | .andn f | .shl f | .shr f | .sar f | .shrr f | .bfe f | .bfi f | .sel f
  | .padd2 f | .psub2 f | .pmul2 f | .pmac2 f | .pmacx2 f | .sadd f | .ssub f | .pack2 f | .pshrr2 f
  | .fadd f | .fsub f | .fmul f | .ffma f | .fmin f | .fmax f | .bfma2 f | .badd2 f | .bmul2 f
  | .slide f | .slideh f | .sliden f | .swap f | .perm f => f.refs g
  | .iabs f | .popc f | .clz f | .brev f | .mov f | .sxlo f | .sxhi f | .fneg f | .fabs f | .frcp f | .frsq f
  | .fsqrt f | .fexp2 f | .flog2 f | .fsin f | .fcos f | .redsum f | .rediadd f | .redmax f | .redmin f
  | .scan f | .accrd f => f.refs g
  | .iaddi f | .andi f => f.refs g
  | .shli f | .shri f | .sari f => f.refs g
  | .movl f => f.refs g
  | .inv f => f.refs g
  | .cvtfi f | .cvtif f | .cvtnf f | .cvtfn f | .cvtbf f | .cvtfb f | .cvtef f | .cvtfe f | .bcast f => f.refs g
  | .mma f | .accz f => f.refs g
  | .accsc f | .accwr f => f.refs g
  | .qnt f => qntRefs f g
  | .icmpeq f | .icmpne f | .icmplt f | .icmple f | .ncmplt f | .ncmple f | .fcmpeq f | .fcmpne f | .fcmplt f
  | .fcmple f | .fcmpun f => f.refs g
  | .pset f => f.refs g
  | .pget f => f.refs g
  | .movs f => f.refs g
  | .movu f => [laneRef g 0 f.d.toNat]
  | .rng f => rngRefs f g
  | .ldb f | .ldh f | .ldw f | .stb f | .sth f | .stw f => f.refs 1 g
  | .ldd f | .std f => f.refs 2 g
  | .ldq f | .stq f => f.refs 4 g
  | .ldbOrdered f | .ldhOrdered f | .ldwOrdered f | .stbOrdered f | .sthOrdered f | .stwOrdered f => f.refs 1 g
  | .lddOrdered f | .stdOrdered f | .atomCas f => f.refs 2 g
  | .ldqOrdered f | .stqOrdered f => f.refs 4 g
  | .atomAdd f | .atomImin f | .atomImax f | .atomNmin f | .atomNmax f | .atomAnd f | .atomOr f | .atomXor f
  | .atomXchg f | .atomFadd f | .dqopPush f | .dqopPop f | .dqopSteal f => f.refs 1 g
  | .brx f => [laneRef g 0 f.a.toNat]
  | _ => []

/-- Registers of the uniform set's words. -/
def uniWordRefs (i : Instr) (g : Group) : List RegRef :=
  match i with
  | .uadd f | .usub f | .umul f | .uand f | .uor f | .uxor f | .ushl f | .ushr f | .usar f | .umin f | .umax f
  | .ucmpeq f | .ucmplt f | .ucmplo f | .spawn f | .resolve f | .dtadd f | .dtbud f | .twait f | .kvrel f => f.refs g
  | .kvwalk f | .kvext f => f.refsPair g
  | .umov f | .launch f | .dttake f | .trdy f | .pin f | .unpin f | .sitdrop f => f.refs g
  | .sitreg f => [uniRef g f.i f.d.toNat, uniRef g f.i f.a.toNat 2]
  | .vquery f => [uniRef g f.i f.d.toNat 2, uniRef g f.i f.a.toNat]
  | .ret f | .exset f | .exelse f => f.refs g
  | .exget f | .rbatch f => f.refs g
  | .rwait f => [uniRef g f.i f.d.toNat 2]
  | .exand f | .vote f => f.refs g
  | .recset f => f.refs g
  | .ldrec f => f.refs g
  | .kvfork f => f.refs g
  | .movc f => f.refs g
  | .movcw f => f.refs g
  | _ => []

/-- Every register the word names. -/
def wordRefs (i : Instr) (g : Group) : List RegRef := laneWordRefs i g ++ uniWordRefs i g

/-- Check 3 of R40: what an Oasis core does not have (R41). -/
def wordAvail (i : Instr) (s : State) : Bool :=
  match i with
  | .mma _ | .accz _ | .accrd _ | .accsc _ | .accwr _ | .qnt _ => !isOasis s.sel.core
  | .bcast f => decide (f.c.toNat < s.width)
  | _ => true

/-- The cached bypass bit of an extension word. -/
def wordCbyp (i : Instr) : Bool :=
  match i with
  | .ldbOrdered f | .ldhOrdered f | .ldwOrdered f | .lddOrdered f | .ldqOrdered f | .stbOrdered f | .sthOrdered f
  | .stwOrdered f | .stdOrdered f | .stqOrdered f | .atomAdd f | .atomImin f | .atomImax f | .atomNmin f
  | .atomNmax f | .atomAnd f | .atomOr f | .atomXor f | .atomXchg f | .atomCas f | .atomFadd f | .dqopPush f
  | .dqopPop f | .dqopSteal f => f.cbyp == 1
  | _ => false

end Sys2Proof.Machine
end

