-- ==== Sys2Proof/Machine/Inv.lean ====
section
/-!
DEFINITION. INV, the invert prefix (R197-R204): the checks of its routine, its runs over the searching lanes word by
word, the bisection at the run boundaries, and the monotonicity trap. The search stands in the split (R204) while the
split's PC stays at the INV.
-/

namespace Sys2Proof.Machine

/-! ### What a routine may contain (R198) -/

/-- A word of a routine that is no load, as it acts; none: it may not stand in a routine. -/
def routineExec (i : Instr) : Option (State → Result) :=
  match i with
  | .iadd f => some (execIadd f)
  | .isub f => some (execIsub f)
  | .imul f => some (execImul f)
  | .imulh f => some (execImulh f)
  | .nmulh f => some (execNmulh f)
  | .imad f => some (execImad f)
  | .imin f => some (execImin f)
  | .imax f => some (execImax f)
  | .nmin f => some (execNmin f)
  | .nmax f => some (execNmax f)
  | .iabs f => some (execIabs f)
  | .and f => some (execAnd f)
  | .or f => some (execOr f)
  | .xor f => some (execXor f)
  | .andn f => some (execAndn f)
  | .shl f => some (execShl f)
  | .shr f => some (execShr f)
  | .sar f => some (execSar f)
  | .shrr f => some (execShrr f)
  | .popc f => some (execPopc f)
  | .clz f => some (execClz f)
  | .brev f => some (execBrev f)
  | .bfe f => some (execBfe f)
  | .bfi f => some (execBfi f)
  | .sel f => some (execSel f)
  | .mov f => some (execMov f)
  | .iaddi f => some (execIaddi f)
  | .shli f => some (execShli f)
  | .shri f => some (execShri f)
  | .sari f => some (execSari f)
  | .andi f => some (execAndi f)
  | .padd2 f => some (execPadd2 f)
  | .psub2 f => some (execPsub2 f)
  | .pmul2 f => some (execPmul2 f)
  | .pmac2 f => some (execPmac2 f)
  | .pmacx2 f => some (execPmacx2 f)
  | .sadd f => some (execSadd f)
  | .ssub f => some (execSsub f)
  | .pack2 f => some (execPack2 f)
  | .sxlo f => some (execSxlo f)
  | .sxhi f => some (execSxhi f)
  | .pshrr2 f => some (execPshrr2 f)
  | .fadd f => some (execFadd f)
  | .fsub f => some (execFsub f)
  | .fmul f => some (execFmul f)
  | .ffma f => some (execFfma f)
  | .fmin f => some (execFmin f)
  | .fmax f => some (execFmax f)
  | .fneg f => some (execFneg f)
  | .fabs f => some (execFabs f)
  | .frcp f => some (execFrcp f)
  | .frsq f => some (execFrsq f)
  | .fsqrt f => some (execFsqrt f)
  | .fexp2 f => some (execFexp2 f)
  | .flog2 f => some (execFlog2 f)
  | .fsin f => some (execFsin f)
  | .fcos f => some (execFcos f)
  | .bfma2 f => some (execBfma2 f)
  | .badd2 f => some (execBadd2 f)
  | .bmul2 f => some (execBmul2 f)
  | .cvtfi f => some (execCvtfi f)
  | .cvtif f => some (execCvtif f)
  | .cvtnf f => some (execCvtnf f)
  | .cvtfn f => some (execCvtfn f)
  | .cvtbf f => some (execCvtbf f)
  | .cvtfb f => some (execCvtfb f)
  | .cvtef f => some (execCvtef f)
  | .cvtfe f => some (execCvtfe f)
  | .icmpeq f => some (execIcmpeq f)
  | .icmpne f => some (execIcmpne f)
  | .icmplt f => some (execIcmplt f)
  | .icmple f => some (execIcmple f)
  | .ncmplt f => some (execNcmplt f)
  | .ncmple f => some (execNcmple f)
  | .fcmpeq f => some (execFcmpeq f)
  | .fcmpne f => some (execFcmpne f)
  | .fcmplt f => some (execFcmplt f)
  | .fcmple f => some (execFcmple f)
  | .fcmpun f => some (execFcmpun f)
  | .pand f => some (execPand f)
  | .por f => some (execPor f)
  | .pxor f => some (execPxor f)
  | .pset f => some (execPset f)
  | .pget f => some (execPget f)
  | .movs f => some (execMovs f)
  | .movu f => some (execMovu f)
  | .rng f => some (execRng f)
  | _ => none

/-- A load of a routine: access size, registers, form. -/
def routineLoad (i : Instr) : Option (Nat × Nat × LMem) :=
  match i with
  | .ldb f => some (1, 1, f)
  | .ldh f => some (2, 1, f)
  | .ldw f => some (4, 1, f)
  | .ldd f => some (8, 2, f)
  | .ldq f => some (16, 4, f)
  | _ => none

/-- The lane registers a routine word writes: the first one it names, but for words that write predicates. -/
def routineDest (i : Instr) (g : Group) : Option RegRef :=
  match i with
  | .icmpeq _ | .icmpne _ | .icmplt _ | .icmple _ | .ncmplt _ | .ncmple _ | .fcmpeq _ | .fcmpne _ | .fcmplt _
  | .fcmple _ | .fcmpun _ | .pset _ => none
  | _ => (laneWordRefs i g).head?

/-- The word may stand in a routine whose input register is `xin`. -/
def routineAllows (s : State) (xin : Nat) (i : Instr) : Bool :=
  let g := s.group
  (match routineLoad i with
    | some x => s.spaceOf (g.dAt x.2.2.r.toNat) = 1
    | none => (routineExec i).isSome) &&
  (match routineDest i g with
    | some r => !(decide (r.first ≤ xin) && decide (xin < r.first + r.run))
    | none => true)

/-- What a routine word's checks end in: nothing, or the fault or trap at the INV (R198). -/
def routineCheck (s : State) (xin : Nat) (w : Word) (next : Option Word) : Option (State → State) :=
  let bad (code : Nat) : State → State := raiseFault code (w.setWidth 64)
  match decodeWords w next with
  | .error _ => some (bad 0x12)
  | .ok i =>
    match i with
    | .reservedOpcode _ => some (bad 0x12)
    | _ =>
      let open4 := match i with
        | .movcw f => f.c.toNat != 4
        | _ => !wordCbyp i
      if !wordAvail i s then some (bad 0x12)
      else if !(open4 || s.group.priv) then some (bad 0x13)
      else match boundFail s.group.budget (wordRefs i s.group) with
        | some d => some (takeTrap 3 d s.split.pc)
        | none => if routineAllows s xin i then none else some (bad 0x12)

/-- Word `i` of the routine of the INV at the selected split's PC, and the word after it in its segment. -/
def routineWord (s : State) (i : Nat) : Word := s.codeAt s.sel.core s.group.gid (s.split.pc.toNat + 2 + i)
def routineNext (s : State) (i : Nat) : Option Word :=
  if s.split.pc.toNat % 1024 + 3 + i > 1023 then none else some (routineWord s (i + 1))

/-- The first failure of a routine of `n` words. -/
def routineFault (s : State) (xin n : Nat) : Option (State → State) :=
  (List.range n).findSome? fun i => routineCheck s xin (routineWord s i) (routineNext s i)

/-! ### Keys (R199) -/

/-- The signed key of a value; the mapping is its own inverse. -/
def invMap (flt : Bool) (u : Word) : Word := if flt && u.getLsbD 31 then u ^^^ 0x7FFFFFFF else u
def invKey (flt : Bool) (u : Word) : Int := (invMap flt u).toInt
def invUnkey (flt : Bool) (k : Int) : Word := invMap flt (BitVec.ofInt 32 k)
/-- The midpoint, exact on keys. -/
def invMid (lo hi : Int) : Int := lo + (hi - lo) / 2

/-! ### Runs (R200, R203) -/

/-- Words of INV's routine. -/
def invLen (f : InvForm) : Nat := f.n1.toNat + 1

/-- The lanes still searching. -/
def InvRun.searching (r : InvRun) : Lanes := lanesOf (r.lanes.map (·.lane))

/-- The point at which a lane is evaluated in the present run. -/
def InvRun.point (r : InvRun) (x : InvLane) : Int :=
  match r.runs with
  | 0 => x.lo
  | 1 => x.hi
  | _ => invMid x.lo x.hi

/-- A routine load of the selected split has not returned. -/
def routineOwed (s : State) : Bool :=
  s.group.oplog.any fun e => e.2.kind == 8 && (e.2.mask &&& s.split.mask) != 0

/-- A run starts as its first word issues: each searching lane's point stands in xin (R200). -/
def pointIn (f : InvForm) (r : InvRun) (s : State) : State :=
  let at_ (l : Nat) : Word := match r.lanes.find? fun x => x.lane = l with
    | some x => invUnkey (f.flt == 1) (r.point x)
    | none => 0
  if r.word = 0 then s.setGroup (s.group.setV r.xin r.searching at_) else s

/-- The group as a word of the run sees it: the lanes still searching, with their points (R200), and the records of
INV's issue (R198). That X0 and X1 too stand as they did then, whatever a sibling's SETX writes during the search, is
the model's choice (log entry 90): R198 names the records alone. -/
def InvRun.view (f : InvForm) (r : InvRun) (s : State) : State :=
  let s := pointIn f r s
  let s := s.setGroup { s.group with d := r.recs, x := r.xs }
  s.setSplit { s.split with exec := r.searching }

/-- After a word of the run: the group's own records, index registers, EXEC and PC again, and one word more has issued. -/
def InvRun.afterWord (r : InvRun) (s t : State) : State :=
  let t := t.setGroup { t.group with d := s.group.d, x := s.group.x }
  t.setSplit { s.split with search := some { r with word := r.word + 1 } }

/-- A relaxed load from the block's shared memory over the running lanes, by way of the memory unit (R198, R203). -/
def invLoad (f : InvForm) (r : InvRun) (w : Word) (x : Nat × Nat × LMem) (s : State) : State :=
  let v := r.view f s
  let g := v.group
  let ld := x.2.2
  let m : MemOp := { kind := .load, sz := x.1, n := x.2.1, d := g.lane 0 ld.d.toNat, a := g.lane 0 ld.a.toNat,
                     r := ld.r.toNat, log := 8 }
  let d := g.dAt m.r
  let act := v.active ld.g
  if s.group.freeLog.isNone then s
  else match groupCheck v m d act with
    | some _ => raiseFault 0x12 (w.setWidth 64) s
    | none =>
      let chk := (laneList act).map fun l => (l, laneCheck v m d l)
      match chk.findSome? (fun c => match c.2 with | .fail code det => some (code, det) | _ => none) with
      | some e => raiseFault e.1 (BitVec.ofNat 64 e.2) s
      | none =>
        let clips := chk.filterMap fun c => match c.2 with | .clip => some c.1 | _ => none
        let go := chk.filterMap fun c => match c.2 with | .go a o => some (c.1, a, o) | _ => none
        r.afterWord s (memPerform m act clips [] go [] v)

/-- A word of the run that is no load. -/
def invStep (f : InvForm) (r : InvRun) (e : State → Result) (s : State) : State :=
  let v := r.view f s
  match e (v.setSplit { v.split with pc := 0 }) with
  | .next t => r.afterWord s t
  | _ => s

/-- The next word of the run issues (R203); the split's PC stays at the INV. -/
def invWord (f : InvForm) (r : InvRun) (s : State) : State :=
  let w := routineWord s r.word
  match decodeWords w (routineNext s r.word) with
  | .error _ => s
  | .ok i => match routineLoad i, routineExec i with
    | some x, _ => invLoad f r w x s
    | none, some e => invStep f r e s
    | none, none => s

/-! ### Run boundaries (R200, R202, R204) -/

/-- A violation restores xin, yout, the bracket, the status predicate and INVX in the active lanes and takes trap 4
(R202). -/
def invViolation (f : InvForm) (r : InvRun) (bad : List InvLane) (s : State) : State :=
  let g := ((s.group.setV r.xin r.act fun l => r.xin0.getD l 0).setV r.yout r.act fun l => r.yout0.getD l 0).setP
    f.status.toNat r.act r.status0
  let g := (g.setB false f.bracket.toNat r.act fun l => r.blo0.getD l 0).setB true f.bracket.toNat r.act fun l =>
    r.bhi0.getD l 0
  let g := { g with invx := (g.invx &&& ~~~r.act) ||| (r.invx0 &&& r.act) }
  takeTrap 4 (lanes64 (lanesOf (bad.map (·.lane)))) s.split.pc (s.setGroup g)

/-- An end by convergence or at the limit. -/
def invEndOf (f : InvForm) (conv : Bool) (x : InvLane) : InvEnd :=
  let dec := f.dec == 1
  { lane := x.lane, x := if dec then x.lo else x.hi, y := if dec then x.yl else x.yh, lo := x.lo, hi := x.hi, conv }

/-- A lane whose ends decide it: clamped at lo or at hi. -/
def invClamp (f : InvForm) (x : InvLane) : Option InvEnd :=
  let lo : InvEnd := { lane := x.lane, x := x.lo, y := x.yl, lo := x.lo, hi := x.hi, clamp := true }
  let hi : InvEnd := { lane := x.lane, x := x.hi, y := x.yh, lo := x.lo, hi := x.hi, clamp := true }
  if f.dec != 1 then (if x.t ≤ x.yl then some lo else if x.yh < x.t then some hi else none)
  else (if x.yl < x.t then some lo else if x.t ≤ x.yh then some hi else none)

/-- A lane whose output breaks the order of its ends: after the two runs at the ends, or after a bisection run. -/
def invViolates (f : InvForm) (runs : Nat) (x : InvLane) (y : Int) : Bool :=
  if runs = 1 then (if f.dec == 1 then decide (x.yl < y) else decide (y < x.yl))
  else if runs = 0 then false
  else decide (y < min x.yl x.yh) || decide (max x.yl x.yh < y)

/-- What a run's output does to a lane: the output at lo, at hi, or one bisection step. -/
def invTook (f : InvForm) (runs : Nat) (x : InvLane) (y : Int) : InvLane :=
  match runs with
  | 0 => { x with yl := y }
  | 1 => { x with yh := y }
  | _ =>
    let m := invMid x.lo x.hi
    if decide (x.t ≤ y) == (f.dec != 1) then { x with hi := m, yh := y } else { x with lo := m, yl := y }

/-- Lanes that end before the next run, and the run without them: clamped after the runs at the ends, then converged,
or at the limit. -/
def invSettle (f : InvForm) (r : InvRun) : List InvEnd × InvRun :=
  let clamped := if r.runs = 2 then r.lanes.filterMap (invClamp f) else []
  let ls := if r.runs = 2 then r.lanes.filter fun x => (invClamp f x).isNone else r.lanes
  let near (x : InvLane) : Bool := decide (x.hi - x.lo ≤ (f.tol.toNat : Int))
  let limit := decide (r.runs = 2 + f.maxiter.toNat)
  if r.runs < 2 then ([], r)
  else
    (clamped ++ (ls.filter near).map (invEndOf f true) ++
        (if limit then (ls.filter fun x => !near x).map (invEndOf f false) else []),
      { r with lanes := if limit then [] else ls.filter fun x => !near x })

/-- finish (R200): the registers, the bracket, the status and INVX of one lane. -/
def invFinish (f : InvForm) (r : InvRun) (e : InvEnd) (g : Group) : Group :=
  let flt := f.flt == 1
  let m := lanesOf [e.lane]
  let g := (g.setV r.xin m fun _ => invUnkey flt e.x).setV r.yout m fun _ => invUnkey flt e.y
  let g := (g.setB false f.bracket.toNat m fun _ => invUnkey flt e.lo).setB true f.bracket.toNat m fun _ =>
    invUnkey flt e.hi
  let g := g.setP f.status.toNat m (if e.conv then m else 0)
  if e.clamp then g.setInvx m else g

/-- At a boundary the lanes that end are finished; the others' next run stands at its start, and with no lane left INV
ends (R201). -/
def beginRun (f : InvForm) (x : List InvEnd × InvRun) (s : State) : State :=
  let s := s.setGroup (x.1.foldl (fun g e => invFinish f x.2 e g) s.group)
  if x.2.lanes.isEmpty then advance (2 + invLen f) s
  else s.setSplit { s.split with search := some { x.2 with word := 0 } }

/-- A run has ended: its outputs are checked and taken, and the next run begins (R200, R202). -/
def endRun (f : InvForm) (r : InvRun) (s : State) : State :=
  let y (l : Nat) : Int := invKey (f.flt == 1) (s.group.vAt r.yout l)
  let bad := r.lanes.filter fun x => invViolates f r.runs x (y x.lane)
  if !bad.isEmpty then invViolation f r bad s
  else beginRun f (invSettle f { r with lanes := r.lanes.map fun x => invTook f r.runs x (y x.lane), runs := r.runs + 1 }) s

/-- The run boundary, once every word of the run has issued and every load of the run has returned (R204). In a block
that a squash or a fault ended during the run, the INV and its split end there. -/
def invBoundary (f : InvForm) (s : State) : State :=
  match s.split.search with
  | some r =>
    if r.word = invLen f && !routineOwed s then
      (if s.group.dying then s.setSplit {} else endRun f r s)
    else s
  | none => s

/-- INV issues: its checks and its routine's, and the search begins (R198, R200). That the routine's place within the
segment (R197) belongs to check 2, which `runWord` makes after the register bound, is the model's choice (log entry 90). -/
def invIssue (f : InvForm) (s : State) : State :=
  let g := s.group
  if s.split.pc.toNat % 1024 + 2 + invLen f > 1024 then illegal s
  else
    let xin := g.lane 0 f.xin.toNat
    let yout := g.lane 0 f.yout.toNat
    match routineFault s xin (invLen f) with
    | some fault => fault s
    | none =>
      let key (r l : Nat) : Int := invKey (f.flt == 1) (g.vAt r l)
      let act := s.active f.g
      let ls := (laneList act).map fun l =>
        ({ lane := l, lo := key xin l, hi := key yout l, t := key (g.lane 0 f.target.toNat) l } : InvLane)
      let inverted := (ls.filter fun x => decide (x.hi < x.lo)).map fun x =>
        ({ lane := x.lane, x := x.lo, y := x.hi, lo := x.lo, hi := x.hi, clamp := true } : InvEnd)
      beginRun f (inverted,
        { act, lanes := ls.filter fun x => !decide (x.hi < x.lo), xin, yout,
          xin0 := mapGet [] g.v xin, yout0 := mapGet [] g.v yout,
          blo0 := (List.range 64).map (g.bAt false f.bracket.toNat),
          bhi0 := (List.range 64).map (g.bAt true f.bracket.toNat),
          status0 := g.pAt f.status.toNat, invx0 := g.invx, recs := g.d, xs := g.x }) s

/-- INV (R200): its issue, then at each further issue the next word of its run. -/
def effInv (f : InvForm) (s : State) : State :=
  match s.split.search with
  | none => invIssue f s
  | some r => if r.word < invLen f then invBoundary f (invWord f r s) else invBoundary f s

def execInv (f : InvForm) (s : State) : Result :=
  runWord true true (if s.split.search.isSome then [] else f.refs s.group) (effInv f) s

end Sys2Proof.Machine
end

