-- ==== Sys2Proof/Machine/Kv.lean ====
section
/-!
DEFINITION. The radix tree of key-value pages (R83-R91): a walker unit's accesses, the free lists, the zero ring,
KVWALK, KVEXT, KVFORK and KVREL, and RESOLVE's key-value step (R82).
-/

namespace Sys2Proof.Machine

/-! ### Accesses of a walker unit -/

/-- For whom a walker unit acts: its die, the grid whose lease it checks (none for R82), the context, the
version of the caller. -/
structure Walker where
  die : Nat
  gid : Option Nat
  asn : Nat
  v : Nat

/-- A unit's operation in progress: it threads the state, with the addresses that its walker has translated, and may end in
a fault (code, detail); code 0 says that the L2 has no room for the version's copy now (R80). -/
abbrev Walk (α : Type) := ExceptT (Nat × Nat) (StateM (State × List Nat)) α

/-- The state the operation has reached. -/
def Walk.here : Walk State := do pure (← get).1
def Walk.put (s : State) : Walk Unit := modify fun x => (s, x.2)
def Walk.change (f : State → State) : Walk Unit := modify fun x => (f x.1, x.2)

/-- The operation on a state: its answer and the state it leaves, or its fault, which leaves none of its writes. -/
def Walk.on {α : Type} (m : Walk α) (s : State) : Except (Nat × Nat) (α × State) :=
  match m.run.run (s, []) with
  | (.ok a, u) => .ok (a, u.1)
  | (.error e, _) => .error e
/-- What the walks of an operation that ends in a fault leave: their events (R54). -/
def Walk.walked {α : Type} (m : Walk α) (w : Walker) (s : State) : State :=
  (m.run.run (s, [])).2.2.foldl (fun t va => (resolveVa w.die w.asn va true false t).2) s

/-- End in a fault. -/
def walkFault {α : Type} (code detail : Nat) : Walk α := throw (code, detail)

/-- Physical address of an access (R52, R54, R63). -/
def Walker.pa (w : Walker) (write : Bool) (va n : Nat) : Walk Nat := do
  let s ← Walk.here
  match w.gid.bind fun g => (s.gridAt g).firstRefused write va n with
  | some a => walkFault 0x10 a
  | none =>
    let r := resolveVa w.die w.asn va (!write) write s
    modify fun x => (r.2, x.2 ++ [va])
    match r.1 with
    | .at_ pa => pure pa
    | .refused => walkFault 0x10 va
    | .unreadable b => walkFault 0x14 b

/-- Read `n` bytes as version `v` sees them. -/
def Walker.rd (w : Walker) (v va n : Nat) : Walk Nat := do
  let pa ← w.pa false va n
  let s ← Walk.here
  match s.readFault v pa n with
  | some b => walkFault 0x14 b
  | none =>
    let (bs, s) := readView v pa n s
    Walk.put s
    pure (leNat bs)

/-- Write `n` bytes in version `v`; for RESOLVE's step (R82) nothing waits for room (log entry 53). -/
def Walker.wr (w : Walker) (v va n x : Nat) : Walk Unit := do
  let pa ← w.pa true va n
  let s ← Walk.here
  match s.storeFault v (lineOf pa) with
  | some b => walkFault 0x14 b
  | none =>
    if w.gid.isSome ∧ s.storeRoom (lineOf pa) v 0 != .ready then walkFault 0 0
    else Walk.put (writeNat v pa n x s)

/-- Put bytes of a line into every version's copy of it, wherever the copy is kept. -/
def mirrorBytes (pa : Nat) (bs : List Byte) (s : State) : State :=
  let mine := s.copies.filter fun c => c.line = lineOf pa
  let mem := mine.foldl (fun m c => match c.spilled with
    | some k => memSetAll m (atAddr (s.spillLine k + pa % 128) bs)
    | none => m) s.mem
  { s with mem, copies := s.copies.map fun c =>
      if c.line = lineOf pa then { c with bytes := memSetAll c.bytes (atAddr (pa % 128) bs) } else c }

/-- Write a field that R84 keeps at VID 0: it has one value, which the root and every version's copy hold
(log entry 30). -/
def Walker.wr0 (w : Walker) (va n x : Nat) : Walk Unit := do
  let pa ← w.pa true va n
  Walk.change fun s => mirrorBytes pa (leBytes n x) (writeNat 0 pa n x s)

/-! ### Nodes and descriptors (R83, R84) -/

/-- The fields of a node as a walker instruction reads them: run, position, parent, page and VID byte in the
caller's version, count and flags at VID 0. -/
structure KvNode where
  parent : Nat
  start : Nat
  run : Nat
  count : Nat
  page : Nat
  vid : Nat
  flags : Nat

def KvNode.zq (e : KvNode) : Bool := e.flags.testBit 0
def KvNode.free (e : KvNode) : Bool := e.flags.testBit 1
def KvNode.pend (e : KvNode) : Bool := e.flags.testBit 2
def KvNode.anch (e : KvNode) : Bool := e.flags.testBit 3

def Walker.node (w : Walker) (v n : Nat) : Walk KvNode := do
  pure { parent := ← w.rd v n 8, start := ← w.rd v (n + 8) 4, run := ← w.rd v (n + 12) 2,
         count := ← w.rd 0 (n + 14) 2, page := ← w.rd v (n + 96) 4, vid := ← w.rd v (n + 112) 1,
         flags := ← w.rd 0 (n + 113) 1 }

def Walker.setCount (w : Walker) (n c : Nat) : Walk Unit := w.wr0 (n + 14) 2 c
def Walker.setFlags (w : Walker) (n f : Nat) : Walk Unit := w.wr0 (n + 113) 1 f
def Walker.stamp (w : Walker) (n : Nat) : Walk Nat := do
  let c := ((← Walk.here).dieAt w.die).clk.toNat
  w.wr0 (n + 104) 8 c
  pure (c % 2 ^ 32)

/-- Node index `i` of a pool, and the index of a node. -/
def Walker.addrOf (w : Walker) (pd i : Nat) : Walk Nat := do pure ((← w.rd 0 pd 8) + 128 * i)
def Walker.indexOf (w : Walker) (pd n : Nat) : Walk Nat := do pure ((n - (← w.rd 0 pd 8)) / 128)

/-- All ones in 32 bits: the end of every list of indexes. -/
def kvEnd : Nat := 0xFFFFFFFF

/-- Push an entry at the tail of the zero ring. Descriptors, page links and the ring are accessed at VID 0 whatever the
caller's version is (DEDUCED, log entry 75: R84 names the VID of node fields only). -/
def Walker.ringPush (w : Walker) (pd j t : Nat) : Walk Unit := do
  let cap ← w.rd 0 (pd + 8) 4
  let head ← w.rd 0 (pd + 40) 4
  let count ← w.rd 0 (pd + 44) 4
  w.wr 0 ((← w.rd 0 (pd + 32) 8) + 8 * ((head + count) % cap)) 8 (j + 2 ^ 32 * t)
  w.wr 0 (pd + 44) 4 (count + 1)

/-- Lower a count by 1 under the zero-count rule (R90); the new count. -/
def Walker.dropRef (w : Walker) (pd n : Nat) : Walk Nat := do
  let e ← w.node 0 n
  if e.count = 0 then pure 0
  else
    w.setCount n (e.count - 1)
    if e.count = 1 ∧ !e.zq then
      let t ← w.stamp n
      w.setFlags n (e.flags ||| 1)
      w.ringPush pd (← w.indexOf pd n) t
    pure (e.count - 1)

/-- Free a node and its page. -/
def Walker.freeNode (w : Walker) (pd j n page : Nat) : Walk Unit := do
  w.setFlags n 2
  w.wr0 (n + 80) 8 (← w.rd 0 (pd + 12) 4)
  w.wr 0 (pd + 12) 4 j
  w.wr 0 ((← w.rd 0 (pd + 24) 8) + 4 * page) 4 (← w.rd 0 (pd + 20) 4)
  w.wr 0 (pd + 20) 4 page

/-- Put a node index that was taken back on the free list. -/
def Walker.giveNode (w : Walker) (pd i : Nat) : Walk Unit := do
  w.wr0 ((← w.addrOf pd i) + 80) 8 (← w.rd 0 (pd + 12) 4)
  w.wr 0 (pd + 12) 4 i

/-- Take the first free node; none: the list is empty. -/
def Walker.takeNode (w : Walker) (pd : Nat) : Walk (Option Nat) := do
  let i ← w.rd 0 (pd + 12) 4
  if i = kvEnd then pure none
  else
    w.wr 0 (pd + 12) 4 (← w.rd 0 ((← w.addrOf pd i) + 80) 4)
    pure (some i)

/-- Take the first free page. -/
def Walker.takePage (w : Walker) (pd : Nat) : Walk (Option Nat) := do
  let k ← w.rd 0 (pd + 20) 4
  if k = kvEnd then pure none
  else
    w.wr 0 (pd + 20) 4 (← w.rd 0 ((← w.rd 0 (pd + 24) 8) + 4 * k) 4)
    pure (some k)

/-- Remove child `n` from the list that `at_` (a first-child or sibling field) heads. -/
def Walker.unlinkFrom (w : Walker) (n : Nat) : Nat → Nat → Walk Unit
  | 0, _ => pure ()
  | fuel + 1, at_ => do
    let c ← w.rd 0 at_ 8
    if c = 0 then pure ()
    else if c = n then w.wr0 at_ 8 (← w.rd 0 (n + 88) 8)
    else Walker.unlinkFrom w n fuel (c + 88)

/-- A copy of the node's line is held by a live or closed version. -/
def Walker.lineHeld (w : Walker) (n : Nat) : Walk Bool := do
  let pa ← w.pa false n 1
  let s ← Walk.here
  pure (s.copies.any fun c => c.line = lineOf pa && (s.ver c.vid).open_)

/-- One ring entry examined: whether it freed a node (R88). -/
def Walker.evictOne (w : Walker) (pd j t : Nat) : Walk Bool := do
  let n ← w.addrOf pd j
  let e ← w.node 0 n
  w.setFlags n (e.flags &&& 0xFE)
  if e.free ∨ e.count ≠ 0 then pure false
  else
    let st ← w.rd 0 (n + 104) 4
    if st ≠ t || (← w.lineHeld n) then
      w.setFlags n (e.flags ||| 1)
      w.ringPush pd j st
      pure false
    else
      if e.parent ≠ 0 then
        w.unlinkFrom n 65536 (e.parent + 80)
        let _ ← w.dropRef pd e.parent
      w.freeNode pd j n e.page
      pure true

/-- An eviction attempt: at most the entries of the fuel, until one node is freed. -/
def Walker.evict (w : Walker) (pd : Nat) : Nat → Walk Unit
  | 0 => pure ()
  | fuel + 1 => do
    let count ← w.rd 0 (pd + 44) 4
    if count = 0 then pure ()
    else
      let cap ← w.rd 0 (pd + 8) 4
      let head ← w.rd 0 (pd + 40) 4
      let x ← w.rd 0 ((← w.rd 0 (pd + 32) 8) + 8 * head) 8
      w.wr 0 (pd + 40) 4 ((head + 1) % cap)
      w.wr 0 (pd + 44) 4 (count - 1)
      if (← w.evictOne pd (x % 2 ^ 32) (x / 2 ^ 32)) then pure () else Walker.evict w pd fuel

/-- A take, or an eviction attempt and a take. -/
def Walker.takeOr (w : Walker) (pd : Nat) (take : Walk (Option Nat)) : Walk (Option Nat) := do
  match ← take with
  | some x => pure (some x)
  | none =>
    w.evict pd 64
    take

/-! ### The instructions -/

/-- What a walker instruction answers: a status of R86, or its results. -/
abbrev KvAnswer := Except Nat (Nat × Nat)

/-- Climb to the node that holds position `p`: `n` is the node, `e` its fields, the fuel the steps left (R87). -/
def Walker.climb (w : Walker) (p : Nat) : Nat → KvNode → Walk KvAnswer
  | fuel, e =>
    if e.start > p then
      match fuel with
      | 0 => pure (.error 6)
      | fuel + 1 => do
        if e.parent = 0 then pure (.error 1)
        else
          let e ← w.node w.v e.parent
          if e.free then pure (.error 2)
          else if e.run > 16 then pure (.error 7)
          else if fuel = 0 then pure (.error 6)
          else Walker.climb w p fuel e
    else if p - e.start ≥ e.run then pure (.error 7)
    else pure (.ok (e.page, p - e.start))

/-- KVWALK (R87). -/
def kvwalk (w : Walker) (n p : Nat) : Walk KvAnswer := do
  if n % 128 ≠ 0 then pure (.error 2)
  else
    let e ← w.node w.v n
    if e.free then pure (.error 2)
    else if e.run > 16 then pure (.error 7)
    else if p ≥ e.start + e.run then pure (.error 1)
    else
      let r ← w.climb p (2 ^ 20) e
      match r with
      | .ok _ =>
        if e.vid = 0 then
          let _ ← w.stamp n
      | .error _ => pure ()
      pure r

/-- A new node's fields (R88): at VID 0 those that are always there, the rest in the caller's version. -/
def Walker.initNode (w : Walker) (n parent start page : Nat) : Walk Unit := do
  w.wr w.v n 8 parent
  w.wr w.v (n + 8) 4 start
  w.wr w.v (n + 12) 2 0
  w.setCount n 1
  (List.range 8).forM fun i => w.wr w.v (n + 16 + 8 * i) 8 0
  w.wr0 (n + 80) 8 0
  w.wr0 (n + 88) 8 0
  w.wr w.v (n + 96) 8 page
  w.wr w.v (n + 104) 8 (((← Walk.here).dieAt w.die).clk.toNat)
  w.wr w.v (n + 112) 1 w.v

/-- The node joins its parent's children, or its version's chain (R88). -/
def Walker.hang (w : Walker) (pd i c n : Nat) (e : KvNode) : Walk Unit := do
  if w.v = 0 then
    w.setFlags c 0
    w.wr0 (c + 88) 8 (← w.rd 0 (n + 80) 8)
    w.wr0 (n + 80) 8 c
    w.setCount n (e.count + 1)
  else
    w.setFlags c (4 + if e.vid = 0 then 8 else 0)
    if e.vid = 0 then w.setCount n (e.count + 1)
    let s ← Walk.here
    let x := s.ver w.v
    w.wr0 (c + 116) 4 x.kvhead.toNat
    Walk.change fun s => s.setVer w.v { x with kvhead := BitVec.ofNat 32 i, kvpool := pd }

/-- KVEXT (R88). -/
def kvext (w : Walker) (n pd : Nat) : Walk KvAnswer := do
  if n % 128 ≠ 0 then pure (.error 2)
  else
    let e ← w.node w.v n
    let pool := ((← Walk.here).ver w.v).kvpool
    if e.free then pure (.error 2)
    else if e.run = 0 ∨ e.run > 16 then pure (.error 7)
    else if w.v ≠ 0 ∧ pool ≠ 0 ∧ pool ≠ pd then pure (.error 5)
    else if (w.v = 0 ∨ e.vid = 0) ∧ e.count = 65535 then pure (.error 4)
    else
      match ← w.takeOr pd (w.takeNode pd) with
      | none => pure (.error 3)
      | some i =>
        match ← w.takeOr pd (w.takePage pd) with
        | none =>
          w.giveNode pd i
          pure (.error 3)
        | some k =>
          let c ← w.addrOf pd i
          let e := { e with count := ← w.rd 0 (n + 14) 2 }
          w.initNode c n (e.start + e.run) k
          w.hang pd i c n e
          pure (.ok (c, k))

/-- Copy `k` words of eight bytes between records at VID 0. -/
def Walker.copyWords (w : Walker) (src dst k : Nat) : Walk Unit :=
  (List.range k).forM fun i => do w.wr 0 (dst + 8 * i) 8 (← w.rd 0 (src + 8 * i) 8)

/-- KVFORK (R89). -/
def kvfork (w : Walker) (p c : Nat) (keep : Bool) : Walk KvAnswer := do
  if w.v ≠ 0 then pure (.error 5)
  else if p % 128 ≠ 0 ∨ c % 128 ≠ 0 then pure (.error 2)
  else
    let leaf ← w.rd 0 p 8
    if (← w.rd 0 (p + 12) 4) % 2 = 0 then pure (.error 2)
    else if leaf % 128 ≠ 0 then pure (.error 2)
    else
      let e ← w.node 0 leaf
      if e.free then pure (.error 2)
      else if e.count = 65535 then pure (.error 4)
      else
        w.setCount leaf (e.count + 1)
        let pd ← w.rd 0 (p + 24) 8
        let seq ← if keep then w.rd 0 (p + 16) 8
          else do
            let x ← w.rd 0 (pd + 48) 8
            w.wr 0 (pd + 48) 8 (x + 1)
            pure x
        w.wr 0 c 8 leaf
        w.wr 0 (c + 8) 4 (← w.rd 0 (p + 8) 4)
        w.wr 0 (c + 12) 4 1
        w.wr 0 (c + 16) 8 seq
        w.wr 0 (c + 24) 8 pd
        (List.range 4).forM fun i => w.wr 0 (c + 32 + 8 * i) 8 0
        w.copyWords (p + 64) (c + 64) 8
        pure (.ok (0, 0))

/-- KVREL (R90). -/
def kvrel (w : Walker) (n pd : Nat) : Walk KvAnswer := do
  if n % 128 ≠ 0 then pure (.error 2)
  else
    let e ← w.node 0 n
    if e.free then pure (.error 2)
    else if e.vid ≠ 0 ∨ e.pend then pure (.error 5)
    else if e.count = 0 then pure (.error 4)
    else pure (.ok (← w.dropRef pd n, 0))

/-! ### As instructions (R86, R91) -/

/-- The absolute fields a blocked word keeps: its windows are applied at its first issue. -/
def absUr3 (g : Group) (f : UR3) : UR3 :=
  { d := BitVec.ofNat 7 (g.uni f.i f.d.toNat), a := BitVec.ofNat 7 (g.uni f.i f.a.toNat),
    b := BitVec.ofNat 7 (g.uni f.i f.b.toNat), i := 0 }
def absUr2 (g : Group) (f : UR2) : UR2 :=
  { d := BitVec.ofNat 7 (g.uni f.i f.d.toNat), a := BitVec.ofNat 7 (g.uni f.i f.a.toNat), i := 0 }

/-- The die that is home to the line of an address; the caller's where it has no translation. -/
def unitDie (s : State) (va : Nat) : Nat :=
  match s.pageOf s.group.asn va true false with
  | .at_ pa => homeDie pa
  | _ => dieOf s.sel.core

/-- A walker instruction: it waits for the split's earlier accesses, acts as one step at the unit that is home to
`home`, and its results are written by `res` (R91). A version without room for its copy waits (R80). -/
def walkerWord (i : Instr) (home : Nat) (body : Walker → Walk KvAnswer) (res : KvAnswer → Group → Group)
    (s : State) : State :=
  releaseThen i 5 (fun s =>
    let w : Walker := { die := unitDie s home, gid := some s.group.gid, asn := s.group.asn, v := s.group.vid }
    match (body w).on s with
    | .ok (r, t) => advance 1 (acquireAt 5 (t.setGroup (res r t.group)))
    | .error (0, _) => blockIn i 0 0 s
    | .error (code, detail) => accessFault code detail ((body w).walked w s)) s

/-- Results of KVWALK and KVEXT: a pair, or all ones and the status (R86). -/
def pairResult (d : Nat) (r : KvAnswer) (g : Group) : Group :=
  match r with
  | .ok (x, y) => (g.setS d (BitVec.ofNat 64 x)).setS (d + 1) (BitVec.ofNat 64 y)
  | .error st => (g.setS d (BitVec.allOnes 64)).setS (d + 1) (BitVec.ofNat 64 st)
/-- Result of KVFORK and KVREL. -/
def oneResult (d : Nat) (r : KvAnswer) (g : Group) : Group :=
  match r with
  | .ok (x, _) => g.setS d (BitVec.ofNat 64 x)
  | .error st => g.setS d (BitVec.ofNat 64 (2 ^ 63 + st))

def effKvwalk (f : UR3) (s : State) : State :=
  let g := s.group
  let f := absUr3 g f
  let n := (g.sAt f.a.toNat).toNat
  walkerWord (.kvwalk f) n (fun w => kvwalk w n (g.sAt f.b.toNat).toNat) (pairResult f.d.toNat) s
def execKvwalk (f : UR3) (s : State) : Result := runWord true true (f.refsPair s.group) (effKvwalk f) s

def effKvext (f : UR3) (s : State) : State :=
  let g := s.group
  let f := absUr3 g f
  let pd := (g.sAt f.b.toNat).toNat
  walkerWord (.kvext f) pd (fun w => kvext w (g.sAt f.a.toNat).toNat pd) (pairResult f.d.toNat) (endIdem s)
def execKvext (f : UR3) (s : State) : Result := runWord true true (f.refsPair s.group) (effKvext f) s

/-- KVFORK's pool descriptor, whose home die's unit runs it. -/
def forkPool (s : State) (p : Nat) : Nat :=
  match s.pageOf s.group.asn (p + 24) true false with
  | .at_ pa => s.rootNat pa 8
  | _ => p
def effKvfork (f : KvforkForm) (s : State) : State :=
  let g := s.group
  let a := g.uni f.i f.a.toNat
  let d := g.uni f.i f.d.toNat
  let p := (g.sAt a).toNat
  walkerWord (.kvfork { d := BitVec.ofNat 7 d, a := BitVec.ofNat 7 a, k := f.k, i := 0 }) (forkPool s p)
    (fun w => kvfork w p (g.sAt (a + 1)).toNat (f.k == 1)) (oneResult d) (endIdem s)
def execKvfork (f : KvforkForm) (s : State) : Result := runWord true true (f.refs s.group) (effKvfork f) s

def effKvrel (f : UR3) (s : State) : State :=
  let g := s.group
  let f := absUr3 g f
  let pd := (g.sAt f.b.toNat).toNat
  walkerWord (.kvrel f) pd (fun w => kvrel w (g.sAt f.a.toNat).toNat pd) (oneResult f.d.toNat) (endIdem s)
def execKvrel (f : UR3) (s : State) : Result := runWord true true (f.refs s.group) (effKvrel f) s

/-! ### RESOLVE's key-value step (R82) -/

/-- A committed node: its VID byte is 0 at VID 0, and a version's own copy of its line keeps its byte (R82). -/
def kvCommitNode (w : Walker) (n : Nat) : Walk Unit := do
  let e ← w.node 0 n
  w.setFlags n (e.flags &&& 0xFB)
  w.wr 0 (n + 112) 1 0
  if e.parent ≠ 0 then
    w.wr0 (n + 88) 8 (← w.rd 0 (e.parent + 80) 8)
    w.wr0 (e.parent + 80) 8 n
    if !e.anch then w.setCount e.parent ((← w.rd 0 (e.parent + 14) 2) + 1)

/-- A squashed node: parent and page in the squashed version's view. -/
def kvSquashNode (w : Walker) (pd i n : Nat) : Walk Unit := do
  let parent ← w.rd w.v n 8
  let page ← w.rd w.v (n + 96) 4
  let flags ← w.rd 0 (n + 113) 1
  w.freeNode pd i n page
  if flags.testBit 3 ∧ parent ≠ 0 then
    let _ ← w.dropRef pd parent

/-- The chain of a version from an index on. -/
def kvChain (w : Walker) (pd : Nat) (act : Nat → Nat → Walk Unit) : Nat → Nat → Walk Unit
  | 0, _ => pure ()
  | fuel + 1, i => do
    if i = kvEnd then pure ()
    else
      let n ← w.addrOf pd i
      let next ← w.rd 0 (n + 116) 4
      act i n
      kvChain w pd act fuel next

/-- One version's chain; a chain with an access that fails is left as it stands (log entry 53). -/
def kvVersion (committed : Bool) (v : Nat) (s : State) : State :=
  let x := s.ver v
  let pd := x.kvpool
  let die := match s.pageOf x.asn pd true false with
    | .at_ pa => homeDie pa
    | _ => 0
  let w : Walker := { die, gid := none, asn := x.asn, v }
  let go : Walk Unit := kvChain w pd (fun i n => if committed then kvCommitNode w n else kvSquashNode w pd i n)
    (2 ^ 32) x.kvhead.toNat
  match go.on s with
  | .ok (_, t) => t
  | .error _ => go.walked w s

/-- The step: committed versions in path order, then squashed ones in increasing VID. -/
def kvStep (committed squashed : List Nat) (s : State) : State :=
  let t := committed.foldl (fun s v => kvVersion true v s) s
  ((List.range 256).filter fun v => squashed.contains v).foldl (fun s v => kvVersion false v s) t

end Sys2Proof.Machine
end

