-- ==== Sys2Proof/Machine/Pins.lean ====
section
/-!
DEFINITION. Holds on pages (R70) and the side-information table (R219): PIN, UNPIN, SITREG, SITDROP; and the bytes
of a virtual range as a unit outside the cores reads them.
-/

namespace Sys2Proof.Machine

/-- The bytes of a virtual range in a version, page by page: read by a unit of die `d`, with what the reads leave in the
L2 and in the walker. The fuel counts pages. -/
def vaBytes (d asn v : Nat) : Nat → Nat → Nat → State → Except (Nat × Nat) (List Byte) × State
  | 0, _, _, s => (.ok [], s)
  | fuel + 1, va, n, s =>
    if n = 0 then (.ok [], s)
    else
      let k := min n (2 ^ 21 - va % 2 ^ 21)
      match resolveVa d asn va true false s with
      | (.refused, s) => (.error (0x10, va), s)
      | (.unreadable b, s) => (.error (0x14, b), s)
      | (.at_ pa, s) => match s.readFault v pa k with
        | some b => (.error (0x14, b), s)
        | none =>
          let (bs, s) := readView v pa k s
          match vaBytes d asn v fuel (va + k) (n - k) s with
          | (.ok r, s) => (.ok (bs ++ r), s)
          | x => x

/-- A whole range. -/
def readVa (d asn v va n : Nat) (s : State) : Except (Nat × Nat) (List Byte) × State :=
  vaBytes d asn v (n / 2 ^ 21 + 2) va n s

/-! ### PIN and UNPIN (R70) -/

/-- Status and GEN in S[d]. -/
def pinResult (gen : BitVec 16) (st : Nat) : DWord := BitVec.ofNat 64 (65536 * gen.toNat + st)

/-- What the swap unit does at a page: virtual page, stack, frame and entry; the status. -/
abbrev PinAct := Nat → Nat → Nat → Pte → State → Nat × State

/-- The entry of a page is at the swap unit: a page without read permission is outside the lease. -/
def pinAt (f : UR2) (act : PinAct) (va st fr : Nat) (s : State) : State :=
  let e := s.pte st fr
  if let some b := s.pteBad st fr then accessFault 0x14 b s
  else if !(ptePerm st e).getLsbD 0 then leaseFault va s
  else
    let r := act (vpnOf va) st fr e s
    let g := r.2.group
    advance 1 (r.2.setGroup (g.setS (g.uni f.i f.d.toNat) (pinResult (pteGen e) r.1)))

/-- A replay walk that expects generation `gen`, `n` retries behind it (R57, R60); between walks the split is BLOCKED and
keeps the address. -/
def pinReplay (i : Instr) (f : UR2) (act : PinAct) (va : Nat) (gen : BitVec 16) (n : Nat) (s : State) : State :=
  let k := s.sel.core
  let asn := s.group.asn
  match walk (dieOf k) asn (vpnOf va) (some gen) s with
  | (.found st fr e, s) =>
    pinAt f act va st fr
      (fillTlb k { asn, vpn := vpnOf va, stack := st, frame := fr, perm := ptePerm st e, gen := pteGen e } s)
  | (.unreadable b, s) => accessFault 0x14 b s
  | (.none, s) =>
    if n ≥ 16 then raiseFaultWith 0 gen 0x10 (BitVec.ofNat 64 va) s
    else blockIn i (3 + n + 32 * gen.toNat) (BitVec.ofNat 64 va) s

/-- PIN and UNPIN (R70): the page of S[a] is translated as for a load, through the TLBs; a home that knows another
generation NACKs, and the walk is replayed. `i` is the word with absolute fields, as a blocked split keeps it. -/
def pinWord (i : Instr) (f : UR2) (act : PinAct) (s : State) : State :=
  let g := s.group
  let k := s.sel.core
  let p := s.split.phase
  if 3 ≤ p then pinReplay i f act s.split.wdata.toNat (BitVec.ofNat 16 (p / 32)) (p % 32 - 2) s
  else
    let va := (g.sAt (g.uni f.i f.a.toNat)).toNat
    if (s.grid.firstRefused false va 1).isSome then leaseFault va s
    else match translate k g.asn (vpnOf va) s with
      | (.none, s) => leaseFault va s
      | (.unreadable b, s) => accessFault 0x14 b s
      | (.ok e, s) =>
        let s := endIdem s
        match s.staleGen (physOf e.stack e.frame va) e.gen with
        | some gen => pinReplay i f act va gen 0 (dropTlb k g.asn (vpnOf va) s)
        | none => pinAt f act va e.stack e.frame s

/-- PIN. The limit of 16 counts hold records, one for each successful PIN not yet undone (DEDUCED, log entry 76). -/
def pinPage (vpn st fr : Nat) (e : Pte) (s : State) : Nat × State :=
  let x := s.grid
  if x.holds.length ≥ 16 then (4, s)
  else if pteHold e = 255 then (2, s)
  else (0, (s.setPte st fr (pteSet e 128 8 (pteHold e + 1))).setGrid s.group.gid { x with holds := vpn :: x.holds })

def unpinPage (vpn st fr : Nat) (e : Pte) (s : State) : Nat × State :=
  let x := s.grid
  if !x.holds.contains vpn then (3, s)
  else (0, (s.setPte st fr (pteSet e 128 8 (pteHold e - 1))).setGrid s.group.gid { x with holds := x.holds.erase vpn })

def effPin (f : UR2) (s : State) : State := pinWord (.pin (absUr2 s.group f)) f pinPage s
def effUnpin (f : UR2) (s : State) : State := pinWord (.unpin (absUr2 s.group f)) f unpinPage s
def execPin (f : UR2) (s : State) : Result := runWord true true (f.refs s.group) (effPin f) s
def execUnpin (f : UR2) (s : State) : Result := runWord true true (f.refs s.group) (effUnpin f) s

/-! ### SITREG and SITDROP (R219) -/

/-- The entry of a block number in a context. -/
def sameSit (asn blk : Nat) (e : SitEntry) : Bool := e.asn = asn && e.blk = blk

/-- Enter a block's bytes: the table, the status and the CRC. -/
def sitEnter (e : SitEntry) (s : State) : Nat × Word × State :=
  if s.sit.any (sameSit e.asn e.blk) then
    (0, e.crc, { s with sit := s.sit.map fun x => if sameSit e.asn e.blk x then e else x })
  else if s.sit.length ≥ 4096 then (1, 0, s)
  else (0, e.crc, { s with sit := s.sit ++ [e] })

/-- SITREG. It reads its bytes after the split's own pending stores to them (R227); while it waits, phase and `wdata` keep
its operands. With status 2 or 3 there is no CRC, and the upper half is a free value (log entry 91). -/
def effSitreg (f : UR2) (s : State) : State :=
  let g := s.group
  let a := g.uni f.i f.a.toNat
  let d := g.uni f.i f.d.toNat
  let held := 2 ≤ s.split.phase
  let va := if held then s.split.wdata.toNat else (g.sAt a).toNat
  let x := if held then s.split.phase - 2 else (g.sAt (a + 1)).toNat
  let len := x / 2 ^ 32 % 2 ^ 13
  let put (st : Nat) (c : Word) (s : State) : State :=
    advance 1 (s.setGroup (s.group.setS d (BitVec.ofNat 64 (2 ^ 32 * c.toNat + st))))
  if x / 2 ^ 45 ≠ 0 then illegal s
  else
    let s := endIdem s
    if g.vid ≠ 0 then put 3 (Config.noCrc va x) s
    else if len = 0 ∨ len > 4096 then put 2 (Config.noCrc va x) s
    else match s.grid.firstRefused false va len with
      | some b => leaseFault b s
      | none =>
        if s.ownStoreAt 0 va len then blockIn (.sitreg (absUr2 g f)) (2 + x) (BitVec.ofNat 64 va) s
        else match readVa (dieOf s.sel.core) g.asn 0 va len s with
        | (.error e, s) => accessFault e.1 e.2 s
        | (.ok bs, s) =>
          let r := sitEnter { asn := g.asn, blk := x % 2 ^ 32, gid := g.gid, va, len, crc := crc32c bs } s
          put r.1 r.2.1 r.2.2
def execSitreg (f : UR2) (s : State) : Result :=
  runWord true true [uniRef s.group f.i f.d.toNat, uniRef s.group f.i f.a.toNat 2] (effSitreg f) s

def effSitdrop (f : UR2) (s : State) : State :=
  let g := s.group
  let blk := (g.sAt (g.uni f.i f.a.toNat)).toNat % 2 ^ 32
  let had := s.sit.any (sameSit g.asn blk)
  let s := endIdem { s with sit := s.sit.filter fun e => !sameSit g.asn blk e }
  advance 1 (s.setGroup (s.group.setS (g.uni f.i f.d.toNat) (if had then 0 else 1)))
def execSitdrop (f : UR2) (s : State) : Result := runWord true true (f.refs s.group) (effSitdrop f) s

end Sys2Proof.Machine
end

