-- ==== Sys2Proof/Machine/Record.lean ====
section
/-!
DEFINITION. The launch record (R282-R286): reading it, what makes it malformed, what never fits, and the grid it
describes.
-/

namespace Sys2Proof.Machine

/-! ### Reading -/

/-- Word `i` of a byte string, `n` bytes each. -/
def wordAt (bs : List Byte) (n i : Nat) : Nat := leNat ((bs.drop (n * i)).take n)
/-- Words of a byte string. -/
def wordsOf (bs : List Byte) (n k : Nat) : List Nat := (List.range k).map (wordAt bs n)

/-- A launch record as read: the header and parameter words, the lease ranges, the caravan words and records. -/
structure Record where
  w : List Nat
  params : List DWord
  ranges : List Nat := []
  cvmap : List Nat := []
  recs : List Nat := []

/-- Field [lo+n-1:lo] of header word `i`. -/
def Record.fld (r : Record) (i lo n : Nat) : Nat := r.w.getD i 0 / 2 ^ lo % 2 ^ n
def Record.nblk (r : Record) : Nat := r.fld 0 32 32
def Record.oasis (r : Record) : Bool := r.fld 0 18 1 = 1

/-- The header, read by a unit of die `d`. -/
def readHeader (d asn v va : Nat) (s : State) : Option Record × State :=
  match readVa d asn v va 256 s with
  | (.error _, s) => (none, s)
  | (.ok bs, s) =>
    (some { w := wordsOf bs 8 16, params := (wordsOf (bs.drop 128) 8 16).map (BitVec.ofNat 64) }, s)

/-- The ranges and the arrays that a header names; none: one of them cannot be read (R282). -/
def readArrays (d asn v va : Nat) (r : Record) (s : State) : Option Record × State :=
  let n := r.fld 11 56 7
  let rectab := r.w.getD 9 0
  let cvmap := r.w.getD 10 0
  let (a, s) := readVa d asn v (va + 256) (16 * n) s
  let (b, s) := if rectab = 0 then (.ok [], s) else readVa d asn v rectab 2048 s
  let (c, s) := if cvmap = 0 then (.ok [], s) else readVa d asn v cvmap (4 * r.nblk) s
  (match a, b, c with
    | .ok a, .ok b, .ok c =>
      some { r with ranges := wordsOf a 16 n, recs := if rectab = 0 then [] else wordsOf b 16 128,
                    cvmap := if cvmap = 0 then [] else wordsOf c 4 r.nblk }
    | _, _, _ => none, s)

/-! ### Stages and queues (R284) -/

/-- Stage field `e` and queue field `q`. -/
def Record.stageField (r : Record) (e : Nat) : Nat := r.fld (1 + e / 2) (32 * (e % 2)) 32
def Record.queueField (r : Record) (q : Nat) : Nat := r.fld (3 + q / 4) (16 * (q % 4)) 16

def stageKind (x : Nat) : Nat := x % 8
def stageOf (x : Nat) : Stage :=
  { kind := x % 8, groups := x / 8 % 64, budget := 8 * (x / 2 ^ 9 % 32 + 1), entry := BitVec.ofNat 15 (x / 2 ^ 15 % 2 ^ 15) }

/-- The stages declared. -/
def Record.stages (r : Record) : List Stage :=
  (((List.range 4).map r.stageField).takeWhile fun x => stageKind x ≠ 0).map stageOf
def Record.groups (r : Record) : Nat := (r.stages.map (·.groups)).sum
def Record.budgets (r : Record) : Nat := (r.stages.map fun x => x.groups * x.budget).sum
/-- Shared bytes, rounded up to whole KiB. -/
def Record.shared (r : Record) : Nat := (r.fld 5 0 32 + 1023) / 1024 * 1024
def Record.slots (r : Record) : Nat := r.fld 5 32 4
def Record.tilekib (r : Record) : Nat := r.fld 5 36 10
def Record.entries (r : Record) : Nat := ((List.range 8).map fun q => r.queueField q % 128).sum
/-- Bytes of a FIFO for `sl` slots and `kib` KiB of reservations (R109); none: they do not fit the tile store. -/
def fifoSize (sl kib : Nat) : Option Nat :=
  if 63 * sl + kib > 768 then none else some ((768 - 63 * sl - kib) * 1024 / 8 / 128 * 128)

/-- A queue field is well formed for `n` stages. -/
def queueOk (n x : Nat) : Bool :=
  let e := x % 128
  x / 2 ^ 11 == 0 && (e == 0 || (8 ≤ e && e ≤ 64 && x / 2 ^ 7 % 4 < n && x / 2 ^ 9 % 4 < n))

/-- A stage field is well formed. -/
def stageOk (segmask x : Nat) : Bool :=
  !x.testBit 14 && x / 2 ^ 30 == 0 && (stageKind x == 0 ||
    (stageKind x ≤ 4 && 1 ≤ x / 8 % 64 && x / 8 % 64 ≤ 32 &&
      segmask.testBit (x / 2 ^ 25 % 32)))

/-! ### Caravan words and ranges (R283, R285) -/

/-- A used byte does not follow a 0xFF byte. -/
def caravanWordOk (x : Nat) : Bool :=
  let b (i : Nat) : Nat := x / 2 ^ (8 * i) % 256
  (List.range 3).all fun i => b i != 255 || b (i + 1) == 255

def rangeOk (x : Nat) : Bool :=
  x / 2 ^ 57 % 2 ^ 7 == 0 && 1 ≤ x / 2 ^ 64 % 2 ^ 48 && x / 2 ^ 113 == 0
def rangeOf (x : Nat) : Range := { base := x % 2 ^ 57, len := x / 2 ^ 64 % 2 ^ 48, rw := x.testBit 112 }

/-! ### Refusal (R286) -/

/-- The header words are well formed. -/
def Record.headerOk (r : Record) : Bool :=
  let st := (List.range 4).map r.stageField
  let kinds := r.stages.map (·.kind)
  r.fld 0 27 5 == 0 && r.fld 5 46 18 == 0 && r.fld 8 57 7 == 0 && r.fld 11 39 1 == 0 && r.fld 11 63 1 == 0 &&
    1 ≤ r.nblk && r.nblk ≤ 2 ^ 24 && !kinds.isEmpty && kinds.Nodup &&
    (st.drop r.stages.length).all (fun x => stageKind x == 0) && st.all (stageOk (r.fld 7 0 32)) &&
    r.groups ≤ (if r.oasis then 8 else 32) && r.fld 7 32 32 &&& r.fld 7 0 32 == r.fld 7 32 32 &&
    (List.range 8).all (fun q => queueOk r.stages.length (r.queueField q)) && r.slots ≤ 12 && r.fld 11 56 7 ≤ 64 &&
    r.w.getD 6 0 % 4096 == 0 && r.w.getD 9 0 % 16 == 0 && r.w.getD 10 0 % 4 == 0 && r.w.getD 12 0 % 8 == 0 &&
    r.w.getD 14 0 % 8 == 0 && r.w.getD 15 0 % 64 == 0

/-- The arrays are well formed. -/
def Record.arraysOk (r : Record) : Bool :=
  r.ranges.all rangeOk && r.cvmap.all caravanWordOk && (r.w.getD 10 0 != 0 || caravanWordOk (r.fld 11 0 32))

/-- The record names a caravan. -/
def Record.named (r : Record) : Bool :=
  if r.w.getD 10 0 = 0 then r.fld 11 0 8 != 255 else r.cvmap.any fun x => x % 256 != 255

/-- Blocks of the record that an empty core holds. -/
def Record.perCore (r : Record) : Nat :=
  let byGroups := (if r.oasis then 8 else 32) / max 1 r.groups
  let byBudget := if r.oasis then 32 else 2048 / max 1 r.budgets
  let cap := if r.oasis then 1048576 else 262144
  let byShared := cap / max 1 (r.shared + 128 * r.groups)
  let byTile := if r.slots = 0 ∧ r.tilekib = 0 then 32 else 1
  let byQueue := if r.entries = 0 then 32 else 512 / r.entries
  min (min (min byGroups byBudget) (min byShared byTile)) (min byQueue 32)

/-- Cores of a kind on the dies a record names (R140). -/
def Record.coreCount (r : Record) : Nat := (if r.oasis then 8 else 200) * (if r.fld 0 25 2 = 3 then 2 else 1)

/-- No core could ever hold one of its blocks, or its co-resident blocks (R286). A block of either kind may ask for 256 KiB
of shared memory less 128 bytes a group. -/
def Record.neverFits (r : Record) : Bool :=
  let cap := 262144 - 128 * r.groups
  (!r.oasis && r.budgets > 2048) || r.shared > cap || r.entries > 512 ||
    (match fifoSize r.slots r.tilekib with | some c => decide (c < 1536) | none => true) ||
    (r.oasis && (r.stages.any (fun x => x.kind = 2) || r.slots ≠ 0 || r.tilekib ≠ 0)) ||
    (r.named && r.nblk > r.perCore * r.coreCount)

/-! ### The grid a record describes -/

def queueEntry (x : Nat) : BQueue := { cap := x % 128, prod := x / 2 ^ 7 % 4, cons := x / 2 ^ 9 % 4 }

/-- The loader's lease over the image, and the declared ranges (R61, R283). -/
def Record.leases (r : Record) : List Range :=
  (if r.fld 8 0 48 = 0 then [] else [{ base := r.w.getD 6 0, len := r.fld 8 0 48, rw := false }]) ++ r.ranges.map rangeOf

/-- The grid, accepted by die `d` at version `v`. -/
def Record.grid (r : Record) (d v order : Nat) : Grid :=
  { die := d, order, vid := v, asn := r.fld 0 0 12, cls := r.fld 0 12 3, priv := r.fld 0 15 1 = 1,
    idem := r.fld 0 16 1 = 1, fuse := r.fld 0 17 1 = 1, kind := r.fld 0 18 1, hseg := BitVec.ofNat 5 (r.fld 0 19 5),
    hen := r.fld 0 24 1 = 1, dies := r.fld 0 25 2, nblk := r.nblk, stages := r.stages,
    queues := (List.range 8).filterMap fun q =>
      if r.queueField q % 128 = 0 then none else some (8 + q, queueEntry (r.queueField q)),
    sharedBytes := r.shared, slots := r.slots, tilekib := r.tilekib, image := r.w.getD 6 0,
    segmask := BitVec.ofNat 32 (r.fld 7 0 32), ovlmask := BitVec.ofNat 32 (r.fld 7 32 32), imagelen := r.fld 8 0 48,
    seqslot := r.fld 8 48 8, seqen := r.fld 8 56 1 = 1,
    recs := r.recs.zipIdx.map fun x => (x.2, BitVec.ofNat 128 x.1),
    cvmap := r.cvmap.zipIdx.map fun x => (x.2, BitVec.ofNat 32 x.1),
    cvdef := if r.w.getD 10 0 = 0 then BitVec.ofNat 32 (r.fld 11 0 32) else 0xFFFFFFFF,
    trbar := r.fld 11 32 6, truse := r.fld 11 38 1 = 1, trgen := BitVec.ofNat 16 (r.fld 11 40 16),
    ranges := r.leases, waitaddr := r.w.getD 12 0, waitval := BitVec.ofNat 64 (r.w.getD 13 0),
    doneaddr := r.w.getD 14 0, stataddr := r.w.getD 15 0, params := r.params, todo := List.range r.nblk }

end Sys2Proof.Machine
end

