-- ==== Sys2Proof/Machine/Launch.lean ====
section
/-!
DEFINITION. The launch instructions (R298-R308): LAUNCH, SPAWN, VQUERY, the draft-tree queues and the token-ready
barriers.
-/

namespace Sys2Proof.Machine

/-! ### Acceptance (R286, R287, R299) -/

/-- Grids of a die's launch engine. -/
def State.launchHeld (s : State) (d : Nat) : Nat := (s.grids.filter fun g => g.2.die = d && g.2.st != .ended).length

/-- What a record read for the selected group ends in: a fault, a refusal code, or the record. -/
inductive RecordAnswer where
  | fault
  | code (n : Nat)
  | ok (r : Record)

/-- Read and check the record at an address for the selected group (R282, R286). -/
def checkRecord (va : Nat) (s : State) : RecordAnswer × State :=
  let g := s.group
  let d := dieOf s.sel.core
  match readHeader d g.asn g.vid va s with
  | (none, s) => (.code 2, s)
  | (some r, s) =>
    if !g.priv && (r.fld 0 15 1 = 1 || r.fld 0 0 12 ≠ g.asn) then (.fault, s)
    else if !r.headerOk || (r.fld 0 17 1 = 1 && !s.accepted 3) then (.code 2, s)
    else match readArrays d g.asn g.vid va r s with
      | (none, s) => (.code 2, s)
      | (some r, s) => (if !r.arraysOk then .code 2 else if r.neverFits then .code 3 else .ok r, s)

/-- The grid is queued at the die's launch engine; its launch identifier (R299). -/
def acceptGrid (d v : Nat) (r : Record) (s : State) : Nat × State :=
  let e := s.dieAt d
  let gid := 2 ^ 31 * d + e.nextLaunch
  let g := r.grid d v s.nextOrder
  let s := s.setDie d { e with nextLaunch := if e.nextLaunch = 2 ^ 31 - 1 then 1 else e.nextLaunch + 1 }
  let s := { s with nextOrder := s.nextOrder + 1 }
  let s := if v ≠ 0 ∧ g.seqen then
      let x := s.ver v
      s.setVer v { x with seqs := if x.seqs.contains (d, g.seqslot) then x.seqs else x.seqs ++ [(d, g.seqslot)] }
    else s
  (gid, s.setGrid gid g)

/-- S[d] of LAUNCH and SPAWN. -/
def launchResult (gid r u : Nat) : DWord := BitVec.ofNat 64 (2 ^ 32 * gid + r + u)

/-- A record address is aligned to 256 and lies in the virtual space. -/
def recordAddrOk (va : Nat) : Bool := va % 256 == 0 && va < 2 ^ 57

/-- The device runtime's first LAUNCH for a host list locks FEATACC before its record is read (R339). -/
def maybeLock (s : State) : State :=
  let t := { s with fresh := s.fresh + 1 }
  if s.group.priv && isOasis s.sel.core && !s.id.lock then
    (if Config.hostListLaunch s.fresh then lockFeatures t else t)
  else s

/-- LAUNCH (R299). -/
def effLaunch (f : UR2) (s : State) : State :=
  let f := absUr2 s.group f
  let va := (s.group.sAt f.a.toNat).toNat
  let put (x : DWord) (s : State) : State := advance 1 (s.setGroup (s.group.setS f.d.toNat x))
  if !recordAddrOk va then illegal s
  else releaseThen (.launch f) 5 (fun s =>
    let s := maybeLock s
    let d := dieOf s.sel.core
    match checkRecord va s with
    | (.fault, s) => privilegeViolation s
    | (.code r, s) => put (launchResult 0 r 0) s
    | (.ok r, s) =>
      if s.launchHeld d ≥ 256 then put (launchResult 0 1 0) s
      else
        let x := acceptGrid d s.group.vid r s
        put (launchResult x.1 0 0) x.2) (endIdem s)
def execLaunch (f : UR2) (s : State) : Result := runWord true true (f.refs s.group) (effLaunch f) s

/-! ### SPAWN (R300, R301) -/

/-- Free VIDs. -/
def State.freeVids (s : State) : List Nat := (List.range 256).filter fun v => v ≠ 0 && (s.ver v).st == .free

/-- Why a SPAWN of a well-formed record is refused: 0 for none (R300). -/
def spawnRefusal (r : Record) (p : Nat) (s : State) : Nat :=
  let d := dieOf s.sel.core
  let e := s.dieAt d
  let x := s.ver p
  let v := s.group.vid
  if p ≠ 0 ∧ (!x.open_ || x.foreign || x.asn ≠ r.fld 0 0 12) then 4
  else if v ≠ 0 ∧ !(p ≠ 0 && s.within v p) then 4
  else if (s.ancestors p).length + 1 > 16 then 5
  else if e.held_.toNat ≥ min e.cap.toNat e.limit.toNat then 1
  else if s.freeVids.isEmpty then 6
  else if !s.vers.vsen || s.spillFull then 7
  else if s.launchHeld d ≥ 256 then 8
  else 0

/-- The new version and its grid, in one step. Its DEPTH counts, as its parent's does, ancestors that are committed and not
yet swept (R81). -/
def spawnAccept (r : Record) (p : Nat) (s : State) : Nat × Nat × State :=
  let d := dieOf s.sel.core
  let vs := s.freeVids
  let u := vs.getD (Config.freeVid s.fresh vs.length % vs.length) 1
  let x : Version := { st := .live, parent := p, depth := if p = 0 then 1 else (s.ver p).depth + 1, permit := true, die := d,
                       spawner := s.group.gid,
                       asn := r.fld 0 0 12, spawnseq := s.vers.nextSeq }
  let s := { s with fresh := s.fresh + 1, vers := { s.vers with nextSeq := s.vers.nextSeq + 1 } }
  let s := (s.setVer u x).setDie d { s.dieAt d with held_ := (s.dieAt d).held_ + 1 }
  let a := acceptGrid d u r s
  (a.1, u, a.2)

/-- SPAWN (R300). -/
def effSpawn (f : UR3) (s : State) : State :=
  let f := absUr3 s.group f
  let va := (s.group.sAt f.a.toNat).toNat
  let p := (s.group.sAt f.b.toNat).toNat
  let put (x : DWord) (s : State) : State := advance 1 (s.setGroup (s.group.setS f.d.toNat x))
  if !recordAddrOk va ∨ p ≥ 256 then illegal s
  else releaseThen (.spawn f) 5 (fun s =>
    match checkRecord va s with
    | (.fault, s) => privilegeViolation s
    | (.code r, s) => put (launchResult 0 (256 * r) 0) s
    | (.ok r, s) =>
      let why := spawnRefusal r p s
      if why ≠ 0 then put (launchResult 0 (256 * why) 0) s
      else
        let x := spawnAccept r p s
        put (launchResult x.1 0 x.2.1) x.2.2) (endIdem s)
def execSpawn (f : UR3) (s : State) : Result := runWord true true (f.refs s.group) (effSpawn f) s

/-! ### VQUERY (R305) -/

def effVquery (f : UR2) (s : State) : State :=
  let g := s.group
  let d := g.uni f.i f.d.toNat
  let v := (g.sAt (g.uni f.i f.a.toNat)).toNat
  let put (x y : DWord) : State := advance 1 (s.setGroup ((g.setS d x).setS (d + 1) y))
  if v ≥ 256 then illegal s
  else if v = 0 then put (s.dieAt (dieOf s.sel.core)).specpool s.vstat
  else
    let x := s.ver v
    if x.asn = g.asn ∨ g.priv then put (part64 x.bits 0) (part64 x.bits 2) else put 0 0
def execVquery (f : UR2) (s : State) : Result :=
  runWord true true [uniRef s.group f.i f.d.toNat 2, uniRef s.group f.i f.a.toNat] (effVquery f) s

/-! ### Draft-tree queues (R306, R307) -/

def draftKey (e : DWord) : Word := e.setWidth 32
def draftPayload (e : DWord) : Nat := (e >>> 32).toNat
/-- Entry `x` ranks above entry `y`. -/
def ranksAbove (x y : DWord) : Bool :=
  rFcmplt (draftKey y) (draftKey x) || (rFcmpeq (draftKey x) (draftKey y) && draftPayload x < draftPayload y)
/-- The highest- and the lowest-ranked entry. -/
def highestRanked : List DWord → Option DWord
  | [] => none
  | x :: xs => some (xs.foldl (fun b e => if ranksAbove e b then e else b) x)
def lowestRanked : List DWord → Option DWord
  | [] => none
  | x :: xs => some (xs.foldl (fun b e => if ranksAbove b e then e else b) x)

def Die.draft (e : Die) (n : Nat) : DraftQueue := mapGet {} e.drafts n
def State.setDraft (s : State) (d n : Nat) (q : DraftQueue) : State :=
  s.setDie d { s.dieAt d with drafts := mapSet (s.dieAt d).drafts n q }

/-- The queue after DTADD, and S[d]. -/
def draftAdd (e : DWord) (q : DraftQueue) : DraftQueue × DWord :=
  let k := draftKey e
  if rFcmpun k k then (q, e)
  else if q.q.length < 256 then ({ q with q := q.q ++ [e] }, BitVec.allOnes 64)
  else match lowestRanked q.q with
    | some w => if ranksAbove e w then ({ q with q := q.q.erase w ++ [e] }, w) else (q, e)
    | none => (q, e)

/-- The queue after DTTAKE, and S[d]. -/
def draftTake (q : DraftQueue) : DraftQueue × DWord :=
  match highestRanked q.q with
  | some x => if q.budget = 0 then (q, BitVec.allOnes 64) else ({ budget := q.budget - 1, q := q.q.erase x }, x)
  | none => (q, BitVec.allOnes 64)

/-- The budget that AUTO allots (R307). -/
def draftShare (e : Die) (n slot : Nat) : Nat :=
  let h (i : Nat) : Nat := (mapGet 256 e.seqH i).toNat
  let act := (List.range 256).filter fun i => mapGet false e.seqActive i
  let sum := (act.map h).sum + (if act.contains slot then 0 else h slot)
  min 65535 (n * h slot / sum)

def effDtadd (f : UR3) (s : State) : State :=
  let g := s.group
  let d := dieOf s.sel.core
  let n := (g.sAt (g.uni f.i f.b.toNat)).toNat
  if n ≥ 4 then illegal s
  else
    let r := draftAdd (g.sAt (g.uni f.i f.a.toNat)) ((s.dieAt d).draft n)
    let s := endIdem (s.setDraft d n r.1)
    advance 1 (s.setGroup (s.group.setS (g.uni f.i f.d.toNat) r.2))
def execDtadd (f : UR3) (s : State) : Result := runWord true true (f.refs s.group) (effDtadd f) s

def effDttake (f : UR2) (s : State) : State :=
  let g := s.group
  let d := dieOf s.sel.core
  let n := (g.sAt (g.uni f.i f.a.toNat)).toNat
  if n ≥ 4 then illegal s
  else
    let r := draftTake ((s.dieAt d).draft n)
    let s := endIdem (s.setDraft d n r.1)
    advance 1 (s.setGroup (s.group.setS (g.uni f.i f.d.toNat) r.2))
def execDttake (f : UR2) (s : State) : Result := runWord true true (f.refs s.group) (effDttake f) s

def effDtbud (f : UR3) (s : State) : State :=
  let g := s.group
  let d := dieOf s.sel.core
  let n := (g.sAt (g.uni f.i f.a.toNat)).toNat
  let x := (g.sAt (g.uni f.i f.b.toNat)).toNat
  if n ≥ 4 ∨ x ≥ 2 ^ 26 then illegal s
  else
    let q := (s.dieAt d).draft n
    let budget := if x.testBit 24 then draftShare (s.dieAt d) (x % 65536) (x / 65536 % 256) else x % 65536
    let s := endIdem (s.setDraft d n { budget, q := if x.testBit 25 then [] else q.q })
    advance 1 (s.setGroup (s.group.setS (g.uni f.i f.d.toNat) (BitVec.ofNat 64 (q.budget + 65536 * q.q.length))))
def execDtbud (f : UR3) (s : State) : Result := runWord true true (f.refs s.group) (effDtbud f) s

/-! ### Token-ready barriers (R308) -/

def Die.tokenGen (e : Die) (n : Nat) : BitVec 16 := mapGet 0 e.trbar n
/-- Generation `g` is reached or passed. -/
def Die.tokenReached (e : Die) (n : Nat) (g : BitVec 16) : Bool := atOrAfter (e.tokenGen n) g

def effTrdy (f : UR2) (s : State) : State :=
  let f := absUr2 s.group f
  let n := (s.group.sAt f.a.toNat).toNat
  if n ≥ 64 then illegal s
  else releaseThen (.trdy f) 5 (fun s =>
    let d := dieOf s.sel.core
    let e := s.dieAt d
    let gen := e.tokenGen n + 1
    let s := s.setDie d { e with trbar := mapSet e.trbar n gen }
    advance 1 (s.setGroup (s.group.setS f.d.toNat (gen.setWidth 64)))) (endIdem s)
def execTrdy (f : UR2) (s : State) : Result := runWord true true (f.refs s.group) (effTrdy f) s

/-- TWAIT: phase 2 keeps barrier and generation. -/
def effTwait (f : UR3) (s : State) : State :=
  let f := absUr3 s.group f
  let n := (s.group.sAt f.a.toNat).toNat
  let g := (s.group.sAt f.b.toNat).toNat
  let x := if s.split.phase = 2 then s.split.wdata.toNat else n % 64 + 64 * (g % 65536)
  if s.split.phase ≠ 2 ∧ (n ≥ 64 ∨ g ≥ 65536) then illegal s
  else
    let e := s.dieAt (dieOf s.sel.core)
    if e.tokenReached (x % 64) (BitVec.ofNat 16 (x / 64)) then
      let s := acquireAt 5 s
      advance 1 (s.setGroup (s.group.setS f.d.toNat ((e.tokenGen (x % 64)).setWidth 64)))
    else blockIn (.twait f) 2 (BitVec.ofNat 64 x) s
def execTwait (f : UR3) (s : State) : Result := runWord true true (f.refs s.group) (effTwait f) s

end Sys2Proof.Machine
end

