-- ==== Sys2Proof/Machine/GridEnd.lean ====
section
/-!
DEFINITION. How a grid ends (R65, R104, R256, R297, R303, R318, R319): its blocks, commands and buffered stores, its
versions, its lease, its status record, DONEADDR and GRIDEND; and the sweeper (R81).
-/

namespace Sys2Proof.Machine

/-! ### Ending the blocks of a grid (R318 item 2, R256, R303) -/

/-- Batch tags of a group whose summaries are outstanding (R256). -/
def tagsOutstanding (g : Group) : BitVec 4 :=
  g.rtags.foldl (fun m t => if t.2.owed.isEmpty && t.2.std == 0 && t.2.used.isEmpty then m
    else m ||| BitVec.ofNat 4 (2 ^ (t.1 % 4))) 0

/-- A faulted grid reports only the errors of summaries that return after the fault (R256). -/
def Group.forgetErrors (g : Group) : Group :=
  { g with rwErrs := 0, rwPeers := 0, rtags := g.rtags.map fun t => (t.1, { t.2 with errs := 0, errPeers := 0 }) }
def forgetErrors (gid : Nat) (s : State) : State :=
  { (s.setGrid gid { s.gridAt gid with errbits := 0 }) with
    cores := s.cores.map fun c => (c.1, { c.2 with
      groups := c.2.groups.map fun g => (g.1, if g.2.gid = gid then g.2.forgetErrors else g.2) }) }

/-- Before its swap a cancelled DEMOTE or REQUANT clears BUSY (R104). -/
def cancelSwap (k : Nat) (c : Cmd) (s : State) : State :=
  if c.st == .swapping then
    match commandPage k c s with
    | (.found st fr e, s) => s.setPte st fr (pteSet e 139 1 0)
    | (_, s) => s
  else s

/-- Commands of a grid on a core are cancelled, but for one that has passed its swap; what they have not sent yet is not
sent any more (R104). -/
def cancelCommands (k gid : Nat) (s : State) : State :=
  let hit (c : Cmd) : Bool := c.gid = gid && !c.swapped
  let cmds := (s.coreAt k).eng.flatMap fun q => q.2.filter hit
  let s := dropUnsent (dieOf k) (fun x => cmds.any fun c => cmdMsg k c.id x) (cmds.foldl (fun t c => cancelSwap k c t) s)
  s.setCore k { s.coreAt k with eng := (s.coreAt k).eng.map fun q => (q.1, q.2.filter fun c => !hit c) }

/-- Everything of a grid that ends on one core: loads are discarded, but for those of a routine inside a run (R204), stores
and atomics that have left the core are still performed; commands are cancelled, matrix entries dropped. Unsent buffer
entries, and requests that wait at their source, go: after a fault all of them, at a squash those of the version (R207). -/
def killOnCore (fault : Bool) (k gid : Nat) (s : State) : State :=
  let c := s.coreAt k
  let gs := (c.groups.filter fun g => g.2.gid = gid).map (·.1)
  let dropped (e : WcEntry) : Bool := e.gid = gid && (fault || e.vid != 0)
  let drops := (c.wc.filter dropped).length
  let tags := (c.groups.filter fun g => g.2.gid = gid).foldl (fun m g => m ||| tagsOutstanding g.2) 0
  let x := s.gridAt gid
  let s := s.setGrid gid { x with wcdrop := x.wcdrop + drops, tagsOut := x.tagsOut ||| tags }
  let s := dropWcWhere k dropped (cancelCommands k gid s)
  let s := dropUnsent (dieOf k) (fun x => isRequest x.1 && x.2.srcGrp / 256 = k && gs.contains (x.2.srcGrp % 256) &&
    (fault || x.2.vid != 0 || x.1 == .remoteLoad)) s
  let c := s.coreAt k
  let blks := (c.blocks.filter fun b => b.2.gid = gid).map (·.1)
  let left (r : Req) : Bool := r.st == .remote && s.ackOwed k r.id
  let inRun (r : Req) : Bool :=
    let g := (s.groupAt k r.grp).ended
    g.live && g.oplog.any fun e => e.2.ser = r.ser
  let gone (r : Req) : Bool := r.gid = gid && !inRun r && (r.kind == .load || r.st == .unsent || (r.space == 3 && !left r) ||
    (r.kind != .store && r.st == .performed))
  let s := s.setCore k { c with
    groups := c.groups.map (fun g => (g.1, if g.2.gid = gid then g.2.ended else g.2)),
    reqs := c.reqs.filter (fun r => !gone r), matq := c.matq.filter (fun e => !blks.contains e.blk),
    toSpill := c.toSpill.filter (fun r => !blks.contains (r / 1024)),
    toFill := c.toFill.filter (fun r => !blks.contains (r / 1024)),
    entering := c.entering.map (fun q => (q.1, q.2.filter fun m => m.gid ≠ gid)),
    incoming := c.incoming.filter fun b => b.1 ≠ gid }
  settleWaits (dieOf k) (retireCore k s)

/-- Every block of a grid ends, and none is left to dispatch. -/
def killGrid (fault : Bool) (gid : Nat) (s : State) : State :=
  let s := s.setGrid gid { s.gridAt gid with todo := [], pendArr := [] }
  (s.cores.map (·.1)).foldl (fun t k => killOnCore fault k gid t) s

/-- A block of the grid is still on some core. -/
def State.gridOnCores (s : State) (gid : Nat) : Bool := s.cores.any fun c => c.2.blocks.any fun b => b.2.gid = gid

/-! ### Squashing versions (R211, R303) -/

/-- `p`'s bits set, in increasing order. -/
def bitsOf (p : DWord) : List Nat := (List.range 64).filter fun i => p.getLsbD i

/-- A version gives its permit back (R301). -/
def returnPermit (v : Nat) (s : State) : State :=
  let x := s.ver v
  if x.permit then
    (s.setVer v { x with permit := false }).setDie x.die { s.dieAt x.die with held_ := (s.dieAt x.die).held_ - 1 }
  else s

/-- A message with a list of versions to every peer of a set, each to acknowledge it to `token` (R211, R252). -/
def sendLists (d : Nat) (kind : Instr) (token : Nat) (vids : List Nat) (peers : DWord) (s : State) : State :=
  (bitsOf peers).foldl (fun t p =>
    let t := sendMsg d kind { dest := 2 * p, vids, req := token, role := 3 } t
    { t with vers := { t.vers with acks := t.vers.acks ++ [(token, p)] } }) s

/-- The peers that any of some versions has touched. -/
def peersOf (s : State) (vs : List Nat) : DWord := vs.foldl (fun p v => p ||| (s.ver v).peers) 0

/-- Unsent buffer entries of a faulted grid are discarded and counted (R207). -/
def dropEntries (gid : Nat) (s : State) : State :=
  (s.cores.map (·.1)).foldl (fun t k =>
    let n := ((t.coreAt k).wc.filter fun e => e.gid = gid).length
    dropWcWhere k (fun e => e.gid = gid) (t.setGrid gid { t.gridAt gid with wcdrop := (t.gridAt gid).wcdrop + n })) s

/-- A grid of a squashed version ends; one that a fault has ended stays faulted (R318), and its unsent buffer entries are
discarded at once (R207). -/
def squashGrid (gid : Nat) (s : State) : State :=
  let g := s.gridAt gid
  if g.st == .ended || g.st == .ending then s
  else if g.fault.isSome then dropEntries gid s
  else killGrid false gid (s.setGrid gid { g with st := .ending, squashed := true })

/-- The versions of a list are squashed at the table step: permits, grids, messages to peers from die `d` (R303). -/
def squashVersions (d token : Nat) (vs : List Nat) (s : State) : State :=
  let mark (s : State) (v : Nat) : State := returnPermit v (s.setVer v { s.ver v with st := .squashed })
  let peers := peersOf s (vs.filter fun v => !(s.ver v).foreign)
  let s := vs.foldl mark s
  let s := { s with vers := { s.vers with sweep := s.vers.sweep ++ vs } }
  let gs := (s.grids.filter fun g => g.2.vid ≠ 0 && vs.contains g.2.vid).map (·.1)
  let s := gs.foldl (fun t g => squashGrid g t) s
  if vs.isEmpty then s else sendLists d .squashMessage token vs peers s

/-- A version and every open version below it, in increasing VID. -/
def State.subtree (s : State) (w : Nat) : List Nat :=
  (List.range 256).filter fun u => u ≠ 0 && (s.ver u).open_ && s.within w u

/-! ### Status, DONEADDR, GRIDEND (R297, R319, R327) -/

/-- The 64 bytes of a status record. -/
def statusBytes (gid state : Nat) (s : State) : List Byte :=
  let g := s.gridAt gid
  let f := if state = 1 then g.fault.getD { code := 0, detail := 0 } else { code := 0, detail := 0 }
  let code := if state = 3 then 0x10 else f.code
  let detail := match g.leaseErr with
    | some a => if state = 3 then a else f.detail.toNat
    | none => f.detail.toNat
  leBytes 4 gid ++ leBytes 1 state ++ leBytes 1 code ++ leBytes 1 g.nfault ++ leBytes 1 0 ++ leBytes 4 f.blk ++
    leBytes 2 f.coreN.toNat ++ leBytes 1 f.grpin ++ leBytes 1 f.slot ++ leBytes 2 f.pc.toNat ++ leBytes 2 0 ++
    leBytes 1 g.vid ++ leBytes 3 0 ++ leBytes 8 detail ++ leBytes 1 g.tagsOut.toNat ++ leBytes 1 g.errbits.toNat ++
    leBytes 2 0 ++ leBytes 4 g.wcdrop ++ leBytes 2 f.expgen.toNat ++ leBytes 2 f.lease.toNat ++ leBytes 4 0 ++
    leBytes 8 (s.dieAt g.die).clk.toNat ++ leBytes 8 0

/-- Write at an address of a context at VID 0; nothing where no mapping permits it (log entry 20). -/
def writeVa (d asn va : Nat) (bs : List Byte) (s : State) : State :=
  match resolveVa d asn va false true s with
  | (.at_ pa, s) => writeView 0 (atAddr pa bs) s
  | (_, s) => s

/-- Add 1 to the 64-bit counter at an address, at VID 0. -/
def advanceDone (d asn va : Nat) (s : State) : State :=
  if va = 0 then s
  else match resolveVa d asn va true true s with
    | (.at_ pa, s) => writeNat 0 pa 8 ((s.rootNat pa 8 + 1) % 2 ^ 64) s
    | (_, s) => s

/-- Change a field of the entry of a page, if the context maps it. -/
def modPage (d asn vpn : Nat) (f : Pte → Pte) (s : State) : State :=
  match walk d asn vpn none s with
  | (.found st fr e, s) => s.setPte st fr (f e)
  | (_, s) => s

/-- The lease is released: PINS of every page of it, and every hold (R65). -/
def releaseLease (gid : Nat) (s : State) : State :=
  let g := s.gridAt gid
  let s := g.pinned.foldl (fun t p => modPage g.die g.asn p (fun e => pteSet e 112 16 (ptePins e - 1)) t) s
  let s := g.holds.foldl (fun t p => modPage g.die g.asn p (fun e => pteSet e 128 8 (pteHold e - 1)) t) s
  s.setGrid gid { s.gridAt gid with pinned := [], holds := [] }

/-- A version whose grids have all ended is closed (R297). -/
def closeVersion (v : Nat) (s : State) : State :=
  if v ≠ 0 ∧ (s.ver v).st == .live ∧ (s.grids.all fun g => g.2.vid ≠ v || g.2.st == .ended) then
    s.setVer v { s.ver v with st := .closed }
  else s

/-- The grid has ended: lease, side information, status, counter, event (R65, R219, R297, R318). A fault in a version
squashes it (R256), so that its DONEADDR words never advance. -/
def finishGrid (gid state : Nat) (s : State) : State :=
  let s := releaseLease gid s
  let s := { s with sit := s.sit.filter fun e => e.gid ≠ gid }
  let g := s.gridAt gid
  let s := if g.stataddr = 0 then s else writeVa g.die g.asn g.stataddr (statusBytes gid state s) s
  let s := if state = 2 ∨ (state = 1 ∧ g.vid ≠ 0) then s
    else if g.vid = 0 then advanceDone g.die g.asn g.doneaddr s
    else s.setVer g.vid { s.ver g.vid with dones := (s.ver g.vid).dones ++ [(g.asn, g.doneaddr)] }
  let code := if state = 3 then 0x10 else if state = 1 then (g.fault.map (·.code)).getD 0 else 0
  let s := raiseEvent g.die (masterNum 4 g.die 0) 4 (leBytes 4 gid ++ leBytes 1 state ++ leBytes 1 code) s
  closeVersion g.vid (s.setGrid gid { s.gridAt gid with st := .ended })

/-! ### The steps -/

/-- A grid whose blocks have all ended, by completion or squash. -/
def completeDue (s : State) (gid : Nat) : Bool :=
  let g := s.gridAt gid
  (g.st == .running && g.todo.isEmpty && g.doneBlks == g.nblk) || (g.st == .ending && g.squashed && !s.gridOnCores gid)

/-- GRID_COMPLETE (R297). -/
def execGridComplete (s : State) : Result :=
  agentStep (fun s =>
    let gid := s.sel.gid
    if completeDue s gid then finishGrid gid (if (s.gridAt gid).squashed then 2 else 0) s else s) s

/-- The acknowledgement token of a faulted grid's squash messages. -/
def gridToken (gid : Nat) : Nat := 2 ^ 40 + gid

/-- Versions a faulted grid takes with it (R256). -/
def faultVersions (gid : Nat) (s : State) : List Nat :=
  let roots := (List.range 256).filter fun u => u ≠ 0 && (s.ver u).open_ && !(s.ver u).foreign &&
    ((s.ver u).spawner = gid || u = (s.gridAt gid).vid)
  (List.range 256).filter fun u => u ≠ 0 && (s.ver u).open_ && roots.any fun w => s.within w u

/-- GRID_FAULT_END (R318): the blocks end and the effects of R256 take place. -/
def execGridFaultEnd (s : State) : Result :=
  agentStep (fun s =>
    let gid := s.sel.gid
    let g := s.gridAt gid
    if g.st == .faulting then
      let vs := faultVersions gid s
      let s := killGrid true gid (forgetErrors gid (s.setGrid gid { g with st := .ending }))
      kvStep [] vs (squashVersions g.die (gridToken gid) vs s)
    else s) s

/-- A request of the grid that has left a die is neither acknowledged nor declared lost. -/
def State.gridOwed (s : State) (gid : Nat) : Bool := (s.north.out ++ s.south.out).any fun o => o.gid = gid

/-- The blocks have left, and every message has been acknowledged or declared lost (R256). -/
def faultStatusDue (s : State) (gid : Nat) : Bool :=
  let g := s.gridAt gid
  g.st == .ending && g.fault.isSome && !g.squashed && !s.gridOnCores gid && !s.gridOwed gid &&
    !s.vers.acks.any fun a => a.1 = gridToken gid

/-- FAULT_STATUS_WRITE (R256, R318). -/
def execFaultStatusWrite (s : State) : Result :=
  agentStep (fun s => if faultStatusDue s s.sel.gid then finishGrid s.sel.gid 1 s else s) s

/-! ### The sweeper (R81) -/

/-- A RESOLVE of the version waits for its table step: phase 4 + v. -/
def resolveWaits (g : Group) (v : Nat) : Bool :=
  g.splits.any fun p => p.2.phase = 4 + v &&
    (match p.2.wait with | some (.resolve _) => true | _ => false)

/-- An access of the version is still on its way, or a RESOLVE of it waits. The sweeper finishes an entry only when none
is left, so that the VID is not given to another version under them (DESIGN CHOICE, log entry 77). -/
def vidInFlight (s : State) (v : Nat) : Bool :=
  s.cores.any fun c => c.2.groups.any (fun g => resolveWaits g.2 v) || c.2.reqs.any (fun r => r.vid = v) ||
    c.2.wc.any (fun e => e.vid = v) || (c.2.eng ++ c.2.entering).any fun q => q.2.any fun m => m.vid = v

/-- Children of a freed entry hang from the root; under a committed one, depths fall. -/
def reparent (v : Nat) (committed : Bool) (below : List Nat) (s : State) : State :=
  { s with vers := { s.vers with tab := s.vers.tab.map fun e =>
      (e.1, { e.2 with parent := if e.2.parent = v then 0 else e.2.parent,
                       depth := if committed && below.contains e.1 then e.2.depth - 1 else e.2.depth }) } }

/-- Stored descendants of an entry, by the PARENT links as they stand. -/
def storedBelow (s : State) (v : Nat) : Nat → Nat → Bool
  | 0, _ => false
  | n + 1, u => if u = 0 then false else if (s.ver u).parent = v then true else storedBelow s v n (s.ver u).parent

/-- Finish one entry: settle or clear its lines, then it is free. -/
def sweep (v : Nat) (s : State) : State :=
  let committed := (s.ver v).st == .committed
  let below := (List.range 256).filter fun u => u ≠ 0 && u ≠ v && (s.ver u).st != .free && storedBelow s v 256 u
  let s := if committed then
      (((s.copies.filter fun c => c.vid = v).map (·.line)).dedup).foldl (fun t l => settle l t) s
    else dropCopies (fun c => c.vid = v) s
  let s := reparent v committed below (l1DropVid v s)
  s.setVer v {}

/-- SWEEP_ENTRY: the oldest changed entry. -/
def execSweepEntry (s : State) : Result :=
  agentStep (fun s => match s.vers.sweep with
    | v :: rest => if vidInFlight s v || s.vers.lag.isSome then s else sweep v { s with vers := { s.vers with sweep := rest } }
    | [] => s) s

end Sys2Proof.Machine
end

