-- ==== Sys2Proof/Machine/Resolve.lean ====
section
/-!
DEFINITION. RESOLVE (R302-R304): its checks and wait, its table step with the key-value step and the sequence slots
(R81, R82, R291), and its completion (R252).
-/

namespace Sys2Proof.Machine

/-- The path from a version to the one whose parent counts as the root, top first. -/
def State.resolvePath (s : State) (v : Nat) : List Nat := (s.ancestors v).reverse

/-- S[d] of a RESOLVE. -/
def resolveResult (committed squashed st : Nat) : Nat := committed + 256 * min 255 squashed + 65536 * st

/-- RESOLVE issues: a refusal at once (st 1, 2), or the wait of phase 4 + v, which keeps the bitmap's address and, in its low
bits, the length of the path. -/
def effResolve (f : UR3) (s : State) : State :=
  let f := absUr3 s.group f
  let g := s.group
  let v := (g.sAt f.a.toNat).toNat
  let b := (g.sAt f.b.toNat).toNat
  let put (st : Nat) (s : State) : State :=
    advance 1 (s.setGroup (s.group.setS f.d.toNat (BitVec.ofNat 64 (resolveResult 0 0 st))))
  if s.split.phase ≥ 2 then blockIn (.resolve f) s.split.phase s.split.wdata s
  else if v ≥ 256 ∨ b % 32 ≠ 0 then illegal s
  else
    let s := endIdem s
    let x := s.ver v
    if g.vid ≠ 0 then put 2 s
    else if v ≠ 0 ∧ (!x.open_ || x.foreign || x.asn ≠ g.asn) then put 1 s
    else blockIn (.resolve f) (4 + v) (BitVec.ofNat 64 (b + min 31 (s.ancestors v).length)) s
def execResolve (f : UR3) (s : State) : Result := runWord true true (f.refs s.group) (effResolve f) s

/-! ### The table step -/

/-- What a waiting RESOLVE of `v` finds: it may go on, or it ends with a status. -/
inductive ResolveWait where
  | waits
  | ends (st : Nat)
  | steps
deriving DecidableEq, Repr

/-- What the wait of a RESOLVE of `v` finds that was issued with a path of `n` versions: it goes on once every version of the
path is closed, or one above `v` has been committed. Every link from `v` upwards is followed, squashed versions included,
until the root or a committed version (R81). -/
def resolveWait (s : State) (v n : Nat) : ResolveWait :=
  if v = 0 then .steps
  else if (s.ver v).st == .committed || (s.ver v).st == .free then .ends 1
  else if (s.ancestors v).any fun u => (s.ver u).st == .squashed then .ends 4
  else if (s.ancestors v).length < n || (s.ancestors v).all (fun u => (s.ver u).st == .closed) then .steps
  else .waits

/-- The bitmap names `w`. -/
def inBitmap (bm : Option (List Byte)) (w : Nat) : Bool :=
  match bm with
  | none => true
  | some bs => (bs.getD (w / 8) 0).getLsbD (w % 8)

/-- Roots of the subtrees to squash: other children of each path version's parent, or the named top-level versions. -/
def squashRoots (s : State) (asn : Nat) (bm : Option (List Byte)) (path : List Nat) : List Nat :=
  let parents := if path.isEmpty then [0] else path.map s.parentOf
  (List.range 256).filter fun w =>
    w ≠ 0 && (s.ver w).open_ && !(s.ver w).foreign && !path.contains w && parents.any fun p =>
      s.parentOf w = p && (p ≠ 0 || ((s.ver w).asn = asn && inBitmap bm w))

/-- Every version in the subtrees of some roots. -/
def squashSet (s : State) (roots : List Nat) : List Nat :=
  (List.range 256).filter fun u => u ≠ 0 && (s.ver u).open_ && roots.any fun w => s.within w u

/-- One update of a sequence slot's history (R291). -/
def bumpHistory (c : Nat) (ds : Nat × Nat) (s : State) : State :=
  let e := s.dieAt ds.1
  let h := (mapGet 256 e.seqH ds.2).toNat
  s.setDie ds.1 { e with seqH := mapSet e.seqH ds.2 (BitVec.ofNat 16 ((7 * h + 256 * c + 4) / 8)) }

/-- SEQUENCE_SLOT_UPDATE: each slot once. -/
def bumpSlots (c : Nat) (slots : List (Nat × Nat)) (s : State) : State := slots.dedup.foldl (fun t x => bumpHistory c x t) s

/-- Commit a path, top first: consecutive stamps, permits back, DONEADDR counters of its grids (R74, R297, R304). -/
def commitVersion (s : State) (u : Nat) : State :=
  let x := s.ver u
  let s := returnPermit u (s.setVer u { x with st := .committed, cstamp := s.vers.nextStamp })
  let s := { s with vers := { s.vers with nextStamp := s.vers.nextStamp + 1, sweep := s.vers.sweep ++ [u] } }
  x.dones.foldl (fun t d => advanceDone x.die d.1 d.2 t) s

/-- The table step itself, by a RESOLVE issued on die `d` (R302): its counts and the state. -/
def resolveStep (d token asn v : Nat) (bm : Option (List Byte)) (s : State) : Nat × Nat × State :=
  let path := s.resolvePath v
  let roots := squashRoots s asn bm path
  let dead := squashSet s roots
  let slots := if v = 0 then roots.flatMap fun w => (s.ver w).seqs else (s.ver v).seqs
  let peers := peersOf s path
  let s := squashVersions d token dead s
  let s := path.foldl commitVersion s
  let s := bumpSlots path.length slots s
  let s := if path.isEmpty then s else sendLists d .commitMessage token path peers s
  (path.length, dead.length, s)

/-- The selected split's RESOLVE can take its table step: it need not wait, or wait for a store of its own to the bitmap. -/
def tableStepDue (s : State) : Bool :=
  match s.split.wait with
  | some (.resolve _) =>
    let b := s.split.wdata.toNat / 32 * 32
    decide (4 ≤ s.split.phase) && (match resolveWait s (s.split.phase - 4) (s.split.wdata.toNat % 32) with
      | .waits => false
      | .ends _ => true
      | .steps => b = 0 || (s.grid.firstRefused false b 32).isSome || !s.ownStoreAt 0 b 32)
  | _ => false

/-- One die, either, has taken a RESOLVE's table step; the other still holds the states that the step changed, until its
own step (R81, R252). -/
def firstDieStep (changed : List Nat) (old s : State) : State :=
  { s with fresh := s.fresh + 1, vers := { s.vers with
      lag := some (Config.choice s.fresh 2 % 2, changed.map fun u => (u, (old.ver u).st)) } }
/-- The other die takes the step too, and then comes the key-value step of the versions whose states have changed (R82). -/
def otherDieStep (s : State) : State :=
  let vs : List Nat := match s.vers.lag with
    | some (_, l) => l.map (·.1)
    | none => []
  let committed (v : Nat) : Bool := (s.ver v).st == .committed
  kvStep (vs.filter committed) (vs.filter fun v => !committed v) { s with vers := { s.vers with lag := none } }

/-- RESOLVE_TABLE_STEP: the selected split's RESOLVE reads its bitmap and steps, or ends with its status. Its result
waits in phase 3 for the other die's step and for the acknowledgements. A selection that names no waiting RESOLVE
stands for the step of the other die, which comes before another RESOLVE's step. -/
def execResolveTableStep (s : State) : Result :=
  agentStep (fun s =>
    match s.split.wait with
    | some (.resolve f) =>
      if 4 ≤ s.split.phase ∧ s.group.live then
        let g := s.group
        let v := s.split.phase - 4
        let b := s.split.wdata.toNat / 32 * 32
        let token := s.vers.nextResolve
        let done (r : Nat) (s : State) : State := blockIn (.resolve f) 3 (BitVec.ofNat 64 (r + 2 ^ 32 * token)) s
        match resolveWait s v (s.split.wdata.toNat % 32) with
        | .waits => s
        | .ends st => done (resolveResult 0 0 st) s
        | .steps =>
          let go (bm : Option (List Byte)) (s : State) : State :=
            let s := otherDieStep s
            let s := { s with vers := { s.vers with nextResolve := token + 1 } }
            let r := resolveStep (dieOf s.sel.core) token g.asn v bm s
            let path := s.resolvePath v
            done (resolveResult r.1 r.2.1 0) (firstDieStep (path ++ squashSet s (squashRoots s g.asn bm path)) s r.2.2)
          if b = 0 then go none s
          else match s.grid.firstRefused false b 32 with
            | some a => leaseFault a s
            | none =>
              if s.ownStoreAt 0 b 32 then s
              else match readVa (dieOf s.sel.core) g.asn 0 b 32 s with
                | (.ok bs, s) => go (some bs) s
                | (.error e, s) => accessFault e.1 e.2 s
      else s
    | _ => otherDieStep s) s

/-- RESOLVE_COMPLETE (R252): both dies have taken their table step, and every acknowledgement is in. -/
def resolveDone (s : State) : Bool :=
  s.split.phase = 3 && s.vers.lag.isNone && !s.vers.acks.any fun a => a.1 = s.split.wdata.toNat / 2 ^ 32

def execResolveComplete (s : State) : Result :=
  agentStep (fun s =>
    match s.split.wait with
    | some (.resolve f) =>
      if resolveDone s then
        advance 1 (s.setGroup (s.group.setS f.d.toNat (BitVec.ofNat 64 (s.split.wdata.toNat % 2 ^ 32))))
      else s
    | _ => s) s

end Sys2Proof.Machine
end

