-- ==== Sys2Proof/Machine/Place.lean ====
section
/-!
DEFINITION. The launch engine's placing of blocks (R62, R279, R287-R293, R260): leases made ready, dependences,
the choice of grid and core, and the state a block and its groups begin with (R17, R137, R257).
-/

namespace Sys2Proof.Machine

/-! ### Leases and dependences (R62, R287, R288) -/

/-- The pages that overlap a range, with whether they must be writable. -/
def Range.pages (r : Range) : List (Nat × Bool) :=
  (List.range (vpnOf (r.base + r.len - 1) - vpnOf r.base + 1)).map fun i => (vpnOf r.base + i, r.rw)

/-- Pages of a grid's lease, each once, writable where any range over it is. -/
def Grid.leasePages (g : Grid) : List (Nat × Bool) :=
  let ps := g.ranges.flatMap Range.pages
  ((ps.map (·.1)).dedup).map fun p => (p, ps.any fun q => q.1 = p && q.2)

/-- What the lease manager finds for one page. -/
inductive PageReady where
  | ready
  /-- a page in flash that is first to be copied back to HBM -/
  | flash
  /-- one whose GEN may not change now: it is held (R70), or a command is at work on it (R67) -/
  | held
  /-- one of a peer's memory: its home makes it resident (R64) -/
  | peer
  | error
deriving DecidableEq, Repr

/-- PERM as the entry holds it. -/
def pteRawPerm (e : Pte) : BitVec 2 := (e >>> 136).setWidth 2

/-- What the lease manager finds for a page. One that the package's tables do not map is a peer's, in a pod, where the pod's
numbering of the address space says so; which ranges of it are whose is the runtimes' (R64; log entry 93). -/
def pageReady (g : Grid) (s : State) (p : Nat × Bool) : PageReady :=
  match (s.walkOf g.asn p.1 none).hit with
  | .found st _ e =>
    if !(pteRawPerm e).getLsbD 0 then .error
    else if p.2 && decide (st ≥ 8) then (if pteHold e = 0 && !pteBusy e then .flash else .held)
    else if p.2 && !(pteRawPerm e).getLsbD 1 then .error else .ready
  | .none =>
    if (List.range 64).any (fun q => q != s.id.pkg.toNat && s.id.podmask.getLsbD q) && Config.peerMaps g.asn p.1 then .peer
    else .error
  | .unreadable _ => .error

/-- The first address of the lease whose page cannot be made ready, range by range. -/
def Grid.leaseGap (g : Grid) (s : State) : Option Nat :=
  (g.ranges.flatMap fun r => (r.pages.filter fun p => pageReady g s p == .error).map fun p => max (p.1 * 2 ^ 21) r.base).head?

/-- The first page that is to come back from flash. -/
def Grid.leaseFlash (g : Grid) (s : State) : Option Nat :=
  (g.leasePages.find? fun p => pageReady g s p == .flash).map (·.1)
/-- A page that is to come back is held. -/
def Grid.leaseHeld (g : Grid) (s : State) : Bool := g.leasePages.any fun p => pageReady g s p == .held

/-- The lease manager can act for a grid that has been accepted and has no lease yet; a page that comes back from flash
waits for the end of an earlier invalidation, or of the holds on it. -/
def leaseDue (s : State) (gid : Nat) : Bool :=
  let g := s.gridAt gid
  g.st == .waiting && !g.leaseReady && g.fault.isNone && !g.squashed && (mapFind s.grids gid).isSome &&
    ((g.leaseGap s).isSome || (if (g.leaseFlash s).isSome then !s.xl.busy else !g.leaseHeld s))

/-- A grid that ends before dispatch with a lease error (R287, R288). -/
def endWithLease (gid detail : Nat) (s : State) : State :=
  finishGrid gid 3 (s.setGrid gid { s.gridAt gid with leaseErr := some detail, todo := [] })

/-- A page in flash is copied back to an HBM frame that holds no page, and remapped there, writable (R62; log entry 80). A
frame that turns out to be in use, or whose tables cannot be read, is passed over. -/
def copyBack (g : Grid) (vpn : Nat) (s : State) : State :=
  let i := Config.leaseFrame s.fresh % (8 * 32768)
  let t := (i / 32768, i % 32768)
  let s := { s with fresh := s.fresh + 1 }
  match (s.walkOf g.asn vpn none).hit with
  | .found st fr e =>
    if pteV (s.pte t.1 t.2) || (s.pteBad t.1 t.2).isSome || (s.badSector (s.anchorAddr t.1 (xlHash (pteAsn e) (pteVpn e))) 4).isSome ||
        (s.readFault 0 (physOf st fr 0) (2 ^ 21)).isSome then s
    else
      let (bs, s) := readView 0 (physOf st fr 0) (2 ^ 21) s
      invalidate (fun a v => a == g.asn && v == vpn)
        (movePage st fr e ((pteRawPerm e).toNat ||| 2) t (writeView 0 (atAddr (physOf t.1 t.2 0) bs) s))
  | _ => s

/-- A step of the lease manager (R62): it ends the grid, brings one page back from flash, or makes the lease ready: PINS
of every page of its own package (R64), and LEASE where it is 0. -/
def makeLease (gid : Nat) (s : State) : State :=
  let g := s.gridAt gid
  match g.leaseGap s, g.leaseFlash s with
  | some va, _ => endWithLease gid va s
  | none, some vpn => copyBack g vpn s
  | none, none =>
    let pin (s : State) (p : Nat × Bool) : State := modPage g.die g.asn p.1 (fun e =>
      let e := pteSet e 112 16 (ptePins e + 1)
      if pteLease e = 0 then pteSet e 96 16 (Config.leaseNumber g.order).toNat else e) s
    let own := g.leasePages.filter fun p => pageReady g s p != .peer
    let s := own.foldl pin s
    s.setGrid gid { s.gridAt gid with leaseReady := true, pinned := own.map (·.1) }

/-- The word at WAITADDR, or no word; and what the read leaves. -/
def waitWord (g : Grid) (s : State) : Option Nat × State :=
  match readVa g.die g.asn 0 g.waitaddr 8 s with
  | (.ok bs, s) => (some (leNat bs), s)
  | (.error _, s) => (none, s)

/-- A poll of WAITADDR that changes something. -/
def pollDue (s : State) (gid : Nat) : Bool :=
  let g := s.gridAt gid
  g.st == .waiting && !g.waitMet && g.waitaddr != 0 && g.fault.isNone && !g.squashed &&
    (match (waitWord g s).1 with
      | some w => decide (g.waitval.toNat ≤ w)
      | none => true)

/-- WAITADDR_POLL (R288). -/
def execWaitaddrPoll (s : State) : Result :=
  agentStep (fun s =>
    let gid := s.sel.gid
    if pollDue s gid then
      match waitWord (s.gridAt gid) s with
      | (some _, s) => s.setGrid gid { s.gridAt gid with waitMet := true }
      | (none, s) => endWithLease gid (s.gridAt gid).waitaddr s
    else s) s

/-- A grid with a block that can be dispatched (R287, R288). -/
def eligible (s : State) (gid : Nat) : Bool :=
  let g := s.gridAt gid
  (g.st == .waiting || g.st == .dispatching) && !g.todo.isEmpty && g.leaseReady && g.fault.isNone && !g.squashed &&
    (g.waitaddr == 0 || g.waitMet) && (!g.truse || (s.dieAt g.die).tokenReached g.trbar g.trgen)

/-! ### Which grid places its block next (R287, R292) -/

/-- Resident blocks of a grid. -/
def State.residentBlocks (s : State) (gid : Nat) : Nat :=
  (s.cores.map fun c => (c.2.blocks.filter fun b => b.2.gid = gid && b.2.place == .resident).length).sum

/-- R292's value. -/
def seqValue (s : State) (gid : Nat) : Nat :=
  let g := s.gridAt gid
  (s.residentBlocks gid + 1) * 65536 / max (mapGet 256 (s.dieAt g.die).seqH g.seqslot).toNat 1

/-- The earliest accepted of some grids. -/
def earliest (s : State) (l : List Nat) : Option Nat :=
  l.foldl (fun b g => match b with
    | none => some g
    | some x => if (s.gridAt g).order < (s.gridAt x).order then some g else b) none

/-- The grid of a die's class that places the next block. -/
def nextGrid (s : State) (d cls : Nat) : Option Nat :=
  let l := ((s.grids.map (·.1)).filter fun g => (s.gridAt g).die = d && (s.gridAt g).cls = cls && eligible s g)
  match earliest s l with
  | none => none
  | some g =>
    if !(s.gridAt g).seqen then some g
    else
      let q := l.filter fun x => (s.gridAt x).seqen
      let best := q.foldl (fun m x => min m (seqValue s x)) (seqValue s g)
      earliest s (q.filter fun x => seqValue s x = best)

/-! ### Where a block fits (R289) -/

def Grid.groupCount (g : Grid) : Nat := (g.stages.map (·.groups)).sum
def Grid.budgetSum (g : Grid) : Nat := (g.stages.map fun x => x.groups * x.budget).sum
def Grid.queueEntries (g : Grid) : Nat := (g.queues.map fun q => q.2.cap).sum
def Grid.dieList (g : Grid) : List Nat :=
  match g.dies with
  | 0 => [g.die]
  | 1 => [0]
  | 2 => [1]
  | _ => [0, 1]

/-- Bits set in a word. -/
def popWord (w : Word) : Nat := ((List.range 32).filter fun i => w.getLsbD i).length

/-- Segments of the grids of some blocks. -/
def segmentsOf (s : State) (bs : List Block) : Nat :=
  (((bs.map (·.gid)).dedup).map fun g => popWord (s.gridAt g).segmask).sum

/-- The fused-cluster rule (R113). -/
def fuseOk (s : State) (gid k : Nat) : Bool :=
  let g := s.gridAt gid
  (s.clusterBlocks k).all fun b => b.gid = gid || (!g.fuse && !(s.gridAt b.gid).fuse)

/-- Bytes of shared memory of a core (R108). -/
def sharedMax (k : Nat) : Nat := if isOasis k then 1048576 else 262144

/-- The lowest place in shared memory at which a contiguous range fits beside ranges given by base and size (R108; log
entry 78). -/
def sharedHole (lim n : Nat) (used : List (Nat × Nat)) : Option Nat :=
  let ok (a : Nat) : Bool := decide (a + n ≤ lim) && used.all fun u => decide (a + n ≤ u.1) || decide (u.1 + u.2 ≤ a)
  ((0 :: used.map fun u => u.1 + u.2).filter ok).foldl (fun b a => match b with
    | none => some a
    | some x => some (min a x)) none

/-- Places for several ranges in turn. -/
def sharedHoles (lim : Nat) : List Nat → List (Nat × Nat) → Option (List Nat)
  | [], _ => some []
  | n :: r, used => match sharedHole lim n used with
    | none => none
    | some a => (sharedHoles lim r ((a, n) :: used)).map (a :: ·)

/-- Ranges of shared memory that blocks hold. -/
def sharedUsed (bs : List Block) : List (Nat × Nat) := (bs.filter fun b => b.sharedSize ≠ 0).map fun b => (b.sharedBase, b.sharedSize)

/-- A block of the grid fits on a core beside some blocks. -/
def fitsBeside (s : State) (gid k : Nat) (bs : List Block) : Bool :=
  let g := s.gridAt gid
  let oasis := isOasis k
  let ng := (bs.map fun b => b.groups.length).sum + g.groupCount
  decide (ng ≤ if oasis then 8 else 32) &&
    (oasis || decide ((bs.map (·.budgets)).sum + g.budgetSum ≤ 2048)) &&
    decide ((bs.map (·.sharedSize)).sum + g.sharedBytes + 128 * ng ≤ sharedMax k) &&
    (sharedHole (sharedMax k) g.sharedBytes (sharedUsed bs)).isSome &&
    ((g.slots == 0 && g.tilekib == 0) || bs.all fun b => b.slots == 0 && b.tileBytes == 0) &&
    decide ((bs.map fun b => (b.queues.map fun q => q.2.cap).sum).sum + g.queueEntries ≤ 512) &&
    decide (bs.length < 32) &&
    decide (segmentsOf s bs + (if bs.any (fun b => b.gid = gid) then 0 else popWord g.segmask) ≤ 32)

/-- Blocks of a core in some place. -/
def Core.inPlace (c : Core) (p : Residence) : List Block := (c.blocks.map (·.2)).filter fun b => b.place == p

/-- The core's kind and die are the grid's, and the core has left reset. -/
def coreSuits (s : State) (gid k : Nat) : Bool :=
  let g := s.gridAt gid
  (s.coreAt k).released && isOasis k == (g.kind == 1) && g.dieList.contains (dieOf k)

/-- A saved context that resumes next comes before a block of its own class or lower (R324). -/
def resumeFirst (c : Core) (cls : Nat) : Bool :=
  c.preemptors.isEmpty && (c.inPlace .saved).any fun b => decide (cls ≤ b.cls)

/-- The next block of a grid fits on a core. -/
def fitsOn (s : State) (gid k : Nat) : Bool :=
  let c := s.coreAt k
  coreSuits s gid k && c.incoming.isNone && (c.inPlace .shadow).isEmpty && !resumeFirst c (s.gridAt gid).cls &&
    fitsBeside s gid k (c.inPlace .resident) && fuseOk s gid k

/-- Core keys of a grid's kind and dies, lower numbers first, North before South. -/
def coreOrder (g : Grid) : List Nat :=
  let ns := if g.kind = 1 then (List.range 8).map (· + 200) else List.range 200
  ns.flatMap fun n => g.dieList.map fun d => 208 * d + n

/-- What the choice among cores minimises: the budget in use on a main core, the groups on an Oasis core. -/
def coreLoad (s : State) (k : Nat) : Nat :=
  let bs := (s.coreAt k).inPlace .resident
  if isOasis k then (bs.map fun b => b.groups.length).sum else (bs.map (·.budgets)).sum

/-- The first of the cores with the least load. -/
def leastLoaded (s : State) (l : List Nat) : Option Nat :=
  l.foldl (fun b k => match b with
    | none => some k
    | some x => if coreLoad s k < coreLoad s x then some k else b) none

/-- An eligible block of a higher class of the same engine fits on the core (R287). -/
def higherFits (s : State) (gid k : Nat) : Bool :=
  let g := s.gridAt gid
  s.grids.any fun x => x.2.die = g.die && decide (x.2.cls > g.cls) && eligible s x.1 && fitsOn s x.1 k

/-- The core that takes the next block (R289). -/
def bestCore (s : State) (gid : Nat) : Option Nat :=
  leastLoaded s ((coreOrder (s.gridAt gid)).filter fun k => fitsOn s gid k && !higherFits s gid k)

/-! ### A block and its groups begin (R17, R137, R257, R296) -/

/-- Groups in stage order: stage index, stage. -/
def Grid.groupStages (g : Grid) : List (Nat × Stage) :=
  g.stages.zipIdx.flatMap fun x => List.replicate x.1.groups (x.2, x.1)

/-- The sub-core with the fewest groups of a list, the lower on a tie (R289). -/
def freestSub (gs : List Group) : Nat :=
  let n (i : Nat) : Nat := (gs.filter fun g => g.sub = i).length
  (List.range 4).foldl (fun b i => if n i < n b then i else b) 0

/-- A group at entry. -/
def entryGroup (g : Grid) (gid key k grpin stage : Nat) (st : Stage) (sub : Nat) (place : Residence) : Group :=
  { live := true, place, gid, blk := key, stage, grpin, sub, budget := st.budget, priv := g.priv, vid := g.vid,
    asn := g.asn, s := (g.params.zipIdx.map fun p => (p.2, p.1)).filter fun p => p.2 != 0,
    d := (List.range 32).filterMap fun n => (mapFind g.recs (32 * stage + n)).map fun r => (n, r),
    trapvec := if g.hen then BitVec.ofNat 64 (g.hseg.toNat + 32768) else 0,
    splits := [(0, { st := .ready, pc := st.entry, mask := allLanes k, exec := allLanes k })], nextCre := 1 }

/-- A key the core does not use, for a group of a place: 0 to 31 first, and where there is one, none that the debugger would confuse with
another group of the same place (log entry 28). -/
def freeKey (c : Core) (place : Residence) : Nat :=
  let same := (c.groups.filter fun g => (g.2.place == .saved) == (place == .saved)).map fun g => g.1 % 32
  let unused := (List.range 128).filter fun i => (mapFind c.groups i).isNone
  ((unused.filter fun i => decide (i < 64) && !same.contains (i % 32)) ++ unused).headD 128

/-- The block's groups are added one by one. -/
def addGroups (g : Grid) (gid key k : Nat) (place : Residence) : Nat → List (Nat × Stage) → Core → List Nat × Core
  | _, [], c => ([], c)
  | n, (e, st) :: r, c =>
    let i := freeKey c place
    let x := entryGroup g gid key k n e st (freestSub ((c.groups.map (·.2)).filter fun h => h.place == place)) place
    let t := addGroups g gid key k place (n + 1) r { c with groups := mapSet c.groups i x }
    (i :: t.1, t.2)

/-- Lowest block key not in use. -/
def freeBlockKey (c : Core) : Nat := ((List.range 128).find? fun i => (mapFind c.blocks i).isNone).getD 128

/-- The block itself. -/
def entryBlock (g : Grid) (gid blk order base : Nat) (place : Residence) : Block :=
  { live := true, place, gid, blk, order, cls := g.cls, sharedSize := g.sharedBytes, sharedBase := base, slots := g.slots,
    tileBytes := 1024 * g.tilekib, queues := g.queues, cvword := mapGet g.cvdef g.cvmap blk, idem := g.idem,
    budgets := g.budgetSum, segs := g.segmask }

/-- Segments that are landed before the grid's first group on a core issues (R16, R279), or why one cannot be read. -/
def landSegments (k gid : Nat) (s : State) : Option (Nat × Nat) × State :=
  let g := s.gridAt gid
  let segs := (List.range 32).filter fun i => g.segmask.getLsbD i && !g.ovlmask.getLsbD i
  let c := s.coreAt k
  let s := s.setCore k { c with landed := mapSet c.landed gid 0, fetching := mapSet c.fetching gid 0,
                                imem := c.imem.filter fun e => e.1 / 32768 ≠ gid }
  segs.foldl (fun r i => match r with
    | (some e, t) => (some e, t)
    | (none, t) => match fetchSegment (dieOf k) g.asn g.image i t with
      | (.error e, t) => (some e, t)
      | (.ok ws, t) => (none, installSegment k gid i ws t)) (none, s)

/-- The caravan word of a block. -/
def Grid.caravanWord (g : Grid) (blk : Nat) : Word := mapGet g.cvdef g.cvmap blk
/-- Indices that a caravan word names. -/
def caravanIndices (w : Word) : List Nat :=
  ((List.range 4).map fun i => w.toNat / 2 ^ (8 * i) % 256).filter (· != 255)
/-- The launch names a caravan: its blocks are co-resident. -/
def Grid.coResident (g : Grid) : Bool :=
  !(caravanIndices g.cvdef).isEmpty || g.cvmap.any fun w => !(caravanIndices w.2).isEmpty

/-- A block has left the list of those to be dispatched, for core `k`. -/
def Grid.dispatched (g : Grid) (blk k : Nat) : Grid :=
  { g with todo := g.todo.erase blk, st := if (g.todo.erase blk).isEmpty then .running else .dispatching,
           placedAt := if g.coResident then mapSet g.placedAt blk k else g.placedAt }

/-- Blocks beside which a new one of a place stands: the residents, or none for one that comes by a swap. -/
def Core.beside (c : Core) (place : Residence) : List Block := if place == .resident then c.inPlace .resident else []

/-- Groups that become resident stop on a frozen core (R325). -/
def stopIfFrozen (k : Nat) (s : State) : State :=
  if (s.coreAt k).frozen then s.setCore k (s.coreAt k).freezeGroups else s

/-- A block is placed: its groups, its allotments cleared, its segments, and the acquire of R288. A segment that
cannot be read ends the grid. -/
def placeBlock (gid blk k : Nat) (place : Residence) (s : State) : State :=
  let g := s.gridAt gid
  let first := !(s.coreAt k).blocks.any fun b => b.2.gid = gid
  let fused := s.clusterFused k
  let s := s.setGrid gid (g.dispatched blk k)
  match (if first then landSegments k gid s else (none, s)) with
  | (some e, s) => reportFault gid { code := e.1, detail := BitVec.ofNat 64 e.2, blk, coreN := s.coreN k,
                                     lease := s.leaseFor g.asn e.1 e.2 } s
  | (none, s) =>
    let c := s.coreAt k
    let key := freeBlockKey c
    let x := addGroups g gid key k place 0 g.groupStages c
    let base := (sharedHole (sharedMax k) g.sharedBytes (sharedUsed (c.beside place))).getD 0
    let b := { entryBlock g gid blk s.nextOrder base place with groups := x.1 }
    let s := s.setCore k { x.2 with blocks := mapSet x.2.blocks key b }
    l1Acquire k g.fuse (fuseChange k fused (stopIfFrozen k { s with nextOrder := s.nextOrder + 1 }))

/-- Starts of cores of a die within the last 170 cycles (R293). -/
def recentStarts (e : Die) : List DWord := e.starts.filter fun t => (e.clk - t).toNat < 170

/-- The core begins issuing with this placement. -/
def beginsIssuing (s : State) (k : Nat) : Bool := ((s.coreAt k).inPlace .resident).isEmpty

/-- One more core of a die may begin issuing now. -/
def startRoom (s : State) (d : Nat) : Bool := decide ((recentStarts (s.dieAt d)).length < 16)

def mayStart (s : State) (k : Nat) : Bool := !beginsIssuing s k || startRoom s (dieOf k)

/-- A core of a die begins issuing. -/
def countStart (d : Nat) (s : State) : State :=
  s.setDie d { s.dieAt d with starts := (s.dieAt d).clk :: recentStarts (s.dieAt d) }

/-- A placement on a core on which no group is resident: it begins issuing, or is held until the window has moved on
(log entry 56). -/
def noteStart (k : Nat) (s : State) : State :=
  if !beginsIssuing s k then s
  else if startRoom s (dieOf k) then countStart (dieOf k) (s.setCore k { s.coreAt k with startHeld := false })
  else s.setCore k { s.coreAt k with startHeld := true }

/-- A held core with a block of the grid that may begin issuing now. -/
def heldStart (s : State) (gid : Nat) : Option Nat :=
  (s.cores.find? fun c => c.2.startHeld && (c.2.inPlace .resident).any (fun b => b.gid = gid) && startRoom s (dieOf c.1)).map (·.1)

/-! ### Caravans (R259, R260) -/

/-- Derived scope of some cores: 0 CLUSTER, 1 DIE, 2 DEVICE. -/
def caravanScope (ks : List Nat) : BitVec 2 :=
  match ks with
  | [] => 0
  | k :: r => if r.all fun j => clusterOf j = clusterOf k then 0 else if r.all fun j => dieOf j = dieOf k then 1 else 2

/-- The table of a grid whose blocks have been placed, by the core of each in BLK order; a caravan that stands already
keeps its arrivals, generation and cairn. -/
def caravanTable (g : Grid) (pkg : Nat) : Map Caravan :=
  (List.range 256).filterMap fun i =>
    let ms := g.placedAt.filter fun p => (caravanIndices (g.caravanWord p.1)).contains i
    match ms with
    | [] => none
    | m :: _ => some (i, { mapGet {} g.caravans i with
        valid := true, scope := caravanScope (ms.map (·.2)), home := 2 * pkg + dieOf m.2, members := ms.length * g.groupCount })

/-- Every block of a co-resident launch finds its core, or none is placed. -/
def placeAll (gid : Nat) : List Nat → State → Option State
  | [], s => some s
  | b :: r, s =>
    match bestCore s gid with
    | none => none
    | some k => placeAll gid r (placeBlock gid b k .resident (noteStart k s))

/-! ### Taking a core (R290, R324) -/

/-- A block's marks and save frame allow its core to be taken by a block of the grid. -/
def canTake (s : State) (gid k : Nat) : Bool :=
  let c := s.coreAt k
  let rs := c.inPlace .resident
  coreSuits s gid k && c.incoming.isNone && (c.inPlace .shadow).isEmpty && c.toSpill.isEmpty && c.toFill.isEmpty && !rs.isEmpty &&
    rs.all (fun b => decide (b.cls < (s.gridAt gid).cls)) &&
    ((c.inPlace .saved).isEmpty || rs.all (·.idem)) && !resumeFirst c (s.gridAt gid).cls &&
    fitsBeside s gid k [] &&
    (s.clusterBlocks k).all fun b => b.gid = gid || (!(s.gridAt gid).fuse && !(s.gridAt b.gid).fuse) ||
      rs.any fun r => r.gid = b.gid && r.blk = b.blk

/-- The core to take: the lowest number, North first (log entry 24). -/
def coreToTake (s : State) (gid : Nat) : Option Nat := (coreOrder (s.gridAt gid)).find? fun k => canTake s gid k

/-- Commands of one block are cancelled. -/
def cancelBlockCommands (k b : Nat) (s : State) : State :=
  let keep (m : Map (List Cmd)) : Map (List Cmd) := m.map fun q => (q.1, q.2.filter fun c => c.blk ≠ b)
  s.setCore k { s.coreAt k with eng := keep (s.coreAt k).eng, entering := keep (s.coreAt k).entering }

/-- Put a block number back in its place in BLK order. -/
def backInOrder (b : Nat) (l : List Nat) : List Nat := (l.takeWhile fun x => decide (x < b)) ++ b :: l.dropWhile fun x => decide (x < b)

/-- An idempotent block is discarded, with what its QNTs have not sent (R196), and returns to its grid (R296). -/
def discardBlock (k b : Nat) (s : State) : State :=
  let x := s.blockAt k b
  let fused := s.clusterFused k
  let s := cancelBlockCommands k b s
  let c := s.coreAt k
  let gone (r : Req) : Bool := r.blk = b && (r.kind == .load || r.st == .unsent || decide (r.space = 1) || decide (r.space = 2))
  let s := s.setCore k { c with
    groups := c.groups.filter (fun g => !x.groups.contains g.1), blocks := mapDel c.blocks b,
    reqs := c.reqs.filter (fun r => !gone r), matq := c.matq.filter (fun e => e.blk ≠ b),
    toFill := c.toFill.filter (fun r => r / 1024 ≠ b), preemptors := c.preemptors.filter (· != b) }
  let g := s.gridAt x.gid
  fuseChange k fused (s.setGrid x.gid { g with todo := backInOrder x.blk g.todo, st := .dispatching })

/-- Every resident idempotent block of a core is discarded. -/
def discardIdem (k : Nat) (s : State) : State :=
  (((s.coreAt k).blocks.filter fun b => b.2.place == .resident && b.2.idem).map (·.1)).foldl
    (fun t b => discardBlock k b t) s

/-- Every resident block of the core restarts, so that it is empty at once. -/
def restartsAll (s : State) (k : Nat) : Bool := ((s.coreAt k).inPlace .resident).all (·.idem)

/-- The block takes a core: at once where every resident block restarts, otherwise by a swap. -/
def takeCore (gid blk k : Nat) (s : State) : State :=
  if restartsAll s k then placeBlock gid blk k .resident (noteStart k (discardIdem k s))
  else
    let s := s.setGrid gid ((s.gridAt gid).dispatched blk k)
    s.setCore k { s.coreAt k with incoming := some (gid, blk) }

/-- A core whose groups were held begins issuing. -/
def releaseStart (k : Nat) (s : State) : State := countStart (dieOf k) (s.setCore k { s.coreAt k with startHeld := false })

/-- The next step of a grid at its launch engine; none: nothing can be placed now. -/
def dispatchStep (s : State) (gid : Nat) : Option State :=
  let g := s.gridAt gid
  match heldStart s gid with
  | some k => some (releaseStart k s)
  | none =>
  if leaseDue s gid then some (makeLease gid s)
  else if nextGrid s g.die g.cls ≠ some gid then none
  else if g.coResident then
    (placeAll gid g.todo s).map fun t =>
      t.setGrid gid { t.gridAt gid with caravans := caravanTable (t.gridAt gid) s.id.pkg.toNat }
  else match g.todo, bestCore s gid with
    | b :: _, some k => if mayStart s k then some (placeBlock gid b k .resident (noteStart k s)) else none
    | b :: _, none =>
      if (coreOrder g).any fun k => fitsOn s gid k then none
      else match coreToTake s gid with
        | some k => if restartsAll s k && !startRoom s (dieOf k) then none else some (takeCore gid b k s)
        | none => none
    | [], _ => none

/-- BLOCK_DISPATCH (R287-R293). -/
def execBlockDispatch (s : State) : Result := agentStep (fun s => (dispatchStep s s.sel.gid).getD s) s

/-! ### Swaps (R322-R324) -/

/-- Where the allotments of the saved blocks begin when they come back beside the blocks that remain (R108). -/
def resumeBases (c : Core) (k : Nat) : Option (List Nat) :=
  sharedHoles (sharedMax k) ((c.inPlace .saved).map (·.sharedSize)) (sharedUsed (c.inPlace .resident))

/-- The saved context fits beside the blocks that remain (R324). -/
def resumeFits (s : State) (k : Nat) : Bool :=
  let c := s.coreAt k
  let all := c.inPlace .saved ++ c.inPlace .resident
  let ng : Nat := (all.map fun b => b.groups.length).sum
  decide (ng ≤ if isOasis k then 8 else 32) && (isOasis k || decide ((all.map (·.budgets)).sum ≤ 2048)) &&
    decide ((all.map (·.sharedSize)).sum + 128 * ng ≤ sharedMax k) && (resumeBases c k).isSome &&
    decide ((all.filter fun b => b.slots != 0 || b.tileBytes != 0).length ≤ 1) &&
    decide ((all.map fun b => (b.queues.map fun q => q.2.cap).sum).sum ≤ 512) && decide (all.length ≤ 32) &&
    decide (segmentsOf s all ≤ 32)

/-- The saved context of a core can come back. -/
def resumeDue (s : State) (k : Nat) : Bool :=
  let c := s.coreAt k
  !(c.inPlace .saved).isEmpty && c.preemptors.isEmpty && c.incoming.isNone && c.toSpill.isEmpty &&
    (c.inPlace .shadow).isEmpty && resumeFits s k

/-- Blocks and groups of a core move from one place to another. -/
def moveContext (k : Nat) (a b : Residence) (s : State) : State :=
  let c := s.coreAt k
  s.setCore k { c with
    groups := c.groups.map fun g => (g.1, if g.2.place == a then { g.2 with place := b } else g.2),
    blocks := c.blocks.map fun x => (x.1, if x.2.place == a then { x.2 with place := b } else x.2) }

/-- The allotments of the saved blocks have new places. -/
def rebase (k : Nat) (s : State) : State :=
  let c := s.coreAt k
  let keys := (c.blocks.filter fun b => b.2.place == .saved).map (·.1)
  (keys.zip ((resumeBases c k).getD [])).foldl
    (fun t x => t.setBlockAt k x.1 { t.blockAt k x.1 with sharedBase := x.2 }) s

/-- The shadow bank can be filled: with a new block, or with the saved context. -/
def fillDue (s : State) (k : Nat) : Bool :=
  let c := s.coreAt k
  (c.inPlace .shadow).isEmpty && c.toSpill.isEmpty && (c.incoming.isSome || resumeDue s k)

/-- SHADOW_FILL (R322). -/
def execShadowFill (s : State) : Result :=
  agentStep (fun s =>
    let k := s.sel.core
    if fillDue s k then
      match (s.coreAt k).incoming with
      | some (gid, blk) => placeBlock gid blk k .shadow s
      | none => moveContext k .saved .shadow (rebase k s)
    else s) s

/-- An instruction that a swap reissues: its wait has no effect yet (R209, R302, R308). -/
def reissued (p : Split) : Bool :=
  p.st == .blocked && (match p.wait with
    | some (.twait _) => true
    | some (.rbatch _) => true
    | some (.rwait _) => true
    | some (.resolve _) => decide (4 ≤ p.phase)
    | _ => false)

/-- A request has not left its core: it was NACKed, or it is held there (R321). -/
def State.inCore (s : State) (k : Nat) (r : Req) : Bool :=
  r.st == .nacked || r.st == .backoff ||
    (r.st == .waiting && (!s.byteFree k r || !s.regionHere k r || !r.after.isEmpty))

/-- A log entry of a group is cancelled by a swap: a load always, an ATOM or DQOP if none of its requests has left the
core (R321). -/
def cancelled (s : State) (k gi : Nat) (e : LogEntry) : Bool :=
  (e.st == .inFlight || e.st == .replaying) &&
    (decide (e.kind ≤ 4) || ((e.kind = 5 || e.kind = 6) &&
      ((s.coreAt k).reqs.filter fun r => r.grp = gi && r.ser = e.ser).all (s.inCore k)))

/-- A cancelled request in the log: one that has been performed keeps its value, one that was NACKed its generation. -/
def Req.parkedNow (r : Req) : Req :=
  { r with st := if r.st == .performed then .performed else if r.st == .nacked || r.st == .backoff then .nacked else .waiting,
           expect := if r.st == .nacked || r.st == .backoff then r.expect else none, retries := 0 }

/-- Loads not yet returned of a group are cancelled into its log (R321, R322). -/
def cancelLoads (k gi : Nat) (s : State) : State :=
  let g := s.groupAt k gi
  let c := s.coreAt k
  let sers := (g.oplog.filter fun e => cancelled s k gi e.2).map fun e => e.2.ser
  let hit (r : Req) : Bool := r.grp = gi && sers.contains r.ser
  let back := (c.reqs.filter hit).map fun r =>
    if s.xl.awaits.contains (k, r.id) then unparked (fun _ _ => true) r.parkedNow else r.parkedNow
  let s := s.setCore k { c with reqs := c.reqs.filter fun r => !hit r }
  s.setGroupAt k gi { g with
    parked := g.parked ++ back,
    oplog := g.oplog.map fun e => (e.1, if sers.contains e.2.ser then { e.2 with st := .pending } else e.2),
    splits := g.splits.map fun e =>
      (e.1, if reissued e.2 then { e.2 with st := .ready, wait := none, phase := 0, wdata := 0 } else e.2) }

/-- Bytes of the tile store of a block: slots, reservations and FIFOs; an Oasis core has none (R109). -/
def Block.tileSpan (b : Block) (k : Nat) : Nat := if isOasis k then 0 else 64512 * b.slots + b.tileBytes + 8 * b.fifoBytes

/-- Regions of a block, in order (R323). -/
def regionsOf (k key : Nat) (b : Block) : List Nat := rangeRegions key 1 0 b.sharedSize ++ rangeRegions key 2 0 (b.tileSpan k)
def placeRegions (k : Nat) (c : Core) (p : Residence) : List Nat :=
  (c.blocks.filter fun b => b.2.place == p).flatMap fun b => regionsOf k b.1 b.2

/-- A due phase-timer trap comes before a swap (R312): some split of a resident group that may move takes it. -/
def trapFirst (c : Core) : Bool :=
  !c.frozen && c.groups.any fun g => g.2.place == .resident && !g.2.stopped && !g.2.stopReq && phaseDue g.2 &&
    (liveSlots g.2).any fun i => (g.2.split i).search.isNone

/-- SHADOW_SWAP's due: a context stands in the shadow bank, no split is inside a run (R322), no trap is due, and no SC
load of the core is on its way (log entry 67). A core without residents begins issuing with it (R293). -/
def swapReady (s : State) (k : Nat) : Bool :=
  let c := s.coreAt k
  !(c.inPlace .shadow).isEmpty && mayStart s k && !trapFirst c &&
    !c.groups.any (fun g => g.2.place == .resident && g.2.splits.any fun e => e.2.midRun) &&
    !c.reqs.any fun r => r.ord == 3 && r.kind == .load

/-- WCAGE belongs to the context (R139): a new one begins with the reset value, a saved one gets its own back. -/
def swapWcage (new : Bool) (c : Core) : Core :=
  if !new then { c with wcage := c.wcageSaved }
  else if (c.inPlace .resident).isEmpty then { c with wcage := 8 } else { c with wcageSaved := c.wcage, wcage := 8 }

/-- Groups that come in replay their loads, unless they are stopped, or stop at once on a frozen core (R321, R325, R330). -/
def replayGroups (k : Nat) (gs : List Nat) (s : State) : State :=
  gs.foldl (fun t g => if (t.groupAt k g).stopped || (t.groupAt k g).stopReq then t else replayParked k g t) s

/-- SHADOW_SWAP (R322): the residents go out, idempotent ones are discarded, and the shadow context comes in. -/
def execShadowSwap (s : State) : Result :=
  agentStep (fun s =>
    let k := s.sel.core
    if swapReady s k then
      let new := (s.coreAt k).incoming.isSome
      let fused := s.clusterFused k
      let s := noteStart k s
      let s := s.setCore k (swapWcage new (s.coreAt k))
      let s := if new then
          let s := discardIdem k s
          let out := ((s.coreAt k).groups.filter fun g => g.2.place == .resident).map (·.1)
          let s := out.foldl (fun t g => cancelLoads k g (withdrawWords k g (List.range 4) t)) s
          let s := s.setCore k { s.coreAt k with toSpill := placeRegions k (s.coreAt k) .resident }
          moveContext k .resident .saved s
        else s
      let c := s.coreAt k
      let inGroups := (c.groups.filter fun g => g.2.place == .shadow).map (·.1)
      let inBlocks := (c.blocks.filter fun b => b.2.place == .shadow).map (·.1)
      let s := s.setCore k { c with incoming := none, toFill := c.toFill ++ placeRegions k c .shadow,
                                    preemptors := if new then inBlocks else c.preemptors }
      replayGroups k inGroups (fuseChange k fused (stopIfFrozen k (moveContext k .shadow .resident s)))
    else s) s

/-- Block of a region. -/
def regionBlock (r : Nat) : Nat := r / 1024

/-- Regions that a CE0 or CE1 command writes. -/
def writtenRegions (k : Nat) (c : Cmd) (s : State) : List Nat :=
  match c.kind with
  | 1 => recRegions s c c.drec ((copyPairs c c.len).map (·.2))
  | 2 => (match gatherPairs k c s (gatherRows c) with
    | .ok l => recRegions s c c.drec (l.map (·.2))
    | .error _ => [])
  | 3 => (s.blockAt k c.blk).fifoRegions c.blk c.fifo
  | _ => []

/-- A region that can be spilled: the matrix queue has drained of the outgoing blocks, and no CE0 or CE1 command that writes
the region is still to complete (R196, R323). -/
def spillable (s : State) (k r : Nat) : Bool :=
  !(s.coreAt k).matq.any (fun e => (s.blockAt k e.blk).place == .saved) &&
    !(s.engQueue k 0 ++ s.engQueue k 1).any fun m => m.blk = regionBlock r && (writtenRegions k m s).contains r

/-- REGION_SPILL (R323): the region leaves its place. -/
def execRegionSpill (s : State) : Result :=
  agentStep (fun s =>
    let c := s.core
    match c.toSpill.find? (spillable s s.sel.core) with
    | some r => s.setCore s.sel.core { c with toSpill := c.toSpill.erase r }
    | none => s) s

/-- Regions that lane accesses, engine commands and matrix instructions of a core wait for (R323). -/
def waitedRegions (s : State) (k : Nat) : List Nat :=
  let c := s.coreAt k
  ((c.reqs.filter fun q => q.st == .waiting && (decide (q.space = 1) || decide (q.space = 2))).map fun q =>
    regionOf q.blk q.space (128 * q.line)) ++
  ((List.range 3).flatMap fun q => match nextCommand s k q with
    | some m => commandRegions k m s
    | none => []) ++
  (c.matq.take 1).flatMap (fun e => entryRegions (s.blockAt k e.blk) e) ++
  c.groups.flatMap fun g => if g.2.place == .resident then
    g.2.splits.flatMap fun p => matWaitRegions g.2 (s.blockAt k g.2.blk) p.2 else []

/-- First and last 4 KiB of the core's shared memory, from 0, or of its tile store, from 256, that a region lies in. -/
def regionSpan (c : Core) (r : Nat) : Nat × Nat :=
  let b := mapGet {} c.blocks (regionBlock r)
  let i := r % 1024
  if i < 256 then ((b.sharedBase + 4096 * i) / 4096, (b.sharedBase + min (4096 * (i + 1)) b.sharedSize - 1) / 4096) else (i, i)

/-- The region filled next: one that an access waits for, else the one at the lowest place of the core (R323). -/
def nextFill (s : State) (k : Nat) : Option Nat :=
  let c := s.coreAt k
  match c.toFill.find? (waitedRegions s k).contains with
  | some r => some r
  | none => c.toFill.foldl (fun b r => match b with
    | none => some r
    | some x => if (regionSpan c r).1 < (regionSpan c x).1 then some r else b) none

/-- Two regions lie at a common place. -/
def samePlace (c : Core) (r q : Nat) : Bool :=
  decide ((regionSpan c r).1 ≤ (regionSpan c q).2) && decide ((regionSpan c q).1 ≤ (regionSpan c r).2)

/-- The region filled next, once the outgoing regions at its place have been spilled. -/
def fillReady (s : State) (k : Nat) : Option Nat :=
  match nextFill s k with
  | some r => if (s.coreAt k).toSpill.any (samePlace (s.coreAt k) r) then none else some r
  | none => none

/-- REGION_FILL (R323): its region-ready bit is set. -/
def execRegionFill (s : State) : Result :=
  agentStep (fun s => match fillReady s s.sel.core with
    | some r => s.setCore s.sel.core { s.core with toFill := s.core.toFill.erase r }
    | none => s) s

end Sys2Proof.Machine
end

