-- ==== Sys2Proof/Machine/Fabric.lean ====
section
/-!
DEFINITION. The home side of the fabric (R208, R210, R211, R242-R247): when an arriving message may be applied, what
a die then knows, writes, loads and atomics of other packages, batch summaries, commit and squash messages, replies
and announcements.
-/

namespace Sys2Proof.Machine

/-! ### Causal delivery (R243-R247) -/

/-- At or after, mod 2^32 (R243). -/
def atOrAfter32 (a b : Word) : Bool := a == b || later32 a b
/-- The later of two clock values. -/
def laterOf (a b : Word) : Word := if later32 b a then b else a
/-- Entry-wise later of a vector and some entries. -/
def mergeClock (c : Map Word) (l : List (Nat × Word)) : Map Word :=
  l.foldl (fun m x => mapSet m x.1 (laterOf (mapGet 0 m x.1) x.2)) c

/-- Dependencies accumulated on the channel of a message, its own included. -/
def accumulated (e : Die) (m : Msg) : Map Word := mergeClock (mapGet [] e.chanDeps m.origin) m.deps

/-- A message of a standard-mode link: it has no place in causal order (R250). -/
def stdMsg (m : Msg) : Bool := m.seq == 0 && m.prev == 0 && m.deps.isEmpty

/-- Every earlier message of the channel has been applied. -/
def prevApplied (e : Die) (m : Msg) : Bool :=
  match mapFind e.lastFrom m.origin with
  | some l => m.prev == l
  | none => m.prev == m.seq

/-- Every dependency is covered on both dies. A package whose PODMASK bit is clear has no part in the clocks (R334). -/
def depsMet (s : State) (d : Nat) (m : Msg) : Bool :=
  (accumulated (s.dieAt d) m).all fun x =>
    x.1 == m.origin || x.1 / 2 == s.id.pkg.toNat || !s.id.podmask.getLsbD (x.1 / 2) ||
      (atOrAfter32 (mapGet 0 s.north.applied x.1) x.2 && atOrAfter32 (mapGet 0 s.south.applied x.1) x.2)

/-- An SC message waits for the horizon, and for lower stamps at its slice or on their way to it (R238). -/
def scMsgDue (s : State) (m : Msg) : Bool :=
  m.ord != 3 || (scMsgReady s m && !lowerNacked s m.asn (vpnOf m.va) m.stamp &&
    (match s.msgSlice m with
      | none => true
      | some sl => !lowerAtSlice s sl m.stamp))

/-- A message of the same die that left it earlier is on its way to the other die of this package, or held there. -/
def earlierAtSibling (s : State) (d : Nat) (m : Msg) : Bool :=
  let before (x : Msg) : Bool := x.origin == m.origin && x.dest == 2 * s.id.pkg.toNat + (1 - d) && !stdMsg x && later32 m.seq x.seq
  (s.dieAt (1 - d)).held.any (fun x => before x.2) || s.inputs.any fun x => x.2.1.idx == 0 && before x.2.2.msg

/-- R245's conditions, and the order of R248 between two messages of one die for the two dies of this package, which they
alone do not give (DEDUCED, log entry 87). -/
def msgDue (s : State) (d : Nat) (m : Msg) : Bool :=
  (stdMsg m || (prevApplied (s.dieAt d) m && depsMet s d m && !earlierAtSibling s d m)) && scMsgDue s m

/-- An announcement that waited for a message takes effect (R247). -/
def settleAnnounces (src : Nat) (e : Die) : Die :=
  let last := mapFind e.lastFrom src
  let hit (a : Nat × Word × Option Word) : Bool := a.1 = src && (match a.2.2, last with
    | none, _ => true
    | some l, some x => atOrAfter32 x l
    | some _, none => false)
  { e with applied := (e.announces.filter hit).foldl (fun m a => mapSet m src (laterOf (mapGet 0 m src) a.2.1)) e.applied,
           announces := e.announces.filter fun a => !hit a }

/-- What the dies know after a message has been applied (R245): of a package whose PODMASK bit is clear only its channel's
place, and no entry of a clock (R334). -/
def noteApplied (d : Nat) (m : Msg) (s : State) : State :=
  if stdMsg m then s
  else
    let e := s.dieAt d
    let inPod (x : Nat × Word) : Bool := s.id.podmask.getLsbD (x.1 / 2)
    let acc := (accumulated e m).filter inPod
    let e := { e with lastFrom := mapSet e.lastFrom m.origin m.seq, chanDeps := mapSet e.chanDeps m.origin acc }
    let e := if inPod (m.origin, m.seq) then settleAnnounces m.origin { e with
        applied := mapSet e.applied m.origin (laterOf (mapGet 0 e.applied m.origin) m.seq) } else e
    let know (x : Die) : Die := { x with known := mergeClock x.known (((m.origin, m.seq) :: acc).filter inPod) }
    let s := s.setDie d e
    { s with north := know s.north, south := know s.south }

/-- A message goes on from a relay of this package: on the path it names, through the die that serves its plane (R214). -/
def passOn (kind : Instr) (m : Msg) (s : State) : State :=
  let d := s.planeOf m.va / 2
  s.setDie d { s.dieAt d with egress := (s.dieAt d).egress ++ [(kind, m)] }

/-- A message arrives (selection 0, the argument's message) or, held before, is applied (selection n + 1); one for another
package goes on. An effect that cannot be performed yet gives the message back, to be held. -/
def receiveOr (kind : Instr) (eff : Nat → Msg → State → State × Option Msg) (s : State) : Result :=
  fromOutside (fun s =>
    let apply (d : Nat) (m : Msg) (hold : Msg → State → State) (s : State) : State :=
      match eff d m s with
      | (s, none) => noteApplied d m s
      | (s, some m) => hold m s
    if s.sel.idx = 0 then
      let m := s.arg.msg
      let d := m.dest % 2
      let hold (m : Msg) (s : State) : State := s.setDie d { s.dieAt d with held := (s.dieAt d).held ++ [(kind, m)] }
      if m.dest / 2 ≠ s.id.pkg.toNat then passOn kind m s
      else if msgDue s d m then apply d m hold s
      else hold m s
    else
      let d := s.sel.die
      let i := s.sel.idx - 1
      match (s.dieAt d).held[i]? with
      | some (x, m) =>
        if x = kind ∧ msgDue s d m then
          let hold (m : Msg) (s : State) : State :=
            s.setDie d { s.dieAt d with held := (s.dieAt d).held.insertIdx i (kind, m) }
          apply d m hold (s.setDie d { s.dieAt d with held := (s.dieAt d).held.eraseIdx i })
        else s
      | none => s) s

/-- The same for an effect that is always performed. -/
def receive (kind : Instr) (eff : Nat → Msg → State → State) (s : State) : Result :=
  receiveOr kind (fun d m s => (eff d m s, none)) s

/-- A held message that can be applied now. -/
def heldDue (s : State) (d i : Nat) : Bool :=
  match (s.dieAt d).held[i]? with
  | some x => msgDue s d x.2
  | none => false

/-- A message leaves in answer to another: on a standard-mode link it carries no place in causal order. -/
def replyTo (d : Nat) (kind : Instr) (m r : Msg) (s : State) : State :=
  let r := { r with dest := m.origin, srcGrp := m.srcGrp, req := m.req, tag := m.tag, ord := m.ord, ack := m.ack }
  if stdMsg m then
    s.setDie d { s.dieAt d with egress := (s.dieAt d).egress ++ [(kind, { r with origin := s.iota d })] }
  else sendMsg d kind r s

/-! ### Foreign versions (R210, R211) -/

/-- The foreign entry of a package's version. -/
def State.foreignOf (s : State) (pkg v : Nat) : Option Nat :=
  (List.range 256).find? fun u => u ≠ 0 && (s.ver u).foreign && (s.ver u).origin = pkg && (s.ver u).ovid = v &&
    (s.ver u).st != .free

/-- Create the entries that a chain lacks, oldest first; none: there is no free entry. A committed ancestor counts as
committed state (R210). -/
def makeForeign (pkg asn : Nat) : List Nat → State → Option (Nat × State)
  | [], s => some (0, s)
  | v :: older, s =>
    match s.foreignOf pkg v with
    | some u => some (if (s.ver u).st == .committed then 0 else u, s)
    | none => match makeForeign pkg asn older s with
      | none => none
      | some (p, s) => match s.freeVids with
        | [] => none
        | vs =>
          let u := vs.getD (Config.freeVid s.fresh vs.length % vs.length) 1
          let x : Version := { st := .live, parent := p, depth := if p = 0 then 1 else (s.ver p).depth + 1, foreign := true,
                               origin := pkg, ovid := v, asn, spawnseq := s.vers.nextSeq }
          let s := { s with fresh := s.fresh + 1, vers := { s.vers with nextSeq := s.vers.nextSeq + 1 } }
          some (u, s.setVer u x)

/-- How a message's version is served: under a local VID; not, because the home lacks an entry for it; or not any more,
because it has been squashed (R211). -/
inductive Served where
  | at_ (v : Nat)
  | lacks
  | dropped
deriving DecidableEq, Repr

/-- A message is of a version that has been squashed here, and not of a later one under its VID: that one's messages are
causally after the acknowledgement of the squash (R246, R252; log entry 23). -/
def endedHere (d : Nat) (m : Msg) (s : State) : Bool :=
  match (s.vers.ended.find? fun e => e.1 = (m.origin / 2, m.vid)).map (·.2) with
  | none => false
  | some none => m.chain.isEmpty
  | some (some a) => !atOrAfter32 (mapGet 0 (accumulated (s.dieAt d) m) a.1) a.2

/-- The version that serves a message. A first message, which carries the chain, makes the entries it needs; the lack of
one is remembered until the version ends, and so is that of a version below one that is lacking. A later message of a
version that has no entry and is not remembered begins one below committed state (log entry 23). -/
def serveVid (d : Nat) (m : Msg) (s : State) : Served × State :=
  let x := (m.origin / 2, m.vid)
  if m.vid = 0 then (.at_ 0, s)
  else match s.foreignOf x.1 x.2 with
    | some u =>
      (match (s.ver u).st with
        | .committed => .at_ 0
        | .squashed => .dropped
        | _ => .at_ u, s)
    | none =>
      let lack (s : State) : Served × State := (.lacks, { s with vers := { s.vers with lacking := x :: s.vers.lacking } })
      if endedHere d m s then (.dropped, s)
      else if s.vers.lacking.contains x then (.lacks, s)
      else
        let s := { s with vers := { s.vers with ended := s.vers.ended.filter (·.1 != x) } }
        if m.chain.any fun v => s.vers.lacking.contains (x.1, v) then lack s
        else match makeForeign x.1 m.asn (if m.chain.isEmpty then [m.vid] else m.chain) s with
        | some (u, s) => (.at_ u, s)
        | none => lack s

/-! ### Translation at the home (R57, R60, R208) -/

/-- What the home's translation of a message's pages gives: the pages; the message, to be tried again; or a page that the
sixteenth retry did not find. -/
inductive HomePages where
  | ok (l : Map Xlated)
  | again (m : Msg)
  | gone (gen : BitVec 16)

/-- Translate a page at a die: its TLB, then a walk; after a NACK, a fresh walk that expects a generation. -/
def dieXlate (d asn vpn : Nat) (expect : Option (BitVec 16)) (s : State) : Xlated × State :=
  match (if expect.isNone then tlbFind (s.dieAt d).tlb asn vpn else none) with
  | some e => (.ok e, s)
  | none => match walk d asn vpn expect s with
    | (.found st fr e, t) =>
      let x : TlbEntry := { asn, vpn, stack := st, frame := fr, perm := ptePerm st e, gen := pteGen e }
      (.ok x, t.setDie d { t.dieAt d with tlb := tlbPut 16384 (t.dieAt d).tlb x })
    | (.none, t) => (.none, t)
    | (.unreadable pa, t) => (.unreadable pa, t)

def dieXlates (d : Nat) (m : Msg) : List Nat → State → Map Xlated × State
  | [], s => ([], s)
  | p :: ps, s =>
    let r := dieXlate d m.asn p (mapFind m.expects p) s
    let t := dieXlates d m ps r.2
    (mapSet t.1 p r.1, t.2)

/-- The pages of a message. A page whose generation has changed is NACKed: the die drops its translation, and the message
is tried again through a walk that expects the new one. -/
def homePages (d : Nat) (m : Msg) (vpns : List Nat) (s : State) : HomePages × State :=
  let (l, s) := dieXlates d m vpns.dedup s
  let stale := l.filterMap fun x => match x.2 with
    | .ok e => (s.staleGen (physOf e.stack e.frame 0) e.gen).map fun g => (x.1, g)
    | _ => none
  if stale.isEmpty then
    match l.findSome? fun x => if x.2 = .none then mapFind m.expects x.1 else none with
    | none => (.ok l, s)
    | some g => if m.retries ≥ 16 then (.gone g, s) else (.again { m with retries := m.retries + 1 }, s)
  else
    (.again { m with expects := stale.foldl (fun e x => mapSet e x.1 x.2) m.expects, retries := 0 },
     stale.foldl (fun t x => t.setDie d { t.dieAt d with tlb := tlbDrop (t.dieAt d).tlb m.asn x.1 }) s)

/-- Physical places of some bytes. -/
def physBytes (pages : Map Xlated) (bs : List (Nat × Byte)) : List (Nat × Byte) :=
  bs.filterMap fun b => match mapFind pages (vpnOf b.1) with
    | some (.ok e) => some (physOf e.stack e.frame b.1, b.2)
    | _ => none

/-! ### Writes (R208, R211) -/

/-- What stands against writing some bytes in a version: the error bits. -/
def writeErrs (v : Nat) (bs : List (Nat × Byte)) (pages : Map Xlated) (s : State) : BitVec 8 :=
  let bad (p : Nat × Xlated) : BitVec 8 := match p.2 with
    | .ok e => if permOk e.perm false true then 0 else 1
    | .unreadable _ => 2
    | .none => 1
  let lines := ((physBytes pages bs).map fun b => lineOf b.1).dedup
  pages.foldl (fun e p => e ||| bad p)
    (if lines.any fun l => (s.storeFault v l).isSome then 2 else if s.roomLines v 0 lines then 0 else 4)

/-- Add to the counts of a source group and tag, or of one of its commands. -/
def countWrite (pkg grp : Nat) (tag : BitVec 2) (req : Nat) (errs : BitVec 8) (s : State) : State :=
  let same (r : CountRow) : Bool := r.pkg = pkg && r.grp = grp && r.tag = tag && r.req = req
  let old := (s.counted.find? same).getD { pkg, grp, tag, req }
  { s with counted := { old with count := old.count + 1, errs := old.errs ||| errs } :: s.counted.filter fun r => !same r }

/-- A write has been performed or refused at its home: it is counted and acknowledged. Role 0 answers an SC store, 2
completes a write of a standard-mode link, 4 only acknowledges. -/
def answerWrite (d : Nat) (m : Msg) (errs : BitVec 8) (s : State) : State :=
  let pkg := m.origin / 2
  let s := countWrite pkg m.srcGrp m.tag 0 errs s
  let s := if ofCommand m then countWrite pkg m.srcGrp m.tag m.req errs s else s
  replyTo d .remoteReply m { role := if stdMsg m then 2 else if m.ord = 3 then 0 else 4, errs } s

/-- A write at its home: each of its pages translated once, then performed whole or refused. -/
def effRemoteWrite (d : Nat) (m : Msg) (s : State) : State × Option Msg :=
  match serveVid d m s with
  | (.lacks, s) => (answerWrite d m 4 s, none)
  | (.dropped, s) => (answerWrite d m 8 s, none)
  | (.at_ v, s) => match homePages d m (m.bytes.map fun b => vpnOf b.1) s with
    | (.again m, s) => (s, some m)
    | (.gone _, s) => (answerWrite d m 16 s, none)
    | (.ok pages, s) =>
      let errs := writeErrs v m.bytes pages s
      (answerWrite d m errs (if errs ≠ 0 then s else writeView v (physBytes pages m.bytes) s), none)

/-- REMOTE_WRITE (R245, R208). -/
def execRemoteWrite (s : State) : Result := receiveOr .remoteWrite effRemoteWrite s

/-! ### Loads and atomics (R126, R218) -/

/-- An access is refused: the error bits, the sector that could not be read, the generation its walks expected. -/
def refuseAccess (d : Nat) (m : Msg) (errs : BitVec 8) (pa : Nat) (gen : BitVec 16) (s : State) : State × Option Msg :=
  (replyTo d .remoteReply m { errs, count := pa, expects := [(vpnOf m.va, gen)] } s, none)

/-- Go on with an access to one line, at the place where its line lies, or refuse it. -/
def atHome (d : Nat) (m : Msg) (write : Bool) (f : Nat → State → State × Option Msg) (s : State) : State × Option Msg :=
  match homePages d m [vpnOf m.va] s with
  | (.again m, s) => (s, some m)
  | (.gone g, s) => refuseAccess d m 1 0 g s
  | (.ok pages, s) => match mapFind pages (vpnOf m.va) with
    | some (.ok e) => if permOk e.perm true write then f (lineOf (physOf e.stack e.frame m.va)) s else refuseAccess d m 1 0 0 s
    | some (.unreadable b) => refuseAccess d m 2 b 0 s
    | _ => refuseAccess d m 1 0 0 s

/-- Sectors that some addresses of a line lie in. -/
def sectorSet (as : List Nat) : BitVec 4 := as.foldl (fun x a => x ||| BitVec.ofNat 4 (2 ^ (a % 128 / 32))) 0

/-- A load is performed and answered; a version that the home lacks reads committed state (R211). -/
def effRemoteLoad (d : Nat) (m : Msg) (s : State) : State × Option Msg :=
  let load (v : Nat) (s : State) : State × Option Msg := atHome d m false (fun l s =>
    let need := sectorSet (m.bytes.map (·.1))
    match s.lineFault v l need with
    | some b => refuseAccess d m 2 b 0 s
    | none =>
      let s := noteLine v l need 0 (settle l s)
      (replyTo d .remoteReply m { bytes := m.bytes.map fun b => (b.1, s.viewByte v (128 * l + b.1 % 128)) } s, none)) s
  match serveVid d m s with
  | (.dropped, s) => (replyTo d .remoteReply m { bytes := m.bytes.map fun b => (b.1, 0) } s, none)
  | (.lacks, s) => load 0 s
  | (.at_ v, s) => load v s
def execRemoteLoad (s : State) : Result := receiveOr .remoteLoad effRemoteLoad s

/-- One lane of an atomic at the home: its old word joins the answers. -/
def homeAtom (v line func : Nat) (writes : Bool) (x : RemoteOp) (t : List RemoteOp × State) : List RemoteOp × State :=
  let a := 128 * line + x.va % 128
  let old := BitVec.ofNat 32 (leNat (t.2.viewBytes v a 4))
  let s := match atomWord func old x.x x.y with
    | some w => if writes then writeNat v a 4 w.toNat t.2 else t.2
    | none => t.2
  (t.1 ++ [{ x with x := old }], s)

/-- An atomic is performed, lanes in increasing order, and answered. A version that the home lacks, or has no room for,
reads and writes nothing (log entry 23). -/
def effRemoteAtomic (d : Nat) (m : Msg) (s : State) : State × Option Msg :=
  let atom (v : Nat) (held : Bool) (s : State) : State × Option Msg := atHome d m true (fun l s =>
    let need := sectorSet (m.ops.map (·.va))
    match (if v = 0 then s.lineFault 0 l need else s.storeFault v l) with
    | some b => refuseAccess d m 2 b 0 s
    | none =>
      let s := noteLine v l need 0 (settle l (noteAtomic m.origin (128 * l) s))
      let ok := held && s.storeRoom l v 0 == .ready
      let s := { s with remoteAtoms := s.sliceKey l :: s.remoteAtoms }
      let r := m.ops.foldl (fun t x => homeAtom v l m.func ok x t) ([], s)
      (replyTo d .remoteReply m { ops := r.1 } r.2, none)) s
  match serveVid d m s with
  | (.dropped, s) => (replyTo d .remoteReply m { ops := m.ops.map fun x => { x with x := 0 } } s, none)
  | (.lacks, s) => atom 0 false s
  | (.at_ v, s) => atom v true s
def execRemoteAtomic (s : State) : Result := receiveOr .remoteAtomic effRemoteAtomic s

/-! ### Replies (R126, R213, R246) -/

/-- The group a message of this package came from still stands. -/
def groupStands (s : State) (k g : Nat) : Bool := (mapFind (s.coreAt k).groups g).isSome

/-- A command has one answer fewer to wait for. -/
def answerCommand (k id : Nat) (errs : BitVec 8) (s : State) : State :=
  modCmd k 2 id (fun c => { c with owed := c.owed - 1, remoteErr := c.remoteErr || (errs &&& 0xF7) != 0 }) s

/-- A load, atomic or SC store has its answer. -/
def answerRequest (k : Nat) (r : Req) (m : Msg) (s : State) : State :=
  if r.kind == .store then performed k r s
  else if m.errs.getLsbD 0 then requestFault k r 0x10 r.firstAddr (((m.expects.head?).map (·.2)).getD 0) s
  else if m.errs.getLsbD 1 then requestFault k r 0x14 m.count 0 s
  else
    let value (x : ReqLane) : List Word := match r.kind with
      | .load => loadWords ((x.size + 3) / 4) ((List.range x.size).map fun i => mapGet 0 m.bytes (x.addr + i))
      | _ => [((m.ops.find? fun o => o.lane = x.lane).map (·.x)).getD 0]
    performed k r (r.lanes.foldl (fun t x => modLog k r (fun e => e.land x.lane (value x)) t) s)

/-- A completion lets the next access leave on a standard-mode link: loads and atomics up to the next write. -/
def drainStd (d port : Nat) : Nat → State → State
  | 0, s => s
  | n + 1, s =>
    let e := s.dieAt d
    match e.stdQueue.find? fun x => s.msgPort x.2 = port with
    | none => s
    | some x =>
      let e := { e with stdQueue := e.stdQueue.erase x, egress := e.egress ++ [x] }
      if x.1 = .remoteWrite then s.setDie d { e with stdOwed := port :: e.stdOwed }
      else drainStd d port n (s.setDie d e)

/-- A write of a standard-mode link is answered or lost: the next access may leave by the link, and its tag waits for one
completion fewer. -/
def stdEnded (d : Nat) (tag : BitVec 2) (o : OutReq) (s : State) : State :=
  let port := pathPort o.path o.plane s.id.pkg.toNat o.peer
  let s := s.setDie d { s.dieAt d with stdOwed := (s.dieAt d).stdOwed.erase port }
  let s := drainStd d port (s.dieAt d).stdQueue.length s
  if groupStands s o.core o.grp then settleTag o.core o.grp tag (modTag o.core o.grp tag (fun r => { r with std := r.std - 1 }) s)
  else s

/-- The completion of one write on the standard-mode link it left by (R213, R250). -/
def stdCompletion (d : Nat) (m : Msg) (s : State) : State :=
  let k := m.srcGrp / 256
  let g := m.srcGrp % 256
  let peer := m.origin / 2
  let s := if groupStands s k g then modTag k g m.tag (fun r =>
      { r with errs := r.errs ||| m.errs,
               errPeers := if m.errs ≠ 0 then r.errPeers ||| BitVec.ofNat 64 (2 ^ peer) else r.errPeers }) s
    else s
  let s := match (s.dieAt d).out.find? fun o => o.core = k && o.ack = m.ack with
    | some o => stdEnded d m.tag o s
    | none => s
  if ofCommand m then answerCommand k (m.req - 1) m.errs s else s

/-- Requests that still wait for a peer. -/
def remoteReq (s : State) (k id : Nat) : Option Req := (s.coreAt k).reqs.find? fun r => r.id = id && r.st == .remote

/-- A reply reaches its source, and acknowledges its request: role 0 an access, 2 a standard-mode write, 4 a write, which
completes it where its source counts it so; role 3 a commit or squash message. -/
def effRemoteReply (d : Nat) (m : Msg) (s : State) : State :=
  let k := m.srcGrp / 256
  let access (s : State) : State := match remoteReq s k m.req with
    | some r => answerRequest k r m s
    | none => s
  let counted (s : State) : State := match (s.dieAt d).out.find? fun o => o.core = k && o.ack = m.ack with
    | some o => if o.std then stdCompletion d m s else s
    | none => s
  if m.role = 3 then { s with vers := { s.vers with acks := s.vers.acks.erase (m.req, m.origin / 2) } }
  else retireCore k (takeAck k m.ack (counted (if m.role = 0 ∨ m.ord = 3 then access s else s)))
def execRemoteReply (s : State) : Result := receive .remoteReply effRemoteReply s

/-- DEPENDENCY_ONLY_MESSAGE (R243): only its dependencies. -/
def execDependencyOnlyMessage (s : State) : Result := receive .dependencyOnlyMessage (fun _ _ s => s) s

/-! ### Summaries (R208, R209) -/

/-- A close notice for one plane; with the last one the summary leaves. -/
def effCloseNotice (d : Nat) (m : Msg) (s : State) : State :=
  let pkg := m.origin / 2
  let same (r : CountRow) : Bool := r.pkg = pkg && r.grp = m.srcGrp && r.tag = m.tag && r.req = m.req
  let old := (s.counted.find? same).getD { pkg, grp := m.srcGrp, tag := m.tag, req := m.req }
  let new := { old with closed := old.closed ||| 2 ^ m.role }
  let rest := s.counted.filter fun r => !same r
  if new.closed = m.count then
    replyTo d .batchSummary m { count := new.count, errs := new.errs } { s with counted := rest }
  else { s with counted := new :: rest }
def execCloseNotice (s : State) : Result := receive .closeNotice effCloseNotice s

/-- A summary reaches its group, or its command (R208, R209). -/
def effBatchSummary (_d : Nat) (m : Msg) (s : State) : State :=
  let k := m.srcGrp / 256
  let g := m.srcGrp % 256
  let peer := m.origin / 2
  if m.req ≠ 0 then retireCore k (answerCommand k (m.req - 1) m.errs s)
  else if groupStands s k g then
    retireCore k (settleTag k g m.tag (modTag k g m.tag (fun r =>
      { r with owed := r.owed.erase peer, errs := r.errs ||| m.errs,
               errPeers := if m.errs ≠ 0 then r.errPeers ||| BitVec.ofNat 64 (2 ^ peer) else r.errPeers }) s))
  else s
def execBatchSummary (s : State) : Result := receive .batchSummary effBatchSummary s

/-! ### Commit and squash messages (R211, R252) -/

/-- The foreign entries a message lists, in its order. -/
def listedEntries (m : Msg) (s : State) : List Nat := m.vids.filterMap fun v => s.foreignOf (m.origin / 2) v

/-- An entry is committed with the next stamp. -/
def commitForeign (s : State) (u : Nat) : State :=
  if (s.ver u).open_ then
    let s := s.setVer u { s.ver u with st := .committed, cstamp := s.vers.nextStamp }
    { s with vers := { s.vers with nextStamp := s.vers.nextStamp + 1, sweep := s.vers.sweep ++ [u] } }
  else s
def squashForeign (s : State) (u : Nat) : State :=
  if (s.ver u).open_ then
    let s := s.setVer u { s.ver u with st := .squashed }
    { s with vers := { s.vers with sweep := s.vers.sweep ++ [u] } }
  else s

/-- The acknowledgement that RESOLVE waits for. -/
def acknowledge (d : Nat) (m : Msg) (s : State) : State := replyTo d .remoteReply m { role := 3 } s

/-- The listed versions have ended: no lack of theirs is remembered any more (R211). -/
def forgetListed (m : Msg) (s : State) : State :=
  { s with vers := { s.vers with lacking := s.vers.lacking.filter fun x => !(m.vids.map fun v => (m.origin / 2, v)).contains x } }

/-- Squashed versions stay known as such, with the σ of the acknowledgement that has just left (R252). -/
def noteEnded (d : Nat) (m : Msg) (s : State) : State :=
  let xs := m.vids.map fun v => (m.origin / 2, v)
  let ack := if stdMsg m then none else some (s.iota d, (s.dieAt d).sigma)
  { s with vers := { s.vers with ended := xs.map (fun x => (x, ack)) ++ s.vers.ended.filter fun e => !xs.contains e.1 } }

def execCommitMessage (s : State) : Result :=
  receive .commitMessage (fun d m s => acknowledge d m (forgetListed m ((listedEntries m s).foldl commitForeign s))) s
def execSquashMessage (s : State) : Result :=
  receive .squashMessage (fun d m s => noteEnded d m (acknowledge d m (forgetListed m ((listedEntries m s).foldl squashForeign s)))) s

/-! ### Announcements of the clocks (R247) -/

/-- Dies of the other packages of the pod. -/
def State.farDies (s : State) : List Nat :=
  (List.range 128).filter fun i => i / 2 ≠ s.id.pkg.toNat && s.id.podmask.getLsbD (i / 2)

def announceDue (s : State) (d : Nat) : Bool := decide (((s.dieAt d).clk - (s.dieAt d).lastAnnounce).toNat ≥ 64)

/-- SEQUENCE_ANNOUNCE: the pair (Σ, L) leaves for every die of the pod; `count` 1 says that L is some message. The sibling
die, to which no messages go, takes Σ at once. -/
def execSequenceAnnounce (s : State) : Result :=
  agentStep (fun s =>
    let d := s.sel.die
    if announceDue s d then
      let e := s.dieAt d
      let out := s.farDies.map fun i => (Instr.sequenceAnnounceReceive,
        ({ origin := s.iota d, dest := i, seq := e.sigma, prev := mapGet 0 e.lastTo i,
           count := if (mapFind e.lastTo i).isSome then 1 else 0 } : Msg))
      let s := s.setDie d { e with lastAnnounce := e.clk, egress := e.egress ++ out }
      let x := s.dieAt (1 - d)
      s.setDie (1 - d) { x with applied := mapSet x.applied (s.iota d) (laterOf (mapGet 0 x.applied (s.iota d)) e.sigma) }
    else s) s

/-- SEQUENCE_ANNOUNCE_RECEIVE: APPLIED advances now, or once message L has been applied. A package whose PODMASK bit is clear
is not heard (R334). -/
def execSequenceAnnounceReceive (s : State) : Result :=
  fromOutside (fun s =>
    let m := s.arg.msg
    let d := m.dest % 2
    if m.dest / 2 ≠ s.id.pkg.toNat ∨ !s.id.podmask.getLsbD (m.origin / 2) then s
    else
      let e := s.dieAt d
      let l := if m.count = 0 then none else some m.prev
      s.setDie d (settleAnnounces m.origin { e with announces := e.announces ++ [(m.origin, m.seq, l)] })) s

/-! ### Contention (R217) -/

def decayDue (s : State) (d : Nat) : Bool := decide (((s.dieAt d).clk - (s.dieAt d).lastDecay).toNat ≥ 8500)

/-- CONTENTION_DECAY: every 10 µs the counters are halved; a page below 8 returns to home mode. -/
def execContentionDecay (s : State) : Result :=
  agentStep (fun s =>
    let d := s.sel.die
    if decayDue s d then
      let e := s.dieAt d
      let hot := e.hot.map fun h =>
        { h with counter := h.counter / 2, migrating := h.migrating && decide (h.counter / 2 ≥ 8) }
      recallPages d (fun p => hot.any fun h => h.page = p && !h.migrating) (s.setDie d { e with lastDecay := e.clk, hot })
    else s) s

end Sys2Proof.Machine
end

