-- ==== Sys2Proof/Machine/Coding.lean ====
section
/-!
DEFINITION. Coded multicast (R220-R222), planes that fail (R216), link training (R213, R334), and RDMA writes (R253).
-/

namespace Sys2Proof.Machine

/-! ### The coding windows of this package's relays (R221) -/

/-- Messages waiting in a plane's window with the clock of their arrival, oldest first. -/
def Die.window (e : Die) (plane : Nat) : List (Msg × DWord) := mapGet [] e.windows plane
/-- The relay that serves a plane (R214). -/
def relayDie (plane : Nat) : Nat := plane / 2

/-- The partner of a message: same context and pair, the other role, source and destination reversed. -/
def isPartner (m p : Msg) : Bool :=
  p.asn == m.asn && p.pair == m.pair && p.role + m.role == 3 && p.origin / 2 == m.dest / 2 && p.dest / 2 == m.origin / 2

/-- Messages go on from a relay. -/
def forward (d : Nat) (l : List (Instr × Msg)) (s : State) : State :=
  s.setDie d { s.dieAt d with egress := (s.dieAt d).egress ++ l }

/-- The XOR of two payloads, the shorter padded with zeros. -/
def xorPad (a b : List Byte) : List Byte :=
  (List.range (max a.length b.length)).map fun i => a.getD i 0 ^^^ b.getD i 0

/-- The coded copy for the receiver of flow `f`: C at f's addresses, with the coding header's part of its partner. -/
def codedCopy (f g : Msg) : Msg :=
  { f with bytes := atAddr f.va (xorPad (f.bytes.map (·.2)) (g.bytes.map (·.2))), glen := g.size, gdoff := g.doff,
           gpblk := g.pblk, gcrc := g.crc }

/-- How many of the 1,024 credits of receiving die `r` relay `d` has been given: the relays of the pod share them, this
package's two at most all of them. -/
def creditShare (d r : Nat) : Nat :=
  let a := Config.creditShare 0 r % 1025
  if d = 0 then a else Config.creditShare 1 r % (1025 - a)
/-- Credits the relay holds of a receiving die. -/
def Die.creditsOf (e : Die) (d r : Nat) : Nat := creditShare d r - mapGet 0 e.creditsOut r
/-- Credits that a receiver has given back meanwhile return. -/
def takeBack (d r : Nat) (s : State) : State :=
  let e := s.dieAt d
  let out := mapGet 0 e.creditsOut r
  let back := Config.creditsBack s.fresh out % (out + 1)
  { s.setDie d { e with creditsOut := mapSet e.creditsOut r (out - back) } with fresh := s.fresh + 1 }
/-- A relay spends a credit of a receiver. -/
def Die.spend (e : Die) (r : Nat) : Die := { e with creditsOut := mapSet e.creditsOut r (mapGet 0 e.creditsOut r + 1) }

/-- Two partners meet: coded with a credit of each receiver, uncoded without. -/
def meet (d : Nat) (m p : Msg) (s : State) : State :=
  let s := takeBack d p.dest (takeBack d m.dest s)
  let e := s.dieAt d
  if 1 ≤ e.creditsOf d m.dest ∧ 1 ≤ e.creditsOf d p.dest then
    forward d [(.codedDecode, codedCopy m p), (.codedDecode, codedCopy p m)] (s.setDie d ((e.spend m.dest).spend p.dest))
  else forward d [(.remoteWrite, p), (.remoteWrite, m)] s

/-- This package's relay is the meeting relay of a message, on the plane of its first byte (R220). -/
def meetsHere (s : State) (m : Msg) (plane : Nat) : Bool :=
  decide (2 ≤ hops (m.origin / 2) (m.dest / 2)) && meetingPkg (m.origin / 2) (m.dest / 2) = s.id.pkg.toNat &&
    plane = s.planeOf m.va

/-- CODING_WINDOW_ARRIVAL: message `arg.msg` reaches a relay of this package on plane `arg.n`; one that meets its partner
elsewhere goes on. -/
def execCodingWindowArrival (s : State) : Result :=
  fromOutside (fun s =>
    let m := s.arg.msg
    let plane := s.arg.n % 4
    let d := relayDie plane
    let e := s.dieAt d
    let w := e.window plane
    if !meetsHere s m plane then passOn .codingWindowArrival m s
    else match w.find? fun x => isPartner m x.1 with
    | some x => meet d m x.1 (s.setDie d { e with windows := mapSet e.windows plane (w.erase x) })
    | none =>
      let out := if w.length ≥ 32 then w.take 1 else []
      let rest := if w.length ≥ 32 then w.drop 1 else w
      forward d (out.map fun x => (Instr.remoteWrite, x.1))
        (s.setDie d { e with windows := mapSet e.windows plane (rest ++ [(m, e.clk)]) })) s

/-- The oldest message of a window has waited 1 µs. -/
def windowDue (s : State) (plane : Nat) : Bool :=
  let e := s.dieAt (relayDie plane)
  match e.window plane with
  | x :: _ => decide ((e.clk - x.2).toNat ≥ 850)
  | [] => false

/-- CODING_WINDOW_TIMEOUT: the oldest message of plane `idx`'s window travels on uncoded. -/
def execCodingWindowTimeout (s : State) : Result :=
  agentStep (fun s =>
    let plane := s.sel.idx % 4
    let d := relayDie plane
    let e := s.dieAt d
    match e.window plane with
    | x :: r =>
      if windowDue s plane then
        forward d [(.remoteWrite, x.1)] (s.setDie d { e with windows := mapSet e.windows plane r })
      else s
    | [] => s) s

/-! ### Decoding and resending (R222) -/

/-- The recovered bytes of flow `m`, or a miss. -/
def decodeBytes (d : Nat) (m : Msg) (s : State) : Option (List Byte) × State :=
  match s.sit.find? fun e => e.asn = m.asn && e.blk = m.pblk with
  | none => (none, s)
  | some e =>
    if e.len < m.glen then (none, s)
    else match readVa d e.asn 0 e.va e.len s with
      | (.error _, s) => (none, s)
      | (.ok b, s) =>
        let x := (xorPad (m.bytes.map (·.2)) b).take m.size
        (if crc32c x = m.crc then some x else none, s)

/-- A decode has ended: its credit goes back to the relay it came from, ι of the meeting package's die (R221). -/
def giveCredit (d : Nat) (m : Msg) (s : State) : State :=
  let e := s.dieAt d
  let r := 2 * meetingPkg (m.origin / 2) (m.dest / 2) + s.planeOf m.va / 2
  s.setDie d { e with creditsBack := mapSet e.creditsBack r (mapGet 0 e.creditsBack r + 1) }

/-- A receiver decodes, performs the flow's writes and answers, or asks the source for a resend; a message of a squashed
version is dropped before that. -/
def decodeFlow (d : Nat) (m : Msg) (s : State) : State × Option Msg :=
  match serveVid d m s with
  | (.dropped, s) => (answerWrite d m 8 s, none)
  | (_, s) => match decodeBytes d m s with
    | (some x, s) =>
      let r := effRemoteWrite d { m with bytes := atAddr m.va x } s
      (r.1, r.2.map fun n => { m with expects := n.expects, retries := n.retries })
    | (none, s) => (replyTo d .resendRequest m {} s, none)
/-- The decode, and its credit once it has ended (R221; log entry 22). -/
def effCodedDecode (d : Nat) (m : Msg) (s : State) : State × Option Msg :=
  match decodeFlow d m s with
  | (s, none) => (giveCredit d m s, none)
  | x => x
def execCodedDecode (s : State) : Result := receiveOr .codedDecode effCodedDecode s

/-- The source engine re-reads the command's bytes and sends them uncoded; its command waits for them too, and completes
UNCODED. -/
def effResendRequest (_d : Nat) (m : Msg) (s : State) : State × Option Msg :=
  let k := m.srcGrp / 256
  match (s.engQueue k 2).find? fun c => c.id + 1 = m.req && c.kind = 5 with
  | none => (s, none)
  | some c =>
    let pairs := copyPairs c c.shufLen
    let vas := pairVas c pairs s
    match commandPages k 2 c vas s with
    | (.again, s) => (s, some m)
    | (.ok pages, s) => match moveBytes k c pages s pairs with
      | .error e => (commandAbort k 2 c e.1 e.2 s, none)
      | .ok l =>
        let s := noteBytes (srcVid c c.srec) (memOf (l.map (·.src))) (modCmd k 2 c.id (fun x => { x with uncoded := true }) s)
        let r := sendShuf k c (peerBytes l) true s
        (takeAck k m.ack (commandSent k 2 c (recPeer c.drec) (anyClipped l) r.1 r.2), none)
def execResendRequest (s : State) : Result := receiveOr .resendRequest effResendRequest s

/-! ### Dead planes (R216) -/

/-- Requests that waited for their turn on a standard-mode link of a plane have not left by it: they are held at the source
with the other requests to its lines. -/
def requeue (plane d : Nat) (s : State) : State :=
  let e := s.dieAt d
  let late := e.stdQueue.filter fun x => s.planeOf x.2.va = plane
  let hit (o : OutReq) : Bool := late.any fun x => x.2.srcGrp / 256 = o.core && x.2.ack = o.ack
  s.setDie d { e with stdQueue := e.stdQueue.filter (fun x => s.planeOf x.2.va ≠ plane), waiting := late ++ e.waiting,
                      out := e.out.filter fun o => !hit o }

/-- A plane is marked dead, with its event record, once. -/
def killPlane (d plane : Nat) (s : State) : State :=
  if s.host.dead.getLsbD plane then s
  else
    let s := requeue plane 1 (requeue plane 0 s)
    let s := { s with host := { s.host with dead := s.host.dead ||| BitVec.ofNat 4 (2 ^ plane) } }
    raiseEvent d (masterNum 6 d 0) 1 (leBytes 8 plane) (settleWaits 1 (settleWaits 0 s))

/-- The relay of this package finds a plane dead and announces it to every package of the pod (R216, R334). -/
def announceDead (plane : Nat) (s : State) : State :=
  let d := relayDie plane
  if s.host.dead.getLsbD plane then s
  else
    let far := (List.range 64).filter fun p => p ≠ s.id.pkg.toNat && s.id.podmask.getLsbD p
    far.foldl (fun t p => sendMsg d .deadplane { dest := 2 * p, role := plane } t) (killPlane d plane s)

/-- A request of a core, by its acknowledgement's number, is declared lost: fault 0x18 of the grid that issued it, whatever
the request was, with plane [7:0] and peer from bit 8 (R216). It owes no completion any more. -/
def loseRequest (s : State) (x : Nat) : State :=
  let k := x % 512
  let n := x / 512
  match (s.dieAt (dieOf k)).out.find? fun o => o.core = k && o.ack = n with
  | none => s
  | some o =>
    let detail := o.plane + 256 * o.peer
    let s := if o.std then stdEnded (dieOf k) o.tag o s else s
    let s := match remoteReq s k n with
      | some r => requestFault k r 0x18 detail 0 s
      | none => reportFault o.gid { code := 0x18, detail := BitVec.ofNat 64 detail, coreN := s.coreN k,
                                    grpin := (s.groupAt k o.grp).grpin } s
    takeAck k n s

/-- PORT_FAILURE: a port of plane `arg.off` fails for good. The requests that the links lost stand in the message's list:
512 × acknowledgement number + core key. -/
def execPortFailure (s : State) : Result :=
  agentStep (fun s =>
    let plane := s.arg.off % 4
    if s.host.dead.getLsbD plane then s else s.arg.msg.vids.foldl loseRequest (announceDead plane s)) s

/-- DEADPLANE: an announcement from another package, with the requests of this package that the plane has lost. -/
def execDeadplane (s : State) : Result :=
  receive .deadplane (fun d m s => m.vids.foldl loseRequest (killPlane d (m.role % 4) s)) s

/-! ### Links (R213, R334) -/

/-- Plane and direction of a port: +X, -X, +Y, -Y (log entry 25). -/
def portPlane (p : Nat) : Nat := p / 4 % 4
/-- The package next to `own` on the torus, in the direction a port faces. -/
def portNeighbour (own port : Nat) : Nat :=
  let minus := port % 2 = 1
  if port % 4 < 2 then ringStep (pkgX own) 1 minus + 8 * pkgY own else pkgX own + 8 * ringStep (pkgY own) 1 minus
/-- A port's partner: the package whose place the port implies, or, from 64 on, a partner that is no package of the pod,
such as a standard switch, which advertises no extension. -/
def partnerPlausible (own partner port : Nat) (ext : Bool) : Bool :=
  partner == portNeighbour own port || (decide (64 ≤ partner) && !ext)

/-- LINK_TRAINING: port `arg.n` trains to package `arg.off`; the flag says that both ends advertise the extension. A link to
a partner out of place is held down, and its plane is dead (R334). -/
def execLinkTraining (s : State) : Result :=
  fromOutside (fun s =>
    let port := s.arg.n % 16
    let rest := s.host.links.filter fun l => l.1 ≠ port
    if partnerPlausible s.id.pkg.toNat s.arg.off port s.arg.flag then
      { s with host := { s.host with links := rest ++ [(port, s.arg.off, s.arg.flag)] } }
    else announceDead (portPlane port) { s with host := { s.host with links := rest } }) s

/-! ### RDMA (R223, R253) -/

/-- Physical places of bytes of a virtual range, its pages translated by a die's walker for a write; none: a page does not
permit it. -/
def writePlaced (d asn : Nat) : List Nat → List (Nat × Byte) → State → Option (List (Nat × Byte)) × State
  | [], _, s => (some [], s)
  | p :: ps, l, s => match resolveVa d asn (p * 2 ^ 21) false true s with
    | (.at_ pa, s) => match writePlaced d asn ps l s with
      | (some r, s) =>
        (some (((l.filter fun b => vpnOf b.1 = p).map fun b => (physOf (stackOf pa) (frameOf pa) b.1, b.2)) ++ r), s)
      | x => x
    | (_, s) => (none, s)

/-- Write a virtual range at VID 0, where every page of it permits it; whether it did. -/
def writeRange (d asn va : Nat) (bs : List Byte) (s : State) : Bool × State :=
  match writePlaced d asn ((atAddr va bs).map fun b => vpnOf b.1).dedup (atAddr va bs) s with
  | (some l, s) => (true, writeView 0 l s)
  | (none, s) => (false, s)

/-- RDMA_WRITE_ARRIVAL: bytes `arg.data` for address `arg.off` of context `arg.n`, on die `die`; with the flag an RDMA READ of
`arg.len` bytes, answered from memory. -/
def execRdmaWriteArrival (s : State) : Result :=
  fromOutside (fun s =>
    let asn := s.arg.n % 4096
    if !s.host.ethUp then s
    else if s.arg.flag then
      match readVa s.sel.die asn 0 s.arg.off s.arg.len s with
      | (.ok bs, t) => { t with host := { t.host with ethReplies := t.host.ethReplies ++ [(s.arg.off, bs)] } }
      | (.error _, t) => t
    else (writeRange s.sel.die asn s.arg.off s.arg.data s).2) s

end Sys2Proof.Machine
end

