-- ==== Sys2Proof/Machine/Sha3.lean ====
section
/-!
DEFINITION. SHA3-256, by which the boot ROM extends the measurement registers (R338): the sponge over Keccak-f[1600]
as FIPS 202 defines it, on a list of 25 lanes of 64 bits (lane x + 5 y).
-/

namespace Sys2Proof.Machine

/-- A lane of the sponge's state. -/
def kLane (a : List DWord) (i : Nat) : DWord := a.getD i 0

/-- Rotation offsets, lane by lane. -/
def kRot : List Nat := [0, 1, 62, 28, 27, 36, 44, 6, 55, 20, 3, 10, 43, 25, 39, 41, 45, 15, 21, 8, 18, 2, 61, 56, 14]

/-- θ: every lane takes the parity of two columns. -/
def kTheta (a : List DWord) : List DWord :=
  let c (x : Nat) : DWord := kLane a x ^^^ kLane a (x + 5) ^^^ kLane a (x + 10) ^^^ kLane a (x + 15) ^^^ kLane a (x + 20)
  let d (x : Nat) : DWord := c ((x + 4) % 5) ^^^ (c ((x + 1) % 5)).rotateLeft 1
  (List.range 25).map fun i => kLane a i ^^^ d (i % 5)

/-- ρ and π: lane (x, y) of the result is the rotated lane (x + 3 y, x). -/
def kRhoPi (a : List DWord) : List DWord :=
  (List.range 25).map fun i =>
    let x := i % 5
    let y := i / 5
    let j := (x + 3 * y) % 5 + 5 * x
    (kLane a j).rotateLeft (kRot.getD j 0)

/-- χ along each row. -/
def kChi (a : List DWord) : List DWord :=
  (List.range 25).map fun i =>
    let y := i / 5 * 5
    kLane a i ^^^ (~~~(kLane a ((i + 1) % 5 + y)) &&& kLane a ((i + 2) % 5 + y))

/-- One step of the linear feedback register behind the round constants. -/
def kLfsr (r : BitVec 8) : BitVec 8 := if r.getLsbD 7 then (r <<< 1) ^^^ 0x71 else r <<< 1

/-- The constant of a round from the register's state, and the state after it. -/
def kConst : Nat → BitVec 8 → DWord × BitVec 8
  | 0, r => (0, r)
  | n + 1, r =>
    let t := kConst n r
    (if t.2.getLsbD 0 then t.1 ||| BitVec.ofNat 64 (2 ^ (2 ^ n - 1)) else t.1, kLfsr t.2)

/-- The rounds. -/
def kRounds : Nat → List DWord → List DWord × BitVec 8
  | 0, a => (a, 1)
  | n + 1, a =>
    let t := kRounds n a
    let c := kConst 7 t.2
    let b := kChi (kRhoPi (kTheta t.1))
    ((kLane b 0 ^^^ c.1) :: b.drop 1, c.2)

/-- Keccak-f[1600]. -/
def keccakF (a : List DWord) : List DWord := (kRounds 24 a).1

/-- The little-endian lane of 8 bytes. -/
def laneOf (bs : List Byte) : DWord :=
  bs.zipIdx.foldl (fun (w : DWord) b => w ||| (b.1.setWidth 64 : DWord) <<< (8 * b.2)) 0

/-- Absorb one block of 136 bytes. -/
def kAbsorb (a : List DWord) (blk : List Byte) : List DWord :=
  keccakF ((List.range 25).map fun i => if i < 17 then kLane a i ^^^ laneOf ((blk.drop (8 * i)).take 8) else kLane a i)

/-- Absorb the blocks of a padded message. -/
def kBlocks : Nat → List Byte → List DWord → List DWord
  | 0, _, a => a
  | n + 1, bs, a => kBlocks n (bs.drop 136) (kAbsorb a (bs.take 136))

/-- The padding of SHA3: 01, then pad10*1. -/
def kPad (n : Nat) : List Byte :=
  let z := 136 - n % 136
  if z = 1 then [0x86] else 0x06 :: (List.replicate (z - 2) 0 ++ [0x80])

/-- SHA3-256: 32 bytes. -/
def sha3 (bs : List Byte) : List Byte :=
  let m := bs ++ kPad bs.length
  let a := kBlocks (m.length / 136) m (List.replicate 25 0)
  (List.range 32).map fun i => (kLane a (i / 8) >>> (8 * (i % 8))).setWidth 8

end Sys2Proof.Machine
end

