-- ==== Sys2Proof/Machine/HostIf.lean ====
section
/-!
DEFINITION. The host's side (R59, R78, R325, R329-R341): requests to BAR0 and BAR2, register writes that act, the
debugger's actions, function-level reset, bring-up, SPDM, power and temperature. Each is a step from outside with its
argument, or the power controller's own step.
-/

namespace Sys2Proof.Machine

/-! ### BAR requests (R325, R332, R337) -/

/-- A BAR request is served, unless the host function is frozen or boot has failed; one outside its BAR's grant
freezes the host function (R325). -/
def barRequest (size off n : Nat) (f : State → State) (s : State) : State :=
  if s.host.frozen || s.id.fail != 0 then s
  else if off + n > size then freezeMaster 0x8000 off s
  else f s

/-- Bytes of BAR0 and BAR2. -/
def bar0Size : Nat := 2 ^ 25
def State.bar2Size (s : State) : Nat := 2 ^ s.host.bar2log

/-- Base and context of the BAR2 window. -/
def HostBlock.w2va (h : HostBlock) : Nat := h.w2.toNat / 2 ^ 30 % 2 ^ 27 * 2 ^ 30
def HostBlock.w2asn (h : HostBlock) : Nat := h.w2.toNat % 4096

/-- The answer to a read: empty bytes say Unsupported Request. -/
def reply (off : Nat) (bs : List Byte) (s : State) : State :=
  { s with host := { s.host with replies := s.host.replies ++ [(off, bs)] } }
def w2fail (s : State) : State := { s with host := { s.host with w2err := true } }

/-- BAR2_WRITE (R253, R337): bytes `arg.data` at offset `arg.off`, at VID 0. -/
def execBar2Write (s : State) : Result :=
  agentStep (fun s => barRequest s.bar2Size s.arg.off s.arg.data.length (fun s =>
    match writeRange 0 s.host.w2asn (s.host.w2va + s.arg.off) s.arg.data s with
    | (true, t) => t
    | (false, t) => w2fail t) s) s

/-- A host read, answered with Unsupported Request where the request is not served. -/
def barRead (size off n : Nat) (f : State → List Byte × State) (s : State) : State :=
  if s.host.frozen || s.id.fail != 0 || decide (off + n > size) then reply off [] (barRequest size off n id s)
  else
    let r := f s
    reply off r.1 r.2

/-- BAR2_READ (R253, R337): `arg.len` bytes at offset `arg.off`; with the flag, a read of BAR0 (R332). -/
def execBar2Read (s : State) : Result :=
  agentStep (fun s =>
    let off := s.arg.off
    let n := s.arg.len
    if s.arg.flag then
      barRead bar0Size off n (fun s =>
        if (n = 4 ∨ n = 8) ∧ off % n = 0 then (readRegBytes off n s, afterRegRead off n s) else (List.replicate n 0, s)) s
    else barRead s.bar2Size off n (fun s => match readVa 0 s.host.w2asn 0 (s.host.w2va + off) n s with
      | (.ok bs, s) => (bs, s)
      | (.error _, s) => (List.replicate n 0xFF, w2fail s)) s) s

/-- A write in configuration space, which is never frozen (R325, R331): offset 0 the log2 of BAR2's size, 30 to 39; offset
1 the mask bits of the MSI-X table, where a vector that is pending goes out once it is not masked. -/
def configWrite (off : Nat) (v : DWord) (s : State) : State :=
  match off with
  | 0 => if 30 ≤ v.toNat ∧ v.toNat ≤ 39 then { s with host := { s.host with bar2log := v.toNat } } else s
  | 1 =>
    let out := (List.range 64).filter fun i => s.host.msixPend.getLsbD i && !v.getLsbD i
    { s with host := { s.host with msixMask := v, msixPend := s.host.msixPend &&& v, msix := s.host.msix ++ out } }
  | _ => s

/-- REGISTER_WRITE (R332): 4 or 8 aligned bytes `arg.data` at BAR0 offset `arg.off`; with the flag, `arg.v` in configuration
space. -/
def execRegisterWrite (s : State) : Result :=
  agentStep (fun s =>
    let n := s.arg.data.length
    if s.arg.flag then configWrite s.arg.off s.arg.v s
    else barRequest bar0Size s.arg.off n (fun s =>
      if (n = 4 ∨ n = 8) ∧ s.arg.off % n = 0 then writeRegBytes s.arg.off s.arg.data s else s) s) s

/-! ### Registers that act (R59, R78, R333, R336, R339) -/

/-- VSEN_WRITE, VSLOG_WRITE, FEATACC_WRITE: the value is `arg.v`. -/
def execVsenWrite (s : State) : Result := agentStep (hostWrite fun s => writeVsen s.arg.v s) s
def execVslogWrite (s : State) : Result := agentStep (hostWrite fun s => writeVslog s.arg.v s) s
def execFeataccWrite (s : State) : Result := agentStep (hostWrite fun s => writeFeatacc s.arg.v s) s

/-- W1C_CLEAR: bits `arg.v` written to XLSTAT (0), FEATSTAT (1) or W2ERR (2), as `arg.n` says. -/
def execW1cClear (s : State) : Result :=
  agentStep (hostWrite fun s => match s.arg.n with
    | 0 => clearXlErr s.arg.v s
    | 1 => clearFeatErr s.arg.v s
    | _ => { s with host := { s.host with w2err := s.host.w2err && !s.arg.v.getLsbD 0 } }) s

/-- HOSTIRQ (R336). -/
def execHostirq (s : State) : Result := agentStep (hostWrite fun s => writeHostirq s.arg.v s) s

/-- FRZREL (R336): a write of master number `arg.n` in configuration space, which is never frozen. -/
def execFrzrel (s : State) : Result := agentStep (fun s => releaseMaster (s.arg.n % 65536) s) s

/-! ### The debugger (R329, R330, R337) -/

/-- A write of DBGCTL on die `die` with one action bit. -/
def dbgAction (bit : Nat) (s : State) : State :=
  writeDebug (s.sel.die % 2) 0 (s.arg.v ||| BitVec.ofNat 64 (2 ^ bit)) s

def execDbgctlStop (s : State) : Result := agentStep (hostWrite (dbgAction 13)) s
def execDbgctlResume (s : State) : Result := agentStep (hostWrite (dbgAction 14)) s
def execDbgctlStep (s : State) : Result := agentStep (hostWrite (dbgAction 15)) s
def execDbgctlCancel (s : State) : Result := agentStep (hostWrite (dbgAction 19)) s

/-- DEBUG_STOP_TAKEN (R330): every load in flight of the selected group has landed. -/
def execDebugStopTaken (s : State) : Result :=
  agentStep (fun s =>
    if s.group.canStop then
      let s := withdrawWords s.sel.core s.sel.grp (List.range 4) s
      debugStopEvent s.sel.core s.sel.grp (s.setGroup s.group.stoppedNow)
    else s) s

/-- DBGDATA_READ and DBGDATA_WRITE through the debug window of die `die`. -/
def execDbgdataRead (s : State) : Result :=
  agentStep (fun s =>
    let o := 0x100010 + 0x80000 * (s.sel.die % 2)
    barRead bar0Size o 8 (fun s => (leBytes 8 (readReg o s).toNat, afterRegRead o 8 s)) s) s
def execDbgdataWrite (s : State) : Result :=
  agentStep (hostWrite fun s => writeDebug (s.sel.die % 2) 0x10 s.arg.v s) s

/-! ### Resets and bring-up (R331, R338) -/

/-- FUNCTION_LEVEL_RESET (R331). -/
def execFunctionLevelReset (s : State) : Result :=
  agentStep (fun s => { s with host := { s.host with
    frozen := false, msixMask := 0, msixPend := 0, w2 := 0, w2err := false } }) s

/-- The 32 bytes of a measurement register, and back. -/
def measBytes (x : BitVec 256) : List Byte := leBytes 32 x.toNat
/-- MEAS i := SHA3-256(MEAS i followed by the digest), for the digests of the images in slot order. -/
def extendMeas (digests : List Byte) (m : Map (BitVec 256)) : Map (BitVec 256) :=
  (List.range (min 8 (digests.length / 32))).foldl (fun m i =>
    mapSet m i (BitVec.ofNat 256 (leNat (sha3 (measBytes (mapGet 0 m i) ++ (digests.drop (32 * i)).take 32))))) m

/-- POWER_ON_RESET (R334, R338): straps `arg.n`, digests of the images that pass `arg.data`; `arg.len` is 0, or the
failure 1 or 2 of image `arg.off`. -/
def execPowerOnReset (s : State) : Result :=
  agentStep (fun s =>
    let pkg := s.arg.n % 64
    let r : State := { State.reset with inputs := s.inputs, fresh := s.fresh }
    { r with id := { r.id with pkg := BitVec.ofNat 6 pkg, podmask := BitVec.ofNat 64 (2 ^ pkg), stage := 1,
                               meas := extendMeas s.arg.data [], fail := if s.arg.len ≤ 2 then s.arg.len else 0,
                               image := if s.arg.len = 1 ∨ s.arg.len = 2 then s.arg.off % 256 else 0 } }) s

/-- A step of the bring-up that follows another, if none has failed. -/
def bootStep (stage : Nat) (f : State → State) (s : State) : State :=
  if s.id.stage = stage ∧ s.id.fail = 0 then f s else s
def setStage (n : Nat) (s : State) : State := { s with id := { s.id with stage := n } }

/-- MEMORY_TRAINING, stage 2, which it reaches and may fail in: the flag says that it succeeds. -/
def execMemoryTraining (s : State) : Result :=
  agentStep (bootStep 1 fun s =>
    if s.arg.flag then setStage 2 s else setStage 2 { s with id := { s.id with fail := 3 } }) s

/-- Cores leave reset. -/
def releaseCores (ks : List Nat) (s : State) : State :=
  ks.foldl (fun t k => t.setCore k { t.coreAt k with released := true }) s

/-- OASIS_RELEASE. -/
def execOasisRelease (s : State) : Result :=
  agentStep (bootStep 2 fun s =>
    setStage 3 (releaseCores ((List.range 8).map (· + 200) ++ (List.range 8).map (· + 408)) s)) s

/-- Core keys of the n-th cluster to leave reset: North 0, South 0, North 1, and so on. -/
def clusterCores (n : Nat) : List Nat := (List.range 8).map fun i => 208 * (n % 2) + 8 * (n / 2) + i

/-- CLUSTER_RELEASE: the next of the 50 clusters. -/
def execClusterRelease (s : State) : Result :=
  agentStep (fun s =>
    if (s.id.stage = 3 ∨ s.id.stage = 4) ∧ s.id.fail = 0 ∧ s.id.clusters < 50 then
      let t := setStage 4 (releaseCores (clusterCores s.id.clusters) s)
      { t with id := { t.id with clusters := s.id.clusters + 1 } }
    else s) s

/-- RUNTIME_READY: FEATOFF is valid (R339). -/
def execRuntimeReady (s : State) : Result :=
  agentStep (bootStep 4 fun s =>
    if s.id.clusters = 50 then
      let t := setStage 5 s
      { t with id := { t.id with featoff := 0xFF } }
    else s) s

/-! ### Attestation (R340) -/

/-- An SPDM answer, by its request's code. -/
def spdmReply (code : Nat) (l : List (BitVec 256)) (s : State) : State :=
  { s with host := { s.host with spdm := s.host.spdm ++ [(code, l)] } }

/-- GET_VERSION: SPDM 1.3. -/
def execGetVersion (s : State) : Result := agentStep (spdmReply 0x84 [0x13]) s
/-- Formats, keys and certificates are free values (log entry 12). -/
def execGetCapabilities (s : State) : Result := agentStep (fun s => spdmReply 0xE1 [Config.spdmBytes 0xE1 0] s) s
def execNegotiateAlgorithms (s : State) : Result :=
  agentStep (fun s => spdmReply 0xE3 [Config.spdmBytes 0xE3 0] s) s
def execGetDigests (s : State) : Result := agentStep (fun s => spdmReply 0x81 [Config.spdmBytes 0x81 0] s) s
def execGetCertificate (s : State) : Result :=
  agentStep (fun s => spdmReply 0x82 [Config.spdmBytes 0x82 s.arg.n] s) s
/-- CHALLENGE: a signature over the nonce `arg.v`. -/
def execChallenge (s : State) : Result := agentStep (fun s => spdmReply 0x83 [Config.spdmBytes 0x83 s.arg.v.toNat] s) s
/-- GET_MEASUREMENTS: blocks 1 to 8 carry MEAS 0 to 7; the signature over the nonce follows. -/
def execGetMeasurements (s : State) : Result :=
  agentStep (fun s => spdmReply 0xE0 (((List.range 8).map fun i => mapGet 0 s.id.meas i) ++
    [Config.spdmBytes 0xE0 s.arg.v.toNat]) s) s

/-! ### Power and temperature (R301, R341) -/

/-- The module is over its cap, or a die is at 95 °C or above. -/
def overCap (b : IdBlock) : Bool := decide (b.pwr.toNat > b.capw.toNat) || decide (b.temp.toNat ≥ 95)

/-- LIMIT of a die one step lower or higher. -/
def Die.limitDown (e : Die) : Die := { e with limit := BitVec.ofNat 8 (min e.cap.toNat e.limit.toNat - 8) }
def Die.limitUp (e : Die) : Die := { e with limit := BitVec.ofNat 8 (min 255 (e.limit.toNat + 8)) }
/-- A die has shed everything. -/
def Die.shed (e : Die) : Bool := e.limit == 0 && e.held_ == 0

/-- The board reports watts `arg.n`, the cap `arg.off` and the temperature `arg.len` (R341). -/
def takeReadings (s : State) : State :=
  if s.arg.flag then
    { s with id := { s.id with pwr := BitVec.ofNat 16 s.arg.n, capw := BitVec.ofNat 16 s.arg.off,
                               temp := BitVec.ofNat 8 s.arg.len } }
  else s

/-- 100 µs have passed since the last step of the power controller. -/
def powerDue (s : State) : Bool := decide ((s.north.clk - s.id.lastPower).toNat ≥ 85000)

/-- One step of the power controller. -/
def powerStep (s : State) : State :=
  let s := { s with id := { s.id with lastPower := s.north.clk } }
  if overCap s.id then
    let s := { s with north := s.north.limitDown, south := s.south.limitDown }
    if s.north.shed && s.south.shed && !s.id.lowered then
      { s with id := { s.id with lowered := true, clkmhz := Config.loweredClock s.fresh }, fresh := s.fresh + 1 }
    else s
  else { s with north := s.north.limitUp, south := s.south.limitUp, id := { s.id with lowered := false, clkmhz := 850 } }

/-- POWER_STEP (R301). -/
def execPowerStep (s : State) : Result :=
  agentStep (fun s =>
    let s := takeReadings s
    if powerDue s then powerStep s else s) s

/-- Grids with a block on some core. -/
def State.residentGrids (s : State) : List Nat :=
  ((s.cores.flatMap fun c => (c.2.blocks.filter fun b => b.2.live).map fun b => b.2.gid)).dedup

/-- THERMAL_TRIP (R341), from outside or at a reading of 105 °C: every clock stops, and every resident grid ends with
fault 0x14. CLKMHZ keeps the value it had: the spec does not say what it reads then (R2; log entry 26). -/
def execThermalTrip (s : State) : Result :=
  agentStep (fun s =>
    let s := { s with id := { s.id with tripped := true } }
    s.residentGrids.foldl (fun t g =>
      killGrid true g (reportFault g { code := 0x14, detail := 0xFFFFFFFFFFFFFFFF } t)) s) s

end Sys2Proof.Machine
end

