-- ==== Sys2Proof/Machine/Wake.lean ====
section
/-!
DEFINITION. A blocked split goes on (R262), and a split that was passed over for long wins (R266).
-/

namespace Sys2Proof.Machine

/-- Take up again the instruction a split is blocked in: the same meaning, which keeps its place in `phase` and
`wdata`. Instructions that never block have nothing to take up. -/
def resume (i : Instr) (s : State) : Result :=
  match i with
  | .ldb f => execLdb f s
  | .ldh f => execLdh f s
  | .ldw f => execLdw f s
  | .ldd f => execLdd f s
  | .ldq f => execLdq f s
  | .stb f => execStb f s
  | .sth f => execSth f s
  | .stw f => execStw f s
  | .std f => execStd f s
  | .stq f => execStq f s
  | .ldbOrdered f => execLdbOrdered f s
  | .ldhOrdered f => execLdhOrdered f s
  | .ldwOrdered f => execLdwOrdered f s
  | .lddOrdered f => execLddOrdered f s
  | .ldqOrdered f => execLdqOrdered f s
  | .stbOrdered f => execStbOrdered f s
  | .sthOrdered f => execSthOrdered f s
  | .stwOrdered f => execStwOrdered f s
  | .stdOrdered f => execStdOrdered f s
  | .stqOrdered f => execStqOrdered f s
  | .atomAdd f => execAtomAdd f s
  | .atomImin f => execAtomImin f s
  | .atomImax f => execAtomImax f s
  | .atomNmin f => execAtomNmin f s
  | .atomNmax f => execAtomNmax f s
  | .atomAnd f => execAtomAnd f s
  | .atomOr f => execAtomOr f s
  | .atomXor f => execAtomXor f s
  | .atomXchg f => execAtomXchg f s
  | .atomCas f => execAtomCas f s
  | .atomFadd f => execAtomFadd f s
  | .dqopPush f => execDqopPush f s
  | .dqopPop f => execDqopPop f s
  | .dqopSteal f => execDqopSteal f s
  | .bararr f => execBararr f s
  | .barwait f => execBarwait f s
  | .barsync f => execBarsync f s
  | .phbarr f => execPhbarr f s
  | .phbwait f => execPhbwait f s
  | .cvbar f => execCvbar f s
  | .cairnmin f => execCairnmin f s
  | .fence f => execFence f s
  | .rbatch f => execRbatch f s
  | .rwait f => execRwait f s
  | .qw f => execQw f s
  | .qrd f => execQrd f s
  | .bclose f => execBclose f s
  | .waitb f => execWaitb f s
  | .qfence f => execQfence f s
  | .cwait f => execCwait f s
  | .launch f => execLaunch f s
  | .spawn f => execSpawn f s
  | .trdy f => execTrdy f s
  | .twait f => execTwait f s
  | .resolve f => execResolve f s
  | .kvwalk f => execKvwalk f s
  | .kvext f => execKvext f s
  | .kvfork f => execKvfork f s
  | .kvrel f => execKvrel f s
  | .mma f => execMma f s
  | .accz f => execAccz f s
  | .accrd f => execAccrd f s
  | .accsc f => execAccsc f s
  | .accwr f => execAccwr f s
  | .wcflush => execWcflush s
  | .pin f => execPin f s
  | .unpin f => execUnpin f s
  | .sitreg f => execSitreg f s
  | _ => .next s

/-- The group may move: it is not stopped, and its core is not frozen. -/
def groupMoves (s : State) (k g : Nat) : Bool :=
  let x := s.groupAt k g
  x.live && x.place == .resident && !x.stopped && !x.stopReq && x.stepSlot.isNone && !(s.coreAt k).frozen

/-- A group that was stepped stops again after the instruction, or at its run boundary (R329, R330). -/
def endIssue (s : State) : State :=
  if s.group.stepSlot.isSome && !s.split.midRun then s.setGroup { s.group with stepSlot := none, stopReq := true } else s

/-- A run boundary that the last load of the run makes due (R204); a stop that has been requested waits for it. -/
def boundaryWoken (s : State) : State :=
  match decodeWords s.word0 s.word1 with
  | .ok (.inv f) =>
    if s.split.midRun && s.group.live && s.group.place == .resident && !s.group.stopped then endIssue (invBoundary f s) else s
  | _ => s

/-- What the selected split would become: its wait goes on, the store that holds it is not stalled any more, or its run
ends. -/
def woken (s : State) : State :=
  let p := s.split
  if p.st == .ready then boundaryWoken s
  else if p.st != .blocked || !groupMoves s s.sel.core s.sel.grp then s
  else if p.held then
    (if s.stalledStore s.sel.core s.sel.grp p.mask then s else s.setSplit { p with st := .ready, held := false })
  else match p.wait with
    | some i => (match resume i s with
      | .next t => holdAgain t
      | _ => s)
    | none => s

/-- Its wait is satisfied, or has come further. -/
def wakeDue (s : State) : Bool := (woken s).split != s.split

/-- SPLIT_WAKE (R262). -/
def execSplitWake (s : State) : Result := agentStep (fun s => if wakeDue s then woken s else s) s

/-- A ready split passed over for 1,024 issue opportunities. -/
def starving (p : Split) : Bool := p.st == .ready && decide (p.passed ≥ 1024) && !p.starved

/-- STARVATION_WIN (R266): the selected split issues next on its sub-core. -/
def execStarvationWin (s : State) : Result :=
  agentStep (fun s => if s.group.live && starving s.split then s.setSplit { s.split with starved := true } else s) s

end Sys2Proof.Machine
end

