-- ==== Sys2Proof/Machine/Dispatch.lean ====
section
/-!
DEFINITION. One arm per constructor of `Instr`: each a direct call of that instruction's meaning.
-/

namespace Sys2Proof.Machine

def exec (i : Instr) (s : State) : Host.Outcome State Fault Refusal :=
  match i with
  | .iadd f => Sys2Proof.Machine.execIadd f s
  | .isub f => Sys2Proof.Machine.execIsub f s
  | .imul f => Sys2Proof.Machine.execImul f s
  | .imulh f => Sys2Proof.Machine.execImulh f s
  | .nmulh f => Sys2Proof.Machine.execNmulh f s
  | .imad f => Sys2Proof.Machine.execImad f s
  | .imin f => Sys2Proof.Machine.execImin f s
  | .imax f => Sys2Proof.Machine.execImax f s
  | .nmin f => Sys2Proof.Machine.execNmin f s
  | .nmax f => Sys2Proof.Machine.execNmax f s
  | .iabs f => Sys2Proof.Machine.execIabs f s
  | .and f => Sys2Proof.Machine.execAnd f s
  | .or f => Sys2Proof.Machine.execOr f s
  | .xor f => Sys2Proof.Machine.execXor f s
  | .andn f => Sys2Proof.Machine.execAndn f s
  | .shl f => Sys2Proof.Machine.execShl f s
  | .shr f => Sys2Proof.Machine.execShr f s
  | .sar f => Sys2Proof.Machine.execSar f s
  | .shrr f => Sys2Proof.Machine.execShrr f s
  | .popc f => Sys2Proof.Machine.execPopc f s
  | .clz f => Sys2Proof.Machine.execClz f s
  | .brev f => Sys2Proof.Machine.execBrev f s
  | .bfe f => Sys2Proof.Machine.execBfe f s
  | .bfi f => Sys2Proof.Machine.execBfi f s
  | .sel f => Sys2Proof.Machine.execSel f s
  | .mov f => Sys2Proof.Machine.execMov f s
  | .iaddi f => Sys2Proof.Machine.execIaddi f s
  | .shli f => Sys2Proof.Machine.execShli f s
  | .shri f => Sys2Proof.Machine.execShri f s
  | .sari f => Sys2Proof.Machine.execSari f s
  | .andi f => Sys2Proof.Machine.execAndi f s
  | .movl f => Sys2Proof.Machine.execMovl f s
  | .padd2 f => Sys2Proof.Machine.execPadd2 f s
  | .psub2 f => Sys2Proof.Machine.execPsub2 f s
  | .pmul2 f => Sys2Proof.Machine.execPmul2 f s
  | .pmac2 f => Sys2Proof.Machine.execPmac2 f s
  | .pmacx2 f => Sys2Proof.Machine.execPmacx2 f s
  | .sadd f => Sys2Proof.Machine.execSadd f s
  | .ssub f => Sys2Proof.Machine.execSsub f s
  | .pack2 f => Sys2Proof.Machine.execPack2 f s
  | .sxlo f => Sys2Proof.Machine.execSxlo f s
  | .sxhi f => Sys2Proof.Machine.execSxhi f s
  | .pshrr2 f => Sys2Proof.Machine.execPshrr2 f s
  | .inv f => Sys2Proof.Machine.execInv f s
  | .fadd f => Sys2Proof.Machine.execFadd f s
  | .fsub f => Sys2Proof.Machine.execFsub f s
  | .fmul f => Sys2Proof.Machine.execFmul f s
  | .ffma f => Sys2Proof.Machine.execFfma f s
  | .fmin f => Sys2Proof.Machine.execFmin f s
  | .fmax f => Sys2Proof.Machine.execFmax f s
  | .fneg f => Sys2Proof.Machine.execFneg f s
  | .fabs f => Sys2Proof.Machine.execFabs f s
  | .frcp f => Sys2Proof.Machine.execFrcp f s
  | .frsq f => Sys2Proof.Machine.execFrsq f s
  | .fsqrt f => Sys2Proof.Machine.execFsqrt f s
  | .fexp2 f => Sys2Proof.Machine.execFexp2 f s
  | .flog2 f => Sys2Proof.Machine.execFlog2 f s
  | .fsin f => Sys2Proof.Machine.execFsin f s
  | .fcos f => Sys2Proof.Machine.execFcos f s
  | .bfma2 f => Sys2Proof.Machine.execBfma2 f s
  | .badd2 f => Sys2Proof.Machine.execBadd2 f s
  | .bmul2 f => Sys2Proof.Machine.execBmul2 f s
  | .cvtfi f => Sys2Proof.Machine.execCvtfi f s
  | .cvtif f => Sys2Proof.Machine.execCvtif f s
  | .cvtnf f => Sys2Proof.Machine.execCvtnf f s
  | .cvtfn f => Sys2Proof.Machine.execCvtfn f s
  | .cvtbf f => Sys2Proof.Machine.execCvtbf f s
  | .cvtfb f => Sys2Proof.Machine.execCvtfb f s
  | .cvtef f => Sys2Proof.Machine.execCvtef f s
  | .cvtfe f => Sys2Proof.Machine.execCvtfe f s
  | .mma f => Sys2Proof.Machine.execMma f s
  | .accz f => Sys2Proof.Machine.execAccz f s
  | .accrd f => Sys2Proof.Machine.execAccrd f s
  | .accsc f => Sys2Proof.Machine.execAccsc f s
  | .accwr f => Sys2Proof.Machine.execAccwr f s
  | .qnt f => Sys2Proof.Machine.execQnt f s
  | .icmpeq f => Sys2Proof.Machine.execIcmpeq f s
  | .icmpne f => Sys2Proof.Machine.execIcmpne f s
  | .icmplt f => Sys2Proof.Machine.execIcmplt f s
  | .icmple f => Sys2Proof.Machine.execIcmple f s
  | .ncmplt f => Sys2Proof.Machine.execNcmplt f s
  | .ncmple f => Sys2Proof.Machine.execNcmple f s
  | .fcmpeq f => Sys2Proof.Machine.execFcmpeq f s
  | .fcmpne f => Sys2Proof.Machine.execFcmpne f s
  | .fcmplt f => Sys2Proof.Machine.execFcmplt f s
  | .fcmple f => Sys2Proof.Machine.execFcmple f s
  | .fcmpun f => Sys2Proof.Machine.execFcmpun f s
  | .pand f => Sys2Proof.Machine.execPand f s
  | .por f => Sys2Proof.Machine.execPor f s
  | .pxor f => Sys2Proof.Machine.execPxor f s
  | .pset f => Sys2Proof.Machine.execPset f s
  | .pget f => Sys2Proof.Machine.execPget f s
  | .slide f => Sys2Proof.Machine.execSlide f s
  | .slideh f => Sys2Proof.Machine.execSlideh f s
  | .sliden f => Sys2Proof.Machine.execSliden f s
  | .swap f => Sys2Proof.Machine.execSwap f s
  | .perm f => Sys2Proof.Machine.execPerm f s
  | .bcast f => Sys2Proof.Machine.execBcast f s
  | .redsum f => Sys2Proof.Machine.execRedsum f s
  | .rediadd f => Sys2Proof.Machine.execRediadd f s
  | .redmax f => Sys2Proof.Machine.execRedmax f s
  | .redmin f => Sys2Proof.Machine.execRedmin f s
  | .scan f => Sys2Proof.Machine.execScan f s
  | .movs f => Sys2Proof.Machine.execMovs f s
  | .movu f => Sys2Proof.Machine.execMovu f s
  | .rng f => Sys2Proof.Machine.execRng f s
  | .ldb f => Sys2Proof.Machine.execLdb f s
  | .ldh f => Sys2Proof.Machine.execLdh f s
  | .ldw f => Sys2Proof.Machine.execLdw f s
  | .ldd f => Sys2Proof.Machine.execLdd f s
  | .ldq f => Sys2Proof.Machine.execLdq f s
  | .ldbOrdered f => Sys2Proof.Machine.execLdbOrdered f s
  | .ldhOrdered f => Sys2Proof.Machine.execLdhOrdered f s
  | .ldwOrdered f => Sys2Proof.Machine.execLdwOrdered f s
  | .lddOrdered f => Sys2Proof.Machine.execLddOrdered f s
  | .ldqOrdered f => Sys2Proof.Machine.execLdqOrdered f s
  | .stb f => Sys2Proof.Machine.execStb f s
  | .sth f => Sys2Proof.Machine.execSth f s
  | .stw f => Sys2Proof.Machine.execStw f s
  | .std f => Sys2Proof.Machine.execStd f s
  | .stq f => Sys2Proof.Machine.execStq f s
  | .stbOrdered f => Sys2Proof.Machine.execStbOrdered f s
  | .sthOrdered f => Sys2Proof.Machine.execSthOrdered f s
  | .stwOrdered f => Sys2Proof.Machine.execStwOrdered f s
  | .stdOrdered f => Sys2Proof.Machine.execStdOrdered f s
  | .stqOrdered f => Sys2Proof.Machine.execStqOrdered f s
  | .atomAdd f => Sys2Proof.Machine.execAtomAdd f s
  | .atomImin f => Sys2Proof.Machine.execAtomImin f s
  | .atomImax f => Sys2Proof.Machine.execAtomImax f s
  | .atomNmin f => Sys2Proof.Machine.execAtomNmin f s
  | .atomNmax f => Sys2Proof.Machine.execAtomNmax f s
  | .atomAnd f => Sys2Proof.Machine.execAtomAnd f s
  | .atomOr f => Sys2Proof.Machine.execAtomOr f s
  | .atomXor f => Sys2Proof.Machine.execAtomXor f s
  | .atomXchg f => Sys2Proof.Machine.execAtomXchg f s
  | .atomCas f => Sys2Proof.Machine.execAtomCas f s
  | .atomFadd f => Sys2Proof.Machine.execAtomFadd f s
  | .dqopPush f => Sys2Proof.Machine.execDqopPush f s
  | .dqopPop f => Sys2Proof.Machine.execDqopPop f s
  | .dqopSteal f => Sys2Proof.Machine.execDqopSteal f s
  | .uadd f => Sys2Proof.Machine.execUadd f s
  | .usub f => Sys2Proof.Machine.execUsub f s
  | .umul f => Sys2Proof.Machine.execUmul f s
  | .uand f => Sys2Proof.Machine.execUand f s
  | .uor f => Sys2Proof.Machine.execUor f s
  | .uxor f => Sys2Proof.Machine.execUxor f s
  | .ushl f => Sys2Proof.Machine.execUshl f s
  | .ushr f => Sys2Proof.Machine.execUshr f s
  | .usar f => Sys2Proof.Machine.execUsar f s
  | .umin f => Sys2Proof.Machine.execUmin f s
  | .umax f => Sys2Proof.Machine.execUmax f s
  | .umov f => Sys2Proof.Machine.execUmov f s
  | .ucmpeq f => Sys2Proof.Machine.execUcmpeq f s
  | .ucmplt f => Sys2Proof.Machine.execUcmplt f s
  | .ucmplo f => Sys2Proof.Machine.execUcmplo f s
  | .nop => Sys2Proof.Machine.execNop s
  | .umovi f => Sys2Proof.Machine.execUmovi f s
  | .uaddi f => Sys2Proof.Machine.execUaddi f s
  | .ulit f => Sys2Proof.Machine.execUlit f s
  | .ushli f => Sys2Proof.Machine.execUshli f s
  | .bra f => Sys2Proof.Machine.execBra f s
  | .brnz f => Sys2Proof.Machine.execBrnz f s
  | .brz f => Sys2Proof.Machine.execBrz f s
  | .brd f => Sys2Proof.Machine.execBrd f s
  | .brx f => Sys2Proof.Machine.execBrx f s
  | .call f => Sys2Proof.Machine.execCall f s
  | .ret f => Sys2Proof.Machine.execRet f s
  | .join => Sys2Proof.Machine.execJoin s
  | .yield => Sys2Proof.Machine.execYield s
  | .setpri f => Sys2Proof.Machine.execSetpri f s
  | .brez f => Sys2Proof.Machine.execBrez f s
  | .jmpf f => Sys2Proof.Machine.execJmpf f s
  | .exget f => Sys2Proof.Machine.execExget f s
  | .exset f => Sys2Proof.Machine.execExset f s
  | .exand f => Sys2Proof.Machine.execExand f s
  | .exelse f => Sys2Proof.Machine.execExelse f s
  | .vote f => Sys2Proof.Machine.execVote f s
  | .setx f => Sys2Proof.Machine.execSetx f s
  | .recset f => Sys2Proof.Machine.execRecset f s
  | .ldrec f => Sys2Proof.Machine.execLdrec f s
  | .bararr f => Sys2Proof.Machine.execBararr f s
  | .barwait f => Sys2Proof.Machine.execBarwait f s
  | .barsync f => Sys2Proof.Machine.execBarsync f s
  | .phbarr f => Sys2Proof.Machine.execPhbarr f s
  | .phbwait f => Sys2Proof.Machine.execPhbwait f s
  | .cvbar f => Sys2Proof.Machine.execCvbar f s
  | .cairnmin f => Sys2Proof.Machine.execCairnmin f s
  | .cairnrd f => Sys2Proof.Machine.execCairnrd f s
  | .bclose f => Sys2Proof.Machine.execBclose f s
  | .waitb f => Sys2Proof.Machine.execWaitb f s
  | .qfence f => Sys2Proof.Machine.execQfence f s
  | .qw f => Sys2Proof.Machine.execQw f s
  | .qrd f => Sys2Proof.Machine.execQrd f s
  | .fence f => Sys2Proof.Machine.execFence f s
  | .wcflush => Sys2Proof.Machine.execWcflush s
  | .rbatch f => Sys2Proof.Machine.execRbatch f s
  | .rwait f => Sys2Proof.Machine.execRwait f s
  | .cfetch f => Sys2Proof.Machine.execCfetch f s
  | .cwait f => Sys2Proof.Machine.execCwait f s
  | .phase f => Sys2Proof.Machine.execPhase f s
  | .launch f => Sys2Proof.Machine.execLaunch f s
  | .spawn f => Sys2Proof.Machine.execSpawn f s
  | .resolve f => Sys2Proof.Machine.execResolve f s
  | .vquery f => Sys2Proof.Machine.execVquery f s
  | .dtadd f => Sys2Proof.Machine.execDtadd f s
  | .dttake f => Sys2Proof.Machine.execDttake f s
  | .dtbud f => Sys2Proof.Machine.execDtbud f s
  | .trdy f => Sys2Proof.Machine.execTrdy f s
  | .twait f => Sys2Proof.Machine.execTwait f s
  | .kvwalk f => Sys2Proof.Machine.execKvwalk f s
  | .kvext f => Sys2Proof.Machine.execKvext f s
  | .kvfork f => Sys2Proof.Machine.execKvfork f s
  | .kvrel f => Sys2Proof.Machine.execKvrel f s
  | .pin f => Sys2Proof.Machine.execPin f s
  | .unpin f => Sys2Proof.Machine.execUnpin f s
  | .sitreg f => Sys2Proof.Machine.execSitreg f s
  | .sitdrop f => Sys2Proof.Machine.execSitdrop f s
  | .movc f => Sys2Proof.Machine.execMovc f s
  | .movcw f => Sys2Proof.Machine.execMovcw f s
  | .trap f => Sys2Proof.Machine.execTrap f s
  | .rte f => Sys2Proof.Machine.execRte f s
  | .bkpt f => Sys2Proof.Machine.execBkpt f s
  | .exit => Sys2Proof.Machine.execExit s
  | .reservedOpcode w => Sys2Proof.Machine.execReservedOpcode w s
  | .matrixEntryPerform => Sys2Proof.Machine.execMatrixEntryPerform s
  | .loadReply => Sys2Proof.Machine.execLoadReply s
  | .joinRelease => Sys2Proof.Machine.execJoinRelease s
  | .starvationWin => Sys2Proof.Machine.execStarvationWin s
  | .splitWake => Sys2Proof.Machine.execSplitWake s
  | .cairnUpdate => Sys2Proof.Machine.execCairnUpdate s
  | .cfetchComplete => Sys2Proof.Machine.execCfetchComplete s
  | .phaseTimerExpiry => Sys2Proof.Machine.execPhaseTimerExpiry s
  | .resolveTableStep => Sys2Proof.Machine.execResolveTableStep s
  | .resolveComplete => Sys2Proof.Machine.execResolveComplete s
  | .gridFaultEnd => Sys2Proof.Machine.execGridFaultEnd s
  | .faultStatusWrite => Sys2Proof.Machine.execFaultStatusWrite s
  | .copy => Sys2Proof.Machine.execCopy s
  | .gather => Sys2Proof.Machine.execGather s
  | .fifofill => Sys2Proof.Machine.execFifofill s
  | .rcopy => Sys2Proof.Machine.execRcopy s
  | .cshuf => Sys2Proof.Machine.execCshuf s
  | .demote => Sys2Proof.Machine.execDemote s
  | .requant => Sys2Proof.Machine.execRequant s
  | .pageSwap => Sys2Proof.Machine.execPageSwap s
  | .commandComplete => Sys2Proof.Machine.execCommandComplete s
  | .l2Request => Sys2Proof.Machine.execL2Request s
  | .nackReplay => Sys2Proof.Machine.execNackReplay s
  | .walkRetry => Sys2Proof.Machine.execWalkRetry s
  | .coreStorageError => Sys2Proof.Machine.execCoreStorageError s
  | .sweepEntry => Sys2Proof.Machine.execSweepEntry s
  | .scPerform => Sys2Proof.Machine.execScPerform s
  | .lamportAnnounce => Sys2Proof.Machine.execLamportAnnounce s
  | .lamportAnnounceReceive => Sys2Proof.Machine.execLamportAnnounceReceive s
  | .sequenceAnnounce => Sys2Proof.Machine.execSequenceAnnounce s
  | .sequenceAnnounceReceive => Sys2Proof.Machine.execSequenceAnnounceReceive s
  | .wcAgeExpiry => Sys2Proof.Machine.execWcAgeExpiry s
  | .remoteWrite => Sys2Proof.Machine.execRemoteWrite s
  | .remoteLoad => Sys2Proof.Machine.execRemoteLoad s
  | .remoteAtomic => Sys2Proof.Machine.execRemoteAtomic s
  | .remoteReply => Sys2Proof.Machine.execRemoteReply s
  | .dependencyOnlyMessage => Sys2Proof.Machine.execDependencyOnlyMessage s
  | .closeNotice => Sys2Proof.Machine.execCloseNotice s
  | .batchSummary => Sys2Proof.Machine.execBatchSummary s
  | .commitMessage => Sys2Proof.Machine.execCommitMessage s
  | .squashMessage => Sys2Proof.Machine.execSquashMessage s
  | .codingWindowArrival => Sys2Proof.Machine.execCodingWindowArrival s
  | .codingWindowTimeout => Sys2Proof.Machine.execCodingWindowTimeout s
  | .codedDecode => Sys2Proof.Machine.execCodedDecode s
  | .resendRequest => Sys2Proof.Machine.execResendRequest s
  | .contentionDecay => Sys2Proof.Machine.execContentionDecay s
  | .portFailure => Sys2Proof.Machine.execPortFailure s
  | .deadplane => Sys2Proof.Machine.execDeadplane s
  | .linkTraining => Sys2Proof.Machine.execLinkTraining s
  | .rdmaWriteArrival => Sys2Proof.Machine.execRdmaWriteArrival s
  | .bar2Write => Sys2Proof.Machine.execBar2Write s
  | .bar2Read => Sys2Proof.Machine.execBar2Read s
  | .blockDispatch => Sys2Proof.Machine.execBlockDispatch s
  | .waitaddrPoll => Sys2Proof.Machine.execWaitaddrPoll s
  | .shadowFill => Sys2Proof.Machine.execShadowFill s
  | .shadowSwap => Sys2Proof.Machine.execShadowSwap s
  | .regionSpill => Sys2Proof.Machine.execRegionSpill s
  | .regionFill => Sys2Proof.Machine.execRegionFill s
  | .gridComplete => Sys2Proof.Machine.execGridComplete s
  | .powerStep => Sys2Proof.Machine.execPowerStep s
  | .thermalTrip => Sys2Proof.Machine.execThermalTrip s
  | .xlinvPage => Sys2Proof.Machine.execXlinvPage s
  | .xlinvAsn => Sys2Proof.Machine.execXlinvAsn s
  | .xlinvAll => Sys2Proof.Machine.execXlinvAll s
  | .xlinvComplete => Sys2Proof.Machine.execXlinvComplete s
  | .vsenWrite => Sys2Proof.Machine.execVsenWrite s
  | .vslogWrite => Sys2Proof.Machine.execVslogWrite s
  | .feataccWrite => Sys2Proof.Machine.execFeataccWrite s
  | .w1cClear => Sys2Proof.Machine.execW1cClear s
  | .hostirq => Sys2Proof.Machine.execHostirq s
  | .frzrel => Sys2Proof.Machine.execFrzrel s
  | .dbgctlStop => Sys2Proof.Machine.execDbgctlStop s
  | .debugStopTaken => Sys2Proof.Machine.execDebugStopTaken s
  | .dbgctlResume => Sys2Proof.Machine.execDbgctlResume s
  | .dbgctlStep => Sys2Proof.Machine.execDbgctlStep s
  | .dbgctlCancel => Sys2Proof.Machine.execDbgctlCancel s
  | .dbgdataRead => Sys2Proof.Machine.execDbgdataRead s
  | .dbgdataWrite => Sys2Proof.Machine.execDbgdataWrite s
  | .registerWrite => Sys2Proof.Machine.execRegisterWrite s
  | .functionLevelReset => Sys2Proof.Machine.execFunctionLevelReset s
  | .powerOnReset => Sys2Proof.Machine.execPowerOnReset s
  | .memoryTraining => Sys2Proof.Machine.execMemoryTraining s
  | .oasisRelease => Sys2Proof.Machine.execOasisRelease s
  | .clusterRelease => Sys2Proof.Machine.execClusterRelease s
  | .runtimeReady => Sys2Proof.Machine.execRuntimeReady s
  | .getVersion => Sys2Proof.Machine.execGetVersion s
  | .getCapabilities => Sys2Proof.Machine.execGetCapabilities s
  | .negotiateAlgorithms => Sys2Proof.Machine.execNegotiateAlgorithms s
  | .getDigests => Sys2Proof.Machine.execGetDigests s
  | .getCertificate => Sys2Proof.Machine.execGetCertificate s
  | .challenge => Sys2Proof.Machine.execChallenge s
  | .getMeasurements => Sys2Proof.Machine.execGetMeasurements s
  | .storeAcknowledgement => Sys2Proof.Machine.execStoreAcknowledgement s
  | .caravanHomeArrival => Sys2Proof.Machine.execCaravanHomeArrival s
  | .caravanGenerationCompletion => Sys2Proof.Machine.execCaravanGenerationCompletion s

end Sys2Proof.Machine
end

