-- ==== Sys2Proof/Machine/Sched.lean ====
section
/-!
DEFINITION. Which steps the machine can take next: the word each sub-core issues (R262, R266, R294, R295), the steps
of the other agents that are due, and the end of a cycle.
-/

namespace Sys2Proof.Machine

/-- One possible next step: the head of `inputs`, a step of another agent with its selection, the issue of the word
at a split's PC, or the end of a cycle in which no sub-core issues any more. -/
inductive Act where
  | input
  | event (i : Instr) (sel : Sel)
  | issue (sel : Sel)
  | tick
deriving DecidableEq, Repr

/-! ### What the scoreboard admits (R128, R142, R231, R233, R262, R294) -/

/-- The word at the selected split's PC, decoded (R40 checks 1 and 2). -/
def fetchDecoded (s : State) : Except DecodeError Instr :=
  decodeWords s.word0 s.word1

/-- Words that read lanes other than those they write (R163). -/
def readsOtherLanes (i : Instr) : Bool :=
  match i with
  | .slide _ | .slideh _ | .sliden _ | .swap _ | .perm _ | .bcast _ | .redsum _ | .rediadd _ | .redmax _ | .redmin _
  | .scan _ => true
  | _ => false

/-- Words that the memory unit, the matrix queue or a search may hold at issue. -/
def mayWait (i : Instr) : Bool :=
  match i with
  | .mma _ | .accz _ | .accrd _ | .accsc _ | .accwr _ | .qnt _ | .inv _ => true
  | .ldb _ | .ldh _ | .ldw _ | .ldd _ | .ldq _ | .stb _ | .sth _ | .stw _ | .std _ | .stq _ => true
  | .ldbOrdered _ | .ldhOrdered _ | .ldwOrdered _ | .lddOrdered _ | .ldqOrdered _ | .stbOrdered _ | .sthOrdered _
  | .stwOrdered _ | .stdOrdered _ | .stqOrdered _ => true
  | .atomAdd _ | .atomImin _ | .atomImax _ | .atomNmin _ | .atomNmax _ | .atomAnd _ | .atomOr _ | .atomXor _
  | .atomXchg _ | .atomCas _ | .atomFadd _ | .dqopPush _ | .dqopPop _ | .dqopSteal _ => true
  | _ => false

/-- A register the word names is still owed by a load (R128). -/
def pendingHit (g : Group) (p : Split) (i : Instr) : Bool :=
  let refs := laneWordRefs i g
  g.oplog.any fun e => e.2.st != .free && (readsOtherLanes i || (e.2.wr &&& p.mask) != 0) &&
    refs.any fun r => decide (r.first < e.2.dest + e.2.nreg) && decide (e.2.dest < r.first + r.run)

/-- Lane registers that the search of the selected split is still to write: xin, yout and its routine's (R200). -/
def invWrites (s : State) (r : InvRun) : List (Nat × Nat) :=
  let g := { s.group with d := r.recs, x := r.xs }
  match fetchDecoded s with
  | .ok (.inv f) => (r.xin, 1) :: (r.yout, 1) :: (List.range (invLen f)).filterMap fun j =>
      match decodeWords (routineWord s j) (routineNext s j) with
      | .ok i => (routineDest i g).map fun x => (x.first, x.run)
      | .error _ => none
  | _ => []

/-- A word that reads other lanes waits for a sibling split's search that has yet to write what it reads (R163). -/
def crossHeld (s : State) (i : Instr) : Bool :=
  readsOtherLanes i && s.group.splits.any fun e =>
    e.1 != s.sel.slot && (match e.2.search with
      | some r => (laneWordRefs i s.group).any fun x =>
          (invWrites { s with sel := { s.sel with slot := e.1 } } r).any fun y =>
            decide (x.first < y.1 + y.2) && decide (y.1 < x.first + x.run)
      | none => false)

/-- An acquire or SC access of the split has not returned (R233, R238): an SC access of THREAD scope too. -/
def acquirePending (c : Core) (gi : Nat) (g : Group) (p : Split) : Bool :=
  g.oplog.any (fun e => e.2.st != .free && (e.2.mask &&& p.mask) != 0 &&
    (match e.2.acq with | some sc => sc != 0 || e.2.stamp != 0 | none => false)) ||
  c.reqs.any fun r => r.grp = gi && (r.mask &&& p.mask) != 0 && r.kind == .store && r.ord == 3

/-- An earlier DQOP or ACCRD of the split has yet to decide its flags (R142). -/
def flagsOpen (g : Group) (p : Split) : Bool :=
  g.oplog.any fun e => e.2.st != .free && (e.2.kind = 6 || e.2.kind = 7) && (e.2.mask &&& p.mask) != 0

/-- A word that reads or clears the sticky flags: MOVS STATUS, an FPMODE write (R142, R147). -/
def flagWord (i : Instr) : Bool :=
  match i with
  | .movs f => f.c == 9
  | .movcw f => f.c == 3
  | _ => false

/-- The word would not leave its split where it stands: it goes on, waits, faults, or takes a trap. -/
def leaves (i : Instr) (s : State) : Bool :=
  match exec i s with
  | .next t => t.split != s.split || t.group.h != s.group.h || t.group.q7 != s.group.q7
  | _ => true

/-- The scoreboard's checks of one word `j`, with the registers of group `g`, at the issue of instruction `i`. -/
def scoreboard (s : State) (g : Group) (i j : Instr) : Bool :=
  let p := s.split
  !pendingHit g p j && !crossHeld s j && !(flagsOpen g p && flagWord j) &&
    (!mayWait j || (!acquirePending s.core s.sel.grp g p && leaves i s))

/-- The next word of a run is admitted (R203); past the last, the run waits for its loads. -/
def runAdmits (s : State) (f : InvForm) (r : InvRun) : Bool :=
  decide (r.word < invLen f) &&
    (match decodeWords (routineWord s r.word) (routineNext s r.word) with
      | .ok j => scoreboard s { s.group with d := r.recs, x := r.xs } (.inv f) j
      | .error _ => false)

/-- The scoreboard admits the selected split's word. -/
def admits (s : State) : Bool :=
  match fetchDecoded s with
  | .error _ => true
  | .ok i =>
    !(s.split.sync && !s.drained) && (match i, s.split.search with
      | .inv f, some r => runAdmits s f r
      | _, _ => scoreboard s s.group i i)

/-- The selected split is to stop at its next boundary: for the debugger, a freeze, a swap, or the end of its block (R204,
R262, R322, R325, R330). -/
def stopsAtBoundary (s : State) : Bool :=
  s.group.stopReq || s.group.dying || s.core.frozen || (s.split.search.isSome && !(s.core.inPlace .shadow).isEmpty)

/-- The selected split is a candidate of its sub-core (R294). A split inside a run goes on to its boundary (R204); that one
which a handler holds does so too, while a stop, a freeze or a swap waits for the boundary, is the model's choice
(log entry 90). -/
def candidate (s : State) : Bool :=
  let g := s.group
  let p := s.split
  let stops := stopsAtBoundary s
  g.live && g.place == .resident && p.st == .ready && !g.stopped && !s.core.startHeld &&
    (!heldSplit g p.mask || (p.midRun && stops)) && (!stops || p.midRun) &&
    (g.stepSlot.isNone || g.stepSlot == some s.sel.slot) && (!phaseDue g || p.search.isSome) && admits s

/-! ### The order of issue (R266, R294, R295) -/

/-- Bias of a group's stage, from -16 to 16 (R295), added to 16. -/
def stageBias (s : State) (k : Nat) (g : Group) : Nat :=
  let qs : List BQueue := (s.blockAt k g.blk).queues.map (·.2)
  let makes := qs.filter fun q => q.prod = g.stage
  let takes := qs.filter fun q => q.cons = g.stage
  if makes.isEmpty && takes.isEmpty then 16
  else if makes.any (fun q => decide (q.cap ≤ q.q.length)) then 0
  else if takes.all (fun q => !q.q.isEmpty) then 32 else 16

/-- The key of R294, clamped to 0 to 255. -/
def issueKey (s : State) (k : Nat) (g : Group) (p : Split) : Nat := min 255 (p.pri.toNat + stageBias s k g - 16)

/-- Split `x` (group and slot) goes before split `y` on a core (R294); splits of one group whose keys are clamped to the same
value go by PRI (R266). -/
def goesBefore (s : State) (k : Nat) (x y : Nat × Nat) : Bool :=
  let g := s.groupAt k x.1
  let h := s.groupAt k y.1
  let p := g.split x.2
  let q := h.split y.2
  let og := (s.blockAt k g.blk).order
  let oh := (s.blockAt k h.blk).order
  if p.starved != q.starved then p.starved
  else if p.starved && p.passed != q.passed then decide (p.passed > q.passed)
  else if issueKey s k g p ≠ issueKey s k h q then decide (issueKey s k g p > issueKey s k h q)
  else if x.1 = y.1 ∧ p.pri ≠ q.pri then decide (p.pri.toNat > q.pri.toNat)
  else if og ≠ oh then decide (og < oh)
  else if g.grpin ≠ h.grpin then decide (g.grpin < h.grpin)
  else olderCre p.cre q.cre

/-- The selection of a split. -/
def selOf (s : State) (k : Nat) (x : Nat × Nat) : Sel :=
  { core := k, grp := x.1, slot := x.2, die := dieOf k, gid := (s.groupAt k x.1).gid }

/-- Candidates of a sub-core: group and slot. -/
def subCandidates (s : State) (k sub : Nat) : List (Nat × Nat) :=
  (s.coreAt k).groups.flatMap fun jg =>
    if jg.2.sub = sub then
      ((List.range 4).map fun i => (jg.1, i)).filter fun x => candidate { s with sel := selOf s k x }
    else []

/-- The word at a split's PC is of the uniform set. -/
def isUniform (s : State) (k : Nat) (x : Nat × Nat) : Bool := ({ s with sel := selOf s k x }).word0.getLsbD 31

/-- What a sub-core has issued in this cycle: group, and slot, 4 more for a uniform word. -/
def issuedBy (s : State) (k sub : Nat) : List (Nat × Nat) := mapGet [] (s.coreAt k).issued sub

/-- The split has issued in this cycle. -/
def hasIssued (done : List (Nat × Nat)) (x : Nat × Nat) : Bool := done.any fun y => y.1 = x.1 && y.2 % 4 = x.2

/-- The code of the trap that a split takes next, as its word issues or its wait ends, if it takes one. -/
def trapCode (s : State) (k : Nat) (x : Nat × Nat) : Option Nat :=
  let t := { s with sel := selOf s k x }
  let code (u : State) : Option Nat :=
    if u.group.h && !t.group.h then (u.group.q7.head?).map fun w => w.toNat % 32 else none
  if candidate t then
    match fetchDecoded t with
    | .error _ => none
    | .ok i => match exec i t with
      | .next u => code u
      | _ => none
  else if wakeDue t then code (woken t) else none

/-- Of two traps that are due in one group the lower code is taken (R312): split `x` waits for split `y`. -/
def trapWaits (s : State) (k : Nat) (x y : Nat × Nat) : Bool :=
  x.1 = y.1 && x.2 != y.2 &&
    (match trapCode s k x, trapCode s k y with
      | some a, some b => decide (b < a)
      | _, _ => false)

/-- A trap of the split waits for one of a sibling. -/
def trapHeld (s : State) (k : Nat) (x : Nat × Nat) : Bool :=
  (liveSlots (s.groupAt k x.1)).any fun j => trapWaits s k x (x.1, j)

/-- The split whose word a sub-core issues next in this cycle, if any. -/
def nextIssue (s : State) (k sub : Nat) : Option (Nat × Nat) :=
  let done := issuedBy s k sub
  if done.length ≥ 4 then none
  else
    let cs := subCandidates s k sub
    if cs.any fun x => starving ((s.groupAt k x.1).split x.2) then none
    else (cs.filter fun x => !hasIssued done x && !(isUniform s k x && done.any fun y => decide (y.2 ≥ 4)) &&
        !trapHeld s k x).foldl
      (fun b x => match b with
        | none => some x
        | some y => if goesBefore s k x y then some x else b) none

/-- Every word that can issue next, one a sub-core. -/
def issues (s : State) : List Sel :=
  s.cores.flatMap fun kc => (List.range 4).filterMap fun sub => (nextIssue s kc.1 sub).map (selOf s kc.1)

/-! ### Steps of the other agents that are due -/

/-- Steps of the requests of a core (R57, R60, R75, R226, R238). -/
def requestEvents (s : State) (k : Nat) : List Act :=
  (s.coreAt k).reqs.flatMap fun r =>
    let at_ (i : Instr) : Act := .event i { core := k, idx := r.id }
    (if l2Due s k r then [at_ .l2Request] else []) ++ (if nackDue s k r then [at_ .nackReplay] else []) ++
    (if retryDue s k r then [at_ .walkRetry] else []) ++
    (if ackDue s k r then [at_ .storeAcknowledgement] else []) ++ (if scDue s k r then [at_ .scPerform] else [])

/-- The start of a command, by its kind (R96). -/
def startEvent (kind : Nat) : Option Instr :=
  match kind with
  | 1 => some .copy
  | 2 => some .gather
  | 3 => some .fifofill
  | 4 => some .rcopy
  | 5 => some .cshuf
  | 6 => some .demote
  | 7 => some .requant
  | _ => none

/-- Steps of the engines of a core (R102-R104). -/
def engineEvents (s : State) (k : Nat) : List Act :=
  (List.range 3).flatMap fun q =>
    (match startable s k q with
      | some c => match startEvent c.kind with
        | some i => [.event i { core := k, idx := q }]
        | none => []
      | none => []) ++
    (if (swapDue s k q).isSome then [.event .pageSwap { core := k, idx := q }] else []) ++
    (if (completable s k q).isSome then [.event .commandComplete { core := k, idx := q }] else [])

/-- The split that takes a group's phase-timer trap: the next of the group in issue order, else the oldest (R317); a search
stands at no issue boundary (R203). -/
def phaseSlot (s : State) (k gi : Nat) : Option Nat :=
  let g := s.groupAt k gi
  let l := (liveSlots g).filter fun i => (g.split i).search.isNone
  let ready := l.filter fun i =>
    (g.split i).st == .ready && !heldSplit g (g.split i).mask && admits { s with sel := selOf s k (gi, i) }
  if ready.isEmpty then
    l.foldl (fun b i => match b with
      | none => some i
      | some j => if olderCre (g.split i).cre (g.split j).cre then some i else b) none
  else ready.foldl (fun b i => match b with
    | none => some i
    | some j => if goesBefore s k (gi, i) (gi, j) then some i else b) none

/-- Steps of the splits of a group (R262, R265, R302). -/
def splitEvents (s : State) (k gi : Nat) (g : Group) : List Act :=
  (liveSlots g).flatMap fun i =>
    let sel := selOf s k (gi, i)
    let t := { s with sel }
    let p := g.split i
    (if wakeDue t && !trapHeld s k (gi, i) then [Act.event .splitWake sel] else []) ++
    (match p.wait with
      | some (.resolve _) =>
        (if tableStepDue t then [.event .resolveTableStep sel] else []) ++
        (if resolveDone t then [.event .resolveComplete sel] else [])
      | _ => [])

/-- A step of the splits of a group that may not move: in a group that is stepped, the phase timer's trap is taken by the
split that is stepped (R317, R329); and a run boundary comes (R204). -/
def heldEvents (s : State) (k gi : Nat) (g : Group) : List Act :=
  let sel (i : Nat) : Sel := { selOf s k (gi, i) with idx := i }
  (match g.stepSlot with
    | some i =>
      if phaseDue g && g.place == .resident && !g.stopped && !g.stopReq && !(s.coreAt k).frozen &&
          (g.split i).st != .free && (g.split i).search.isNone then [.event .phaseTimerExpiry (sel i)] else []
    | none => []) ++
  (liveSlots g).flatMap fun i =>
    if (g.split i).midRun && wakeDue { s with sel := selOf s k (gi, i) } && !trapHeld s k (gi, i) then
      [.event .splitWake (selOf s k (gi, i))]
    else []

/-- Steps of the groups of a core (R128, R265, R266, R317, R330). -/
def groupEvents (s : State) (k : Nat) : List Act :=
  (s.coreAt k).groups.flatMap fun jg =>
    let g := jg.2
    let sel (i : Nat) : Sel := { selOf s k (jg.1, i) with idx := i }
    (g.oplog.flatMap fun e => if logDone s k jg.1 e.2 then [.event .loadReply { sel 0 with idx := e.1 }] else []) ++
    (if g.canStop then [.event .debugStopTaken (sel 0)] else []) ++
    ((liveSlots g).filterMap fun i =>
      if starving (g.split i) && candidate { s with sel := selOf s k (jg.1, i) } then
        some (.event .starvationWin (selOf s k (jg.1, i))) else none) ++
    (if groupMoves s k jg.1 then
      (match joinReleased g with
        | some i => if g.live then [.event .joinRelease (sel i)] else []
        | none => []) ++
      (match (if phaseDue g then phaseSlot s k jg.1 else none) with
        | some i => [.event .phaseTimerExpiry (sel i)]
        | none => splitEvents s k jg.1 g)
    else heldEvents s k jg.1 g)

/-- Segments of grids on their way to a core (R280). -/
def fetchEvents (s : State) (k : Nat) : List Act :=
  (s.coreAt k).fetching.flatMap fun f =>
    ((List.range 32).filter fun i => f.2.getLsbD i).map fun i => .event .cfetchComplete { core := k, gid := f.1, idx := i }

/-- Swaps, regions, the matrix queue and the write-combining buffer of a core (R194, R206, R322, R323). -/
def coreEvents (s : State) (k : Nat) : List Act :=
  let c := s.coreAt k
  let one (b : Bool) (i : Instr) : List Act := if b then [.event i { core := k }] else []
  requestEvents s k ++ engineEvents s k ++ groupEvents s k ++ fetchEvents s k ++
  one (matReady s k) .matrixEntryPerform ++ one (fillDue s k) .shadowFill ++ one (swapReady s k) .shadowSwap ++
  one (c.toSpill.any (spillable s k)) .regionSpill ++ one (fillReady s k).isSome .regionFill ++
  ((c.wc.zipIdx.filter fun e => wcAged s k e.1).map fun e => .event .wcAgeExpiry { core := k, idx := e.2 })

/-- A core announces (R237): every 64 cycles, and while none of its SC accesses is in flight whenever its value has risen. -/
def lamportDue (s : State) (k : Nat) : Bool :=
  let c := s.coreAt k
  c.released && (decide (((s.dieAt (dieOf k)).clk - c.announcedAt).toNat ≥ 64) ||
    (!scInFlight s k && decide (c.announced.toNat < (nextAnnounce s k).toNat)))

/-- Announcements of the package's cores. -/
def announceEvents (s : State) : List Act :=
  s.cores.filterMap fun kc => if lamportDue s kc.1 then some (.event .lamportAnnounce { core := kc.1 }) else none

/-- Steps of a die: held messages, announcements, the contention table (R217, R245, R247). -/
def dieEvents (s : State) (d : Nat) : List Act :=
  let e := s.dieAt d
  (e.held.zipIdx.filterMap fun m =>
    if heldDue s d m.2 then some (.event m.1.1 { die := d, idx := m.2 + 1 }) else none) ++
  (if announceDue s d then [.event .sequenceAnnounce { die := d }] else []) ++
  (if decayDue s d && !e.hot.isEmpty then [.event .contentionDecay { die := d }] else [])

/-- Steps of a grid: dispatch, dependences, caravans, its end (R251, R277, R287-R293, R297, R318). -/
def gridEvents (s : State) (gid : Nat) (g : Grid) : List Act :=
  let one (b : Bool) (i : Instr) : List Act := if b then [.event i { gid, die := g.die }] else []
  one ((g.st == .waiting || g.st == .dispatching || (heldStart s gid).isSome) && (dispatchStep s gid).isSome) .blockDispatch ++
  one (pollDue s gid) .waitaddrPoll ++ one (completeDue s gid) .gridComplete ++
  one (g.st == .faulting) .gridFaultEnd ++ one (faultStatusDue s gid) .faultStatusWrite ++
  ((List.range g.pendArr.length).map fun i => .event .caravanHomeArrival { gid, idx := i }) ++
  (g.caravans.flatMap fun c => (List.range 2).flatMap fun d =>
    (if g.seen d c.1 ≠ c.2.gen then [.event .caravanGenerationCompletion { gid, die := d, idx := c.1 }] else []) ++
    (if g.replica d c.1 ≠ c.2.cairn then [.event .cairnUpdate { gid, die := d, idx := c.1 }] else []))

/-- Steps of the package's own units (R59, R81, R221, R237, R301). -/
def packageEvents (s : State) : List Act :=
  (if xlinvDone s then [.event .xlinvComplete {}] else []) ++
  (if s.vers.lag.isSome then [.event .resolveTableStep { core := 416 }] else []) ++
  (match s.vers.sweep with
    | v :: _ => if vidInFlight s v || s.vers.lag.isSome then [] else [.event .sweepEntry {}]
    | [] => []) ++
  ((List.range 4).filterMap fun p => if windowDue s p then some (.event .codingWindowTimeout { idx := p }) else none) ++
  (if powerDue s then [.event .powerStep {}] else []) ++ announceEvents s ++
  (s.annSent.map fun a => .event .lamportAnnounceReceive { idx := a.1, gid := a.2.toNat })

/-- Every step of another agent that is due. -/
def events (s : State) : List Act :=
  (s.cores.flatMap fun kc => coreEvents s kc.1) ++ dieEvents s 0 ++ dieEvents s 1 ++
  (s.grids.flatMap fun g => gridEvents s g.1 g.2) ++ packageEvents s

/-- The argument of an event: an announcement on its way carries its core and value. -/
def eventArg (i : Instr) (sel : Sel) : Payload :=
  match i with
  | .lamportAnnounceReceive => { n := sel.idx, v := BitVec.ofNat 64 sel.gid }
  | _ => {}

/-- An event that R268 and R317 promise within the cycle: a split that was passed over wins, a satisfied wait ends, or a
phase timer traps. The walk of a PIN or UNPIN that is tried again waits for its backoff (R60). -/
def promised (s : State) (a : Act) : Bool :=
  match a with
  | .event .starvationWin _ | .event .resolveComplete _ | .event .joinRelease _ | .event .phaseTimerExpiry _ => true
  | .event .splitWake sel =>
    let p := ({ s with sel } : State).split
    (match p.wait with
      | some (.pin _) => decide (p.phase < 3)
      | some (.unpin _) => decide (p.phase < 3)
      | _ => true)
  | _ => false

/-- A step that has been due for longer than every step of this implementation takes to come (R268, R269; log entry 92). -/
def overdue (s : State) (a : Act) : Bool :=
  match a with
  | .event i sel => (match s.due.find? fun e => e.1.1 = i && e.1.2 = sel with
      | some e => decide (Config.patience < e.2)
      | none => false)
  | _ => false

/-- What can happen next. A cycle ends once no word issues in it any more, R268's promises are kept, and no step is
overdue. At 105 °C nothing
comes before the thermal trip, and after it every clock stands, and only the outside acts (R341). -/
def candidates (s : State) : List Act :=
  let ins := if s.inputs.isEmpty then [] else [Act.input]
  if s.id.tripped then ins
  else if s.id.temp.toNat ≥ 105 then [.event .thermalTrip {}]
  else
    let is := issues s
    let es := events s
    ins ++ es ++ is.map .issue ++ if is.isEmpty && !es.any (fun a => promised s a || overdue s a) then [.tick] else []

/-! ### The cycle (R140, R281, R294) -/

/-- A word of the selected split issues: its count of missed opportunities is zero again, the merge before it has
been ordered (R231), and its sub-core has issued one word more in this cycle. -/
def beginIssue (s : State) : State :=
  let c := s.core
  let sub := s.group.sub
  let mark := (s.sel.grp, s.sel.slot + if s.word0.getLsbD 31 then 4 else 0)
  let t := s.setCore s.sel.core { c with issued := mapSet c.issued sub (issuedBy s s.sel.core sub ++ [mark]) }
  t.setSplit { s.split with passed := 0, starved := false, sync := false }

/-- Counts of the splits of a core that were passed over in a cycle. -/
def passOver (s : State) (k : Nat) (c : Core) : Core :=
  let missed (gi i : Nat) (sub : Nat) : Bool :=
    !hasIssued (issuedBy s k sub) (gi, i) && candidate { s with sel := selOf s k (gi, i) }
  { c with issued := [], groups := c.groups.map fun jg => (jg.1, { jg.2 with
      splits := jg.2.splits.map (fun e =>
        (e.1, if missed jg.1 e.1 jg.2.sub then { e.2 with passed := e.2.passed + 1 } else e.2)),
      phaseCount := if jg.2.live && jg.2.phaseOn && jg.2.place == .resident && !jg.2.stopped && !c.frozen then
        jg.2.phaseCount + 1 else jg.2.phaseCount }) }

/-- The steps that are due as a cycle ends, each with the cycles it has now been due for. -/
def ageDue (s : State) : List ((Instr × Sel) × Nat) :=
  (events s).filterMap fun a => match a with
    | .event i sel => some ((i, sel), match s.due.find? fun e => e.1.1 = i && e.1.2 = sel with
        | some e => e.2 + 1
        | none => 1)
    | _ => none

/-- A cycle ends: clocks, phase counters, issue opportunities and the steps that are due are counted. -/
def tick (s : State) : State :=
  { s with north := { s.north with clk := s.north.clk + 1 }, south := { s.south with clk := s.south.clk + 1 },
           remoteAtoms := [], due := ageDue s, cores := s.cores.map fun kc => (kc.1, passOver s kc.1 kc.2) }

end Sys2Proof.Machine
end

