-- ==== Sys2Proof/Machine/Step.lean ====
section
/-!
DEFINITION. One step of the package: one of the acts Machine/Sched.lean finds possible, and the place where
an instruction is put to be fetched next.
-/

namespace Sys2Proof.Machine

/-- What stands around a step's own effect. -/
def finish (r : Host.Outcome State Fault Refusal) (after : State → State) :
    Host.Outcome State Fault Refusal :=
  match r with
  | .next t => .next (after t)
  | .fault f => .fault f
  | .refused q => .refused q

/-- Issue the word at the PC of the split that `sel` names. -/
def issueAt (sel : Sel) (s : State) : Host.Outcome State Fault Refusal :=
  let t := beginIssue { s with sel }
  match fetchDecoded t with
  | .error _ => .next (settleStep (endIssue (illegal t)))
  | .ok i => finish (exec i t) (fun u => settleStep (endIssue u))

/-- Take one act. After a thermal trip only a power-on reset acts (R341): every clock stands still. -/
def perform (a : Act) (s : State) : Host.Outcome State Fault Refusal :=
  match a with
  | .issue sel => issueAt sel s
  | .event i sel =>
    finish (exec i { s with sel, arg := eventArg i sel, due := s.due.filter fun e => e.1 != (i, sel) }) settleStep
  | .input =>
    match s.inputs with
    | [] => .next s
    | (i, sel, arg) :: rest =>
      if s.id.tripped && i != .powerOnReset then .next { s with inputs := rest }
      else finish (exec i { s with sel, arg, inputs := rest }) settleStep
  | .tick => .next (tick s)

/-- One step: the only possible act, or a freely chosen one of several (log entry 4); none after a thermal trip. -/
def step (s : State) : Host.Outcome State Fault Refusal :=
  match candidates s with
  | [] => .next s
  | [a] => perform a s
  | a :: as => perform ((a :: as).getD (Config.choice s.fresh (as.length + 1) % (as.length + 1)) a)
      { s with fresh := s.fresh + 1 }

/-- The grid whose one group holds an instruction placed by `withFetchWord` (log entry 3). -/
def placedGrid : Grid := { st := .running, segmask := 1, priv := true, nblk := 1 }
/-- Its group. -/
def placedGroup : Group :=
  { live := true, gid := 1, priv := true, nextCre := 1,
    splits := [(0, { st := .ready, mask := allLanes 0, exec := allLanes 0 })] }
/-- Its block. -/
def placedBlock : Block :=
  { live := true, gid := 1, groups := [0], sharedSize := 4096, slots := 1, budgets := 256, segs := 1 }
/-- Its core: the two words of the instruction at word 0 of segment 0. -/
def placedCore (v : Nat) : Core :=
  { released := true, announced := 1, groups := [(0, placedGroup)], blocks := [(0, placedBlock)], landed := [(1, 1)],
    imem := [(codeKey 1 0, BitVec.ofNat 32 v), (codeKey 1 1, BitVec.ofNat 32 (v / 2 ^ 32))] }

/-- `s` with the instruction of `nbits` bits `w` where the next step fetches: word 0 of segment 0 of a grid whose
one group is placed on main core 0 of the North die, with nothing else to do. Memory, registers of the package's
blocks and identity stay as they are. -/
def State.withFetchWord (s : State) (nbits w : Nat) : State :=
  { s with inputs := [], cores := [(0, placedCore (w % 2 ^ nbits))], grids := [(1, placedGrid)], north := {}, south := {},
           vers := { s.vers with sweep := [], lag := none }, xl := { s.xl with busy := false }, annSent := [],
           remoteAtoms := [], due := [], id := { s.id with tripped := false, temp := 0, lastPower := 0 } }

end Sys2Proof.Machine
end

