-- ==== Sys2Proof/Certificates/Slice0/Vocabulary.lean ====
section
/-!
DEFINITION. The vocabulary of the statements: when a word runs, what stays as it was, what a step past a word is, and
the functions of the spec's instruction tables, written from those tables.
-/

namespace Sys2Proof.Statements

open Sys2Proof.Machine

/-! ### When a word runs, and what it leaves -/

/-- Every register of every run lies below its limit (R27, R28). -/
def Fits (g : Group) (refs : List RegRef) : Prop := ∀ r ∈ refs, r.first + r.run ≤ if r.uni then 128 else g.budget

/-- The selected split can issue, the word's registers pass the bound check, and its `n` words are not the last of
their segment. -/
def CanRun (s : State) (n : Nat) (refs : List RegRef) : Prop :=
  s.canIssue = true ∧ s.split.pc.toNat % 1024 + n ≤ 1023 ∧ Fits s.group refs

/-- Nothing changes but the selected group: no other group, core, block, allotment, grid, die, register of the package's
blocks or byte of memory. -/
structure OnlyGroup (s t : State) : Prop where
  rest : { t with cores := s.cores } = s
  cores : ∀ k, k ≠ s.sel.core → t.coreAt k = s.coreAt k
  core : { t.core with groups := s.core.groups } = s.core
  groups : ∀ g, g ≠ s.sel.grp → t.groupAt s.sel.core g = s.groupAt s.sel.core g
  bytes : ∀ v a, t.viewByte v a = s.viewByte v a

/-- The selected split becomes `p`, the group's other splits stay. -/
def SplitIs (s t : State) (p : Split) : Prop :=
  t.split = p ∧ ∀ i, i ≠ s.sel.slot → t.group.split i = s.group.split i

/-- The selected split, READY, `n` words further on; MASK, EXEC, PRI and creation number as they were. -/
def SplitPast (s : State) (n : Nat) : Split :=
  { s.split with pc := s.split.pc + BitVec.ofNat 15 n, st := .ready, wait := none, phase := 0, wdata := 0,
                 search := none }

/-- The selected split at a word offset of its own segment. -/
def SplitAt (s : State) (off : Nat) : Split :=
  { s.split with pc := BitVec.ofNat 15 (s.split.pc.toNat / 1024 * 1024 + off), st := .ready, wait := none, phase := 0,
                 wdata := 0, search := none }

/-- The word has been stepped past, and only the selected group has changed. -/
structure SteppedPast (s t : State) (n : Nat) : Prop where
  outside : OnlyGroup s t
  split : SplitIs s t (SplitPast s n)

/-! ### What changes in the selected group -/

/-- Lane register `d` becomes `val` in the lanes of `m`; its other lanes and every other lane register stay. -/
def LaneWrite (g h : Group) (d : Nat) (m : Lanes) (val : Nat → Word) : Prop :=
  (∀ l, l < 48 → h.vAt d l = if laneIn m l then val l else g.vAt d l) ∧ ∀ r l, r ≠ d → h.vAt r l = g.vAt r l

/-- Predicate `d` becomes `val` in the lanes of `m`; its other lanes stay. -/
def PredWrite (g h : Group) (d : Nat) (m : Lanes) (val : Nat → Bool) : Prop :=
  ∀ l, l < 48 → laneIn (h.pAt d) l = if laneIn m l then val l else laneIn (g.pAt d) l

/-- Uniform register `d` becomes `x`; the others stay. -/
def UniWrite (g h : Group) (d : Nat) (x : DWord) : Prop := h.sAt d = x ∧ ∀ r, r ≠ d → h.sAt r = g.sAt r

/-- Nothing of the group changes but its lane registers and its splits: no flag, predicate, uniform, index or control
register, record, queue or log entry. -/
def OnlyLanes (g h : Group) : Prop := { h with v := g.v, splits := g.splits } = g
/-- As `OnlyLanes`, but for SAT. -/
def OnlyLanesSat (g h : Group) : Prop := { h with v := g.v, sat := g.sat, splits := g.splits } = g
/-- Nothing of the group changes but its predicates and its splits. -/
def OnlyPreds (g h : Group) : Prop := { h with p := g.p, splits := g.splits } = g
/-- Nothing of the group changes but its uniform registers and its splits. -/
def OnlyUni (g h : Group) : Prop := { h with s := g.s, splits := g.splits } = g
/-- Nothing of the group changes but its splits. -/
def OnlySplits (g h : Group) : Prop := { h with splits := g.splits } = g

/-- SAT is set in the lanes of `m` where `c` says so, and nowhere cleared. -/
def SatSet (g h : Group) (m : Lanes) (c : Nat → Bool) : Prop :=
  ∀ l, l < 48 → laneIn h.sat l = (laneIn g.sat l || (laneIn m l && c l))

/-- A lane word of one destination has run: `val` in the active lanes, nothing else. -/
structure LaneResult (s t : State) (n d : Nat) (m : Lanes) (val : Nat → Word) : Prop where
  past : SteppedPast s t n
  frame : OnlyLanes s.group t.group
  value : LaneWrite s.group t.group d m val

/-- A lane word that may set SAT has run. -/
structure LaneResultSat (s t : State) (n d : Nat) (m : Lanes) (val : Nat → Word × Bool) : Prop where
  past : SteppedPast s t n
  frame : OnlyLanesSat s.group t.group
  value : LaneWrite s.group t.group d m fun l => (val l).1
  flag : SatSet s.group t.group m fun l => (val l).2

/-- A uniform word of one destination has run. -/
structure UniResult (s t : State) (n d : Nat) (x : DWord) : Prop where
  past : SteppedPast s t n
  frame : OnlyUni s.group t.group
  value : UniWrite s.group t.group d x

/-! ### Faults and traps -/

/-- The launch engine's record of a grid after a fault `f` is reported: the first decides, later ones are counted, and
a grid that has ended or been squashed keeps its record (R318, R319). -/
def afterFault (g : Grid) (f : FaultRec) : Grid :=
  if g.st = .ended ∨ g.squashed = true then g
  else match g.fault with
    | none => { g with fault := some f, st := .faulting }
    | some _ => { g with nfault := min 255 (g.nfault + 1) }

/-- The word raised fault `code`: its split performs nothing more, the fault stands in the grid's record with the place it
came from and the LEASE of the page entry involved, and nothing else changes. -/
structure FaultedAt (lease : BitVec 16) (s t : State) (code : Nat) (detail : DWord) : Prop where
  rest : { t with cores := s.cores, grids := s.grids } = s
  cores : ∀ k, k ≠ s.sel.core → t.coreAt k = s.coreAt k
  core : { t.core with groups := s.core.groups } = s.core
  groups : ∀ g, g ≠ s.sel.grp → t.groupAt s.sel.core g = s.groupAt s.sel.core g
  bytes : ∀ v a, t.viewByte v a = s.viewByte v a
  grids : ∀ g, g ≠ s.group.gid → t.gridAt g = s.gridAt g
  grid : t.gridAt s.group.gid = afterFault (s.gridAt s.group.gid)
    { code, detail, blk := s.block.blk, coreN := s.coreN s.sel.core, grpin := s.group.grpin, slot := s.sel.slot,
      pc := s.split.pc, lease }
  split : SplitIs s t { s.split with st := .blocked, wait := none, search := none }
  frame : OnlySplits s.group t.group

/-- The same where no page entry is involved. -/
abbrev Faulted (s t : State) (code : Nat) (detail : DWord) : Prop := FaultedAt 0 s t code detail

/-- The words of the instruction at the PC (R310): the second word is 0 where there is none. -/
def wordsAtPc (s : State) : DWord :=
  BitVec.ofNat 64 (s.word0.toNat + (if wordLength s.word0 = 2 then 2 ^ 32 * (s.word1.getD 0).toNat else 0))

/-- An illegal-instruction fault (R39). -/
def Illegal (s t : State) : Prop := Faulted s t 0x12 (wordsAtPc s)

/-- A trap can be taken: no handler runs, TRAPVEC is enabled and its segment has landed (R311). -/
def HandlerReady (s : State) : Prop :=
  s.group.h = false ∧ s.group.trapvec.getLsbD 15 = true ∧
    s.landedAt s.sel.core s.group.gid (s.group.trapvec.toNat % 32) = true

/-- Word 0 of a trap record (R313). -/
def trapWord (code slot pc : Nat) (ovf : Bool) : DWord :=
  BitVec.ofNat 64 (code + 64 * (slot % 4) + 256 * pc + if ovf then 2 ^ 23 else 0)

/-- The trap was taken: the frame holds the saved PC, MASK and EXEC, H is set, the record stands at the head of Q7, and
the split is at the handler with EXEC = MASK; nothing else changes (R311, R313). With 30 entries or fewer in Q7 nothing
is dropped. -/
structure TookTrap (s t : State) (code : Nat) (detail : DWord) (saved : BitVec 15) : Prop where
  outside : OnlyGroup s t
  frame : t.group.frame = { pc := saved, mask := s.split.mask, exec := s.split.exec }
  handler : t.group.h = true
  record : ∃ ovf rest, t.group.q7 = trapWord code s.sel.slot saved.toNat ovf :: detail :: rest ∧
    (s.group.q7.length ≤ 30 → rest = s.group.q7 ∧ ovf = s.group.q7ovf ∧ t.group.q7cut = s.group.q7cut)
  split : SplitIs s t { s.split with
    pc := BitVec.ofNat 15 (1024 * (s.group.trapvec.toNat % 32) + s.group.trapvec.toNat / 32 % 1024),
    exec := s.split.mask, st := .ready, wait := none, phase := 0, wdata := 0, search := none }
  others : { t.group with frame := s.group.frame, h := s.group.h, q7 := s.group.q7, q7cut := s.group.q7cut,
                          q7ovf := s.group.q7ovf, splits := s.group.splits } = s.group

/-! ### The operands of the lane formats: effective numbers (R27) and lane values -/

/-- The operands of an LR word in a lane: x, y and the old destination z. -/
def opX (s : State) (f : LR3) (l : Nat) : Word := s.group.vAt (s.group.lane f.w f.a.toNat) l
def opY (s : State) (f : LR3) (l : Nat) : Word := s.group.vAt (s.group.lane f.w f.b.toNat) l
def opZ (s : State) (f : LR3) (l : Nat) : Word := s.group.vAt (s.group.lane f.w f.d.toNat) l
/-- The effective destination of an LR word. -/
def dest (s : State) (f : LR3) : Nat := s.group.lane f.w f.d.toNat
def opX2 (s : State) (f : LR2) (l : Nat) : Word := s.group.vAt (s.group.lane f.w f.a.toNat) l
def dest2 (s : State) (f : LR2) : Nat := s.group.lane f.w f.d.toNat

/-- An LR word of three lane registers writes `val x y z` to its destination in every active lane. -/
def Writes3 (k : LR3 → Instr) (val : Word → Word → Word → Word) : Prop :=
  ∀ (s : State) (f : LR3), CanRun s 1 (f.refs s.group) → ∃ t, exec (k f) s = .next t ∧
    LaneResult s t 1 (dest s f) (s.active f.g) fun l => val (opX s f l) (opY s f l) (opZ s f l)

/-- The same with SAT. -/
def Writes3Sat (k : LR3 → Instr) (val : Word → Word → Word → Word × Bool) : Prop :=
  ∀ (s : State) (f : LR3), CanRun s 1 (f.refs s.group) → ∃ t, exec (k f) s = .next t ∧
    LaneResultSat s t 1 (dest s f) (s.active f.g) fun l => val (opX s f l) (opY s f l) (opZ s f l)

/-- A unary LR word writes `val x`. -/
def Writes2 (k : LR2 → Instr) (val : Word → Word) : Prop :=
  ∀ (s : State) (f : LR2), CanRun s 1 (f.refs s.group) → ∃ t, exec (k f) s = .next t ∧
    LaneResult s t 1 (dest2 s f) (s.active f.g) fun l => val (opX2 s f l)

/-! ### The integer table (R164), in exact arithmetic -/

def modWord (x : Int) : Word := BitVec.ofInt 32 x
/-- `x` shifted left by `c` bits, modulo 2^32. -/
def shiftLeft (x c : Nat) : Word := BitVec.ofNat 32 (x * 2 ^ c)
/-- floor(x / 2^c) modulo 2^32. -/
def shiftRight (x : Int) (c : Nat) : Word := BitVec.ofInt 32 (x / 2 ^ c)

/-- Position and effective length of a bit field: pos = y[4:0], min(y[13:8], 32 - pos) (R166). -/
def fieldPos (y : Word) : Nat := y.toNat % 32
def fieldLength (y : Word) : Nat := min (y.toNat / 256 % 64) (32 - y.toNat % 32)

/-- BFE (R166): the field, sign-extended when y[16] is 1. -/
def bitField (x y _z : Word) : Word :=
  let u : Int := x.toNat / 2 ^ fieldPos y % 2 ^ fieldLength y
  if y.toNat / 65536 % 2 = 1 ∧ 2 * u ≥ 2 ^ fieldLength y ∧ fieldLength y ≠ 0 then modWord (u - 2 ^ fieldLength y)
  else modWord u

/-- BFI (R166): z with the field replaced by the low bits of x. -/
def bitInsert (x y z : Word) : Word :=
  let p := 2 ^ fieldPos y
  let e := 2 ^ fieldLength y
  BitVec.ofNat 32 (z.toNat % p + p * (x.toNat % e) + p * e * (z.toNat / (p * e)))

/-- The binary and three-operand rows of the integer table (R164-R166). -/
def integerTable : List ((LR3 → Instr) × (Word → Word → Word → Word)) :=
  [(.iadd, fun x y _ => modWord (x.toInt + y.toInt)),
   (.isub, fun x y _ => modWord (x.toInt - y.toInt)),
   (.imul, fun x y _ => modWord (x.toInt * y.toInt)),
   (.imulh, fun x y _ => modWord (x.toInt * y.toInt / 2 ^ 32)),
   (.nmulh, fun x y _ => modWord ((x.toNat * y.toNat : Nat) / 2 ^ 32)),
   (.imad, fun x y z => modWord (x.toInt * y.toInt + z.toInt)),
   (.imin, fun x y _ => modWord (min x.toInt y.toInt)),
   (.imax, fun x y _ => modWord (max x.toInt y.toInt)),
   (.nmin, fun x y _ => modWord (min x.toNat y.toNat : Nat)),
   (.nmax, fun x y _ => modWord (max x.toNat y.toNat : Nat)),
   (.and, fun x y _ => x &&& y),
   (.or, fun x y _ => x ||| y),
   (.xor, fun x y _ => x ^^^ y),
   (.andn, fun x y _ => x &&& ~~~y),
   (.shl, fun x y _ => if y.toNat ≥ 32 then 0 else shiftLeft x.toNat y.toNat),
   (.shr, fun x y _ => if y.toNat ≥ 32 then 0 else shiftRight x.toNat y.toNat),
   (.sar, fun x y _ => if y.toNat ≥ 32 then (if x.toInt < 0 then 0xFFFFFFFF else 0) else shiftRight x.toInt y.toNat),
   (.shrr, fun x y _ => if y.toNat = 0 then x else if y.toNat ≥ 32 then 0
      else modWord ((x.toInt + 2 ^ (y.toNat - 1)) / 2 ^ y.toNat)),
   (.bfe, bitField), (.bfi, bitInsert)]

/-- Ones of a word. -/
def countOnes (x : Word) : Nat := ((List.range 32).filter fun i => x.toNat / 2 ^ i % 2 = 1).length
/-- Zeros above the highest one; 32 for zero. -/
def leadingZeros (x : Word) : Nat := ((List.range 32).takeWhile fun i => x.toNat / 2 ^ (31 - i) % 2 = 0).length
/-- Bit i of the result is bit 31 - i of x. -/
def reversed (x : Word) : Word :=
  BitVec.ofNat 32 (((List.range 32).map fun i => x.toNat / 2 ^ (31 - i) % 2 * 2 ^ i).sum)

/-- The unary rows of the integer table (R164). -/
def integerUnary : List ((LR2 → Instr) × (Word → Word)) :=
  [(.iabs, fun x => modWord (if x.toInt < 0 then -x.toInt else x.toInt)),
   (.popc, fun x => BitVec.ofNat 32 (countOnes x)),
   (.clz, fun x => BitVec.ofNat 32 (leadingZeros x)),
   (.brev, reversed),
   (.mov, fun x => x)]

/-! ### Uniform words (R43, R44) -/

/-- The operands of a UR word after R28. -/
def uniX (s : State) (f : UR3) : DWord := s.group.sAt (s.group.uni f.i f.a.toNat)
def uniY (s : State) (f : UR3) : DWord := s.group.sAt (s.group.uni f.i f.b.toNat)

/-- The uniform ALU's table; shift counts are the whole 64-bit y. -/
def uniformTable : List ((UR3 → Instr) × (DWord → DWord → DWord)) :=
  [(.uadd, fun x y => BitVec.ofNat 64 (x.toNat + y.toNat)),
   (.usub, fun x y => BitVec.ofInt 64 (x.toInt - y.toInt)),
   (.umul, fun x y => BitVec.ofNat 64 (x.toNat * y.toNat)),
   (.uand, fun x y => x &&& y), (.uor, fun x y => x ||| y), (.uxor, fun x y => x ^^^ y),
   (.ushl, fun x y => if 64 ≤ y.toNat then 0 else BitVec.ofNat 64 (x.toNat * 2 ^ y.toNat)),
   (.ushr, fun x y => if 64 ≤ y.toNat then 0 else BitVec.ofNat 64 (x.toNat / 2 ^ y.toNat)),
   (.usar, fun x y => if 64 ≤ y.toNat then (if x.toInt < 0 then BitVec.allOnes 64 else 0)
      else BitVec.ofInt 64 (x.toInt / 2 ^ y.toNat)),
   (.umin, fun x y => BitVec.ofInt 64 (min x.toInt y.toInt)), (.umax, fun x y => BitVec.ofInt 64 (max x.toInt y.toInt)),
   (.ucmpeq, fun x y => if x = y then 1 else 0), (.ucmplt, fun x y => if x.toInt < y.toInt then 1 else 0),
   (.ucmplo, fun x y => if x.toNat < y.toNat then 1 else 0)]

/-- The UI words: imm17 is sign-extended, but for the count of USHLI. -/
def immediateTable : List ((UImm → Instr) × (BitVec 17 → DWord → DWord)) :=
  [(.umovi, fun i _ => BitVec.ofInt 64 i.toInt), (.uaddi, fun i x => BitVec.ofInt 64 (x.toInt + i.toInt)),
   (.ushli, fun i x => if 64 ≤ i.toNat then 0 else BitVec.ofNat 64 (x.toNat * 2 ^ i.toNat))]

/-! ### Control flow (R270-R274) -/

/-- Word offset of a branch target: PC + sext(offset). -/
def targetOf (s : State) (off : BitVec 19) : Int := (s.split.pc.toNat % 1024 : Nat) + off.toInt
def InSegment (t : Int) : Prop := 0 ≤ t ∧ t ≤ 1023

/-- The word moves the whole split to an offset of its segment and changes nothing else. -/
structure MovedTo (s t : State) (off : Nat) : Prop where
  outside : OnlyGroup s t
  split : SplitIs s t (SplitAt s off)
  frame : OnlySplits s.group t.group

/-- A taken branch moves the split, or is illegal outside the segment (R34). -/
def Branched (s t : State) (off : BitVec 19) : Prop :=
  (InSegment (targetOf s off) → MovedTo s t (targetOf s off).toNat) ∧ (¬ InSegment (targetOf s off) → Illegal s t)

/-- The word only steps past itself. -/
def Passed (s t : State) (n : Nat) : Prop := SteppedPast s t n ∧ OnlySplits s.group t.group

/-- The lanes of `T` leave the selected split for `pc` as a new split (R263): in the lowest free slot, with the next creation
number and the divider's priority; on the spill area where no slot is free; and fault 0x15 where that is full too. -/
def Divided (s t : State) (T : Lanes) (pc : BitVec 15) : Prop :=
  let kept : Split := { SplitPast s 1 with mask := s.split.mask &&& ~~~T, exec := s.split.exec &&& ~~~T }
  (∀ i, i < 4 → (s.group.split i).st = .free → (∀ j, j < i → (s.group.split j).st ≠ .free) →
    OnlyGroup s t ∧ t.split = kept ∧
    t.group.split i = { st := .ready, pc, mask := T, exec := T, pri := s.split.pri, yld := s.split.yld,
                        ypri := s.split.ypri, cre := s.group.nextCre } ∧
    (∀ j, j ≠ s.sel.slot → j ≠ i → t.group.split j = s.group.split j) ∧ t.group.nextCre = s.group.nextCre + 1 ∧
    { t.group with splits := s.group.splits, nextCre := s.group.nextCre } = s.group) ∧
  ((∀ i, i < 4 → (s.group.split i).st ≠ .free) → s.group.spill.length < 16 →
    OnlyGroup s t ∧ SplitIs s t kept ∧ t.group.spill = (pc, T) :: s.group.spill ∧
    { t.group with splits := s.group.splits, spill := s.group.spill } = s.group) ∧
  ((∀ i, i < 4 → (s.group.split i).st ≠ .free) → 16 ≤ s.group.spill.length →
    Faulted s t 0x15 (BitVec.ofNat 64 T.toNat))

/-- A split is live: it is not free. The handler holds it where its lanes are not the frame's (R311). -/
def Live (g : Group) (i : Nat) : Prop := i < 4 ∧ (g.split i).st ≠ .free
def Held (g : Group) (i : Nat) : Prop := g.h = true ∧ (g.split i).mask &&& g.frame.mask = 0

/-- The JOINWAIT split `i` proceeds: the handler does not hold it, no other split that counts is READY, and every other one
in JOINWAIT has a higher PC (R265). -/
def JoinMayGo (g : Group) (i : Nat) : Prop :=
  (g.split i).st = .joinwait ∧ ¬ Held g i ∧
    ∀ j, j ≠ i → Live g j → ¬ Held g j → (g.split j).st ≠ .ready ∧
      ((g.split j).st = .joinwait → (g.split i).pc.toNat < (g.split j).pc.toNat)

/-- The lowest PRI among the live splits. -/
def lowestPriority (g : Group) : Nat :=
  (((List.range 4).filter fun i => (g.split i).st != .free).map fun i => (g.split i).pri.toNat).foldl min 255

/-- The low W bits of a uniform value as lanes of the group. -/
def maskArg (s : State) (x : DWord) : Lanes := lanesWhere fun l => decide (l < s.width) && x.getLsbD l

/-! ### Special values, records and flags (R117, R140, R147) -/

/-- The special values by code: LANE, GRPIN, BLK, NBLK, CORE, DIE, PKG, SLOT, CLK, STATUS, VID. -/
def specialOf (s : State) (c l : Nat) : Word :=
  match c with
  | 0 => BitVec.ofNat 32 l
  | 1 => BitVec.ofNat 32 s.group.grpin
  | 2 => BitVec.ofNat 32 s.block.blk
  | 3 => BitVec.ofNat 32 s.grid.nblk
  | 4 => BitVec.ofNat 32 (s.sel.core % 208)
  | 5 => BitVec.ofNat 32 (s.sel.core / 208)
  | 6 => BitVec.ofNat 32 s.id.pkg.toNat
  | 7 => BitVec.ofNat 32 s.sel.slot
  | 8 => BitVec.ofNat 32 (s.dieAt (s.sel.core / 208)).clk.toNat
  | 9 => BitVec.ofNat 32 ((if laneIn s.group.sat l then 1 else 0) + (if laneIn s.group.clip l then 2 else 0) +
      (if laneIn s.group.qsat l then 4 else 0) + if laneIn s.group.invx l then 8 else 0)
  | _ => BitVec.ofNat 32 s.group.vid

/-- The high half of a record: bits 63 and 62 zero, SPACE at most 4, SWZ at most 3, a peer only in space 3 (R117). -/
def LegalRecordHigh (hi : DWord) : Prop :=
  hi.extractLsb' 62 2 = 0 ∧ (hi.extractLsb' 52 4).toNat ≤ 4 ∧ (hi.extractLsb' 48 4).toNat ≤ 3 ∧
    (hi.extractLsb' 52 4 = 3 ∨ hi.extractLsb' 56 6 = 0)

/-- The flags named by x[3:0] are cleared in the lanes of `m`; nothing else of the group changes (R147). -/
def ClearsFlags (g h : Group) (m : Lanes) (x : DWord) : Prop :=
  (∀ l, l < 48 → laneIn h.sat l = (laneIn g.sat l && !(x.getLsbD 0 && laneIn m l)) ∧
    laneIn h.clip l = (laneIn g.clip l && !(x.getLsbD 1 && laneIn m l)) ∧
    laneIn h.qsat l = (laneIn g.qsat l && !(x.getLsbD 2 && laneIn m l)) ∧
    laneIn h.invx l = (laneIn g.invx l && !(x.getLsbD 3 && laneIn m l))) ∧
  { h with sat := g.sat, clip := g.clip, qsat := g.qsat, invx := g.invx, splits := g.splits } = g

/-! ### SEL and the immediates (R167, R168) -/

/-- A word of the LI format writes `val imm x`, with its registers in the first window. -/
def WritesImm (k : LImm → Instr) (val : BitVec 7 → Word → Word) : Prop :=
  ∀ (s : State) (f : LImm), CanRun s 1 (f.refs s.group) → ∃ t, exec (k f) s = .next t ∧
    LaneResult s t 1 (s.group.lane 0 f.d.toNat) (s.active f.g) fun l => val f.imm (s.group.vAt (s.group.lane 0 f.a.toNat) l)

/-- A shift immediate writes `val c x`. -/
def WritesShift (k : LShift → Instr) (val : Nat → Word → Word) : Prop :=
  ∀ (s : State) (f : LShift), CanRun s 1 (f.refs s.group) → ∃ t, exec (k f) s = .next t ∧
    LaneResult s t 1 (s.group.lane 0 f.d.toNat) (s.active f.g) fun l =>
      val f.c.toNat (s.group.vAt (s.group.lane 0 f.a.toNat) l)

/-! ### The packed table (R169) -/

/-- Elements of a packed register, signed, and two elements put together modulo 2^16 each (R149). -/
def elem0 (x : Word) : Int := (x.setWidth 16 : BitVec 16).toInt
def elem1 (x : Word) : Int := ((x >>> 16).setWidth 16 : BitVec 16).toInt
def packed (e0 e1 : Int) : Word := BitVec.ofInt 32 (e0 % 65536 + 65536 * (e1 % 65536))
/-- sat(v, n): the clamped value, and whether it clamped. -/
def clamp (n : Nat) (v : Int) : Int × Bool :=
  (max (-(2 ^ (n - 1))) (min v (2 ^ (n - 1) - 1)), decide (v < -(2 ^ (n - 1)) ∨ 2 ^ (n - 1) ≤ v))
def clampWord (v : Int) : Word × Bool := (BitVec.ofInt 32 (clamp 32 v).1, (clamp 32 v).2)
/-- SHRR of a 16-bit value. -/
def roundShift16 (x : Int) (c : Nat) : Int := if c = 0 then x else if c ≥ 16 then 0 else (x + 2 ^ (c - 1)) / 2 ^ c

/-- The rows that never set SAT. -/
def packedTable : List ((LR3 → Instr) × (Word → Word → Word → Word)) :=
  [(.padd2, fun x y _ => packed (elem0 x + elem0 y) (elem1 x + elem1 y)),
   (.psub2, fun x y _ => packed (elem0 x - elem0 y) (elem1 x - elem1 y)),
   (.pmul2, fun x y _ => packed (elem0 x * elem0 y) (elem1 x * elem1 y)),
   (.pshrr2, fun x y _ => packed (roundShift16 (elem0 x) (y.toNat % 65536)) (roundShift16 (elem1 x) (y.toNat / 65536)))]

/-- The rows that set SAT on a clamp. -/
def saturatingTable : List ((LR3 → Instr) × (Word → Word → Word → Word × Bool)) :=
  [(.pmac2, fun x y z => clampWord (z.toInt + elem0 x * elem0 y + elem1 x * elem1 y)),
   (.pmacx2, fun x y z => clampWord (z.toInt + elem0 x * elem1 y + elem1 x * elem0 y)),
   (.sadd, fun x y _ => clampWord (x.toInt + y.toInt)),
   (.ssub, fun x y _ => clampWord (x.toInt - y.toInt)),
   (.pack2, fun x y _ => (packed (clamp 16 x.toInt).1 (clamp 16 y.toInt).1, (clamp 16 x.toInt).2 || (clamp 16 y.toInt).2))]

/-- The unary rows. -/
def packedUnary : List ((LR2 → Instr) × (Word → Word)) :=
  [(.sxlo, fun x => modWord (elem0 x)), (.sxhi, fun x => modWord (elem1 x))]

/-! ### F32 values (R150) -/

/-- An F32 pattern is finite, and its value: fractions of 2^-149 by the exponent field. -/
def finite (w : Word) : Prop := w.toNat / 2 ^ 23 % 256 ≠ 255
def magnitude (w : Word) : ℚ :=
  let e : Nat := w.toNat / 2 ^ 23 % 256
  let m : Nat := w.toNat % 2 ^ 23
  if e = 0 then (m : ℚ) / 2 ^ 149 else (m + 2 ^ 23 : ℚ) * 2 ^ e / 2 ^ 150
def valueOf (w : Word) : ℚ := if w.toNat / 2 ^ 31 = 1 then -magnitude w else magnitude w

/-- `w` is `v` rounded to nearest, ties to even; a magnitude of 2^128 - 2^103 or more overflows to an infinity. -/
def NearestEven (v : ℚ) (w : Word) : Prop :=
  if 2 ^ 128 - 2 ^ 103 ≤ |v| then w = (if v < 0 then 0xFF800000 else 0x7F800000)
  else finite w ∧ ∀ u, finite u → |valueOf w - v| ≤ |valueOf u - v| ∧
    (|valueOf w - v| = |valueOf u - v| → valueOf u ≠ valueOf w → w.toNat % 2 = 0)

/-- The sign of an exact zero: that of `v` where it is not zero, else as given. -/
def SignOf (v : ℚ) (zeroNegative : Bool) (w : Word) : Prop :=
  (v < 0 → w.toNat / 2 ^ 31 = 1) ∧ (0 < v → w.toNat / 2 ^ 31 = 0) ∧ (v = 0 → w = if zeroNegative then 0x80000000 else 0)

/-- The sign bit. -/
def negative (w : Word) : Bool := w.toNat / 2 ^ 31 = 1

/-- `w` is the real `v` rounded to nearest, ties to even. -/
def NearestReal (v : ℝ) (w : Word) : Prop :=
  (2 ^ 128 - 2 ^ 103 ≤ v → w = 0x7F800000) ∧ (v ≤ -(2 ^ 128 - 2 ^ 103) → w = 0xFF800000) ∧
  (|v| < 2 ^ 128 - 2 ^ 103 → finite w ∧ ∀ u, finite u → |(valueOf w : ℝ) - v| ≤ |(valueOf u : ℝ) - v| ∧
    (|(valueOf w : ℝ) - v| = |(valueOf u : ℝ) - v| → valueOf u ≠ valueOf w → w.toNat % 2 = 0))

/-- No two neighbouring F32 values have a middle within 2^-2000 of `v`. -/
def FarFromTies (v : ℝ) : Prop :=
  ∀ w : Word, finite w → finite (w + 1) → negative (w + 1) = negative w →
    1 / 2 ^ 2000 ≤ |((valueOf w : ℝ) + valueOf (w + 1)) / 2 - v|

/-! ### Rounding codes (R35, R151, R152, R174) -/

/-- `v` rounded under a code of R35, RN, RZ, RM or RP, among the finite values of a format. -/
def RoundedAs {n : Nat} (fin : BitVec n → Prop) (val : BitVec n → ℚ) (c : Nat) (v : ℚ) (w : BitVec n) : Prop :=
  fin w ∧ match c with
    | 0 => ∀ u, fin u → |val w - v| ≤ |val u - v| ∧ (|val w - v| = |val u - v| → val u ≠ val w → w.toNat % 2 = 0)
    | 1 => |val w| ≤ |v| ∧ 0 ≤ val w * v ∧ ∀ u, fin u → |val u| ≤ |v| → 0 ≤ val u * v → |val u| ≤ |val w|
    | 2 => val w ≤ v ∧ ∀ u, fin u → val u ≤ v → val u ≤ val w
    | _ => v ≤ val w ∧ ∀ u, fin u → v ≤ val u → val w ≤ val u

/-- BF16: a pattern has the value of the F32 pattern with zeros below it. -/
def finite16 (b : BitVec 16) : Prop := b.toNat / 2 ^ 7 % 256 ≠ 255
def value16 (b : BitVec 16) : ℚ := valueOf (BitVec.ofNat 32 (65536 * b.toNat))
/-- E4M3: every pattern but 0x7F and 0xFF has a value. -/
def finite8 (b : BitVec 8) : Prop := b.toNat % 128 ≠ 127
def value8 (b : BitVec 8) : ℚ :=
  let e : Nat := b.toNat / 8 % 16
  let m : Nat := b.toNat % 8
  let x : ℚ := if e = 0 then (m : ℚ) / 512 else (m + 8 : ℚ) * 2 ^ e / 1024
  if b.toNat / 128 = 1 then -x else x

/-- F32 to BF16: beyond the largest value a code rounds to it or to an infinity. -/
def RoundedTo16 (c : Nat) (v : ℚ) (w : BitVec 16) : Prop :=
  let large : Prop := match c with
    | 0 => 2 ^ 128 - 2 ^ 119 ≤ |v|
    | 1 => False
    | 2 => v < -(2 ^ 128 - 2 ^ 120)
    | _ => 2 ^ 128 - 2 ^ 120 < v
  (large → w = if v < 0 then 0xFF80 else 0x7F80) ∧ (¬ large → RoundedAs finite16 value16 c v w)

/-- F32 to E4M3: a result beyond 448 becomes 448 with its sign, and sets SAT. -/
def RoundedTo8 (c : Nat) (v : ℚ) (w : BitVec 8) (sat : Bool) : Prop :=
  let large : Prop := match c with
    | 0 => 464 < |v|
    | 1 => 480 ≤ |v|
    | 2 => 480 ≤ v ∨ v < -448
    | _ => 448 < v ∨ v ≤ -480
  (sat = true ↔ large) ∧ (large → w = if v < 0 then 0xFE else 0x7E) ∧ (¬ large → RoundedAs finite8 value8 c v w)

/-! ### The floating-point tables (R170-R174) -/

/-- A NaN pattern. -/
def nanPattern (x : Word) : Bool := decide (x.toNat % 2 ^ 31 > 0x7F800000)
/-- The value's order as a number: patterns of a sign are ordered as their magnitude, and the zeros are equal. -/
def orderKey (x : Word) : Int := if negative x then -((x.toNat % 2 ^ 31 : Nat) : Int) else (x.toNat % 2 ^ 31 : Nat)
def unordered (x y : Word) : Bool := nanPattern x || nanPattern y

/-- FMIN and FMAX: -0 below +0, a NaN gives way to a number (R171). -/
def pickF32 (larger : Bool) (x y : Word) : Word :=
  if nanPattern x && nanPattern y then 0x7FC00000
  else if nanPattern x then y
  else if nanPattern y then x
  else
    let less := decide (orderKey x < orderKey y) || (decide (orderKey x = orderKey y) && negative x)
    if less then (if larger then y else x) else (if larger then x else y)

/-- Element i of a packed BF16 register, and two elements each rounded once (R173). -/
def bfAt (x : Word) (i : Nat) : FVal := bf16Val ((x >>> (16 * i)).setWidth 16)
def bfBoth (v : Nat → FVal) : Word := BitVec.ofNat 32 ((bf16Of 0 (v 0)).toNat + 65536 * (bf16Of 0 (v 1)).toNat)

/-- A rational rounded to an integer under a code of R35: RN, RZ, RM, RP. -/
def roundRat (c : Nat) (v : ℚ) : Int :=
  match c with
  | 0 => if v - ⌊v⌋ < 1 / 2 ∨ (v - ⌊v⌋ = 1 / 2 ∧ ⌊v⌋ % 2 = 0) then ⌊v⌋ else ⌊v⌋ + 1
  | 1 => if v < 0 then ⌈v⌉ else ⌊v⌋
  | 2 => ⌊v⌋
  | _ => ⌈v⌉

/-- CVTFI and CVTFN (R174): a NaN gives 0, the rest is clamped; each of these sets SAT. -/
def toInteger (c : Nat) (lo hi : Int) (x : Word) : Word × Bool :=
  if nanPattern x then (0, true)
  else if x.toNat / 2 ^ 23 % 256 = 255 then (modWord (if negative x then lo else hi), true)
  else
    let v := roundRat c (valueOf x)
    (modWord (max lo (min v hi)), decide (v < lo ∨ hi < v))

/-- The binary and three-operand rows, on the exact values of Machine/Num.lean, each rounded once. -/
def floatTable : List ((LR3 → Instr) × (Word → Word → Word → Word)) :=
  [(.fadd, fun x y _ => f32Of 0 (exAdd (f32Val x) (f32Val y))),
   (.fsub, fun x y _ => f32Of 0 (exAdd (f32Val x) (exNeg (f32Val y)))),
   (.fmul, fun x y _ => f32Of 0 (exMul (f32Val x) (f32Val y))),
   (.ffma, fun x y z => f32Of 0 (exAdd (exMul (f32Val x) (f32Val y)) (f32Val z))),
   (.fmin, fun x y _ => pickF32 false x y),
   (.fmax, fun x y _ => pickF32 true x y),
   (.bfma2, fun x y z => bfBoth fun i => exAdd (exMul (bfAt x i) (bfAt y i)) (bfAt z i)),
   (.badd2, fun x y _ => bfBoth fun i => exAdd (bfAt x i) (bfAt y i)),
   (.bmul2, fun x y _ => bfBoth fun i => exMul (bfAt x i) (bfAt y i))]

/-- The unary rows: sign operations with the canonical NaN, and the correctly rounded functions. -/
def floatUnary : List ((LR2 → Instr) × (Word → Word)) :=
  [(.fneg, fun x => if nanPattern x then 0x7FC00000 else x ^^^ 0x80000000),
   (.fabs, fun x => if nanPattern x then 0x7FC00000 else x &&& 0x7FFFFFFF),
   (.frcp, f32Rcp), (.frsq, f32Rsq), (.fsqrt, f32Sqrt), (.fexp2, f32Exp2), (.flog2, f32Log2), (.fsin, f32SinCos false),
   (.fcos, f32SinCos true)]

/-- The conversions, by rounding code (R174). -/
def conversionTable : List ((LCode → Instr) × (Nat → Word → Word × Bool)) :=
  [(.cvtfi, fun c x => toInteger c (-(2 ^ 31)) (2 ^ 31 - 1) x),
   (.cvtfn, fun c x => toInteger c 0 (2 ^ 32 - 1) x),
   (.cvtif, fun c x => (f32Of c (intVal x.toInt), false)),
   (.cvtnf, fun c x => (f32Of c (intVal x.toNat), false)),
   (.cvtbf, fun _ x => (f32Of 0 (bf16Val (x.setWidth 16)), false)),
   (.cvtfb, fun c x => ((bf16Of c (f32Val x)).setWidth 32, false)),
   (.cvtef, fun _ x => (f32Of 0 (e4m3Val (x.setWidth 8)), false)),
   (.cvtfe, fun c x => ((e4m3Of c (f32Val x)).1.setWidth 32, (e4m3Of c (f32Val x)).2))]

/-- A conversion word of an assigned rounding code (R35) writes its result and sets SAT. -/
def WritesCode (k : LCode → Instr) (val : Nat → Word → Word × Bool) : Prop :=
  ∀ (s : State) (f : LCode), f.c.toNat < 4 → CanRun s 1 (f.refs s.group) → ∃ t, exec (k f) s = .next t ∧
    LaneResultSat s t 1 (s.group.lane f.w f.d.toNat) (s.active f.g) fun l =>
      val f.c.toNat (s.group.vAt (s.group.lane f.w f.a.toNat) l)

/-! ### Compares and predicates (R175-R177) -/

/-- The relations of the compare table. -/
def compareTable : List ((LCmp → Instr) × (Word → Word → Bool)) :=
  [(.icmpeq, fun x y => decide (x = y)), (.icmpne, fun x y => decide (x ≠ y)),
   (.icmplt, fun x y => decide (x.toInt < y.toInt)), (.icmple, fun x y => decide (x.toInt ≤ y.toInt)),
   (.ncmplt, fun x y => decide (x.toNat < y.toNat)), (.ncmple, fun x y => decide (x.toNat ≤ y.toNat)),
   (.fcmpeq, fun x y => !unordered x y && decide (orderKey x = orderKey y)),
   (.fcmpne, fun x y => unordered x y || decide (orderKey x ≠ orderKey y)),
   (.fcmplt, fun x y => !unordered x y && decide (orderKey x < orderKey y)),
   (.fcmple, fun x y => !unordered x y && decide (orderKey x ≤ orderKey y)),
   (.fcmpun, unordered)]

/-- Predicates that no compare, PSET or predicate word of destination `d` writes. -/
def OtherPreds (g h : Group) (ds : List Nat) : Prop := ∀ r, r ∉ ds → h.pAt r = g.pAt r

/-- A compare word: P[d] in the active lanes, and the complement in P[d xor 1] when the pair bit is set. -/
def Compares (k : LCmp → Instr) (rel : Word → Word → Bool) : Prop :=
  ∀ (s : State) (f : LCmp), CanRun s 1 (f.refs s.group) → ∃ t, exec (k f) s = .next t ∧
    SteppedPast s t 1 ∧ OnlyPreds s.group t.group ∧
    PredWrite s.group t.group f.d.toNat (s.active f.g) (fun l =>
      rel (s.group.vAt (s.group.lane f.w f.a.toNat) l) (s.group.vAt (s.group.lane f.w f.b.toNat) l)) ∧
    (f.p = 1 → PredWrite s.group t.group (f.d ^^^ 1).toNat (s.active f.g) fun l =>
      !rel (s.group.vAt (s.group.lane f.w f.a.toNat) l) (s.group.vAt (s.group.lane f.w f.b.toNat) l)) ∧
    OtherPreds s.group t.group (if f.p = 1 then [f.d.toNat, (f.d ^^^ 1).toNat] else [f.d.toNat])

/-- A predicate operand with its invert bit. -/
def predBit (g : Group) (r : BitVec 4) (invert : BitVec 1) (l : Nat) : Bool :=
  laneIn (g.pAt r.toNat) l != decide (invert = 1)

/-- The predicate words. -/
def predicateTable : List ((LPred → Instr) × (Bool → Bool → Bool)) :=
  [(.pand, fun u v => u && v), (.por, fun u v => u || v), (.pxor, fun u v => u != v)]

def WritesPred (k : LPred → Instr) (op : Bool → Bool → Bool) : Prop :=
  ∀ (s : State) (f : LPred), CanRun s 1 [] → ∃ t, exec (k f) s = .next t ∧
    SteppedPast s t 1 ∧ OnlyPreds s.group t.group ∧ OtherPreds s.group t.group [f.d.toNat] ∧
    PredWrite s.group t.group f.d.toNat (s.active f.g) fun l => op (predBit s.group f.a f.x l) (predBit s.group f.b f.y l)

/-- The conditions of PSET (R35). -/
def condition (c : Nat) (x : Word) : Bool :=
  match c with
  | 0 => decide (x ≠ 0)
  | 1 => decide (x = 0)
  | 2 => decide (x.toInt < 0)
  | 3 => decide (0 ≤ x.toInt)
  | 4 => nanPattern x
  | _ => decide (x.toNat % 2 ^ 31 = 0x7F800000)

/-! ### Across lanes (R178-R180): n lanes, rows a and b, lane i -/

def slideTable : List ((LR3 → Instr) × (Nat → (Nat → Word) → (Nat → Word) → Nat → Word)) :=
  [(.slide, fun n a b i => if i = 0 then b (n - 1) else a (i - 1)),
   (.slideh, fun n a b i => BitVec.ofNat 32 ((a i).toNat * 65536 +
      (if i = 0 then b (n - 1) else a (i - 1)).toNat / 65536)),
   (.sliden, fun n a b i => if i = n - 1 then b 0 else a (i + 1)),
   (.swap, fun n a b i => if i ^^^ ((b i).toNat % 64) < n then a (i ^^^ ((b i).toNat % 64)) else a i),
   (.perm, fun n a b i => if (b i).toNat % 64 < n then a ((b i).toNat % 64) else 0)]

/-- One level of the reduction tree over n values, and the whole tree of R159. -/
def treeLevel (op : Word → Word → Word) (v : Nat → Word) : Nat → Word := fun i => op (v (2 * i)) (v (2 * i + 1))
def tree (op : Word → Word → Word) (n : Nat) (v : Nat → Word) : Word :=
  if n = 48 then
    let w := treeLevel op (treeLevel op (treeLevel op (treeLevel op v)))
    op (op (w 0) (w 1)) (w 2)
  else treeLevel op (treeLevel op (treeLevel op (treeLevel op v))) 0

/-- Lane values of a reduction: an inactive lane at the identity. -/
def laneValues (s : State) (f : LR2) (ident : Word) (l : Nat) : Word :=
  if laneIn (s.active f.g) l then opX2 s f l else ident

/-- The reductions and their identities. -/
def reduceTable : List ((LR2 → Instr) × (Word → Word → Word) × Word) :=
  [(.redsum, f32Add, 0), (.rediadd, fun x y => x + y, 0), (.redmax, pickF32 true, 0xFF800000),
   (.redmin, pickF32 false, 0x7F800000)]

/-- The serial sum of R160 up to a lane. -/
def serialSum (x : Nat → Word) : Nat → Word
  | 0 => x 0
  | i + 1 => f32Add (serialSum x i) (x (i + 1))

/-! ### Philox (R183) -/

/-- The state after `r` rounds: counter words and key words as the next round takes them. -/
def philoxAfter (c0 c1 c2 c3 k0 k1 : Word) : Nat → (Word × Word × Word × Word) × (Word × Word)
  | 0 => ((c0, c1, c2, c3), (k0, k1))
  | r + 1 =>
    let ((d0, d1, d2, d3), (j0, j1)) := philoxAfter c0 c1 c2 c3 k0 k1 r
    let p : DWord := BitVec.ofNat 64 (0xD2511F53 * d0.toNat)
    let q : DWord := BitVec.ofNat 64 (0xCD9E8D57 * d2.toNat)
    (((q >>> 32).setWidth 32 ^^^ d1 ^^^ j0, q.setWidth 32, (p >>> 32).setWidth 32 ^^^ d3 ^^^ j1, p.setWidth 32),
     (j0 + 0x9E3779B9, j1 + 0xBB67AE85))

end Sys2Proof.Statements
end

