-- ==== Sys2Proof/Certificates/Slice0/Terms.lean ====
section
/-!
DEFINITION. More vocabulary of the statements: the checks every word makes, memory words and the requests they leave, what a
home does with a request, and the other agents of the package.
-/

namespace Sys2Proof.Statements

open Sys2Proof.Machine

/-! ### The checks of R40 -/

/-- An instruction word whose opcode is assigned. -/
def IsWord (i : Instr) : Prop := wellFormed i = true ∧ ∀ w, i ≠ .reservedOpcode w

/-- Words only a privileged group may run: a cached bypass and a write of WCAGE (R42, R143). -/
def PrivilegedWord (i : Instr) : Prop := wordCbyp i = true ∨ ∃ f : MovcwForm, i = .movcw f ∧ f.c = 4

/-- The words a core does not have: on an Oasis core the matrix words, and on either kind BCAST from a lane that its groups
lack (R35, R41). -/
def CoreLacks (i : Instr) (s : State) : Prop :=
  (isOasis s.sel.core = true ∧ ((∃ f, i = .mma f) ∨ (∃ f, i = .accz f) ∨ (∃ f, i = .accrd f) ∨ (∃ f, i = .accsc f) ∨
    (∃ f, i = .accwr f) ∨ ∃ f, i = .qnt f)) ∨
  ∃ f, i = .bcast f ∧ (if isOasis s.sel.core = true then 16 else 48) ≤ f.c.toNat

/-- The limit of a register, and the first register of a list that lies beyond it (R27, R28). -/
def limitOf (g : Group) (r : RegRef) : Nat := if r.uni then 128 else g.budget
def FirstPast (g : Group) (refs : List RegRef) (r : RegRef) : Prop :=
  ∃ before rest, refs = before ++ r :: rest ∧ Fits g before ∧ limitOf g r < r.first + r.run
/-- Detail of trap 3 (R310): the register, the limit, and the file. -/
def boundDetail (g : Group) (r : RegRef) : DWord :=
  BitVec.ofNat 64 (max r.first (limitOf g r) + 2 ^ 17 * limitOf g r + if r.uni then 2 ^ 26 else 0)

/-- The word stood in word 1,023 and has acted; its step past is fault 0x12 (R34, R310). -/
structure RanOff (s t : State) : Prop where
  rest : { t with cores := s.cores, grids := s.grids } = s
  core : { t.core with groups := s.core.groups } = s.core
  bytes : ∀ v a, t.viewByte v a = s.viewByte v a
  grid : t.gridAt s.group.gid = afterFault (s.gridAt s.group.gid)
    { code := 0x12, detail := wordsAtPc s, blk := s.block.blk, coreN := s.coreN s.sel.core, grpin := s.group.grpin,
      slot := s.sel.slot, pc := s.split.pc }
  split : SplitIs s t { s.split with st := .blocked, wait := none, search := none }

/-! ### Memory words (R120-R132) -/

/-- What a memory word asks for: kind, bytes a lane, data registers, effective data and index register, record, active
lanes, order, scope, function, cache policy, and whether it bypasses versions. -/
structure Access where
  kind : ReqKind
  sz : Nat
  n : Nat
  d : Nat
  a : Nat
  r : Nat
  act : Lanes
  ord : BitVec 2 := 0
  scope : BitVec 3 := 0
  func : Nat := 0
  policy : BitVec 2 := 0
  bypass : Bool := false

/-- The record, and of one lane the offset before the swizzle and the address in the record's space. -/
def Access.record (m : Access) (s : State) : BitVec 128 := s.group.dAt m.r
def Access.space (m : Access) (s : State) : Nat := s.spaceOf (m.record s)
def Access.off (m : Access) (s : State) (l : Nat) : Nat := indexOffset (m.record s) (s.group.vAt m.a l)
def Access.addr (m : Access) (s : State) (l : Nat) : Nat := spaceAddr (m.space s) (m.record s) (m.off s l)

/-- The lane is clipped: it ends beyond the extent, or its address is misaligned (R120, R121). -/
def Access.Clips (m : Access) (s : State) (l : Nat) : Prop :=
  recExtent (m.record s) < m.off s l + m.sz ∨ m.addr s l % m.sz ≠ 0
/-- The lane is active and is not clipped. -/
def Access.Goes (m : Access) (s : State) (l : Nat) : Prop := l < 48 ∧ laneIn m.act l = true ∧ ¬ m.Clips s l
/-- The lane's bytes lie in the block's allotment (spaces 1 and 2). -/
def Access.Allotted (m : Access) (s : State) (l : Nat) : Prop :=
  if m.space s = 1 then m.addr s l + m.sz ≤ s.block.sharedSize
  else 64512 * s.block.slots ≤ m.addr s l ∧ m.addr s l + m.sz ≤ 64512 * s.block.slots + s.block.tileBytes
/-- The lane's bytes lie in ranges of the grid's lease that permit the access (R63). -/
def Access.Leased (m : Access) (s : State) (l : Nat) : Prop :=
  ∀ i, i < m.sz → m.addr s l + i < 2 ^ 57 ∧ s.grid.permits (m.kind != .load) (m.addr s l + i) = true
/-- The core's TLB holds the page with permission (R52, R56). -/
def Access.Mapped (m : Access) (s : State) (l : Nat) : Prop :=
  ∃ e, tlbFind s.core.tlb s.group.asn (vpnOf (m.addr s l)) = some e ∧
    (m.kind ≠ .store → e.perm.getLsbD 0 = true) ∧ (m.kind ≠ .load → e.perm.getLsbD 1 = true)
/-- The lane passes every check of its space. -/
def Access.Reaches (m : Access) (s : State) (l : Nat) : Prop :=
  if m.space s = 1 ∨ m.space s = 2 then m.Allotted s l
  else inWindow (m.addr s l) = false ∧ m.Leased s l ∧ (m.space s ≠ 3 → m.Mapped s l)

/-- Spaces the kind may name (R120), and no wide access through SWZ 3. -/
def Access.SpaceFits (m : Access) (s : State) : Prop :=
  (match m.kind with
    | .load => m.space s ∈ [0, 1, 2, 3, 4]
    | .store => m.space s ∈ [0, 1, 2, 3]
    | .atom => m.space s ∈ [0, 1, 3]
    | .dqop => m.space s ∈ [0, 1]) ∧
  (recSwz (m.record s) = 3 → m.kind = .load ∨ m.kind = .store → m.sz < 8)

/-- A release has nothing to wait for (R234): the word has no release, or scope THREAD, or its split has drained. -/
def Access.Released (m : Access) (s : State) : Prop :=
  m.ord = 0 ∨ m.ord = 1 ∨ m.scope = 0 ∨ (m.scope.toNat ≤ 5 ∧ (s.split.phase ≠ 0 ∨ s.drained = true))

/-- The operand log has room for the values owed (R320). -/
def Access.Room (m : Access) (s : State) : Prop :=
  m.kind = .store ∨ ∃ j, j < 32 ∧ mapFind s.group.oplog j = none

/-- The version the word's accesses name (R125). -/
def Access.version (m : Access) (s : State) : Nat := if m.bypass ∨ m.space s = 4 then 0 else s.group.vid

/-- A store to memory has room in the L2 and the spill area for every line it names (R80). -/
def Access.HasRoom (m : Access) (s : State) : Prop :=
  m.kind = .store → m.space s = 0 → s.deadVid (m.version s) = true ∨
    ∀ l e, m.Goes s l → tlbFind s.core.tlb s.group.asn (vpnOf (m.addr s l)) = some e →
      s.storeRoom (lineOf (physOf e.stack e.frame (m.addr s l))) (m.version s) (classOf m.policy) = .ready

/-- No load of the core waits for buffered stores to leave (R126, R227). -/
def NoLoadWaits (s : State) : Prop := ∀ q ∈ s.core.reqs, q.space = 3 → q.after = []

/-- A lane's byte of a store: byte `i` of the run of data registers. -/
def Access.byteOf (m : Access) (s : State) (l i : Nat) : Byte :=
  BitVec.ofNat 8 ((s.group.vAt (m.d + i / 4) l).toNat / 2 ^ (8 * (i % 4)))
/-- Byte `b` at address `a` is what the store writes there: the highest-numbered lane supplies it (R129). -/
def Access.Stores (m : Access) (s : State) (a : Nat) (b : Byte) : Prop :=
  ∃ l, m.Goes s l ∧ m.addr s l ≤ a ∧ a < m.addr s l + m.sz ∧ b = m.byteOf s l (a - m.addr s l) ∧
    ∀ j, l < j → m.Goes s j → ¬ (m.addr s j ≤ a ∧ a < m.addr s j + m.sz)

/-- One request a line, each with the lanes, bytes and place of its word (R122, R126, R236). -/
structure Access.Sends (m : Access) (s t : State) (new : List Req) : Prop where
  queue : t.core.reqs = s.core.reqs ++ new
  lines : (new.map (·.line)).Nodup ∧ ∀ x, x ∈ new.map (·.line) ↔ ∃ l, m.Goes s l ∧ x = m.addr s l / 128
  place : ∀ q ∈ new, q.kind = m.kind ∧ q.grp = s.sel.grp ∧ q.slot = s.sel.slot ∧ q.mask = s.split.mask ∧
    q.pc = s.split.pc ∧ q.gid = s.group.gid ∧ q.blk = s.group.blk ∧ q.space = m.space s ∧ q.asn = s.group.asn ∧
    q.window = false ∧ q.func = m.func ∧ q.ord = m.ord ∧ q.scope = m.scope ∧
    q.vid = m.version s
  stored : m.kind = .store → ∀ q ∈ new, ∀ a b, (a, b) ∈ q.data ↔ a / 128 = q.line ∧ m.Stores s a b
  lanes : m.kind ≠ .store → ∀ q ∈ new, ∀ x, x ∈ q.lanes ↔ ∃ l, m.Goes s l ∧ m.addr s l / 128 = q.line ∧
    x = { lane := l, addr := m.addr s l, size := m.sz, x := s.group.vAt m.d l, y := s.group.vAt (m.d + 1) l }
  order : ∀ q ∈ new, (q.lanes.map (·.lane)).Pairwise (· < ·)
  stamp : ∀ q ∈ new, q.stamp = if m.ord = 3 then
    BitVec.ofNat 64 (65536 * (max s.core.lamport.toNat s.core.heard.toNat + 1) + (s.coreN s.sel.core).toNat) else 0

/-- Nothing outside the core changes, and in it only the group's flags, log and registers owed, the requests, the counters
and the mark of the block; the split stands past the word. -/
structure Access.Frame (m : Access) (s t : State) (words : Nat) : Prop where
  rest : { t with cores := s.cores } = s
  cores : ∀ k, k ≠ s.sel.core → t.coreAt k = s.coreAt k
  core : { t.core with groups := s.core.groups, blocks := s.core.blocks, reqs := s.core.reqs, nextReq := s.core.nextReq,
                       nextSer := s.core.nextSer, lamport := s.core.lamport } = s.core
  blocks : ∀ b, b ≠ s.group.blk → t.blockAt s.sel.core b = s.blockAt s.sel.core b
  block : { t.block with idem := s.block.idem } = s.block
  groups : ∀ g, g ≠ s.sel.grp → t.groupAt s.sel.core g = s.groupAt s.sel.core g
  bytes : ∀ v a, t.viewByte v a = s.viewByte v a
  split : SplitIs s t (SplitPast s words)
  group : { t.group with splits := s.group.splits, clip := s.group.clip, oplog := s.group.oplog, v := s.group.v } = s.group
  clip : ∀ l, l < 48 → (laneIn t.group.clip l = true ↔ laneIn s.group.clip l = true ∨ (laneIn m.act l = true ∧ m.Clips s l))

/-- What is owed to the group: with a lane that goes, the lowest free log entry names the destination and the lanes and no
register changes yet; with none, a load, ATOM or DQOP has written zeros (R121, R128, R320). -/
def Access.Owes (m : Access) (s t : State) (new : List Req) : Prop :=
  let nreg := if m.kind = .load then m.n else 1
  if m.kind = .store then t.group.oplog = s.group.oplog ∧ t.group.v = s.group.v
  else
    ((∃ l, m.Goes s l) → t.group.v = s.group.v ∧ ∃ j e, j < 32 ∧ mapFind s.group.oplog j = none ∧
      (∀ i, i < j → mapFind s.group.oplog i ≠ none) ∧ t.group.oplog = mapSet s.group.oplog j e ∧
      e.st = .inFlight ∧ e.slot = s.sel.slot ∧ e.dest = m.d ∧ e.nreg = nreg ∧ e.wr = m.act ∧ e.mask = s.split.mask ∧
      e.recv = m.record s ∧ e.data = [] ∧ (∀ l, l < 48 → (laneIn e.lanes l = true ↔ m.Goes s l)) ∧
      ∀ q ∈ new, q.log = j ∧ q.ser = e.ser) ∧
    ((∀ l, ¬ m.Goes s l) → t.group.oplog = s.group.oplog ∧ ∀ r l, l < 48 → t.group.vAt r l =
      if m.d ≤ r ∧ r < m.d + nreg ∧ laneIn m.act l = true then 0 else s.group.vAt r l)

/-- An L1 that holds nothing for the core. -/
def EmptyL1 (s : State) : Prop := s.grid.fuse = false ∧ s.core.l1 = []

/-- The word passes every check and may act now, in a space whose accesses wait for their home; an acquire or SC word has a
lane that goes. -/
def Access.MayGo (m : Access) (s : State) : Prop :=
  m.SpaceFits s ∧ m.space s ≠ 3 ∧ m.Room s ∧ (∀ l, m.Goes s l → m.Reaches s l) ∧ m.Released s ∧
    (m.ord = 3 → m.space s = 0 ∨ m.space s = 4) ∧ (m.ord = 1 ∨ m.ord = 3 → ∃ l, m.Goes s l) ∧
    (m.kind = .load → m.space s = 0 ∨ m.space s = 4 → EmptyL1 s) ∧ m.HasRoom s

/-- The word has left its requests, waiting for their home, and nothing else has happened to the machine. -/
def Access.Issued (m : Access) (s t : State) (words : Nat) : Prop :=
  m.Frame s t words ∧ ∃ new, m.Sends s t new ∧ m.Owes s t new ∧ (∀ q ∈ new, q.st = .waiting) ∧
    ((m.space s = 0 ∨ m.space s = 4) → ∀ q ∈ new, ∀ e, tlbFind s.core.tlb s.group.asn (vpnOf (128 * q.line)) = some e →
      q.pa = lineOf (physOf e.stack e.frame (128 * q.line)) ∧ q.gen = e.gen)

/-- What ends the idempotent mark of the word's block (R136, R296). -/
def Access.EndsIdem (m : Access) (s : State) : Prop :=
  match m.kind with
  | .load => m.ord = 3
  | .store => m.ord = 2 ∨ m.ord = 3 ∨ m.space s = 3
  | _ => True

/-- The word waits in its split, in a phase: its block has lost the idempotent mark where the word ends it, and nothing
else has changed (R262, R296). -/
structure Access.Held (m : Access) (s t : State) (i : Instr) (phase : Nat) : Prop where
  rest : { t with cores := s.cores } = s
  cores : ∀ k, k ≠ s.sel.core → t.coreAt k = s.coreAt k
  core : { t.core with groups := s.core.groups, blocks := s.core.blocks } = s.core
  blocks : ∀ b, b ≠ s.group.blk → t.blockAt s.sel.core b = s.blockAt s.sel.core b
  block : { t.block with idem := s.block.idem } = s.block
  mark : t.block.idem = true ↔ s.block.idem = true ∧ ¬ m.EndsIdem s
  groups : ∀ g, g ≠ s.sel.grp → t.groupAt s.sel.core g = s.groupAt s.sel.core g
  bytes : ∀ v a, t.viewByte v a = s.viewByte v a
  split : SplitIs s t { s.split with st := .blocked, wait := some i, phase }
  group : OnlySplits s.group t.group

/-- Messages that a die has given its links, or that wait in it for theirs (R215, R250). -/
def Die.outgoing (e : Die) : List (Instr × Msg) := e.egress ++ e.stdQueue ++ e.waiting

/-- A request has left for its peer as a message of its number, with the bytes it reads, the operations of its lanes, or
the bytes it stores (R126, R205). -/
def Access.LeftToPeer (m : Access) (s t : State) (q : Req) : Prop :=
  q.st = .remote ∧ q.peer = recPeer (m.record s) ∧ ∃ p ∈ Die.outgoing (t.dieAt (dieOf s.sel.core)),
    p.2.req = q.id ∧ p.2.va = 128 * q.line ∧ p.2.asn = s.group.asn ∧ p.2.dest / 2 = q.peer ∧ p.2.stamp = q.stamp ∧
    (m.kind = .load → p.1 = .remoteLoad ∧
      p.2.bytes.map (·.1) = q.lanes.flatMap fun x => (List.range x.size).map (x.addr + ·)) ∧
    (m.kind = .atom → p.1 = .remoteAtomic ∧ p.2.func = m.func ∧
      p.2.ops = q.lanes.map fun x => { lane := x.lane, va := x.addr, x := x.x, y := x.y }) ∧
    (m.kind = .store → p.1 = .remoteWrite ∧ p.2.bytes = q.data)

/-- A store to a peer that is not SC: every line is an entry of the buffer with its bytes, or, where every byte of it is
stored, has left as one write at once, unless its link refuses it (R205, R206, R213). -/
def Access.Buffered (m : Access) (s t : State) : Prop :=
  t.core.reqs = s.core.reqs ∧ (t.core.wc.map (·.line)).Nodup ∧
  (∀ x, x ∈ t.core.wc.map (·.line) ↔ (∃ l, m.Goes s l ∧ x = m.addr s l / 128) ∧ ∃ a, a / 128 = x ∧ ∀ b, ¬ m.Stores s a b) ∧
  (∀ w ∈ t.core.wc, w.grp = s.sel.grp ∧ w.peer = recPeer (m.record s) ∧ w.vid = m.version s ∧ w.tag = s.group.rtag ∧
    w.asn = s.group.asn ∧ w.born = (s.dieAt (dieOf s.sel.core)).clk ∧
    ∀ o b, (o, b) ∈ w.data ↔ o < 128 ∧ m.Stores s (128 * w.line + o) b) ∧
  (m.version s = 0 ∨ (∀ p, s.linkStd p = false) → ∀ x, (∀ a, a / 128 = x → ∃ b, m.Stores s a b) →
    ∃ p ∈ Die.outgoing (t.dieAt (dieOf s.sel.core)), p.1 = .remoteWrite ∧ p.2.va = 128 * x ∧ p.2.asn = s.group.asn ∧
      p.2.dest / 2 = recPeer (m.record s) ∧ p.2.tag = s.group.rtag ∧ ∀ a b, (a, b) ∈ p.2.bytes ↔ a / 128 = x ∧ m.Stores s a b)

/-- The word stands before a space of its peer, passes every check, and nothing of the core to its peer is ahead of it. -/
def Access.MayLeave (m : Access) (s : State) : Prop :=
  m.SpaceFits s ∧ m.space s = 3 ∧ m.Room s ∧ (∀ l, m.Goes s l → m.Reaches s l) ∧ m.Released s ∧ s.core.wc = [] ∧
    NoLoadWaits s ∧ (m.ord = 1 ∨ m.ord = 3 → ∃ l, m.Goes s l)

/-- What such a word leaves: entries of the buffer, or requests with their messages. -/
def Access.Leaves (m : Access) (s t : State) (words : Nat) : Prop :=
  t.split = SplitPast s words ∧ (∀ v a, t.viewByte v a = s.viewByte v a) ∧
  (m.kind = .store → m.ord ≠ 3 → m.Buffered s t) ∧
  (m.kind ≠ .store ∨ (m.ord = 3 ∧ (m.version s = 0 ∨ ∀ p, s.linkStd p = false)) →
    ∃ new, m.Sends s t new ∧ m.Owes s t new ∧ ∀ q ∈ new, m.LeftToPeer s t q)

/-- The relaxed words: kind, bytes a lane, data registers. -/
def relaxedTable : List ((LMem → Instr) × ReqKind × Nat × Nat) :=
  [(.ldb, .load, 1, 1), (.ldh, .load, 2, 1), (.ldw, .load, 4, 1), (.ldd, .load, 8, 2), (.ldq, .load, 16, 4),
   (.stb, .store, 1, 1), (.sth, .store, 2, 1), (.stw, .store, 4, 1), (.std, .store, 8, 2), (.stq, .store, 16, 4)]
/-- The words with an extension word: kind, bytes a lane, data registers, function. -/
def orderedTable : List ((LMemX → Instr) × ReqKind × Nat × Nat × Nat) :=
  [(.ldbOrdered, .load, 1, 1, 0), (.ldhOrdered, .load, 2, 1, 0), (.ldwOrdered, .load, 4, 1, 0),
   (.lddOrdered, .load, 8, 2, 0), (.ldqOrdered, .load, 16, 4, 0), (.stbOrdered, .store, 1, 1, 0),
   (.sthOrdered, .store, 2, 1, 0), (.stwOrdered, .store, 4, 1, 0), (.stdOrdered, .store, 8, 2, 0),
   (.stqOrdered, .store, 16, 4, 0), (.atomAdd, .atom, 4, 1, 0), (.atomImin, .atom, 4, 1, 1), (.atomImax, .atom, 4, 1, 2),
   (.atomNmin, .atom, 4, 1, 3), (.atomNmax, .atom, 4, 1, 4), (.atomAnd, .atom, 4, 1, 5), (.atomOr, .atom, 4, 1, 6),
   (.atomXor, .atom, 4, 1, 7), (.atomXchg, .atom, 4, 1, 8), (.atomCas, .atom, 4, 2, 9), (.atomFadd, .atom, 4, 1, 10),
   (.dqopPush, .dqop, 32, 1, 0), (.dqopPop, .dqop, 32, 1, 1), (.dqopSteal, .dqop, 32, 1, 2)]

/-- What a relaxed word, and one with an extension word, asks for. -/
def relaxedAccess (s : State) (e : ReqKind × Nat × Nat) (f : LMem) : Access :=
  { kind := e.1, sz := e.2.1, n := e.2.2, d := s.group.lane 0 f.d.toNat, a := s.group.lane 0 f.a.toNat, r := f.r.toNat,
    act := s.active f.g }
def orderedAccess (s : State) (e : ReqKind × Nat × Nat × Nat) (f : LMemX) : Access :=
  { kind := e.1, sz := e.2.1, n := e.2.2.1, d := s.group.lane 0 f.d.toNat, a := s.group.lane 0 f.a.toNat, r := f.r.toNat,
    act := s.active f.g, ord := f.ord, scope := f.scope, func := e.2.2.2, policy := f.policy,
    bypass := decide (f.cbyp = 1) }

/-! ### Memory words that stop, wait or act elsewhere -/

/-- The first active lane whose check fails, by lane number: everything before it is clipped or passes, and the pages of the
lanes that pass are in the core's TLB. -/
def Access.FailsFirst (m : Access) (s : State) (l : Nat) : Prop :=
  (m.space s = 0 ∨ m.space s = 4 → ∀ j, m.Goes s j → m.Leased s j → ¬ (m.space s = 0 ∧ inWindow (m.addr s j) = true) →
    m.Mapped s j) ∧
  m.Goes s l ∧ (if m.space s = 1 ∨ m.space s = 2 then ¬ m.Allotted s l else
    ¬ (m.space s = 0 ∧ inWindow (m.addr s l) = true) ∧ ¬ m.Leased s l) ∧
  ∀ j, j < l → m.Goes s j → (if m.space s = 1 ∨ m.space s = 2 then m.Allotted s j else
    (m.space s = 0 ∧ inWindow (m.addr s j) = true) ∨ m.Leased s j)

/-- The first byte of a lane outside the allotment, with the space (R370). -/
def Access.allotmentDetail (m : Access) (s : State) (l : Nat) : DWord :=
  let a := m.addr s l
  let lo := if m.space s = 1 then 0 else 64512 * s.block.slots
  let hi := if m.space s = 1 then s.block.sharedSize else 64512 * s.block.slots + s.block.tileBytes
  BitVec.ofNat 64 ((if a < lo then a else max a hi) % 2 ^ 32 + 2 ^ 32 * m.space s)

end Sys2Proof.Statements
end

