-- ==== Sys2Proof/Certificates/Slice0/Units.lean ====
section
/-!
DEFINITION. Vocabulary of the statements about the package's other agents: homes and slices, the matrix queue, launch
engines, the fabric, the host.
-/

namespace Sys2Proof.Statements

open Sys2Proof.Machine

/-- Every byte of memory reads as before in every version. -/
def SameBytes (s t : State) : Prop := ∀ v a, t.viewByte v a = s.viewByte v a

/-- An address of the spill area, where copies that leave the L2 are written, or of the tag of a spilled copy (R78, R79). -/
def InSpill (s : State) (a : Nat) : Prop :=
  (s.vers.vsbase.toNat ≤ a ∧ a < s.vers.vsbase.toNat + 4096 * s.spillBuckets) ∨
    ∃ c ∈ s.copies, ∃ n, c.spilled = some n ∧ s.spillTag n ≤ a ∧ a < s.spillTag n + 8

/-- Every byte outside the spill area reads as before in every version. -/
def SameView (s t : State) : Prop := ∀ v a, ¬ InSpill s a → t.viewByte v a = s.viewByte v a

/-- Nothing changes but the cores and what the home slices keep: bytes, copies, the lines in the L2 and the counters of
corrected errors and of performed requests. -/
def OnlyHomes (s t : State) : Prop :=
  { t with cores := s.cores, mem := s.mem, copies := s.copies, l2 := s.l2, corrected := s.corrected,
           performs := s.performs } = s

/-- What the walks and reads of an agent leave behind them: event records with their interrupts, and what the home slices
keep. -/
def OnlyReads (s t : State) : Prop :=
  { t with mem := s.mem, copies := s.copies, l2 := s.l2, corrected := s.corrected, host := s.host, north := s.north,
           south := s.south } = s ∧
    { t.host with msix := s.host.msix, msixPend := s.host.msixPend } = s.host ∧
    { t.north with srcSeq := s.north.srcSeq, evtail := s.north.evtail } = s.north ∧
    { t.south with srcSeq := s.south.srcSeq, evtail := s.south.evtail } = s.south

/-- What translating pages leaves behind: reads by the walkers, and translations in the TLBs. -/
def OnlyTranslates (s t : State) : Prop :=
  OnlyReads s { t with cores := s.cores, north := { t.north with tlb := s.north.tlb },
                       south := { t.south with tlb := s.south.tlb } } ∧
    ∀ k, { t.coreAt k with tlb := (s.coreAt k).tlb } = s.coreAt k

/-- Bytes that do not lie in the spill area. -/
def ClearOf (s : State) (a n : Nat) : Prop := ∀ x, a ≤ x → x < a + n → ¬ InSpill s x

/-- An acquire at CLUSTER scope or wider has emptied the core's L1, or the slices it had read (R113, R233). -/
def L1Emptied (s t : State) : Prop :=
  isOasis s.sel.core = false → if s.grid.fuse then ∀ k ∈ s.core.slicesRead, (t.coreAt k).l1 = [] else t.core.l1 = []

/-- Every register that instructions name is as before: lane, uniform, predicate, index, bracket and record registers. -/
def SameRegs (g h : Group) : Prop :=
  h.v = g.v ∧ h.s = g.s ∧ h.p = g.p ∧ h.x = g.x ∧ h.blo = g.blo ∧ h.bhi = g.bhi ∧ h.d = g.d

/-- Nothing of the package changes but its cores, and of these only the core `k`. -/
def OnlyCore (s t : State) (k : Nat) : Prop := { t with cores := s.cores } = s ∧ ∀ j, j ≠ k → t.coreAt j = s.coreAt j

/-! ### Homes (R57, R75-R77, R125-R133, R226) -/

/-- The slice takes request `r` of the selected core: a plain one that is the oldest of its split to its bytes, does not stall
and has its region in place, or an SC access whose turn has come. -/
def Served (i : Instr) (s : State) (r : Req) : Prop :=
  s.reqAt s.sel.core s.sel.idx = some r ∧
    (i = .l2Request ∧ l2Due s s.sel.core r = true ∨ i = .scPerform ∧ scDue s s.sel.core r = true)

/-- Request `r` of the selected core has been performed, as the next of all the package's requests; the others stay, but
for the marks of stores that an L1 has taken. -/
def NowPerformed (s t : State) (r : Req) : Prop :=
  t.performs = s.performs + 1 ∧
    (t.core.reqs.map fun q => { q with inL1 := false }) = s.core.reqs.map fun q =>
      if q.id = r.id then { q with st := .performed, stalled := false, at_ := s.performs, inL1 := false }
      else { q with inL1 := false }

/-- The bytes of a store lie in canonical stores after it: a listed byte is the store's, every other is as before. -/
def BytesOf (r : Req) (old new : Map Byte) : Prop :=
  (∀ b ∈ r.data, memGet new b.1 = b.2) ∧ ∀ a, a ∉ r.data.map (·.1) → memGet new a = memGet old a

/-- A home line can be reached: no committed copy waits on it, its frame's GEN is the request's, its sectors can be read, and
a store has room. -/
def HomeReady (s : State) (r : Req) : Prop :=
  r.window = false ∧ r.space ≠ 1 ∧ r.space ≠ 2 ∧ s.newestCommitted r.pa = none ∧
    s.staleGen (128 * r.pa) r.gen = none ∧ badOf r s = none ∧ (r.kind ≠ .load → s.storeRoom r.pa r.vid (classOf r.policy) = .ready)

/-- What a lane of a load has in the log: byte `j` of register `i` of its run. -/
def Returned (e : LogEntry) (x : ReqLane) (byteAt : Nat → Byte) : Prop :=
  ∀ i j, i < (x.size + 3) / 4 → j < 4 →
    (mapGet 0 e.data (64 * i + x.lane)).toNat / 256 ^ j % 256 = if 4 * i + j < x.size then (byteAt (4 * i + j)).toNat else 0

/-- The log entry of a request, in its group. -/
def LogOf (s : State) (r : Req) (e : LogEntry) : Prop :=
  mapFind (s.groupAt s.sel.core r.grp).oplog r.log = some e ∧ e.ser = r.ser

/-- The atomics by function: what stands in memory after the lane, from what stood there and the lane's operands (R130). -/
def atomicTable : List (Nat × (Word → Word → Word → Word)) :=
  [(0, fun m x _ => BitVec.ofNat 32 (m.toNat + x.toNat)), (1, fun m x _ => modWord (min m.toInt x.toInt)),
   (2, fun m x _ => modWord (max m.toInt x.toInt)), (3, fun m x _ => BitVec.ofNat 32 (min m.toNat x.toNat)),
   (4, fun m x _ => BitVec.ofNat 32 (max m.toNat x.toNat)), (5, fun m x _ => m &&& x), (6, fun m x _ => m ||| x),
   (7, fun m x _ => m ^^^ x), (8, fun _ x _ => x), (9, fun m x y => if m = x then y else m),
   (10, fun m x _ => f32Of 0 (exAdd (f32Val m) (f32Val x)))]

/-- A well-formed deque header at `a` of a block's shared space (R132): TOP, BOTTOM, capacity, array. -/
structure DequeAt (m : Map Byte) (a top bottom cap arr : Nat) : Prop where
  top : memNat m a 4 = top
  bottom : memNat m (a + 4) 4 = bottom
  cap : ∃ n, memNat m (a + 8) 4 = n ∧ 1 ≤ n ∧ n ≤ 20 ∧ cap = 2 ^ n
  zeros : memNat m (a + 12) 4 = 0 ∧ memNat m (a + 24) 8 = 0
  arr : memNat m (a + 16) 8 = arr ∧ arr % 4 = 0
def dequeSize (top bottom : Nat) : Nat := (bottom + 2 ^ 32 - top) % 2 ^ 32

/-! ### The matrix engine (R184-R196) -/

/-- The same word in every lane of `m`, of which there is one. -/
def ControlWord (s : State) (r : Nat) (m : Lanes) (w : Word) : Prop :=
  (∃ l, l < 48 ∧ laneIn m l = true) ∧ ∀ l, l < 48 → laneIn m l = true → s.group.vAt r l = w

/-- A matrix word has become the last entry of its core's queue; no register and no byte has changed. -/
structure Queued (s t : State) (e : MatEntry) : Prop where
  queue : t.core.matq = s.core.matq ++ [e]
  outside : OnlyCore s t s.sel.core
  bytes : SameBytes s t
  regs : SameRegs s.group t.group
  split : SplitIs s t (SplitPast s 1)

/-- The ACC words by number: instruction, control register, source register if any (R191, R192). -/
def accWords (s : State) (f : LCtl2) : List (Nat × Instr × Option Nat) :=
  [(1, .accz { g := f.g, a := f.a, w := f.w }, none), (3, .accsc f, some (s.group.lane f.w f.b.toNat)),
   (4, .accwr f, some (s.group.lane f.w f.b.toNat))]

/-- The entry that a matrix word of the selected group leaves in the queue. -/
def entryOf (s : State) (op : Nat) (w : Word) : MatEntry := { op, grp := s.sel.grp, blk := s.group.blk, ctl := w }

/-- A control word may be taken now: its fields, its slot free of the group's earlier words, room in the queue, its cells in
place, and no F56 function of an int56 slot (R191, R192, R194, R195, R323). -/
def ControlTaken (s : State) (op : Nat) (w : Word) : Prop :=
  controlOk op w s.block.slots = true ∧ matHold s (entryOf s op w) = false ∧
    entryPlaced s s.sel.core (entryOf s op w) = true ∧
    ((s.block.slot (cSlot w)).int56 = true → op ≠ 3 ∧ (op = 4 → cCv w ≠ 0))

/-- A unit list as the element functions take it. -/
def unitsOf (x : Stream) : Array (Array Byte) := (x.units.map (·.toArray)).toArray

/-- One cell of an MMA: old value, line of A, line of B (R188). -/
def mmaAt (f : Word) (x y : Stream) (a : AccSlot) (r c : Nat) : BitVec 56 × Bool :=
  mmaCell f (a.cell r c) (lineBlocks f x (unitsOf x) r) (lineBlocks f y (unitsOf y) c)

/-- The four quantised blocks of a QNT (R193). -/
def qntBlocks (s : State) (a : Nat) : List (List (BitVec 8) × Nat × List Bool) :=
  (List.range 4).map fun j => quantBlock (((qntValues s.group a).drop (24 * j)).take 24)

/-! ### INV (R197-R203) -/

/-- The key of a lane's register in the comparison of the word (R199). -/
def keyAt (s : State) (flt : Bool) (r l : Nat) : Int :=
  let u := s.group.vAt r l
  if flt && u.getLsbD 31 then (u ^^^ 0x7FFFFFFF).toInt else u.toInt

/-- The words after the INV pass their checks (R198). -/
def RoutineOk (s : State) (f : InvForm) : Prop :=
  s.split.search = none ∧ (routineFault s (s.group.lane 0 f.xin.toNat) (f.n1.toNat + 1)).isNone = true

/-- Nothing changes but xin, yout, the bracket, the status predicate and INVX of the active lanes, and the split, which is
past the routine. -/
structure InvFrame (s t : State) (f : InvForm) : Prop where
  outside : OnlyGroup s t
  split : SplitIs s t (SplitPast s (f.n1.toNat + 3))
  group : { t.group with v := s.group.v, blo := s.group.blo, bhi := s.group.bhi, p := s.group.p, invx := s.group.invx,
                         splits := s.group.splits } = s.group
  lanes : ∀ r l, l < 48 → (r ≠ s.group.lane 0 f.xin.toNat ∧ r ≠ s.group.lane 0 f.yout.toNat ∨
    laneIn (s.active f.g) l = false) → t.group.vAt r l = s.group.vAt r l
  brackets : ∀ hi r l, l < 48 → (r ≠ f.bracket.toNat ∨ laneIn (s.active f.g) l = false) →
    t.group.bAt hi r l = s.group.bAt hi r l
  preds : (∀ r, r ≠ f.status.toNat → t.group.pAt r = s.group.pAt r) ∧ ∀ l, l < 48 →
    laneIn (s.active f.g) l = false → laneIn (t.group.pAt f.status.toNat) l = laneIn (s.group.pAt f.status.toNat) l
  invx : ∀ l, l < 48 → laneIn (s.active f.g) l = false → laneIn t.group.invx l = laneIn s.group.invx l

/-- A search may begin and run to its end: none is in progress, no routine load is owed, and the group's block has not been
ended. -/
def SearchMayBegin (s : State) : Prop := s.split.search = none ∧ routineOwed s = false ∧ s.group.dying = false

/-- The split issues word `i` `n` times, one after another (R203). -/
def Issues (i : Instr) : Nat → State → State → Prop
  | 0, s, t => s = t
  | n + 1, s, t => ∃ u, exec i s = .next u ∧ Issues i n u t

/-- The lane's bracket is inverted at INV's issue (R200). -/
def InvertedAt (s : State) (f : InvForm) (l : Nat) : Prop :=
  keyAt s (f.flt == 1) (s.group.lane 0 f.yout.toNat) l < keyAt s (f.flt == 1) (s.group.lane 0 f.xin.toNat) l

/-- The run's output breaks the order of the lane's ends (R200): the ends' own after the run at hi, either end's after a
bisection run. -/
def BreaksOrder (s : State) (f : InvForm) (r : InvRun) (x : InvLane) : Prop :=
  let y := keyAt s (f.flt == 1) r.yout x.lane
  (r.runs = 1 ∧ if f.dec = 1 then x.yl < y else y < x.yl) ∨ (2 ≤ r.runs ∧ (y < min x.yl x.yh ∨ max x.yl x.yh < y))

/-- How a lane of an INV ends: point, output, bracket, converged, and whether INVX is newly set (R200). -/
structure InvEndsAt (s t : State) (f : InvForm) (l : Nat) (x y lo hi : Word) (conv flag : Bool) : Prop where
  x : t.group.vAt (s.group.lane 0 f.xin.toNat) l = x
  y : t.group.vAt (s.group.lane 0 f.yout.toNat) l = y
  lo : t.group.bAt false f.bracket.toNat l = lo
  hi : t.group.bAt true f.bracket.toNat l = hi
  conv : laneIn (t.group.pAt f.status.toNat) l = conv
  flag : laneIn t.group.invx l = (laneIn s.group.invx l || flag)

/-! ### Waiting words -/

/-- The word waits: its split is BLOCKED in it and nothing else has happened. -/
def Waits (s t : State) (i : Instr) : Prop :=
  OnlyGroup s t ∧ OnlySplits s.group t.group ∧ (∀ j, j ≠ s.sel.slot → t.group.split j = s.group.split j) ∧
    t.split.st = .blocked ∧ t.split.wait = some i ∧ t.split.pc = s.split.pc ∧ t.split.mask = s.split.mask ∧
    t.split.exec = s.split.exec

/-- A message stands in a die's egress, or waits at its source to leave (R215, R216). -/
def LeftOrWaits (t : State) (d : Nat) (p : Instr × Msg) : Prop := p ∈ (t.dieAt d).egress ∨ p ∈ (t.dieAt d).waiting

/-- Nothing holds a release up to DEVICE, nor an arrival: the split's accesses are done and the group has no matrix word in
the queue (R195, R234). -/
def Quiet (s : State) : Prop :=
  s.drained = true ∧ s.split.phase = 0 ∧ ∀ e ∈ s.core.matq, e.grp ≠ s.sel.grp

/-- Only the block of the selected group and the group have changed. -/
def OnlyBlock (s t : State) : Prop :=
  OnlyCore s t s.sel.core ∧ { t.core with blocks := s.core.blocks, groups := s.core.groups } = s.core ∧
    (∀ b, b ≠ s.group.blk → t.blockAt s.sel.core b = s.blockAt s.sel.core b) ∧
    (∀ g, g ≠ s.sel.grp → t.groupAt s.sel.core g = s.groupAt s.sel.core g) ∧ SameBytes s t

/-- Generation of a barrier after one arrival, and the arrivals it then counts (R275). -/
def Arrives (x y : Barrier) (c : Nat) : Prop :=
  let need := if x.arrivals = 0 then c else x.need
  (x.arrivals + 1 = need → y.gen = x.gen + 1 ∧ y.arrivals = 0) ∧
    (x.arrivals + 1 ≠ need → y.gen = x.gen ∧ y.arrivals = x.arrivals + 1 ∧ y.need = need)

/-- The generation has completed (mod 2^16, R275). -/
def Completed (now g : BitVec 16) : Prop := 1 ≤ (now - g).toNat ∧ (now - g).toNat < 32768

/-- Fields of a phase word: count, left, phase (R276). -/
def phaseCountOf (w : Nat) : Nat := w % 65536
def phaseLeft (w : Nat) : Nat := w / 65536 % 65536
def phaseBit (w : Nat) : Nat := w / 2 ^ 32 % 2
def phaseLegal (w : Nat) : Prop :=
  phaseCountOf w ≠ 0 ∧ phaseLeft w ≠ 0 ∧ phaseLeft w ≤ phaseCountOf w ∧ w / 2 ^ 33 = 0

/-- The block no longer counts as idempotent; else nothing of it has changed but as said. -/
def IdemOff (s t : State) : Prop := t.block = { s.block with idem := false }

/-! ### Queues, batches, caravans -/

/-- The split has arrived and waits: BLOCKED in its word, at its PC. -/
def StillAt (s t : State) (i : Instr) : Prop :=
  t.split.st = .blocked ∧ t.split.wait = some i ∧ t.split.pc = s.split.pc ∧ t.split.mask = s.split.mask ∧
    t.split.exec = s.split.exec ∧ ∀ j, j ≠ s.sel.slot → t.group.split j = s.group.split j

/-- Only the selected grid's caravans and the selected group have changed. -/
def OnlyCaravan (s t : State) : Prop :=
  { t with cores := s.cores, grids := s.grids } = s ∧ (∀ g, g ≠ s.group.gid → t.gridAt g = s.gridAt g) ∧
    { t.grid with caravans := s.grid.caravans, genSeen := s.grid.genSeen, replicas := s.grid.replicas,
                  pendArr := s.grid.pendArr } = s.grid ∧
    (∀ k, k ≠ s.sel.core → (t.coreAt k).groups = (s.coreAt k).groups) ∧
    (∀ g, g ≠ s.sel.grp → t.groupAt s.sel.core g = s.groupAt s.sel.core g) ∧ SameBytes s t

/-- A caravan's barrier after one arrival: the last of its members completes the generation (R277). -/
def Joined (c c' : Caravan) : Prop :=
  (c.arrived + 1 = c.members → c' = { c with arrived := 0, gen := c.gen + 1 }) ∧
    (c.arrived + 1 ≠ c.members → c' = { c with arrived := c.arrived + 1 })

/-- The command that a whole list of words is, as it enters queue `q` (R96, R105). -/
def NewCommand (s : State) (ws : List DWord) (c : Cmd) : Prop :=
  c.id = s.core.nextCmd ∧ c.st = .queued ∧ c.w0 = ws.getD 0 0 ∧ c.w1 = ws.getD 1 0 ∧ c.w2 = ws.getD 2 0 ∧
    c.words = ws.length ∧ c.grp = s.sel.grp ∧ c.blk = s.group.blk ∧ c.gid = s.group.gid ∧ c.asn = s.group.asn ∧
    c.vid = s.group.vid ∧ c.batch = s.group.lastClosed + 1 ∧ c.tag = s.group.rtag ∧
    c.srec = s.group.dAt (c.w0.toNat / 2 ^ 16 % 32) ∧ c.drec = s.group.dAt (c.w0.toNat / 2 ^ 21 % 32)

/-- The four checks of a whole command, in R101's order: its kind is one of the queue's; it has the kind's words and its
fields, codes and spaces are in range; on an Oasis core it is no FIFOFILL and names no space-2 record; a DEMOTE or REQUANT
comes from a privileged group. -/
def kindOf (ws : List DWord) : Nat := (ws.getD 0 0).toNat % 16
def KindInQueue (ws : List DWord) (q : Nat) : Prop :=
  (kindOf ws ∈ [1, 2, 3, 6, 7] ∧ q ≤ 1) ∨ (kindOf ws ∈ [4, 5] ∧ q = 2)
def srcSpace (s : State) (ws : List DWord) : Nat := recSpace (s.group.dAt ((ws.getD 0 0).toNat / 2 ^ 16 % 32))
def dstSpace (s : State) (ws : List DWord) : Nat := recSpace (s.group.dAt ((ws.getD 0 0).toNat / 2 ^ 21 % 32))
def CommandFormed (s : State) (ws : List DWord) : Prop :=
  ws.length = (if kindOf ws = 5 ∨ kindOf ws = 7 ∨ (kindOf ws = 3 ∧ (ws.getD 0 0).getLsbD 24 = false) then 3 else 2) ∧
    commandFieldsOk (ws.getD 0 0) (ws.getD 1 0) (ws.getD 2 0) = true ∧
    match kindOf ws with
    | 4 => srcSpace s ws ≤ 2 ∧ dstSpace s ws = 3
    | 5 => srcSpace s ws ≤ 1 ∧ dstSpace s ws = 3
    | 6 => True
    | 7 => True
    | 3 => srcSpace s ws ∈ [0, 1, 2, 4]
    | _ => srcSpace s ws ∈ [0, 1, 2, 4] ∧ dstSpace s ws ≤ 2
def CoreRuns (s : State) (ws : List DWord) : Prop :=
  isOasis s.sel.core = true → kindOf ws ≠ 3 ∧
    (kindOf ws ∈ [1, 2, 4, 5] → srcSpace s ws ≠ 2 ∧ dstSpace s ws ≠ 2)
def GroupMaySend (s : State) (ws : List DWord) : Prop := kindOf ws = 6 ∨ kindOf ws = 7 → s.group.priv = true
def CommandPasses (s : State) (q : Nat) (ws : List DWord) : Prop :=
  KindInQueue ws q ∧ CommandFormed s ws ∧ CoreRuns s ws ∧ GroupMaySend s ws

/-- No QW of the group to the queue that issued earlier still waits; one of another split does (R93). -/
def NoQwWaits (s : State) (q : Nat) : Prop := ∀ x ∈ s.group.asmOrder, x.1 = q → s.group.standing x = false
def QwWaitsAhead (s : State) (q : Nat) : Prop :=
  ∃ x l, s.group.asmOrder = x :: l ∧ x.1 = q ∧ x.2.1 ≠ s.sel.slot ∧ s.group.standing x = true

/-- Words of the queue's commands that have not started, of 64 (R93). -/
def RoomFor (s : State) (q n : Nat) : Prop := n ≤ s.engFree s.sel.core q

/-- Batch `m` lies at or before `n` (mod 2^16, R106). -/
def AtOrBefore (m n : BitVec 16) : Prop := (n - m).toNat < 32768

/-- The status bits WAITB gives of the finished batches up to `n` (R106). -/
def waitbWord (g : Group) (n : BitVec 16) (ahead : Bool) : Nat :=
  let some_ (p : Batch → Bool) : Bool := g.doneMarks.any fun b => decide ((n - b.num).toNat < 32768) && p b
  n.toNat + (if some_ (·.refused) then 2 ^ 16 else 0) + (if some_ (·.cancelled) then 2 ^ 17 else 0) +
    (if ahead then 2 ^ 18 else 0) + if some_ (·.remote) then 2 ^ 19 else 0

/-! ### Launch, versions, drafts -/

/-- The word of the selected group wrote `x` to its destination and stepped past; the group keeps all else. -/
def Answered (s t : State) (d : Nat) (x : DWord) : Prop :=
  UniWrite s.group t.group d x ∧ OnlyUni s.group t.group ∧ SplitIs s t (SplitPast s 1)

/-- As `Answered`, and nothing but the block's idempotent mark has changed outside the group. -/
def AnsweredOnly (s t : State) (d : Nat) (x : DWord) : Prop :=
  Answered s t d x ∧ OnlyCore s t s.sel.core ∧ t.block = { s.block with idem := false } ∧
    (∀ g, g ≠ s.sel.grp → t.groupAt s.sel.core g = s.groupAt s.sel.core g) ∧
    { t.core with groups := s.core.groups, blocks := s.core.blocks } = s.core

/-- The word wrote `x` to its destination after the reads of its record, and nothing else has changed of the state without the
block's idempotent mark (R282, R296). -/
def AnsweredAfter (s u t : State) (d : Nat) (x : DWord) : Prop :=
  OnlyReads (endIdem s) u ∧ OnlyGroup u t ∧ Answered s t d x

/-- LAUNCH and SPAWN act on the state in which the block has lost its idempotent mark (R296). -/
def Unmarked (s : State) : State := endIdem s

/-- The grid at `gid` is the record's, in version `v`, accepted by die `d` as the next in order (R283, R287). -/
structure GridOf (s t : State) (gid d v : Nat) (r : Record) : Prop where
  grid : t.gridAt gid = r.grid d v s.nextOrder
  waiting : (t.gridAt gid).st = .waiting ∧ (t.gridAt gid).vid = v ∧ (t.gridAt gid).die = d
  blocks : (t.gridAt gid).todo = List.range (t.gridAt gid).nblk
  others : ∀ x, x ≠ gid → t.gridAt x = s.gridAt x
  order : t.nextOrder = s.nextOrder + 1

/-- VQUERY's words of a version (R73, R305). -/
def versionLow (x : Version) : Nat :=
  x.parent % 256 + 2 ^ 8 * (x.depth % 32) + 2 ^ 13 * (match x.st with
    | .free => 0
    | .live => 1
    | .closed => 2
    | .committed => 3
    | .squashed => 4) + (if x.permit then 2 ^ 16 else 0) + (if x.foreign then 2 ^ 17 else 0) + 2 ^ 18 * (x.origin % 64) +
    2 ^ 24 * (x.ovid % 256) + 2 ^ 32 * (x.asn % 4096) + 2 ^ 48 * x.cstamp.toNat

/-- The bitmap of a RESOLVE: none, or 32 bytes of the grid's lease, read in committed state (R302). -/
def BitmapOf (s : State) (b : Nat) (bm : Option (List Byte)) : Prop :=
  (b = 0 ∧ bm = none) ∨ (b ≠ 0 ∧ s.grid.firstRefused false b 32 = none ∧ s.ownStoreAt 0 b 32 = false ∧
    ∃ bs u, readVa (dieOf s.sel.core) s.group.asn 0 b 32 s = (.ok bs, u) ∧ bm = some bs)

/-- A waiting RESOLVE of `v`, issued with a path of `n` versions, holds: `v` is live or closed, no version of its path is
squashed, none has left it by a commit, and one is not closed; or it goes on (R302). -/
def ResolveHolds (s : State) (v n : Nat) : Prop :=
  v ≠ 0 ∧ (s.ver v).open_ = true ∧ (∀ u ∈ s.ancestors v, (s.ver u).st ≠ .squashed) ∧ n ≤ (s.ancestors v).length ∧
    ∃ u ∈ s.ancestors v, (s.ver u).st ≠ .closed
def ResolveGoes (s : State) (v n : Nat) : Prop :=
  v = 0 ∨ ((s.ver v).open_ = true ∧ (∀ u ∈ s.ancestors v, (s.ver u).st ≠ .squashed) ∧
    ((s.ancestors v).length < n ∨ ∀ u ∈ s.ancestors v, (s.ver u).st = .closed))
/-- The versions whose states a table step has changed have no nodes of their own (R82). -/
def NoChains (s : State) : Prop := ∀ d l, s.vers.lag = some (d, l) → ∀ x ∈ l, (s.ver x.1).kvhead = BitVec.allOnes 32

/-- Rank of draft entries: the larger key, of equal keys the smaller payload (R306). -/
def Above (x y : DWord) : Prop :=
  orderKey (y.setWidth 32) < orderKey (x.setWidth 32) ∨
    (orderKey (y.setWidth 32) = orderKey (x.setWidth 32) ∧ x.toNat / 2 ^ 32 < y.toNat / 2 ^ 32)
def nanKey (x : DWord) : Prop := nanPattern (x.setWidth 32) = true
def Lowest (q : List DWord) (w : DWord) : Prop := w ∈ q ∧ ∀ x ∈ q, ¬ Above w x
def Highest (q : List DWord) (w : DWord) : Prop := w ∈ q ∧ ∀ x ∈ q, ¬ Above x w

/-- Of the dies only the core's own has changed. -/
def OnlyDie (s t : State) : Prop :=
  { t with cores := s.cores, north := s.north, south := s.south } = s ∧
    ∀ d, d < 2 → d ≠ dieOf s.sel.core → t.dieAt d = s.dieAt d

/-- Draft queue `n` of the core's die becomes `q`, the die keeps all else, the block loses its mark. -/
def DraftIs (s t : State) (n : Nat) (q : DraftQueue) : Prop :=
  let d := dieOf s.sel.core
  OnlyDie s t ∧ (t.dieAt d).draft n = q ∧ (∀ m, m ≠ n → (t.dieAt d).draft m = (s.dieAt d).draft m) ∧
    { t.dieAt d with drafts := (s.dieAt d).drafts } = s.dieAt d ∧ t.block.idem = false

/-! ### Walker instructions (R83-R91) -/

/-- The walker unit a word of the selected group uses. -/
def unitOf (s : State) (home : Nat) : Walker :=
  { die := unitDie s home, gid := some s.group.gid, asn := s.group.asn, v := s.group.vid }

/-- The node at an address, readable in the unit's version, and what the reads leave. -/
def NodeAt (s : State) (w : Walker) (n : Nat) (e : KvNode) (u : State) : Prop := (w.node w.v n).on s = .ok (e, u)

/-- Each node of the list is the parent of the one before it, the first of `e`; `z` is what reading them leaves. -/
def Climb (w : Walker) : State → KvNode → List KvNode → State → Prop
  | s, _, [], z => s = z
  | s, e, x :: r, z => e.parent ≠ 0 ∧ ∃ u, NodeAt s w e.parent x u ∧ Climb w u x r z

/-- An access of a walker unit under the checks of R63: bytes read in a version, with what was read, bytes written in a
version, bytes of a field that R84 keeps at VID 0, and the unit's reading of its die's cycle counter. -/
inductive KvAccess where
  | rd (v va n x : Nat)
  | wr (v va n x : Nat)
  | all (va n x : Nat)
  | clk (x : Nat)
deriving DecidableEq, Repr

/-- What the accesses leave, one after another, where each succeeds and each read gives what it says. -/
def kvDo (w : Walker) : List KvAccess → State → Option State
  | [], s => some s
  | .rd v va n x :: r, s => match (w.rd v va n).on s with
    | .ok (y, u) => if y = x then kvDo w r u else none
    | .error _ => none
  | .wr v va n x :: r, s => match (w.wr v va n x).on s with
    | .ok (_, u) => kvDo w r u
    | .error _ => none
  | .all va n x :: r, s => match (w.wr0 va n x).on s with
    | .ok (_, u) => kvDo w r u
    | .error _ => none
  | .clk x :: r, s => if (s.dieAt w.die).clk.toNat = x then kvDo w r s else none

/-- What a KVEXT reads on its way: the pool's node base, first free node and page, the links behind them, the leaf's count
and first child, the clock. -/
structure ExtTakes where
  base : Nat
  i : Nat
  nextNode : Nat
  k : Nat
  links : Nat
  nextPage : Nat
  count : Nat
  head : Nat
  now : Nat
deriving DecidableEq, Repr

/-- R88: the first free node and page leave their lists; the node's fields; its place below a leaf at VID 0; its place on its
version's chain. -/
def ExtTakes.takes (x : ExtTakes) (pd : Nat) : List KvAccess :=
  [.rd 0 (pd + 12) 4 x.i, .rd 0 pd 8 x.base, .rd 0 (x.base + 128 * x.i + 80) 4 x.nextNode, .wr 0 (pd + 12) 4 x.nextNode,
   .rd 0 (pd + 20) 4 x.k, .rd 0 (pd + 24) 8 x.links, .rd 0 (x.links + 4 * x.k) 4 x.nextPage, .wr 0 (pd + 20) 4 x.nextPage,
   .rd 0 pd 8 x.base]
def ExtTakes.fills (x : ExtTakes) (v n : Nat) (e : KvNode) : List KvAccess :=
  let c := x.base + 128 * x.i
  [.wr v c 8 n, .wr v (c + 8) 4 (e.start + e.run), .wr v (c + 12) 2 0, .all (c + 14) 2 1] ++
    ((List.range 8).map fun j => .wr v (c + 16 + 8 * j) 8 0) ++
    [.all (c + 80) 8 0, .all (c + 88) 8 0, .wr v (c + 96) 8 x.k, .clk x.now, .wr v (c + 104) 8 x.now, .wr v (c + 112) 1 v]
def ExtTakes.joins (x : ExtTakes) (n : Nat) : List KvAccess :=
  let c := x.base + 128 * x.i
  [.all (c + 113) 1 0, .rd 0 (n + 80) 8 x.head, .all (c + 88) 8 x.head, .all (n + 80) 8 c, .all (n + 14) 2 (x.count + 1)]
def ExtTakes.pends (x : ExtTakes) (n : Nat) (e : KvNode) (head : Nat) : List KvAccess :=
  let c := x.base + 128 * x.i
  (if e.vid = 0 then [.all (c + 113) 1 12, .all (n + 14) 2 (x.count + 1)] else [.all (c + 113) 1 4]) ++ [.all (c + 116) 4 head]

/-- What a KVFORK reads on its way: the record's leaf, flags, pool, sequence number (or the pool's next), position, and the
words of its penalty state. -/
structure Forks where
  leaf : Nat
  flags : Nat
  pool : Nat
  seq : Nat
  pos : Nat
  penalty : List Nat
deriving DecidableEq, Repr

/-- R89: the leaf's count, the sequence number, and the child's record. -/
def Forks.copies (x : Forks) (p c : Nat) (e : KvNode) (keep : Bool) : List KvAccess :=
  [.all (x.leaf + 14) 2 (e.count + 1), .rd 0 (p + 24) 8 x.pool] ++
    (if keep then [.rd 0 (p + 16) 8 x.seq] else [.rd 0 (x.pool + 48) 8 x.seq, .wr 0 (x.pool + 48) 8 (x.seq + 1)]) ++
    [.wr 0 c 8 x.leaf, .rd 0 (p + 8) 4 x.pos, .wr 0 (c + 8) 4 x.pos, .wr 0 (c + 12) 4 1, .wr 0 (c + 16) 8 x.seq,
     .wr 0 (c + 24) 8 x.pool] ++ ((List.range 4).map fun j => .wr 0 (c + 32 + 8 * j) 8 0) ++
    (List.range 8).flatMap fun j => [.rd 0 (p + 64 + 8 * j) 8 (x.penalty.getD j 0), .wr 0 (c + 64 + 8 * j) 8 (x.penalty.getD j 0)]

/-- Two results, or all ones and a status. -/
def Pair (s t : State) (d : Nat) (x y : DWord) : Prop :=
  SplitIs s t (SplitPast s 1) ∧ OnlyUni s.group t.group ∧ t.group.sAt d = x ∧ t.group.sAt (d + 1) = y ∧
    ∀ r, r ≠ d → r ≠ d + 1 → t.group.sAt r = s.group.sAt r
def pairOf (r : KvAnswer) : DWord × DWord :=
  match r with
  | .ok (x, y) => (BitVec.ofNat 64 x, BitVec.ofNat 64 y)
  | .error st => (BitVec.allOnes 64, BitVec.ofNat 64 st)
def oneOf (r : KvAnswer) : DWord :=
  match r with
  | .ok (x, _) => BitVec.ofNat 64 x
  | .error st => BitVec.ofNat 64 (2 ^ 63 + st)

/-- A word whose unit's operation `op` acts on `s`: its results and memory, its fault, or its wait for room (R80, R86). -/
def UnitWord (k : Instr) (s0 s : State) (w : Walker) (op : Walk KvAnswer) (writes : State → KvAnswer → Prop) : Prop :=
  (∀ r u, op.on s = .ok (r, u) → ∃ t, exec k s0 = .next t ∧ writes t r ∧ t.mem = u.mem ∧ t.copies = u.copies ∧
    t.vers = u.vers ∧ t.grids = s.grids) ∧
  (∀ c x, c ≠ 0 → op.on s = .error (c, x) → ∃ t, exec k s0 = .next t ∧
    let z := op.walked w s
    FaultedAt (z.leaseFor s.group.asn c x) z t c (BitVec.ofNat 64 x)) ∧
  ∀ x, op.on s = .error (0, x) → ∃ t i, exec k s0 = .next t ∧ Waits s t i

/-- `n` bytes at `pa` become a number, every other byte outside the spill area is as before in every version. -/
def WroteAt (s t : State) (pa n x : Nat) : Prop :=
  memNat t.mem pa n = x ∧ ∀ v a, (a < pa ∨ pa + n ≤ a) → ¬ InSpill s a → t.viewByte v a = s.viewByte v a

/-- The line of some bytes can be written in place: memory has its canonical form, the line has no version's copy, and the
bytes do not lie in the spill area. -/
def PlainAt (s : State) (pa n : Nat) : Prop :=
  Memory.wf s.mem = true ∧ (∀ c ∈ s.copies, c.line ≠ lineOf pa) ∧ ClearOf s pa n

/-- The unit may write there, which its walk says in `u`, and the line can be written in place. -/
def Writable (s : State) (w : Walker) (va n pa : Nat) (u : State) : Prop :=
  (w.pa true va n).on s = .ok (pa, u) ∧ PlainAt u pa n

/-! ### Holds and commands -/

/-- The core's translation of an address names a stack, a frame and a generation, and leaves `u`. -/
def PageIs (s : State) (va st fr : Nat) (gen : BitVec 16) (u : State) : Prop :=
  ∃ x : TlbEntry, translate s.sel.core s.group.asn (vpnOf va) s = (.ok x, u) ∧ x.stack = st ∧ x.frame = fr ∧ x.gen = gen

/-- The page's entry becomes `e`, every other byte stays. -/
def EntryIs (s t : State) (st fr : Nat) (e : Pte) : Prop := WroteAt s t (s.pteAddr st fr) 32 e.toNat

/-- The entry's line can be written in place: aligned, and without a version's copy. -/
def EntryPlain (s : State) (st fr : Nat) : Prop :=
  s.pteAddr st fr % 32 = 0 ∧ PlainAt s (s.pteAddr st fr) 32

/-- The pages of the command's addresses are translated, each once, which leaves `u` (R56-R58). -/
def Translated (s : State) (k q : Nat) (c : Cmd) (vas : List Nat) (pages : Map Xlated) (u : State) : Prop :=
  commandPages k q c vas s = (.ok pages, u)

/-- The bytes that some moves store, with their places. -/
def stored (l : List Move) : List (Place × Byte) := l.map fun m => (m.dst, m.byte)

/-- No committed copy waits on a line of memory that the moves read or write. -/
def LinesSettled (s : State) (l : List Move) : Prop :=
  ∀ m ∈ l, ∀ pa, m.src = .mem pa ∨ m.dst = .mem pa → s.newestCommitted (lineOf pa) = none

/-- The bytes lie where they belong: of several for one address the last; every other byte of the block's shared space, its
tile store and memory stays, in every version that does not see the command's. -/
def BytesLie (s t : State) (k : Nat) (c : Cmd) (l : List (Place × Byte)) : Prop :=
  let b := s.blockAt k c.blk
  let b' := t.blockAt k c.blk
  (∀ a x, (∃ i, i < l.length ∧ l[i]? = some (.shared a, x) ∧ ∀ j y, i < j → l[j]? ≠ some (.shared a, y)) →
    memGet b'.shared a = x) ∧
  (∀ a, (∀ x, (Place.shared a, x) ∉ l) → memGet b'.shared a = memGet b.shared a) ∧
  (∀ a x, (∃ i, i < l.length ∧ l[i]? = some (.tile a, x) ∧ ∀ j y, i < j → l[j]? ≠ some (.tile a, y)) →
    memGet b'.tile a = x) ∧
  (∀ a, (∀ x, (Place.tile a, x) ∉ l) → memGet b'.tile a = memGet b.tile a) ∧
  { b' with shared := b.shared, tile := b.tile } = b

/-- A command of one kind that may start now on the selected queue. -/
def Starts (s : State) (kind : Nat) (c : Cmd) : Prop :=
  startable s s.sel.core s.sel.idx = some c ∧ c.kind = kind ∧
    ∀ x ∈ s.engQueue s.sel.core s.sel.idx, x.id = c.id → x = c

/-- The command of the selected queue has changed as `f` says. -/
def CommandIs (s t : State) (c : Cmd) (f : Cmd → Cmd) : Prop :=
  t.engQueue s.sel.core s.sel.idx = (s.engQueue s.sel.core s.sel.idx).map fun x => if x.id = c.id then f x else x

/-- The command has been sent, with its clip mark. -/
def SentIs (s t : State) (c : Cmd) (clip : Bool) : Prop :=
  CommandIs s t c fun x => { x with st := .sent, clipped := clip }

/-- A command that meets a failing byte: its grid's fault has the code and the address, the command is cancelled, no byte
is stored (R101, R370). -/
def CommandFaulted (s t : State) (c : Cmd) (code detail : Nat) : Prop :=
  SameBytes s t ∧ t.gridAt c.gid = afterFault (s.gridAt c.gid)
    { code, detail := BitVec.ofNat 64 detail, blk := (s.blockAt s.sel.core c.blk).blk, coreN := s.coreN s.sel.core,
      grpin := (s.groupAt s.sel.core c.grp).grpin, expgen := if code = 0x10 then c.goneGen detail s else 0,
      lease := s.leaseFor c.asn code detail } ∧
  (∀ b, t.blockAt s.sel.core b = s.blockAt s.sel.core b) ∧
  CommandIs s t c fun x => { x with st := .sent, cancelled := true }

/-- Some byte of the moves goes to a peer, and the bytes that do. -/
def toPeers (l : List Move) : Bool := l.any fun m => match m.dst with | .peer _ => true | _ => false
def peerPart (l : List Move) : List (Nat × Byte) := l.filterMap fun m => match m.dst with | .peer a => some (a, m.byte) | _ => none

/-- Ranges of bytes that do not meet. -/
def Apart (a n b m : Nat) : Prop := a + n ≤ b ∨ b + m ≤ a

/-- A DEMOTE or REQUANT may start: its feature is accepted, the page is mapped, read-only, not held and not busy, a DEMOTE's
in HBM, the target frame is free, and a flash target is not worn out (R67, R99). -/
def SwapMayStart (s : State) (c : Cmd) (st : Nat) (e : Pte) : Prop :=
  let t := commandTarget c
  s.accepted (if c.kind = 6 then 4 else 5) = true ∧ e.getLsbD 138 = true ∧ (c.kind = 6 → st ≤ 7) ∧ (st ≤ 7 → e.getLsbD 137 = false) ∧
    e.toNat / 2 ^ 128 % 256 = 0 ∧ e.getLsbD 139 = false ∧ (s.pte t.1 t.2).getLsbD 138 = false ∧
    (c.kind = 6 → s.rootNat (s.wearAddr t.1 t.2) 4 < s.xl.wearlim.toNat)

/-- The command has been refused and nothing else has happened. -/
def RefusedIs (s t : State) (c : Cmd) : Prop :=
  { t with cores := s.cores } = s ∧ CommandIs s t c fun x => { x with st := .sent, refused := true }

/-- Bytes `bs` lie from `a` on at VID 0. -/
def BytesAt (t : State) (a : Nat) (bs : List Byte) : Prop := ∀ i b, bs[i]? = some b → t.viewByte 0 (a + i) = b

/-- Messages that leave a die after what stood in its egress. -/
def Leave (s t : State) (d : Nat) (new : List (Instr × Msg)) : Prop :=
  (t.dieAt d).egress = (s.dieAt d).egress ++ new

/-- Messages that leave a die, or wait at their source after those that wait there (R215, R216). -/
def LeaveOrWait (s t : State) (d : Nat) (new : List (Instr × Msg)) : Prop :=
  ∃ a b, Leave s t d a ∧ (t.dieAt d).waiting = (s.dieAt d).waiting ++ b ∧ new = a ++ b

/-! ### The fabric -/

/-- The message of the step's argument arrives at die `d` of this package, whose start-up has not failed, and may be applied:
it is no SC access, and it is the next of its channel with every dependency on a package of the pod covered and no earlier
message of its die on its way to the other die, or comes over a standard-mode link (R245, R248, R250, R334, R338). -/
def Delivered (s : State) (d : Nat) (m : Msg) : Prop :=
  s.id.fail = 0 ∧ s.sel.idx = 0 ∧ s.arg.msg = m ∧ m.dest = 2 * s.id.pkg.toNat + d ∧ d < 2 ∧ m.ord ≠ 3 ∧
    (stdMsg m = true ∨ ((mapFind (s.dieAt d).lastFrom m.origin).getD m.seq = m.prev ∧ earlierAtSibling s d m = false ∧
      ∀ x ∈ accumulated (s.dieAt d) m, x.1 = m.origin ∨ x.1 / 2 = s.id.pkg.toNat ∨ s.id.podmask.getLsbD (x.1 / 2) = false ∨
        (atOrAfter32 (mapGet 0 s.north.applied x.1) x.2 = true ∧ atOrAfter32 (mapGet 0 s.south.applied x.1) x.2 = true)))

/-- The messages, with what other dies have been told before them, are the last that die `d` has sent. -/
def Sends1 (s t : State) (d : Nat) (kind : Instr) (m : Msg) : Prop :=
  ∃ deps, Leave s t d (deps ++ [(kind, m)]) ∧ ∀ x ∈ deps, x.1 = .dependencyOnlyMessage

/-- A reply to message `m` leaves: its kind, and the reply's own fields. -/
def Replies (s t : State) (d : Nat) (kind : Instr) (m r : Msg) : Prop :=
  ∃ x, Sends1 s t d kind x ∧ x.dest = m.origin ∧ x.srcGrp = m.srcGrp ∧ x.req = m.req ∧ x.tag = m.tag ∧ x.bytes = r.bytes ∧
    x.ops = r.ops ∧ x.errs = r.errs ∧ x.count = r.count ∧ x.role = r.role

/-- Bytes of page `p` can be written in place, at VID 0, in its frame: memory has its canonical form, no line of theirs has a
committed copy, and none lies in the spill area. -/
def FrameOpen (s : State) (bs : List (Nat × Byte)) (p frame : Nat) : Prop :=
  (∀ b ∈ bs, b.1 / 2 ^ 21 = p) ∧ Memory.wf s.mem = true ∧ ∀ b ∈ bs,
    s.newestCommitted (lineOf (2 ^ 21 * frame + b.1 % 2 ^ 21)) = none ∧ ¬ InSpill s (2 ^ 21 * frame + b.1 % 2 ^ 21)
/-- A walk for a write finds the page, which leaves `u`, and its bytes can be written in place. -/
def PageOpen (s : State) (d asn : Nat) (bs : List (Nat × Byte)) (p frame : Nat) (u : State) : Prop :=
  bs ≠ [] ∧ resolveVa d asn (p * 2 ^ 21) false true s = (.at_ (2 ^ 21 * frame), u) ∧ FrameOpen u bs p frame
/-- They lie there, of several for one address the last, and no other byte outside the spill area has changed. -/
def LieThere (s t : State) (bs : List (Nat × Byte)) (frame : Nat) : Prop :=
  (∀ (i a : Nat) x, bs[i]? = some (a, x) → (∀ (j : Nat) y, i < j → bs[j]? ≠ some (a, y)) →
    t.viewByte 0 (2 ^ 21 * frame + a % 2 ^ 21) = x) ∧
  ∀ v pa, (∀ b ∈ bs, pa ≠ 2 ^ 21 * frame + b.1 % 2 ^ 21) → ¬ InSpill s pa → t.viewByte v pa = s.viewByte v pa

/-- The home's translation of a message's pages gives `x` for page `p`, and leaves `u` (R56, R57). -/
def HomeFinds (s : State) (d : Nat) (m : Msg) (vpns : List Nat) (p : Nat) (x : Xlated) (u : State) : Prop :=
  ∃ pages, homePages d m vpns s = (.ok pages, u) ∧ mapFind pages p = some x
/-- Frame of a translation, counted through all stacks. -/
def frameNo (e : TlbEntry) : Nat := 2 ^ 20 * e.stack + e.frame
/-- The place of an address in the page of a translation. -/
def placeOf (e : TlbEntry) (a : Nat) : Nat := 2 ^ 21 * frameNo e + a % 2 ^ 21

/-- What a home counts for a source group and tag, or for one of its commands (R208). -/
def rowOf (s : State) (pkg grp : Nat) (tag : BitVec 2) (req : Nat) : CountRow :=
  (s.counted.find? fun r => r.pkg = pkg && r.grp = grp && r.tag = tag && r.req = req).getD { pkg, grp, tag, req }

/-- The command of that number has one answer fewer to wait for, and is marked if the answer names an error (R208, R213). -/
def AnsweredCmd (q : List Cmd) (id : Nat) (errs : BitVec 8) : List Cmd :=
  q.map fun c => if c.id = id then { c with
    owed := c.owed - 1, remoteErr := c.remoteErr || decide (errs.toNat % 8 ≠ 0 ∨ 16 ≤ errs.toNat) } else c

/-- The kinds of message that a die receives in causal order. -/
def messageKinds : List Instr :=
  [.remoteWrite, .remoteLoad, .remoteAtomic, .remoteReply, .dependencyOnlyMessage, .closeNotice, .batchSummary,
   .commitMessage, .squashMessage, .codedDecode, .resendRequest, .deadplane]

/-- Every register of every group is as before. -/
def AllRegs (s t : State) : Prop := ∀ k g, SameRegs (s.groupAt k g) (t.groupAt k g)

/-- The announcement of a die for another: its last σ, and the last message for that die if there is one (R247). -/
def announcement (s : State) (d i : Nat) : Msg :=
  let e := s.dieAt d
  { origin := s.iota d, dest := i, seq := e.sigma, prev := mapGet 0 e.lastTo i,
    count := (if (mapFind e.lastTo i).isSome then 1 else 0) }

/-! ### Launch engines, swaps, the host -/

/-- Registers, predicates and memory queues of a group at entry: parameters in its uniform registers, its stage's records, the
rest zero; its flags clear, no split but one READY with every lane at the stage's entry (R17, R257, R261). -/
def AtEntry (g : Grid) (k : Nat) (h : Group) : Prop :=
  h.live = true ∧ h.place = .resident ∧ h.vid = g.vid ∧ h.asn = g.asn ∧ h.priv = g.priv ∧ h.v = [] ∧ h.p = [] ∧ h.x = [] ∧
    h.blo = [] ∧ h.bhi = [] ∧ h.sat = 0 ∧ h.clip = 0 ∧ h.qsat = 0 ∧ h.invx = 0 ∧ h.q7 = [] ∧ h.oplog = [] ∧ h.h = false ∧
    h.phmargin = 0x100010 ∧ h.rtag = 0 ∧ (∀ r, h.sAt r = g.params.getD r 0) ∧
    ∃ st ∈ g.stages, h.budget = st.budget ∧
      h.split 0 = { st := .ready, pc := st.entry, mask := allLanes k, exec := allLanes k } ∧ ∀ i, i ≠ 0 → (h.split i).st = .free

/-- The host may reach the registers: its function is not frozen, and boot has not failed (R325, R338). -/
def HostOpen (s : State) : Prop := s.host.frozen = false ∧ s.id.fail = 0

/-- An invalidation removed the translations `p` names from every TLB, kept the others, and has begun (R59). -/
def Invalidated (s t : State) (p : Nat → Nat → Prop) : Prop :=
  SameBytes s t ∧ AllRegs s t ∧ t.xl.busy = true ∧
    (∀ k e, e ∈ (t.coreAt k).tlb ↔ e ∈ (s.coreAt k).tlb ∧ ¬ p e.asn e.vpn) ∧
    ∀ d e, e ∈ (t.dieAt d).tlb ↔ e ∈ (s.dieAt d).tlb ∧ ¬ p e.asn e.vpn

/-- The debugger's target: on die `d`, a resident group by core and index, no saved one (R329). -/
def DebugTarget (s : State) (v : DWord) (k i : Nat) : Prop :=
  HostOpen s ∧ s.accepted 7 = true ∧ k = 208 * (s.sel.die % 2) + v.toNat % 256 ∧ i = v.toNat / 256 % 32 ∧
    v.getLsbD 26 = false ∧ i ∈ (s.coreAt k).groups.map (·.1) ∧ (s.groupAt k i).place = .resident

/-- Group `i` of core `k` becomes `g`, and nothing else of the cores changes. -/
def GroupIs (s t : State) (k i : Nat) (g : Group) : Prop :=
  { t with cores := s.cores, north := s.north, south := s.south } = s ∧ t.groupAt k i = g ∧
    (∀ j, j ≠ i → t.groupAt k j = s.groupAt k j) ∧ (∀ j, j ≠ k → t.coreAt j = s.coreAt j) ∧ SameBytes s t

/-- Group `i` of core `k` goes on, or its split `slot` for one instruction: its registers and splits stay, and no load is left
cancelled (R329, R330). -/
def Resumed (s t : State) (k i : Nat) (slot : Option Nat) : Prop :=
  let h := t.groupAt k i
  SameRegs (s.groupAt k i) h ∧ h.splits = (s.groupAt k i).splits ∧ h.stopped = false ∧ h.stopReq = false ∧ h.stepSlot = slot ∧
    h.parked = [] ∧ ∀ e ∈ h.oplog, e.2.st ≠ .pending

/-- The reset columns of the register tables, by BAR0 offset: identity and measurements, translation, versions, the launch
blocks of both dies, BAR2's window, events and debug windows (R51, R59, R73, R78, R291, R301, R308, R329, R333-R337). -/
def resetTable : List (Nat × Nat) :=
  [(0x20, 0), (0x28, 0), (0x30, 0), (0x40, 0), (0x10100, 0), (0x10108, 0), (0x10110, 3000), (0x10120, 0), (0x10128, 0),
   (0x20000, 0), (0x20008, 32), (0x20010, 0), (0x20018, 0), (0x20020, 491520), (0x20028, 0), (0x44000, 0), (0x44008, 0)] ++
  (List.range 32).map (fun i => (0x100 + 8 * i, 0)) ++
  (List.range 10).flatMap (fun i => [(0x10000 + 8 * i, 0), (0x10080 + 8 * i, 0)]) ++
  (List.range 255).flatMap (fun v => [(0x21020 + 32 * v, 0), (0x21028 + 32 * v, 0xFFFFFFFF00000000), (0x21030 + 32 * v, 0),
    (0x21038 + 32 * v, 0)]) ++
  [0x40000, 0x60000].flatMap (fun b => [(b, 0xFFFF), (b + 0x1000, 0)] ++
    (List.range 128).map (fun i => (b + 0x400 + 8 * i, 256 + 2 ^ 32 * 256)) ++ (List.range 32).map fun i => (b + 0x800 + 8 * i, 0)) ++
  [0x80000, 0x81000].flatMap (fun b => [(b, 0), (b + 8, 0), (b + 16, 0), (b + 24, 0)]) ++
  [0x100000, 0x180000].flatMap fun b => [(b, 0), (b + 8, 0)]

/-- A bring-up step leaves all but identity and cores as they were (R338). -/
def OnlyBoot (s t : State) : Prop := { t with id := s.id, cores := s.cores } = s

end Sys2Proof.Statements
end

