-- ==== Sys2Proof/Certificates/Slice0/Obligations.lean ====
section
/-!
DEFINITION. The statements for the provers: one `def Obligations.<Name> : Prop` each, over the vocabulary of
Vocabulary.lean, Terms.lean and Units.lean. OBLIGATIONS.json lists them.
-/

open Sys2Proof Sys2Proof.Machine Sys2Proof.Statements

/-! ### Lane arithmetic (R162-R183) -/

/-- Every word of the integer table writes the table's function, computed exactly and cut to 32 bits, to its
destination in the active lanes, and changes nothing else: no flag, no other lane or register, no byte of memory
(R164-R166). The packed words act element by element on 16-bit halves; the saturating ones clamp once and set SAT in
exactly the active lanes that clamped (R169). -/
def Obligations.IntegerAndPackedWordsWriteTheTable : Prop :=
  ((∀ e ∈ integerTable, Writes3 e.1 e.2) ∧ ∀ e ∈ integerUnary, Writes2 e.1 e.2) ∧
  ((∀ e ∈ packedTable, Writes3 e.1 e.2) ∧ (∀ e ∈ packedUnary, Writes2 e.1 e.2) ∧
      ∀ e ∈ saturatingTable, Writes3Sat e.1 e.2)

/-- SEL chooses by its guard code in every lane of EXEC; the immediates act on the sign-extended imm7 or the shift
count; MOVL writes its literal word and is two words long (R167, R168, R33). MOVS writes the special value of its
code, MOVU the low word of any uniform register, RNG ten rounds of Philox to four registers; each in the active lanes
only (R181-R183). -/
def Obligations.SelectImmediateSpecialAndRandomWords : Prop :=
  ((∀ (s : State) (f : LR3), CanRun s 1 (f.refs s.group) → ∃ t, exec (.sel f) s = .next t ∧
      LaneResult s t 1 (dest s f) s.split.exec fun l =>
        if laneIn (s.group.guardMask f.g) l then opX s f l else opY s f l) ∧
    WritesImm .iaddi (fun i x => modWord (x.toInt + i.toInt)) ∧
    WritesImm .andi (fun i x => x &&& modWord i.toInt) ∧
    WritesShift .shli (fun c x => shiftLeft x.toNat c) ∧
    WritesShift .shri (fun c x => shiftRight x.toNat c) ∧
    WritesShift .sari (fun c x => shiftRight x.toInt c) ∧
    ∀ (s : State) (f : LLit), CanRun s 2 (f.refs s.group) → ∃ t, exec (.movl f) s = .next t ∧
      LaneResult s t 2 (s.group.lane 0 f.d.toNat) (s.active f.g) fun _ => f.lit) ∧
  ((∀ (s : State) (f : LSpec), CanRun s 1 (f.refs s.group) → ∃ t, exec (.movs f) s = .next t ∧
      LaneResult s t 1 (s.group.lane f.w f.d.toNat) (s.active f.g) (specialOf s f.c.toNat)) ∧
    (∀ (s : State) (f : LR2), CanRun s 1 [laneRef s.group 0 f.d.toNat] → ∃ t, exec (.movu f) s = .next t ∧
      LaneResult s t 1 (s.group.lane 0 f.d.toNat) (s.active f.g) fun _ =>
        (s.group.sAt (f.a.toNat + 64 * f.w.toNat)).setWidth 32) ∧
    ∀ (s : State) (f : LR3), CanRun s 1 (rngRefs f s.group) → ∃ t, exec (.rng f) s = .next t ∧
      SteppedPast s t 1 ∧ OnlyLanes s.group t.group ∧
      (∀ r l, r < dest s f ∨ dest s f + 4 ≤ r → t.group.vAt r l = s.group.vAt r l) ∧
      ∀ l, l < 48 →
        let a := s.group.lane f.w f.a.toNat
        let b := s.group.lane f.w f.b.toNat
        let c (j : Nat) : Word := s.group.vAt (a + j) l
        let r := (philoxAfter (c 0) (c 1) (c 2) (c 3) (s.group.vAt b l) (s.group.vAt (b + 1) l) 10).1
        (List.range 4).map (fun j => t.group.vAt (dest s f + j) l) =
          if laneIn (s.active f.g) l then [r.1, r.2.1, r.2.2.1, r.2.2.2]
          else (List.range 4).map fun j => s.group.vAt (dest s f + j) l)

/-- Every floating-point word writes one rounding of its exact result in the active lanes and sets no flag; the unary
functions are those of Machine/Num.lean and Machine/Trans.lean (R170-R173). The conversions write the table's result
and set SAT in exactly the active lanes whose conversion clamped or read a NaN as an integer (R174). -/
def Obligations.FloatWordsAndConversionsWriteTheTable : Prop :=
  ((∀ e ∈ floatTable, Writes3 e.1 e.2) ∧ ∀ e ∈ floatUnary, Writes2 e.1 e.2) ∧
  (∀ e ∈ conversionTable, WritesCode e.1 e.2)

/-- On finite operands the exact sum, difference, product and fused product-sum, the reciprocal and the square roots
are rounded to nearest, ties to even, with subnormals kept and overflow to infinity; an exact zero of a sum, fused or
not, is -0 only where both addends are negative (R150, R170, R172). The conversions round their exact value once under
their code, to BF16 with infinities beyond its range, to E4M3 with 448 and SAT beyond it, to F32 from an integer;
those from BF16 and E4M3 are exact; the packed BF16 words round the exact result to nearest (R35, R151, R152, R173,
R174). What the floating-point words give where an operand or the result is no finite number: the canonical NaN for a
NaN operand, for the difference of infinities and for zero times infinity, and the table's values of the unary
functions. -/
def Obligations.FloatResultsAreRoundedOnce : Prop :=
  (∀ x y z : Word, finite x → finite y → finite z →
      (NearestEven (valueOf x + valueOf y) (f32Of 0 (exAdd (f32Val x) (f32Val y))) ∧
        SignOf (valueOf x + valueOf y) (negative x && negative y) (f32Of 0 (exAdd (f32Val x) (f32Val y)))) ∧
      (NearestEven (valueOf x - valueOf y) (f32Of 0 (exAdd (f32Val x) (exNeg (f32Val y)))) ∧
        SignOf (valueOf x - valueOf y) (negative x && !negative y) (f32Of 0 (exAdd (f32Val x) (exNeg (f32Val y))))) ∧
      (NearestEven (valueOf x * valueOf y) (f32Of 0 (exMul (f32Val x) (f32Val y))) ∧
        SignOf (valueOf x * valueOf y) (negative x != negative y) (f32Of 0 (exMul (f32Val x) (f32Val y)))) ∧
      (NearestEven (valueOf x * valueOf y + valueOf z) (f32Of 0 (exAdd (exMul (f32Val x) (f32Val y)) (f32Val z))) ∧
        SignOf (valueOf x * valueOf y + valueOf z) ((negative x != negative y) && negative z)
          (f32Of 0 (exAdd (exMul (f32Val x) (f32Val y)) (f32Val z)))) ∧
      (valueOf x ≠ 0 → NearestEven (1 / valueOf x) (f32Rcp x)) ∧
      (0 < valueOf x → NearestReal (Real.sqrt (valueOf x : ℝ)) (f32Sqrt x) ∧ NearestReal (1 / Real.sqrt (valueOf x : ℝ)) (f32Rsq x))) ∧
  ((∀ x : Word, finite x → ∀ c, c < 4 →
      RoundedTo16 c (valueOf x) (bf16Of c (f32Val x)) ∧ (bf16Of c (f32Val x)).getLsbD 15 = negative x ∧
      RoundedTo8 c (valueOf x) (e4m3Of c (f32Val x)).1 (e4m3Of c (f32Val x)).2 ∧
      (e4m3Of c (f32Val x)).1.getLsbD 7 = negative x) ∧
    (∀ (n : Int) (c : Nat), -(2 ^ 31) ≤ n → n < 2 ^ 32 → c < 4 → RoundedAs finite valueOf c n (f32Of c (intVal n))) ∧
    (∀ b : BitVec 16, finite16 b → finite (f32Of 0 (bf16Val b)) ∧ valueOf (f32Of 0 (bf16Val b)) = value16 b ∧
      negative (f32Of 0 (bf16Val b)) = b.getLsbD 15) ∧
    (∀ b : BitVec 8, finite8 b → finite (f32Of 0 (e4m3Val b)) ∧ valueOf (f32Of 0 (e4m3Val b)) = value8 b ∧
      negative (f32Of 0 (e4m3Val b)) = b.getLsbD 7) ∧
    (∀ a b c : BitVec 16, finite16 a → finite16 b → finite16 c →
      RoundedTo16 0 (value16 a * value16 b + value16 c) (bf16Of 0 (exAdd (exMul (bf16Val a) (bf16Val b)) (bf16Val c))) ∧
      RoundedTo16 0 (value16 a + value16 b) (bf16Of 0 (exAdd (bf16Val a) (bf16Val b))) ∧
      RoundedTo16 0 (value16 a * value16 b) (bf16Of 0 (exMul (bf16Val a) (bf16Val b)))) ∧
    (∀ c, c < 4 → (∀ x : Word, nanPattern x → bf16Of c (f32Val x) = 0x7FC0 ∧ e4m3Of c (f32Val x) = (0x7F, false)) ∧
      bf16Of c (f32Val 0x7F800000) = 0x7F80 ∧ bf16Of c (f32Val 0xFF800000) = 0xFF80 ∧
      e4m3Of c (f32Val 0x7F800000) = (0x7E, true) ∧ e4m3Of c (f32Val 0xFF800000) = (0xFE, true)) ∧
    f32Of 0 (bf16Val 0x7FC0) = 0x7FC00000 ∧ f32Of 0 (bf16Val 0xFF81) = 0x7FC00000 ∧ f32Of 0 (bf16Val 0x7F80) = 0x7F800000 ∧
    f32Of 0 (e4m3Val 0x7F) = 0x7FC00000 ∧ f32Of 0 (e4m3Val 0xFF) = 0x7FC00000) ∧
  ((∀ x y : Word, nanPattern x ∨ nanPattern y →
      f32Of 0 (exAdd (f32Val x) (f32Val y)) = 0x7FC00000 ∧ f32Of 0 (exMul (f32Val x) (f32Val y)) = 0x7FC00000) ∧
    (∀ x : Word, finite x →
      f32Of 0 (exAdd (f32Val 0x7F800000) (f32Val x)) = 0x7F800000 ∧ f32Of 0 (exAdd (f32Val 0xFF800000) (f32Val x)) = 0xFF800000) ∧
    f32Of 0 (exAdd (f32Val 0x7F800000) (f32Val 0xFF800000)) = 0x7FC00000 ∧
    f32Of 0 (exMul (f32Val 0) (f32Val 0x7F800000)) = 0x7FC00000 ∧
    (∀ x : Word, nanPattern x → ∀ k ∈ [f32Rcp, f32Rsq, f32Sqrt, f32Exp2, f32Log2, f32SinCos false, f32SinCos true],
      k x = 0x7FC00000) ∧
    (∀ x : Word, finite x → valueOf x < 0 → f32Rsq x = 0x7FC00000 ∧ f32Sqrt x = 0x7FC00000 ∧ f32Log2 x = 0x7FC00000) ∧
    (∀ x : Word, finite x → (128 ≤ valueOf x → f32Exp2 x = 0x7F800000) ∧ (valueOf x ≤ -150 → f32Exp2 x = 0)) ∧
    f32Rcp 0 = 0x7F800000 ∧ f32Rcp 0x80000000 = 0xFF800000 ∧ f32Rcp 0x7F800000 = 0 ∧ f32Rcp 0xFF800000 = 0x80000000 ∧
    f32Rsq 0 = 0x7F800000 ∧ f32Rsq 0x80000000 = 0xFF800000 ∧ f32Rsq 0x7F800000 = 0 ∧
    f32Sqrt 0x80000000 = 0x80000000 ∧ f32Sqrt 0x7F800000 = 0x7F800000 ∧
    f32Exp2 0xFF800000 = 0 ∧ f32Exp2 0x7F800000 = 0x7F800000 ∧
    f32Log2 0 = 0xFF800000 ∧ f32Log2 0x80000000 = 0xFF800000 ∧ f32Log2 0x7F800000 = 0x7F800000 ∧ f32Log2 0x3F800000 = 0 ∧
    f32SinCos false 0 = 0 ∧ f32SinCos false 0x80000000 = 0x80000000 ∧ f32SinCos true 0 = 0x3F800000 ∧
    f32SinCos false 0x7F800000 = 0x7FC00000 ∧ f32SinCos true 0xFF800000 = 0x7FC00000)

/-- FEXP2, FLOG2, FSIN and FCOS of a finite operand give the real function's value rounded to nearest, ties to even,
the argument reduced exactly, wherever that value lies no nearer than 2^-2000 to the middle of two neighbouring F32
values; that no operand brings it nearer is the model's inference (R172; log 11). -/
def Obligations.FunctionsRoundToNearest : Prop :=
  ∀ x : Word, finite x →
    let v : ℝ := valueOf x
    (FarFromTies ((2 : ℝ) ^ v) → NearestReal ((2 : ℝ) ^ v) (f32Exp2 x)) ∧
    (0 < v → FarFromTies (Real.logb 2 v) → NearestReal (Real.logb 2 v) (f32Log2 x)) ∧
    (FarFromTies (Real.sin v) → NearestReal (Real.sin v) (f32SinCos false x)) ∧
    (FarFromTies (Real.cos v) → NearestReal (Real.cos v) (f32SinCos true x))

/-- A compare writes its relation to P[d], and the complement to P[d xor 1] when the pair bit is set, in the active
lanes; the predicate words combine predicates with their invert bits; PSET writes a condition and PGET a 1 or 0
(R175-R177). -/
def Obligations.ComparesAndPredicates : Prop :=
  (∀ e ∈ compareTable, Compares e.1 e.2) ∧ (∀ e ∈ predicateTable, WritesPred e.1 e.2) ∧
  (∀ (s : State) (f : LPset), CanRun s 1 (f.refs s.group) → ∃ t, exec (.pset f) s = .next t ∧
    SteppedPast s t 1 ∧ OnlyPreds s.group t.group ∧ OtherPreds s.group t.group [f.d.toNat] ∧
    PredWrite s.group t.group f.d.toNat (s.active f.g) fun l =>
      condition f.c.toNat (s.group.vAt (s.group.lane f.w f.a.toNat) l)) ∧
  ∀ (s : State) (f : LPget), CanRun s 1 (f.refs s.group) → ∃ t, exec (.pget f) s = .next t ∧
    LaneResult s t 1 (s.group.lane f.w f.d.toNat) (s.active f.g) fun l => if laneIn (s.group.pAt f.a.toNat) l then 1 else 0

/-- The slides, SWAP and PERM read any lane of their source and write the active ones; BCAST writes one source lane,
and is illegal for a lane the group does not have (R178, R179). A reduction combines every lane of the group along the
fixed tree, inactive lanes at the identity, and writes the one result to every active lane; SCAN writes the serial
sums (R159, R160, R180). -/
def Obligations.LanesMoveAndReduce : Prop :=
  ((∀ e ∈ slideTable, ∀ (s : State) (f : LR3), CanRun s 1 (f.refs s.group) → ∃ t, exec (e.1 f) s = .next t ∧
      LaneResult s t 1 (dest s f) (s.active f.g) (e.2 s.width (opX s f) (opY s f))) ∧
    ∀ (s : State) (f : LCode), CanRun s 1 (f.refs s.group) → ∃ t, exec (.bcast f) s = .next t ∧
      (f.c.toNat < s.width → LaneResult s t 1 (s.group.lane f.w f.d.toNat) (s.active f.g) fun _ =>
        s.group.vAt (s.group.lane f.w f.a.toNat) f.c.toNat) ∧
      (s.width ≤ f.c.toNat → Illegal s t)) ∧
  ((∀ e ∈ reduceTable, ∀ (s : State) (f : LR2), CanRun s 1 (f.refs s.group) → ∃ t, exec (e.1 f) s = .next t ∧
      LaneResult s t 1 (dest2 s f) (s.active f.g) fun _ => tree e.2.1 s.width (laneValues s f e.2.2)) ∧
    ∀ (s : State) (f : LR2), CanRun s 1 (f.refs s.group) → ∃ t, exec (.scan f) s = .next t ∧
      LaneResult s t 1 (dest2 s f) (s.active f.g) fun l => if l < s.width then serialSum (laneValues s f 0) l else 0)

/-! ### The uniform set (R43-R46, R117-R119, R143-R148) -/

/-- The uniform ALU writes one register of the group, read and written once for the split, and nothing else; NOP only
steps (R43, R44, R46). -/
def Obligations.UniformWordsWriteTheTable : Prop :=
  ((∀ e ∈ uniformTable, ∀ (s : State) (f : UR3), CanRun s 1 (f.refs s.group) → ∃ t, exec (e.1 f) s = .next t ∧
      UniResult s t 1 (s.group.uni f.i f.d.toNat) (e.2 (uniX s f) (uniY s f))) ∧
    (∀ (s : State) (f : UR2), CanRun s 1 (f.refs s.group) → ∃ t, exec (.umov f) s = .next t ∧
      UniResult s t 1 (s.group.uni f.i f.d.toNat) (s.group.sAt (s.group.uni f.i f.a.toNat))) ∧
    (∀ e ∈ immediateTable, ∀ (s : State) (f : UImm), CanRun s 1 [] → ∃ t, exec (e.1 f) s = .next t ∧
      UniResult s t 1 f.d.toNat (e.2 f.imm (s.group.sAt f.d.toNat))) ∧
    (∀ (s : State) (f : ULitForm), CanRun s 2 [] → ∃ t, exec (.ulit f) s = .next t ∧
      UniResult s t 2 f.d.toNat (if f.x = 1 then BitVec.ofInt 64 f.lit.toInt else BitVec.ofNat 64 f.lit.toNat)) ∧
    ∀ s : State, CanRun s 1 [] → ∃ t, exec .nop s = .next t ∧ Passed s t 1) ∧
  (decodeWords 0x8004000C none = .ok (.uadd { d := 2, a := 0, b := 1, i := 1 }))

/-- SETX writes an index register, RECSET a record from two uniform registers when its high half is legal and else is
illegal, LDREC reads a record into a pair (R117-R119). MOVC reads a control register, FPMODE as 0. MOVCW writes one
within its limits and is illegal outside them; a write of FPMODE clears the flags it names in the lanes of EXEC; WCAGE
belongs to the core and is written in privileged groups only, where it ends the idempotent mark (R143-R148, R296). -/
def Obligations.IndexRecordAndControlRegisterWords : Prop :=
  ((∀ (s : State) (f : SetxForm), CanRun s 1 [] → ∃ t, exec (.setx f) s = .next t ∧ SteppedPast s t 1 ∧
      t.group.xAt f.n.toNat = f.imm ∧ (∀ n, n ≠ f.n.toNat → t.group.xAt n = s.group.xAt n) ∧
      { t.group with x := s.group.x, splits := s.group.splits } = s.group) ∧
    (∀ (s : State) (f : RecsetForm), CanRun s 1 (f.refs s.group) →
      let lo := s.group.sAt (s.group.uni f.i f.a.toNat)
      let hi := s.group.sAt (s.group.uni f.i f.b.toNat)
      ∃ t, exec (.recset f) s = .next t ∧
        (LegalRecordHigh hi → SteppedPast s t 1 ∧ t.group.dAt f.d.toNat = (hi ++ lo : BitVec 128) ∧
          (∀ n, n ≠ f.d.toNat → t.group.dAt n = s.group.dAt n) ∧
          { t.group with d := s.group.d, splits := s.group.splits } = s.group) ∧
        (¬ LegalRecordHigh hi → Illegal s t)) ∧
    ∀ (s : State) (f : LdrecForm), CanRun s 1 (f.refs s.group) → ∃ t, exec (.ldrec f) s = .next t ∧
      SteppedPast s t 1 ∧ OnlyUni s.group t.group ∧
      let d := s.group.uni f.i f.d.toNat
      t.group.sAt d = (s.group.dAt f.a.toNat).extractLsb' 0 64 ∧
        t.group.sAt (d + 1) = (s.group.dAt f.a.toNat).extractLsb' 64 64 ∧
        ∀ r, r ≠ d → r ≠ d + 1 → t.group.sAt r = s.group.sAt r) ∧
  ((∀ (s : State) (f : MovcForm), CanRun s 1 (f.refs s.group) → ∃ t, exec (.movc f) s = .next t ∧
      UniResult s t 1 (s.group.uni f.i f.d.toNat) (match f.c.toNat with
        | 0 => s.group.phmargin
        | 1 => s.group.trapvec
        | 2 => s.group.rtag.setWidth 64
        | 4 => s.core.wcage.setWidth 64
        | _ => 0)) ∧
    (∀ (s : State) (f : MovcwForm), CanRun s 1 (f.refs s.group) →
      let x := s.group.sAt (s.group.uni f.i f.a.toNat)
      ∃ t, exec (.movcw f) s = .next t ∧
        (f.c = 0 → x.toNat < 2 ^ 32 → SteppedPast s t 1 ∧
          { t.group with splits := s.group.splits } = { s.group with phmargin := x }) ∧
        (f.c = 1 → x.toNat < 2 ^ 16 → SteppedPast s t 1 ∧
          { t.group with splits := s.group.splits } = { s.group with trapvec := x }) ∧
        (f.c = 3 → x.toNat < 16 → SteppedPast s t 1 ∧ ClearsFlags s.group t.group s.split.exec x) ∧
        ((f.c = 0 ∧ 2 ^ 32 ≤ x.toNat ∨ f.c = 1 ∧ 2 ^ 16 ≤ x.toNat ∨ f.c = 3 ∧ 16 ≤ x.toNat) → Illegal s t)) ∧
    ∀ (s : State) (f : MovcwForm), f.c = 4 → CanRun s 1 (f.refs s.group) →
      let x := s.group.sAt (s.group.uni f.i f.a.toNat)
      ∃ t, exec (.movcw f) s = .next t ∧
        (s.group.priv = false → Faulted s t 0x13 (wordsAtPc s)) ∧
        (s.group.priv = true → (x.toNat < 1 ∨ 64 < x.toNat) → Illegal s t) ∧
        (s.group.priv = true → 1 ≤ x.toNat → x.toNat ≤ 64 →
          t.core.wcage = BitVec.ofNat 7 x.toNat ∧ t.block = { s.block with idem := false } ∧
          (∀ b, b ≠ s.group.blk → t.blockAt s.sel.core b = s.blockAt s.sel.core b) ∧
          { t with cores := s.cores } = s ∧ (∀ k, k ≠ s.sel.core → t.coreAt k = s.coreAt k) ∧
          { t.core with wcage := s.core.wcage, groups := s.core.groups, blocks := s.core.blocks } = s.core ∧
          OnlySplits s.group t.group ∧ SplitIs s t (SplitPast s 1)))

/-! ### Control flow (R265, R270-R274, R314-R316) -/

/-- The branches of a whole split: taken to PC + offset inside the segment, illegal outside it, else one word on; CALL
links segment and next offset in S127, RET goes to a link of its own segment (R270, R271). -/
def Obligations.BranchesMoveTheSplit : Prop :=
  ((∀ (s : State) (f : UBr), CanRun s 1 [] →
      (∃ t, exec (.bra f) s = .next t ∧ Branched s t f.off) ∧
      (∃ t, exec (.brez f) s = .next t ∧ (s.split.exec = 0 → Branched s t f.off) ∧ (s.split.exec ≠ 0 → Passed s t 1)) ∧
      ∃ t, exec (.call f) s = .next t ∧ (¬ InSegment (targetOf s f.off) → Illegal s t) ∧
        (InSegment (targetOf s f.off) → OnlyGroup s t ∧ OnlyUni s.group t.group ∧
          SplitIs s t (SplitAt s (targetOf s f.off).toNat) ∧
          UniWrite s.group t.group 127 (BitVec.ofNat 64 (2048 * (s.split.pc.toNat / 1024) + (s.split.pc.toNat % 1024 + 1))))) ∧
    (∀ (s : State) (f : UBrC), CanRun s 1 [] →
      (∃ t, exec (.brnz f) s = .next t ∧ (s.group.sAt f.c.toNat ≠ 0 → Branched s t f.off) ∧
        (s.group.sAt f.c.toNat = 0 → Passed s t 1)) ∧
      ∃ t, exec (.brz f) s = .next t ∧ (s.group.sAt f.c.toNat = 0 → Branched s t f.off) ∧
        (s.group.sAt f.c.toNat ≠ 0 → Passed s t 1)) ∧
    ∀ (s : State) (f : USrc), CanRun s 1 (f.refs s.group) →
      let x := (s.group.sAt (s.group.uni f.i f.a.toNat)).toNat
      ∃ t, exec (.ret f) s = .next t ∧
        (x < 65536 → x / 2048 = s.split.pc.toNat / 1024 → x % 2048 ≤ 1023 → MovedTo s t (x % 2048)) ∧
        ((65536 ≤ x ∨ x / 2048 ≠ s.split.pc.toNat / 1024 ∨ 1023 < x % 2048) → Illegal s t)) ∧
  (decodeWords 0xA0000003 none = .ok (.bra { off := 3 }) ∧ decodeWords 0xA2280008 none = .ok (.brz { c := 5, off := 8 }) ∧
      decodeWords 0xA5000014 none = .ok (.call { off := 20 }) ∧ decodeWords 0xA601FC00 none = .ok (.ret { a := 127, i := 0 }) ∧
      decodeWords 0xAA000004 none = .ok (.brez { off := 4 }))

/-- BRD divides the lanes of EXEC where the guard holds from the rest: none, one word on; all of MASK, a branch; else
a new split at the target in the lowest free slot, or on the spill area, or fault 0x15 when that is full (R263, R272).
BRX gathers the lanes of EXEC by offset, in the order of each offset's lowest lane; lanes outside EXEC keep the slot,
or the first offset does; the others become new splits in that order (R272). -/
def Obligations.BrdAndBrxDivideTheSplit : Prop :=
  (∀ (s : State) (f : UBrC), CanRun s 1 [] →
      let T := s.split.exec &&& s.group.guardMask f.c
      ∃ t, exec (.brd f) s = .next t ∧
        (T = 0 → Passed s t 1) ∧ (T ≠ 0 → T = s.split.mask → Branched s t f.off) ∧
        (T ≠ 0 → ¬ InSegment (targetOf s f.off) → Illegal s t) ∧
        (T ≠ 0 → T ≠ s.split.mask → InSegment (targetOf s f.off) →
          Divided s t T (SplitAt s (targetOf s f.off).toNat).pc)) ∧
  (∀ (s : State) (f : LaneSrc), CanRun s 1 [laneRef s.group 0 f.a.toNat] →
      let p := s.split
      let v (l : Nat) : Nat := (s.group.vAt (s.group.lane 0 f.a.toNat) l).toNat
      let lanes := laneList p.exec
      let offs := (lanes.map v).eraseDups
      let taking (o : Nat) : Lanes := lanesWhere fun l => laneIn p.exec l && decide (v l = o)
      let stay := p.mask &&& ~~~p.exec
      let first := offs.headD 0
      let kept : Split := if stay ≠ 0 then { SplitPast s 1 with mask := stay, exec := 0 }
        else { SplitAt s first with mask := taking first, exec := taking first }
      let news := (if stay ≠ 0 then offs else offs.tail).map fun o => (taking o, (SplitAt s o).pc)
      ∃ t, exec (.brx f) s = .next t ∧
        ((∃ l ∈ lanes, 1024 ≤ v l) → Illegal s t) ∧
        ((∀ l ∈ lanes, v l < 1024) → p.exec = 0 → Passed s t 1) ∧
        ((∀ l ∈ lanes, v l < 1024) → p.exec ≠ 0 → ∀ g, addSplits p news (s.group.setSplit s.sel.slot kept) = some g →
          OnlyGroup s t ∧ t.group = g))

/-- JOIN waits, JOIN_RELEASE lets the JOINWAIT split of lowest PC go when no other split it counts is READY; YIELD and
SETPRI change the priority (R265, R273). The EXEC words: EXEC as a uniform value, EXEC from one cut to MASK, with a
predicate, its complement within MASK, and the vote (R274). -/
def Obligations.JoinYieldPriorityAndExecMask : Prop :=
  ((∀ s : State, CanRun s 1 [] →
      (∃ t, exec .join s = .next t ∧ OnlyGroup s t ∧ OnlySplits s.group t.group ∧
        SplitIs s t { s.split with st := .joinwait, wait := none, phase := 0 }) ∧
      (∃ t, exec .yield s = .next t ∧ OnlyGroup s t ∧ OnlySplits s.group t.group ∧
        SplitIs s t { SplitPast s 1 with
          pri := BitVec.ofNat 8 (lowestPriority s.group - 1), yld := true,
          ypri := if s.split.yld then s.split.ypri else s.split.pri }) ∧
      ∀ f : PriForm, ∃ t, exec (.setpri f) s = .next t ∧ OnlyGroup s t ∧ OnlySplits s.group t.group ∧
        SplitIs s t { SplitPast s 1 with pri := f.p, yld := false }) ∧
    ∀ s : State, s.group.live = true → s.sel.slot < 4 → JoinMayGo s.group s.sel.slot →
      s.split.pc.toNat % 1024 + 1 ≤ 1023 → ∃ t, exec .joinRelease s = .next t ∧ Passed s t 1) ∧
  ((∀ (s : State) (f : UDst), CanRun s 1 (f.refs s.group) → ∃ t, exec (.exget f) s = .next t ∧
      UniResult s t 1 (s.group.uni f.i f.d.toNat) (BitVec.ofNat 64 s.split.exec.toNat)) ∧
    (∀ (s : State) (f : USrc), CanRun s 1 (f.refs s.group) →
      let x := maskArg s (s.group.sAt (s.group.uni f.i f.a.toNat)) &&& s.split.mask
      (∃ t, exec (.exset f) s = .next t ∧ OnlyGroup s t ∧ OnlySplits s.group t.group ∧
        SplitIs s t { SplitPast s 1 with exec := x }) ∧
      ∃ t, exec (.exelse f) s = .next t ∧ OnlyGroup s t ∧ OnlySplits s.group t.group ∧
        SplitIs s t { SplitPast s 1 with exec := x &&& ~~~s.split.exec }) ∧
    ∀ (s : State) (f : UPred), CanRun s 1 (f.refs s.group) →
      let q := if f.n = 1 then ~~~(s.group.pAt f.b.toNat) else s.group.pAt f.b.toNat
      (∃ t, exec (.exand f) s = .next t ∧ OnlyGroup s t ∧ OnlyUni s.group t.group ∧
        UniWrite s.group t.group (s.group.uni f.i f.d.toNat) (BitVec.ofNat 64 s.split.exec.toNat) ∧
        SplitIs s t { SplitPast s 1 with exec := s.split.exec &&& q }) ∧
      ∃ t, exec (.vote f) s = .next t ∧
        UniResult s t 1 (s.group.uni f.i f.d.toNat) (BitVec.ofNat 64 (s.split.exec &&& q).toNat)) ∧
  (decodeWords 0xB0500000 none = .ok (.exget { d := 40, i := 0 }) ∧ decodeWords 0xB100A000 none = .ok (.exset { a := 40, i := 0 }) ∧
      decodeWords 0xB2520010 none = .ok (.exand { d := 41, n := 0, b := 2, i := 0 }) ∧
      decodeWords 0xB300A400 none = .ok (.exelse { a := 41, i := 0 }) ∧
      decodeWords 0xB4540080 none = .ok (.vote { d := 42, n := 1, b := 0, i := 0 }))

/-- TRAP takes trap 8 with its code, and BKPT trap 9 unless the debugger has set BKSTOP, which stops the group
instead; the saved PC is the word after (R311, R314, R330). That the split of a BKPT that stops has stepped past it is
the model's inference (log 40). A trap inside a handler is fault 0x17, one without an enabled or landed handler is
fault 0x16 (R311). RTE goes back to the saved PC, or past the instruction there as R315's sum has it (log 41), with
the saved EXEC cut to MASK, and clears H; without a handler, or with another MASK than the frame's, it is illegal
(R315). -/
def Obligations.TrapsEnterAndRteReturns : Prop :=
  (∀ (s : State) (f : CodeForm), CanRun s 1 [] →
      (HandlerReady s → ∃ t, exec (.trap f) s = .next t ∧
        TookTrap s t 8 (BitVec.ofNat 64 f.n.toNat) (s.split.pc + 1)) ∧
      (HandlerReady s → s.group.bkstop = false → ∃ t, exec (.bkpt f) s = .next t ∧
        TookTrap s t 9 (BitVec.ofNat 64 f.n.toNat) (s.split.pc + 1)) ∧
      (s.group.bkstop = true → ∃ t, exec (.bkpt f) s = .next t ∧ SteppedPast s t 1 ∧
        { t.group with splits := s.group.splits } = { s.group with stopReq := true })) ∧
  (∀ (s : State) (f : CodeForm), CanRun s 1 [] → ∃ t, exec (.trap f) s = .next t ∧
      (s.group.h = true → Faulted s t 0x17 8) ∧
      (s.group.h = false → s.group.trapvec.getLsbD 15 = false → Faulted s t 0x16 8) ∧
      (s.group.h = false → s.group.trapvec.getLsbD 15 = true →
        s.landedAt s.sel.core s.group.gid (s.group.trapvec.toNat % 32) = false → Faulted s t 0x16 40)) ∧
  (∀ (s : State) (f : RteForm), s.canIssue = true →
      let skipped := if f.skip = 1 then wordLength (s.codeAt s.sel.core s.group.gid s.group.frame.pc.toNat) else 0
      ∃ t, exec (.rte f) s = .next t ∧
        ((s.group.h = false ∨ s.split.mask ≠ s.group.frame.mask) → Illegal s t) ∧
        (s.group.h = true → s.split.mask = s.group.frame.mask →
          OnlyGroup s t ∧ { t.group with splits := s.group.splits } = { s.group with h := false } ∧
          SplitIs s t { s.split with
            pc := s.group.frame.pc + BitVec.ofNat 15 skipped, exec := s.group.frame.exec &&& s.split.mask, st := .ready,
            wait := none, phase := 0, wdata := 0, search := none }))

/-- EXIT completes in every state in which its split can issue: it frees the slot with every lane of MASK, keeps the
group's registers, other splits and spilled lanes, discards only what its lanes are owed, so that the log entries of
other lanes, their requests, every store and the requests of other groups stay, and ends a handler whose last lane has
gone (R316). -/
def Obligations.ExitEndsTheLanes : Prop :=
  ∀ s : State, s.canIssue = true → ∃ t, exec .exit s = .next t ∧
    { t with cores := s.cores } = s ∧ (∀ k, k ≠ s.sel.core → t.coreAt k = s.coreAt k) ∧
    { t.core with groups := s.core.groups, reqs := s.core.reqs } = s.core ∧
    (∀ g, g ≠ s.sel.grp → t.groupAt s.sel.core g = s.groupAt s.sel.core g) ∧
    { t.group with splits := s.group.splits, oplog := s.group.oplog, h := s.group.h } = s.group ∧
    t.split.st = .free ∧ (∀ i, i ≠ s.sel.slot → t.group.split i = s.group.split i) ∧
    (∀ x, x ∈ t.group.oplog ↔ ∃ e ∈ s.group.oplog, e.2.mask &&& ~~~s.split.mask ≠ 0 ∧
      x = (e.1, { e.2 with wr := e.2.wr &&& ~~~s.split.mask, mask := e.2.mask &&& ~~~s.split.mask })) ∧
    (t.group.h = true ↔ s.group.h = true ∧ ∃ l, l < 48 ∧ laneIn s.group.frame.mask l = true ∧
      ((∃ i, i < 4 ∧ i ≠ s.sel.slot ∧ (s.group.split i).st ≠ .free ∧ laneIn (s.group.split i).mask l = true) ∨
        ∃ x ∈ s.group.spill, laneIn x.2 l = true)) ∧
    (∀ r ∈ t.core.reqs, r ∈ s.core.reqs) ∧
    (∀ r ∈ s.core.reqs, r.grp ≠ s.sel.grp ∨ r.kind = .store ∨ (r.kind ≠ .load ∧ r.st ≠ .performed) ∨
      (∃ e ∈ s.group.oplog, e.2.ser = r.ser ∧ e.2.mask &&& ~~~s.split.mask ≠ 0) → r ∈ t.core.reqs) ∧
    ∀ v a, t.viewByte v a = s.viewByte v a

/-! ### Words in general (R20, R34, R39, R40) -/

/-- Decoding inverts encoding: the words of every well-formed instruction decode to it, whatever word stands after
them. What the decoder accepts is well-formed, is encoded by exactly the words it was read from, so that no bit is
dropped, and has the length that its first word alone decides. -/
def Obligations.DecodingInvertsEncoding : Prop :=
  (∀ i, wellFormed i = true → ∀ after : Option Word,
      (∃ w, encode i = [w] ∧ decodeWords w after = .ok i) ∨ ∃ w x, encode i = [w, x] ∧ decodeWords w (some x) = .ok i) ∧
  (∀ (w : Word) (after : Option Word) (i : Instr), decodeWords w after = .ok i →
      wellFormed i = true ∧ (encode i = [w] ∧ wordLength w = 1 ∨ ∃ x, after = some x ∧ encode i = [w, x] ∧ wordLength w = 2))

/-- Words written out from the encoding tables decode to the instructions they stand for, and words that break a field
do not decode. -/
def Obligations.WordsOfTheSpecDecode : Prop :=
  decodeWords 0x03016514 none = .ok (.imul { g := 0, d := 11, a := 10, b := 10, w := 0 }) ∧
  decodeWords 0x33004389 none = .ok (.ffma { g := 0, d := 2, a := 7, b := 4, w := 1 }) ∧
  decodeWords 0x72098504 none = .ok (.ldw { g := 1, d := 12, a := 10, r := 1 }) ∧
  decodeWords 0x7A008388 (some 0xA0000000) =
    .ok (.atomAdd { g := 0, d := 4, a := 7, r := 2, ord := 0, scope := 5, policy := 0, cbyp := 0 }) ∧
  decodeWords 0x20020000 (some 0xFF800000) = .ok (.movl { g := 0, d := 16, lit := 0xFF800000 }) ∧
  decodeWords 0x4A001400 none = .ok (.mma { g := 0, a := 40, w := 0 }) ∧
  decodeWords 0xC2014003 none = .ok (.barsync { a := 10, n := 3 }) ∧
  decodeWords 0xE0281000 none = .ok (.launch { d := 20, a := 4, i := 0 }) ∧
  decodeWords 0xF0281050 none = .ok (.kvwalk { d := 20, a := 4, b := 10, i := 0 }) ∧
  decodeWords 0x8F000000 none = .ok .nop ∧ decodeWords 0xFF000000 none = .ok .exit ∧
  decodeWords 0x8F000004 none = .error .zeroField ∧ decodeWords 0x72098506 none = .error .badOrder

/-- Every word first checks that its core has it, which of the matrix words an Oasis core has not and BCAST from a
lane that is not there, then privilege, then its registers in order; the first check that fails decides, and nothing
of the word's own effect takes place. A reserved opcode decodes to its own constructor in every set and is fault 0x12.
A word in word 1,023 of its segment takes its full effect, and its step past is then fault 0x12. -/
def Obligations.WordsCheckBeforeTheyAct : Prop :=
  (∀ (i : Instr) (s : State), IsWord i → s.canIssue = true → ∃ t, exec i s = .next t ∧
      (CoreLacks i s → Illegal s t) ∧
      (¬ CoreLacks i s → PrivilegedWord i → s.group.priv = false → Faulted s t 0x13 (wordsAtPc s)) ∧
      (¬ CoreLacks i s → (PrivilegedWord i → s.group.priv = true) → (∀ f, i = .inv f → s.split.search = none) →
        ∀ r, FirstPast s.group (wordRefs i s.group) r →
        HandlerReady s → TookTrap s t 3 (boundDetail s.group r) s.split.pc)) ∧
  (∀ w : Word, opcodeReserved (w.toNat / 2 ^ 24) = true →
      (∀ after, decodeWords w after = .ok (.reservedOpcode w)) ∧
      ∀ s : State, s.canIssue = true → ∃ t, exec (.reservedOpcode w) s = .next t ∧ Illegal s t) ∧
  ((∀ e ∈ integerTable, ∀ (s : State) (f : LR3), s.canIssue = true → s.split.pc.toNat % 1024 = 1023 →
      Fits s.group (f.refs s.group) → ∃ t, exec (e.1 f) s = .next t ∧ RanOff s t ∧ OnlyLanes s.group t.group ∧
        LaneWrite s.group t.group (dest s f) (s.active f.g) fun l => e.2 (opX s f l) (opY s f l) (opZ s f l)) ∧
    (∀ e ∈ uniformTable, ∀ (s : State) (f : UR3), s.canIssue = true → s.split.pc.toNat % 1024 = 1023 →
      Fits s.group (f.refs s.group) → ∃ t, exec (e.1 f) s = .next t ∧ RanOff s t ∧ OnlyUni s.group t.group ∧
        UniWrite s.group t.group (s.group.uni f.i f.d.toNat) (e.2 (uniX s f) (uniY s f))) ∧
    ∀ s : State, s.canIssue = true → s.split.pc.toNat % 1024 = 1023 → ∃ t, exec .nop s = .next t ∧ RanOff s t ∧
      OnlySplits s.group t.group)

/-- A step takes one act: the only one that may come next, or one of several. An issue runs the word at the PC of its
split, decoded, or faults where that is no instruction; another agent's act and a step from outside have their
meaning; each is followed by what stands after every step; after a thermal trip a step from outside is lost, but for a
power-on reset. Which of several acts that may come next is taken is left free (log 4), among those that the waits of
log 92 allow; that a trip loses every step from outside but a power-on reset is read by inference (log 26). -/
def Obligations.AStepRunsTheDecodedInstruction : Prop :=
  (∀ (s : State) (sel : Sel),
    let u := beginIssue { s with sel }
    (∀ i, decodeWords u.word0 u.word1 = .ok i → ∀ v, exec i u = .next v →
      perform (.issue sel) s = .next (settleStep (endIssue v)) ∧
        (candidates s = [.issue sel] → step s = .next (settleStep (endIssue v)))) ∧
    (∀ e, decodeWords u.word0 u.word1 = .error e → perform (.issue sel) s = .next (settleStep (endIssue (illegal u))))) ∧
  (∀ (s : State) (i : Instr) (sel : Sel) (v : State),
    exec i { s with sel, arg := eventArg i sel, due := s.due.filter fun e => e.1 != (i, sel) } = .next v → perform (.event i sel) s = .next (settleStep v)) ∧
  (∀ (s : State) (i : Instr) (sel : Sel) (arg : Payload) (rest) (v : State), s.inputs = (i, sel, arg) :: rest →
    exec i { s with sel, arg, inputs := rest } = .next v →
      (s.id.tripped = false ∨ i = .powerOnReset → perform .input s = .next (settleStep v)) ∧
      (s.id.tripped = true → i ≠ .powerOnReset → perform .input s = .next { s with inputs := rest })) ∧
  (∀ s : State, perform .tick s = .next (tick s)) ∧
  (∀ s : State, candidates s = [] → step s = .next s) ∧
  (∀ (s : State) (a : Act), candidates s = [a] → step s = perform a s) ∧
  ∀ (s : State) (a b : Act) (l : List Act), candidates s = a :: b :: l →
    ∃ c, (c = a ∨ c = b ∨ c ∈ l) ∧ step s = perform c { s with fresh := s.fresh + 1 }

/-! ### Memory words (R114-R133) -/

/-- Every memory word whose checks pass leaves one request a line with the addresses and bytes of its lanes, flags the
clipped lanes, takes a log entry for what it is owed, and changes no byte of memory: that is its home's act. A store
to a peer that is not SC enters the write-combining buffer, one entry a line with its bytes, and a whole line leaves
at once as one write; a load, an atomic and an SC store leave as messages of their requests' numbers and wait for
their replies (R126, R205, R206). An SC word to spaces 1 and 2 is performed as it issues, its stores and loads with
it, with its stamp; a load or store of the device register window leaves as an SC request of SYSTEM scope to its
register, after the release that such an access makes (R236, R332). That an SC access to the core's own spaces waits
at no slice is the model's choice (log 45). -/
def Obligations.MemoryWordsLeaveRequests : Prop :=
  ((∀ e ∈ relaxedTable, ∀ (s : State) (f : LMem), CanRun s 1 (f.refs e.2.2.2 s.group) →
      (relaxedAccess s e.2 f).MayGo s → ∃ t, exec (e.1 f) s = .next t ∧ (relaxedAccess s e.2 f).Issued s t 1) ∧
    ∀ e ∈ orderedTable, ∀ (s : State) (f : LMemX), CanRun s 2 (f.refs e.2.2.2.1 s.group) →
      wellFormed (e.1 f) = true → (f.cbyp = 1 → s.group.priv = true) →
      (orderedAccess s e.2 f).MayGo s → ∃ t, exec (e.1 f) s = .next t ∧ (orderedAccess s e.2 f).Issued s t 2) ∧
  ((∀ e ∈ relaxedTable, ∀ (s : State) (f : LMem), CanRun s 1 (f.refs e.2.2.2 s.group) →
      (relaxedAccess s e.2 f).MayLeave s → ∃ t, exec (e.1 f) s = .next t ∧ (relaxedAccess s e.2 f).Leaves s t 1) ∧
    ∀ e ∈ orderedTable, ∀ (s : State) (f : LMemX), CanRun s 2 (f.refs e.2.2.2.1 s.group) →
      wellFormed (e.1 f) = true → (f.cbyp = 1 → s.group.priv = true) →
      (orderedAccess s e.2 f).MayLeave s → ∃ t, exec (e.1 f) s = .next t ∧ (orderedAccess s e.2 f).Leaves s t 2) ∧
  ((∀ e ∈ orderedTable, ∀ (s : State) (f : LMemX), CanRun s 2 (f.refs e.2.2.2.1 s.group) →
      wellFormed (e.1 f) = true → (f.cbyp = 1 → s.group.priv = true) →
      let m := orderedAccess s e.2 f
      m.SpaceFits s → m.Room s → (∀ l, m.Goes s l → m.Reaches s l) → m.Released s → (∃ l, m.Goes s l) → m.ord = 3 →
      m.space s = 1 ∨ m.space s = 2 → (∀ q ∈ s.core.reqs, q.id < s.core.nextReq) →
      (∀ q ∈ s.core.reqs, q.grp = s.sel.grp → q.mask &&& s.split.mask ≠ 0 → q.space = m.space s → q.st = .performed) →
      let bytes (b : Block) : Map Byte := if m.space s = 1 then b.shared else b.tile
      Memory.wf (bytes s.block) = true →
      ∃ t new, exec (e.1 f) s = .next t ∧ t.split = SplitPast s 2 ∧ SameBytes s t ∧ t.core.reqs = s.core.reqs ++ new ∧
        { t with cores := s.cores, performs := s.performs } = s ∧ (∀ k, k ≠ s.sel.core → t.coreAt k = s.coreAt k) ∧
        (new.map (·.line)).Nodup ∧ (∀ x, x ∈ new.map (·.line) ↔ ∃ l, m.Goes s l ∧ x = m.addr s l / 128) ∧
        (∀ q ∈ new, q.st = .performed ∧ q.kind = m.kind ∧ q.mask = s.split.mask ∧ q.space = m.space s ∧ q.stamp =
          BitVec.ofNat 64 (65536 * (max s.core.lamport.toNat s.core.heard.toNat + 1) + (s.coreN s.sel.core).toNat)) ∧
        (m.kind = .store → ∀ a, (∀ b, m.Stores s a b → memGet (bytes t.block) a = b) ∧
          ((∀ b, ¬ m.Stores s a b) → memGet (bytes t.block) a = memGet (bytes s.block) a)) ∧
        (m.kind = .load → t.block.shared = s.block.shared ∧ t.block.tile = s.block.tile ∧
          ∃ j e', mapFind t.group.oplog j = some e' ∧ e'.dest = m.d ∧ e'.wr = m.act ∧ e'.lanes = 0 ∧
            ∀ l, m.Goes s l → ∀ i n, i < (m.sz + 3) / 4 → n < 4 → (mapGet 0 e'.data (64 * i + l)).toNat / 256 ^ n % 256 =
              if 4 * i + n < m.sz then (memGet (bytes s.block) (m.addr s l + (4 * i + n))).toNat else 0)) ∧
    ∀ e ∈ relaxedTable, ∀ (s : State) (f : LMem), CanRun s 1 (f.refs e.2.2.2 s.group) →
      let m := relaxedAccess s e.2 f
      m.space s = 0 → m.SpaceFits s → m.Room s → (∀ l, m.Goes s l → inWindow (m.addr s l) = true) → (∃ l, m.Goes s l) →
      s.group.priv = true → m.sz = 4 ∨ m.sz = 8 → (m.kind = .store → s.group.vid = 0) →
      s.split.phase = 1 → s.tagsSettled s.sel.core s.sel.grp = true → s.group.rwErrs = 0 → s.group.rwPeers = 0 →
      ∃ t new, exec (e.1 f) s = .next t ∧ t.split = SplitPast s 1 ∧ SameBytes s t ∧ t.core.reqs = s.core.reqs ++ new ∧
        { t with cores := s.cores, grids := s.grids } = s ∧ (∀ g, t.gridAt g = s.gridAt g) ∧
        (new.map (·.line)).Nodup ∧ (∀ x, x ∈ new.map (·.line) ↔ ∃ l, m.Goes s l ∧ x = m.addr s l / 128) ∧
        ∀ q ∈ new, q.window = true ∧ q.kind = m.kind ∧ q.st = .waiting ∧ q.ord = 3 ∧ q.scope = 7 ∧ q.mask = s.split.mask ∧
          q.stamp = BitVec.ofNat 64 (65536 * (max s.core.lamport.toNat s.core.heard.toNat + 1) + (s.coreN s.sel.core).toNat) ∧
          (m.kind = .store → ∀ a b, (a, b) ∈ q.data ↔ a / 128 = q.line ∧ m.Stores s a b) ∧
          ∀ x, x ∈ q.lanes ↔ ∃ l, m.Goes s l ∧ m.addr s l / 128 = q.line ∧
            x = { lane := l, addr := m.addr s l, size := m.sz, x := s.group.vAt m.d l, y := s.group.vAt (m.d + 1) l })

/-- Where a memory word stops or waits: no free log entry, an illegal space or swizzle, the first lane that fails its
allotment or its lease, a release whose split has not drained, a store whose line has no room (R80). No access is
performed, and a word that waits has ended the idempotent mark if it ends it at all (R296). A store to space 4 names
the address of its lowest active lane, or the record's base where no lane is active (R370). ATOM and DQOP name only
the spaces of R120; a release waits in its split until earlier accesses are done; an SC access to spaces 1 and 2,
which is performed at issue (log 45), is held until its split's earlier accesses to the space are performed, those
whose MASK shares a lane with its own (R227, R238; log 32). -/
def Obligations.MemoryWordsCheckEveryLane : Prop :=
  (∀ e ∈ relaxedTable, ∀ (s : State) (f : LMem), CanRun s 1 (f.refs e.2.2.2 s.group) →
      let m := relaxedAccess s e.2 f
      (¬ m.Room s → exec (e.1 f) s = .next s) ∧
      (m.Room s → m.kind = .load ∨ m.space s ≠ 4 → recSwz (m.record s) = 3 → 8 ≤ m.sz →
        ∃ t, exec (e.1 f) s = .next t ∧ Illegal s t) ∧
      (m.kind = .store → m.space s = 4 → ∃ t, exec (e.1 f) s = .next t ∧
        (∀ l, l < 48 → laneIn m.act l = true → (∀ j, j < l → laneIn m.act j = false) →
          FaultedAt (s.leaseOf s.group.asn (m.addr s l)) s t 0x10 (BitVec.ofNat 64 (m.addr s l))) ∧
        ((∀ l, l < 48 → laneIn m.act l = false) →
          FaultedAt (s.leaseOf s.group.asn (recBase (m.record s))) s t 0x10 (BitVec.ofNat 64 (recBase (m.record s))))) ∧
      (m.SpaceFits s → m.space s = 0 → (∀ l, m.Goes s l → m.Reaches s l) → ¬ m.HasRoom s →
        ∃ t, exec (e.1 f) s = .next t ∧ m.Held s t (e.1 f) 2) ∧
      (m.Room s → m.SpaceFits s → ∀ l, m.FailsFirst s l → ∃ t, exec (e.1 f) s = .next t ∧
        (m.space s = 1 ∨ m.space s = 2 → Faulted s t 0x11 (m.allotmentDetail s l)) ∧
        (m.space s ≠ 1 → m.space s ≠ 2 → ∀ i, i < m.sz →
          (∀ j, j < i → m.addr s l + j < 2 ^ 57 ∧ s.grid.permits (m.kind != .load) (m.addr s l + j) = true) →
          ¬ (m.addr s l + i < 2 ^ 57 ∧ s.grid.permits (m.kind != .load) (m.addr s l + i) = true) →
          FaultedAt (s.leaseOf s.group.asn (m.addr s l + i)) s t 0x10 (BitVec.ofNat 64 (m.addr s l + i))))) ∧
  (∀ e ∈ orderedTable, ∀ (s : State) (f : LMemX), CanRun s 2 (f.refs e.2.2.2.1 s.group) →
      (f.cbyp = 1 → s.group.priv = true) →
      let m := orderedAccess s e.2 f
      (m.Room s → m.kind = .atom → m.space s = 2 ∨ m.space s = 4 → ∃ t, exec (e.1 f) s = .next t ∧ Illegal s t) ∧
      (m.Room s → m.kind = .dqop → m.space s = 2 ∨ m.space s = 3 ∨ m.space s = 4 →
        ∃ t, exec (e.1 f) s = .next t ∧ Illegal s t) ∧
      (m.Room s → m.SpaceFits s → (∀ l, m.Goes s l → m.Reaches s l) → f.ord = 2 ∨ f.ord = 3 → f.scope ≠ 0 →
        (f.ord = 3 → m.space s ≠ 1 ∧ m.space s ≠ 2) → (m.space s = 3 → NoLoadWaits s) → s.split.phase = 0 →
        s.drained = false → ∃ t, exec (e.1 f) s = .next t ∧ m.Held s t (e.1 f) 0) ∧
      (m.SpaceFits s → m.space s = 0 → (∀ l, m.Goes s l → m.Reaches s l) → m.Released s → ¬ m.HasRoom s →
        ∃ t, exec (e.1 f) s = .next t ∧ m.Held s t (e.1 f) 2) ∧
      (m.Room s → m.SpaceFits s → (∀ l, m.Goes s l → m.Reaches s l) → f.ord = 3 → m.space s = 1 ∨ m.space s = 2 →
        (∃ q ∈ s.core.reqs, q.grp = s.sel.grp ∧ q.mask &&& s.split.mask ≠ 0 ∧ q.space = m.space s ∧ q.st ≠ .performed) →
        exec (e.1 f) s = .next s))

/-! ### Homes (R49, R57-R60, R71-R81, R112, R125-R133, R226, R237, R238) -/

/-- A store is performed at its home: its bytes in the block's shared or tile space, at VID 0 in memory, or in its
version's own copy, which no version that does not descend from it sees. A load takes its bytes at its home as its
version sees them and puts them into its log entry, little-endian and zero-extended; no byte changes but in the spill
area, where a copy that leaves the L2 goes. -/
def Obligations.HomesPerformAccesses : Prop :=
  (∀ (i : Instr) (s : State) (r : Req), Served i s r → r.kind = .store → (r.data.map fun b => b.1 % 128).Nodup →
      (r.window = false → r.space = 1 → Memory.wf (s.blockAt s.sel.core r.blk).shared = true →
        ∃ t, exec i s = .next t ∧ NowPerformed s t r ∧ OnlyCore s { t with performs := s.performs } s.sel.core ∧
          { t.core with blocks := s.core.blocks, reqs := s.core.reqs } = s.core ∧
          (∀ b, b ≠ r.blk → t.blockAt s.sel.core b = s.blockAt s.sel.core b) ∧
          let b := t.blockAt s.sel.core r.blk
          { b with shared := (s.blockAt s.sel.core r.blk).shared } = s.blockAt s.sel.core r.blk ∧
            BytesOf r (s.blockAt s.sel.core r.blk).shared b.shared) ∧
      (r.window = false → r.space = 2 → Memory.wf (s.blockAt s.sel.core r.blk).tile = true →
        ∃ t, exec i s = .next t ∧ NowPerformed s t r ∧ OnlyCore s { t with performs := s.performs } s.sel.core ∧
          { t.core with blocks := s.core.blocks, reqs := s.core.reqs } = s.core ∧
          (∀ b, b ≠ r.blk → t.blockAt s.sel.core b = s.blockAt s.sel.core b) ∧
          let b := t.blockAt s.sel.core r.blk
          { b with tile := (s.blockAt s.sel.core r.blk).tile } = s.blockAt s.sel.core r.blk ∧
            BytesOf r (s.blockAt s.sel.core r.blk).tile b.tile) ∧
      (HomeReady s r → r.vid = 0 → Memory.wf s.mem = true → ∃ t, exec i s = .next t ∧ NowPerformed s t r ∧ OnlyHomes s t ∧
        (∀ b ∈ r.data, ¬ InSpill s (128 * r.pa + b.1 % 128) → memGet t.mem (128 * r.pa + b.1 % 128) = b.2) ∧
        ∀ a, a ∉ r.data.map (fun b => 128 * r.pa + b.1 % 128) → ¬ InSpill s a → memGet t.mem a = memGet s.mem a) ∧
      (HomeReady s r → (s.ver r.vid).open_ = true → ((s.seenAt r.pa).ver r.vid).open_ = true → r.vid ≠ 0 → (∀ c ∈ s.copies, Memory.wf c.bytes = true) →
        ∃ t, exec i s = .next t ∧ NowPerformed s t r ∧ OnlyHomes s t ∧
          (∀ b ∈ r.data, t.viewByte r.vid (128 * r.pa + b.1 % 128) = b.2) ∧
          (∀ a, a ∉ r.data.map (fun b => 128 * r.pa + b.1 % 128) → ¬ InSpill s a →
            t.viewByte r.vid a = s.viewByte r.vid a) ∧
          ∀ v, r.vid ∉ (s.seenAt r.pa).ancestors v → ∀ a, ¬ InSpill s a → t.viewByte v a = s.viewByte v a)) ∧
  (∀ (i : Instr) (s : State) (r : Req) (e : LogEntry), Served i s r → r.kind = .load → LogOf s r e → r.window = false →
      (r.lanes.map (·.lane)).Nodup → (∀ x ∈ r.lanes, x.lane < 48 ∧ x.addr / 128 = r.line ∧ x.addr % 128 + x.size ≤ 128) →
      (r.space = 1 ∨ r.space = 2 ∨ (HomeReady s r ∧ s.deadVid r.vid = false)) →
      ∃ t e', exec i s = .next t ∧ NowPerformed s t r ∧ OnlyHomes s t ∧ SameView s t ∧ LogOf t r e' ∧
        (∀ l, l < 48 → laneIn e'.lanes l = (laneIn e.lanes l && !(r.lanes.map (·.lane)).contains l)) ∧
        { e' with data := e.data, lanes := e.lanes } = e ∧
        ((r.space ≠ 1 → r.space ≠ 2 → ∀ n, n < 128 → ¬ InSpill s (128 * r.pa + n)) → ∀ x ∈ r.lanes, Returned e' x fun n =>
          if r.space = 1 then memGet (s.blockAt s.sel.core r.blk).shared (x.addr + n)
          else if r.space = 2 then memGet (s.blockAt s.sel.core r.blk).tile (x.addr + n)
          else s.viewByte r.vid (128 * r.pa + x.addr % 128 + n)) ∧
        ∀ k g, SameRegs (s.groupAt k g) (t.groupAt k g))

/-- What a home does instead: a store of a dead version is dropped, a load of one returns zeros; a stale generation
NACKs the page's requests with the frame's GEN; an uncorrectable sector is fault 0x14; a store without room stalls and
blocks its READY splits, but for one inside a run and a handler's. The source of a NACKed request drops its
translations of the page and walks again for the generation it was told: the page's requests go out with what it
finds, back off where it finds nothing, and after 16 retries the grid ends with fault 0x10 and the expected generation
in EXPGEN. -/
def Obligations.HomesRefuseAndNackedRequestsReplay : Prop :=
  (∀ (i : Instr) (s : State) (r : Req), Served i s r → r.window = false → r.space ≠ 1 → r.space ≠ 2 →
      (r.kind = .store → s.deadVid r.vid = true → ∃ t, exec i s = .next t ∧ NowPerformed s t r ∧
        OnlyCore s { t with performs := s.performs } s.sel.core ∧ { t.core with reqs := s.core.reqs } = s.core) ∧
      (∀ e, r.kind = .load → LogOf s r e → s.deadVid r.vid = true → (∀ x ∈ r.lanes, x.lane < 48) →
        ∃ t e', exec i s = .next t ∧ NowPerformed s t r ∧ SameBytes s t ∧ LogOf t r e' ∧
          ∀ x ∈ r.lanes, ∀ j, j < (x.size + 3) / 4 → mapGet 0 e'.data (64 * j + x.lane) = 0) ∧
      (∀ gen, s.deadVid r.vid = false → s.staleGen (128 * r.pa) r.gen = some gen →
        ∃ t, exec i s = .next t ∧ OnlyCore s t s.sel.core ∧ { t.core with reqs := s.core.reqs } = s.core ∧
          t.core.reqs.length = s.core.reqs.length ∧
          ∀ (n : Nat) (q q' : Req), s.core.reqs[n]? = some q → t.core.reqs[n]? = some q' →
            (q.ser = r.ser ∧ q.grp = r.grp ∧ q.space = r.space ∧ q.window = false ∧
                vpnOf (128 * q.line) = vpnOf (128 * r.line) ∧ (q.st ≠ .performed ∨ q.kind = .load ∨ q.kind = .store) →
              q' = { q with st := .nacked, expect := some gen, retries := 0 }) ∧
            (q.ser ≠ r.ser ∨ q.grp ≠ r.grp ∨ vpnOf (128 * q.line) ≠ vpnOf (128 * r.line) → q' = q)) ∧
      (∀ a, s.deadVid r.vid = false → s.staleGen (128 * r.pa) r.gen = none → badOf r s = some a →
        ∃ t, exec i s = .next t ∧ SameBytes s t ∧ (∀ q ∈ t.core.reqs, q.id = r.id → q.refusedAt = some a) ∧
          t.gridAt r.gid = afterFault (s.gridAt r.gid)
            { code := 0x14, detail := BitVec.ofNat 64 a, blk := (s.blockAt s.sel.core r.blk).blk,
              coreN := s.coreN s.sel.core, grpin := (s.groupAt s.sel.core r.grp).grpin, slot := r.slot, pc := r.pc,
              lease := if r.space = 3 then 0 else BitVec.ofNat 16 (pteLease (s.pte (stackOf a) (frameOf a))) }) ∧
      (r.kind ≠ .load → s.deadVid r.vid = false → s.staleGen (128 * r.pa) r.gen = none → badOf r s = none →
        s.storeRoom r.pa r.vid (classOf r.policy) ≠ .ready → ∃ t, exec i s = .next t ∧ OnlyCore s t s.sel.core ∧ SameBytes s t ∧
          (t.core.reqs = s.core.reqs.map fun q => if q.id = r.id then { q with stalled := true } else q) ∧
          ∀ n, n ∈ (s.groupAt s.sel.core r.grp).splits.map (·.1) →
            let p := (s.groupAt s.sel.core r.grp).split n
            (t.groupAt s.sel.core r.grp).split n = if p.mask &&& r.mask ≠ 0 ∧ p.st = .ready ∧ p.midRun = false ∧
                ((s.groupAt s.sel.core r.grp).h = true → p.mask &&& (s.groupAt s.sel.core r.grp).frame.mask = 0) then
              { p with st := .blocked, held := true } else p)) ∧
  (∀ (i : Instr) (s : State) (r : Req), s.reqAt s.sel.core s.sel.idx = some r →
      (i = .nackReplay ∧ nackDue s s.sel.core r = true ∨ i = .walkRetry ∧ retryDue s s.sel.core r = true) →
      let k := s.sel.core
      let u := if i = .nackReplay then dropTlb k r.asn (vpnOf (128 * r.line)) s else s
      let w := walk (dieOf k) r.asn (vpnOf (128 * r.line)) r.expect u
      let page (q : Req) : Prop := q.ser = r.ser ∧ q.grp = r.grp ∧ q.space = r.space ∧ q.window = false ∧
        vpnOf (128 * q.line) = vpnOf (128 * r.line) ∧ (q.st = .nacked ∨ q.st = .backoff)
      (∀ st fr e, w.1 = .found st fr e → permOk (ptePerm st e) (r.kind != .store) (r.kind != .load) = true →
        ∃ t, exec i s = .next t ∧ t.core.reqs.length = s.core.reqs.length ∧
          (∃ x, tlbFind t.core.tlb r.asn (vpnOf (128 * r.line)) = some x ∧ x.stack = st ∧ x.frame = fr ∧ x.gen = pteGen e ∧
            x.perm = ptePerm st e) ∧
          ∀ (n : Nat) (q q' : Req), s.core.reqs[n]? = some q → t.core.reqs[n]? = some q' →
            (page q → q' = { q with st := .waiting, pa := lineOf (physOf st fr (128 * q.line)), gen := pteGen e,
                                    expect := none, retries := 0 }) ∧ (¬ page q → q' = q)) ∧
      (w.1 = .none → r.retries < 16 → ∃ t, exec i s = .next t ∧ t.core.reqs.length = s.core.reqs.length ∧
        ∀ (n : Nat) (q q' : Req), s.core.reqs[n]? = some q → t.core.reqs[n]? = some q' →
          (page q → q' = { q with st := .backoff, retries := q.retries + 1 }) ∧ (¬ page q → q' = q)) ∧
      (w.1 = .none → 16 ≤ r.retries → ∃ t, exec i s = .next t ∧
        (∀ q ∈ t.core.reqs, q.id = r.id → q.refusedAt = some (pageFirst k r s) ∧ q.st = .performed) ∧
        t.gridAt r.gid = afterFault (s.gridAt r.gid)
          { code := 0x10, detail := BitVec.ofNat 64 (pageFirst k r s), blk := (s.blockAt k r.blk).blk, coreN := s.coreN k,
            grpin := (s.groupAt k r.grp).grpin, slot := r.slot, pc := r.pc, expgen := r.expect.getD 0,
            lease := if r.space = 3 then 0 else w.2.leaseFor r.asn 0x10 (pageFirst k r s) }))

/-- A load's registers are written together when every request of it has returned, an acquire empties the L1; an
acknowledged store leaves; a write-combining entry leaves at its age. An idle core announces one more than it has
heard and leaves the message for the package and the pod; who hears it never goes back; a storage error ends the grid
of the group with fault 0x14 (R237, R370). The value announced and its order after SC accesses are read by inference
(log 31). -/
def Obligations.AnswersReachTheCore : Prop :=
  ((∀ (s : State) (e : LogEntry), mapFind s.group.oplog s.sel.idx = some e → logDone s s.sel.core s.sel.grp e = true →
      ∃ t, exec .loadReply s = .next t ∧ SameBytes s t ∧ t.group.oplog = mapDel s.group.oplog s.sel.idx ∧
        (∀ r l, l < 48 → t.group.vAt r l = if e.dest ≤ r ∧ r < e.dest + e.nreg ∧ laneIn e.wr l = true
          then mapGet 0 e.data (64 * (r - e.dest) + l) else s.group.vAt r l) ∧
        OnlyLanes s.group { t.group with oplog := s.group.oplog } ∧
        (∀ q ∈ t.core.reqs, q.grp = s.sel.grp → q.ser ≠ e.ser) ∧
        (∀ sc, e.acq = some sc → 3 ≤ sc.toNat → isOasis s.sel.core = false →
          (s.grid.fuse = false → t.core.l1 = []) ∧ (s.grid.fuse = true → ∀ k ∈ s.core.slicesRead, (t.coreAt k).l1 = []))) ∧
    (∀ (s : State) (r : Req), s.reqAt s.sel.core s.sel.idx = some r → ackDue s s.sel.core r = true →
      ∃ t, exec .storeAcknowledgement s = .next t ∧ SameBytes s t ∧
        (t.core.reqs.map fun q => { q with inL1 := false }) =
          (s.core.reqs.filter fun q => !decide (q.id = r.id)).map (fun q => { q with inL1 := false }) ∧
        ∀ k g, SameRegs (s.groupAt k g) (t.groupAt k g)) ∧
    ∀ (s : State) (w : WcEntry), s.core.wc[s.sel.idx]? = some w → wcAged s s.sel.core w = true →
      (∀ p, s.linkStd p = false) → ∃ t, exec .wcAgeExpiry s = .next t ∧ SameBytes s t ∧
        (∀ x ∈ t.core.wc, x ∈ s.core.wc ∧ ¬ (x.peer = w.peer ∧ x.line = w.line)) ∧
        ∃ p ∈ (t.dieAt (dieOf s.sel.core)).egress ++ (t.dieAt (dieOf s.sel.core)).waiting, p.1 = .remoteWrite ∧
          p.2.va = 128 * w.line ∧ p.2.dest / 2 = w.peer ∧ p.2.asn = w.asn ∧ p.2.tag = w.tag ∧ p.2.vid = w.vid ∧
          p.2.ack = w.ack ∧ p.2.bytes = w.data.map fun c => (128 * w.line + c.1, c.2)) ∧
  ((∀ s : State, scInFlight s s.sel.core = false → (s.dieAt (dieOf s.sel.core)).stdQueue = [] →
      (s.dieAt (dieOf s.sel.core)).waiting = [] → (∀ q ∈ s.core.reqs, q.after = []) →
      (max s.core.lamport.toNat s.core.heard.toNat) + 1 < 2 ^ 48 →
      ∃ t, exec .lamportAnnounce s = .next t ∧ SameBytes s t ∧
        t.core.lamport.toNat = max s.core.lamport.toNat s.core.heard.toNat ∧
        t.annSent = s.annSent ++ [(podCore s.id.pkg.toNat s.sel.core,
          BitVec.ofNat 48 (max s.core.lamport.toNat s.core.heard.toNat + 1))] ∧
        ∀ k g, SameRegs (s.groupAt k g) (t.groupAt k g)) ∧
    (∀ (s : State) (c : Nat) (a : BitVec 48), s.arg.n = c → s.arg.v = a.setWidth 64 →
      (c / 416 = s.id.pkg.toNat ∧ (c, a) ∈ s.annSent ∨ c / 416 ≠ s.id.pkg.toNat ∧ s.id.fail = 0 ∧ s.id.podmask.getLsbD (c / 416) = true) →
      ∃ t, exec .lamportAnnounceReceive s = .next t ∧ SameBytes s t ∧
        (mapGet 0 t.horizon c).toNat = max (mapGet 0 s.horizon c).toNat a.toNat ∧
        (∀ x, x ≠ c → mapGet 0 t.horizon x = mapGet 0 s.horizon x) ∧
        ∀ k y, mapFind s.cores k = some y → (t.coreAt k).heard.toNat = max y.heard.toNat a.toNat) ∧
    ∀ s : State, s.group.live = true → s.arg.flag = false → ∃ t, exec .coreStorageError s = .next t ∧ SameBytes s t ∧
      { t with grids := s.grids } = s ∧ (∀ g, g ≠ s.group.gid → t.gridAt g = s.gridAt g) ∧
      t.gridAt s.group.gid = afterFault (s.gridAt s.group.gid)
        { code := 0x14, detail := 0xFFFFFFFFFFFFFFFF, blk := s.block.blk, coreN := s.coreN s.sel.core,
          grpin := s.group.grpin })

/-- The lanes of an atomic act in their order at the performing point: each is given the word it finds and leaves the
table's word, so that lanes of one address see one another; the order is that of the lane numbers (R125, R130, R131).
-/
def Obligations.AtomicsActInLaneOrder : Prop :=
  ∀ (i : Instr) (s : State) (r : Req) (e : LogEntry) (f : Nat × (Word → Word → Word → Word)), f ∈ atomicTable →
    Served i s r → r.kind = .atom → r.func = f.1 → r.window = false → LogOf s r e →
    (r.lanes.map (·.lane)).Pairwise (· < ·) →
    ∀ a, (∀ x ∈ r.lanes, x.addr = a ∧ x.lane < 48) → a / 128 = r.line → a % 128 + 4 ≤ 128 →
    let after (m : Word) (xs : List ReqLane) : Word := xs.foldl (fun m x => f.2 m x.x x.y) m
    (r.space = 1 → Memory.wf (s.blockAt s.sel.core r.blk).shared = true →
      let m := BitVec.ofNat 32 (memNat (s.blockAt s.sel.core r.blk).shared a 4)
      ∃ t e', exec i s = .next t ∧ NowPerformed s t r ∧ LogOf t r e' ∧ SameBytes s t ∧
        memNat (t.blockAt s.sel.core r.blk).shared a 4 = (after m r.lanes).toNat ∧
        (∀ o, o < a ∨ a + 4 ≤ o → memGet (t.blockAt s.sel.core r.blk).shared o =
          memGet (s.blockAt s.sel.core r.blk).shared o) ∧
        ∀ before x rest, r.lanes = before ++ x :: rest → mapGet 0 e'.data x.lane = after m before) ∧
    (HomeReady s r → r.vid = 0 → Memory.wf s.mem = true →
      let pa := 128 * r.pa + a % 128
      let m := BitVec.ofNat 32 (memNat s.mem pa 4)
      ∃ t e', exec i s = .next t ∧ NowPerformed s t r ∧ LogOf t r e' ∧
        { t with cores := s.cores, mem := s.mem, copies := s.copies, l2 := s.l2, corrected := s.corrected,
                 performs := s.performs, north := s.north, south := s.south } = s ∧
        (∀ o, o < pa ∨ pa + 4 ≤ o → ¬ InSpill s o → memGet t.mem o = memGet s.mem o) ∧
        ((∀ n, n < 128 → ¬ InSpill s (128 * r.pa + n)) → memNat t.mem pa 4 = (after m r.lanes).toNat ∧
          ∀ before x rest, r.lanes = before ++ x :: rest → mapGet 0 e'.data x.lane = after m before))

/-- One lane's deque operation: PUSH stores at BOTTOM and raises it, POP takes the entry below BOTTOM, STEAL the one
at TOP; a full or empty deque answers all ones and a malformed header clips the lane; nothing else of the space
changes. -/
def Obligations.DequesPushPopAndSteal : Prop :=
  ∀ (i : Instr) (s : State) (r : Req) (e : LogEntry) (x : ReqLane), Served i s r → r.kind = .dqop → r.window = false →
    r.space = 1 → LogOf s r e → r.lanes = [x] → x.lane < 48 →
    let sh := (s.blockAt s.sel.core r.blk).shared
    let size := (s.blockAt s.sel.core r.blk).sharedSize
    Memory.wf sh = true →
    (∀ top bottom cap arr, DequeAt sh x.addr top bottom cap arr →
      let at_ (n : Nat) : Nat := arr + 4 * (n % cap)
      let apart (n : Nat) : Prop := at_ n + 4 ≤ size ∧ (at_ n + 4 ≤ x.addr ∨ x.addr + 32 ≤ at_ n)
      let fails : Prop := ∃ t e', exec i s = .next t ∧ NowPerformed s t r ∧ LogOf t r e' ∧ SameBytes s t ∧
        mapGet 0 e'.data x.lane = 0xFFFFFFFF ∧ t.blockAt s.sel.core r.blk = s.blockAt s.sel.core r.blk
      (r.func = 0 → (x.x = 0xFFFFFFFF ∨ cap ≤ dequeSize top bottom) → fails) ∧
      (r.func = 0 → x.x ≠ 0xFFFFFFFF → dequeSize top bottom < cap → apart bottom →
        ∃ t e', exec i s = .next t ∧ NowPerformed s t r ∧ LogOf t r e' ∧ mapGet 0 e'.data x.lane = 0 ∧
          let new := (t.blockAt s.sel.core r.blk).shared
          memNat new (at_ bottom) 4 = x.x.toNat ∧ DequeAt new x.addr top ((bottom + 1) % 2 ^ 32) cap arr ∧
          ∀ o, o < x.addr ∨ x.addr + 8 ≤ o → o < at_ bottom ∨ at_ bottom + 4 ≤ o → memGet new o = memGet sh o) ∧
      (r.func = 1 ∨ r.func = 2 → dequeSize top bottom = 0 → fails) ∧
      (r.func = 1 ∨ r.func = 2 → dequeSize top bottom ≠ 0 →
        let n := if r.func = 1 then (bottom + 2 ^ 32 - 1) % 2 ^ 32 else top
        at_ n + 4 ≤ size → ∃ t e', exec i s = .next t ∧ NowPerformed s t r ∧ LogOf t r e' ∧
          mapGet 0 e'.data x.lane = BitVec.ofNat 32 (memNat sh (at_ n) 4) ∧
          let new := (t.blockAt s.sel.core r.blk).shared
          (if r.func = 1 then memNat new x.addr 4 = top ∧ memNat new (x.addr + 4) 4 = n
            else memNat new x.addr 4 = (top + 1) % 2 ^ 32 ∧ memNat new (x.addr + 4) 4 = bottom) ∧
          ∀ o, o < x.addr ∨ x.addr + 8 ≤ o → memGet new o = memGet sh o)) ∧
    ((memNat sh (x.addr + 8) 4 < 1 ∨ 20 < memNat sh (x.addr + 8) 4 ∨ memNat sh (x.addr + 12) 4 ≠ 0 ∨
        memNat sh (x.addr + 24) 8 ≠ 0 ∨ memNat sh (x.addr + 16) 8 % 4 ≠ 0) →
      ∃ t e', exec i s = .next t ∧ NowPerformed s t r ∧ LogOf t r e' ∧ mapGet 0 e'.data x.lane = 0 ∧
        laneIn (t.groupAt s.sel.core r.grp).clip x.lane = true ∧
        t.blockAt s.sel.core r.blk = s.blockAt s.sel.core r.blk)

/-! ### The matrix engine (R184-R196) and INV (R197-R203) -/

/-- ACCZ, ACCRD, ACCSC and ACCWR with one control word in their active lanes enter the queue with the values they
read; without an active lane they only step; ACCRD is owed its register in the operand log; active lanes that differ
take trap 1, and an Oasis core has none of these words. MMA claims a step of each of its two streams and enters the
queue; it needs every lane, with one format word that the streams' headers match, and waits for headers that have not
arrived. -/
def Obligations.MatrixWordsEnterTheQueue : Prop :=
  ((∀ (s : State) (i : Instr), isOasis s.sel.core = true → s.canIssue = true → ((∃ f, i = .mma f) ∨ (∃ f, i = .accz f) ∨
        (∃ f, i = .accrd f) ∨ (∃ f, i = .accsc f) ∨ (∃ f, i = .accwr f) ∨ ∃ f, i = .qnt f) →
      ∃ t, exec i s = .next t ∧ Illegal s t) ∧
    ∀ (s : State) (f : LCtl2), isOasis s.sel.core = false →
      let r := s.group.lane f.w f.a.toNat
      let act := s.active f.g
      (∀ e ∈ accWords s f, CanRun s 1 (wordRefs e.2.1 s.group) →
        (act = 0 → ∃ t, exec e.2.1 s = .next t ∧ Passed s t 1) ∧
        (∀ w, ControlWord s r act w → ControlTaken s e.1 w → ∃ t, exec e.2.1 s = .next t ∧
          { t.group with splits := s.group.splits } = s.group ∧ Queued s t { op := e.1, grp := s.sel.grp, blk := s.group.blk, ctl := w, lanes := act, vals := match e.2.2 with
            | some b => (List.range 48).map (s.group.vAt b)
            | none => [] }) ∧
        (∀ l, l < 48 → laneIn act l = true → (∀ j, j < l → laneIn act j = false) → HandlerReady s →
          (∃ j, j < 48 ∧ laneIn act j = true ∧ s.group.vAt r j ≠ s.group.vAt r l) → ∃ t d, exec e.2.1 s = .next t ∧
            TookTrap s t 1 d s.split.pc ∧
            ∀ j, j < 48 → d.getLsbD j = (laneIn act j && decide (s.group.vAt r j ≠ s.group.vAt r l)))) ∧
      (∀ g : LR2, g.g = f.g → g.a = f.a → g.w = f.w → CanRun s 1 (g.refs s.group) →
        (act = 0 → ∃ t, exec (.accrd g) s = .next t ∧ Passed s t 1) ∧
        (∀ l, l < 48 → laneIn act l = true → (∀ j, j < l → laneIn act j = false) → HandlerReady s →
          (∃ j, j < 32 ∧ mapFind s.group.oplog j = none) →
          (∃ j, j < 48 ∧ laneIn act j = true ∧ s.group.vAt r j ≠ s.group.vAt r l) → ∃ t d, exec (.accrd g) s = .next t ∧
            TookTrap s t 1 d s.split.pc ∧
            ∀ j, j < 48 → d.getLsbD j = (laneIn act j && decide (s.group.vAt r j ≠ s.group.vAt r l))) ∧
        ∀ w j, ControlWord s r act w → ControlTaken s 2 w → j < 32 → mapFind s.group.oplog j = none → (∀ i, i < j → mapFind s.group.oplog i ≠ none) →
        ∃ t e, exec (.accrd g) s = .next t ∧
          Queued s t { op := 2, grp := s.sel.grp, blk := s.group.blk, ctl := w, lanes := act, log := s.core.nextSer } ∧
          t.group.oplog = mapSet s.group.oplog j e ∧ e.kind = 7 ∧ e.ser = s.core.nextSer ∧ e.wr = act ∧
          e.dest = s.group.lane f.w g.d.toNat ∧ e.nreg = 1 ∧ e.st = .inFlight)) ∧
  (∀ (s : State) (f : LCtl), isOasis s.sel.core = false → CanRun s 1 (f.refs s.group) →
      let r := s.group.lane f.w f.a.toNat
      let all := s.active f.g = allLanes s.sel.core
      (¬ all → HandlerReady s → ∃ t, exec (.mma f) s = .next t ∧
        TookTrap s t 2 (BitVec.ofNat 64 s.split.exec.toNat) s.split.pc) ∧
      (∀ w, all → ControlWord s r (allLanes s.sel.core) w → formatOk w s.block.slots = false →
        ∃ t, exec (.mma f) s = .next t ∧ Illegal s t) ∧
      ∀ w, all → ControlWord s r (allLanes s.sel.core) w → formatOk w s.block.slots = true → matHold s (entryOf s 0 w) = false →
        entryPlaced s s.sel.core (entryOf s 0 w) = true → (s.block.slot (fSlot w)).int56 = fInt56 w →
        (headerCheck s.block w = none → ∃ t, exec (.mma f) s = .next t ∧ Waits s t (.mma f)) ∧
        (headerCheck s.block w = some false → HandlerReady s → ∃ t, exec (.mma f) s = .next t ∧ TookTrap s t 1 0 s.split.pc) ∧
        (headerCheck s.block w = some true → ∃ t, exec (.mma f) s = .next t ∧
          Queued s t { op := 0, grp := s.sel.grp, blk := s.group.blk, ctl := w } ∧
          { t.block with fifos := s.block.fifos } = s.block ∧
          (∀ n, (mapGet [] t.block.fifos n).map (·.hdr) = (mapGet [] s.block.fifos n).map (·.hdr)) ∧
          ∀ n, ((mapGet [] t.block.fifos n).map (·.claimed)).sum = ((mapGet [] s.block.fifos n).map (·.claimed)).sum +
            if n = fAfifo w ∨ n = fBfifo w then 1 else 0))

/-- The head of the queue is performed: MMA sums its products into every cell of its slot, ACCZ clears, ACCSC scales
rows, ACCWR writes columns, ACCRD returns cells rounded and flags SAT, the store of a QNT goes out to its home; or is
walked for again where its page has been removed meanwhile; other slots stay, and no byte of memory changes. -/
def Obligations.MatrixEntriesAreExact : Prop :=
  ∀ (s : State) (e : MatEntry) (rest : List MatEntry), s.core.matq = e :: rest → matReady s s.sel.core = true →
    let k := s.sel.core
    let b := s.blockAt k e.blk
    let a := b.slot (e.slot.getD 0)
    let half := 48 * cHalf e.ctl
    mapSortedFrom 0 a.cells = true → ∃ t, exec .matrixEntryPerform s = .next t ∧ t.core.matq = rest ∧ OnlyCore s t k ∧
      SameBytes s t ∧ (∀ n, e.slot ≠ some n → (t.blockAt k e.blk).slot n = b.slot n) ∧
      (∀ g, e.op ≠ 2 → t.groupAt k g = s.groupAt k g) ∧
      t.core.reqs = (s.core.reqs.map fun q =>
        if e.op = 5 ∧ q.grp = e.grp ∧ q.ser = e.log ∧ q.st = .unsent then
          { q with st := if q.expect.isSome then .nacked else .waiting } else q) ∧
      let a' := (t.blockAt k e.blk).slot (e.slot.getD 0)
      (∀ x y, e.op = 0 → performStream (mapGet [] b.fifos (fAfifo e.ctl)) = some x →
        performStream (mapGet [] b.fifos (fBfifo e.ctl)) = some y → a'.int56 = a.int56 ∧
          (∀ i j, i < 96 → j < 96 → a'.cell i j = (mmaAt e.ctl x y a i j).1) ∧
          (a'.satbit = true ↔ a.satbit = true ∨ ∃ i j, i < 96 ∧ j < 96 ∧ (mmaAt e.ctl x y a i j).2 = true)) ∧
      (e.op = 1 → a'.int56 = decide (cCv e.ctl = 1) ∧ a'.satbit = false ∧ ∀ i j, a'.cell i j = 0) ∧
      (e.op = 3 → a'.int56 = a.int56 ∧ a'.satbit = a.satbit ∧ ∀ i j, i < 96 → j < 96 → a'.cell i j =
        if half ≤ i ∧ i < half + 48 ∧ laneIn e.lanes (i - half) = true then
          f56Of (exMul (f56Val (a.cell i j)) (f32Val (e.vals.getD (i - half) 0))) else a.cell i j) ∧
      (e.op = 4 → a'.int56 = a.int56 ∧ a'.satbit = a.satbit ∧ ∀ i j, i < 96 → j < 96 → a'.cell i j =
        if i = cRow e.ctl ∧ half ≤ j ∧ j < half + 48 ∧ laneIn e.lanes (j - half) = true then
          (let x := e.vals.getD (j - half) 0
           if cCv e.ctl = 0 then f56Of (f32Val x) else if a.int56 then BitVec.ofInt 56 x.toInt else f56Of (intVal x.toInt))
        else a.cell i j) ∧
      ∀ n l, e.op = 2 → (s.groupAt k e.grp).oplog.find? (fun l => decide (l.2.ser = e.log) && decide (l.2.kind = 7)) =
          some (n, l) → a' = a ∧
        LaneWrite (s.groupAt k e.grp) (t.groupAt k e.grp) l.dest l.wr (fun i =>
          (convertCell a.int56 (cCv e.ctl) (a.cell (cRow e.ctl) (half + i))).1) ∧
        SatSet (s.groupAt k e.grp) (t.groupAt k e.grp) l.wr (fun i =>
          a.satbit || (convertCell a.int56 (cCv e.ctl) (a.cell (cRow e.ctl) (half + i))).2) ∧
        (t.groupAt k e.grp).oplog = mapDel (s.groupAt k e.grp).oplog n

/-- QNT quantises 96 values in four blocks of 24, enters the matrix queue with the store of its 100 bytes in shared or
tile space or in memory, which goes out when the engine performs it, and flags QSAT; it clips every lane beyond the
extent, needs every lane, and takes trap 1 where a control word differs between lanes. -/
def Obligations.QntQuantisesAndStores : Prop :=
  ∀ (s : State) (f : LR3), isOasis s.sel.core = false → CanRun s 1 (qntRefs f s.group) →
    let all := allLanes s.sel.core
    (s.active f.g ≠ all → HandlerReady s → ∃ t, exec (.qnt f) s = .next t ∧
      TookTrap s t 2 (BitVec.ofNat 64 s.split.exec.toNat) s.split.pc) ∧
    (let b := s.group.lane f.w f.b.toNat
     let c := s.group.lane f.w f.d.toNat
     let differs (j : Nat) : Prop := s.group.vAt b j ≠ s.group.vAt b 0 ∨ s.group.vAt c j ≠ s.group.vAt c 0
     s.active f.g = all → HandlerReady s → (∃ j, j < 48 ∧ differs j) → ∃ t d, exec (.qnt f) s = .next t ∧
       TookTrap s t 1 d s.split.pc ∧ ∀ j, j < 48 → (d.getLsbD j = true ↔ differs j)) ∧
    ∀ w x, s.active f.g = all → ControlWord s (s.group.lane f.w f.b.toNat) all w →
      ControlWord s (s.group.lane f.w f.d.toNat) all x →
      (256 ≤ w.toNat ∨ 2 < recSpace (s.group.dAt (w.toNat % 32)) ∨ recSwz (s.group.dAt (w.toNat % 32)) ≠ 0 →
        ∃ t, exec (.qnt f) s = .next t ∧ Illegal s t) ∧
      (w.toNat < 256 →
      let d := s.group.dAt (w.toNat % 32)
      let bl := qntBlocks s (s.group.lane f.w f.a.toNat)
      let place (o : Nat) : Nat :=
        if recSpace d = 0 then (recBase d + (indexOffset d x + o)) % 2 ^ 64 else recBase d + (indexOffset d x + o)
      let reached (o : Nat) : Prop :=
        if recSpace d = 0 then inWindow (place o) = false ∧ place o < 2 ^ 57 ∧ s.grid.permits true (place o) = true ∧
          ∃ e, tlbFind s.core.tlb s.group.asn (vpnOf (place o)) = some e ∧ e.perm.getLsbD 1 = true
        else (s.block.allotment (recSpace d)).1 ≤ place o ∧ place o + 1 ≤ (s.block.allotment (recSpace d)).2
      recSwz d = 0 → recSpace d ≤ 2 →
      (recExtent d < indexOffset d x + 800 → ∃ t, exec (.qnt f) s = .next t ∧ SteppedPast s t 1 ∧
        { t.group with splits := s.group.splits } = { s.group with clip := s.group.clip ||| all }) ∧
      (indexOffset d x + 800 ≤ recExtent d → (∀ o, o < 800 → reached o) →
        (s.core.matq.length ≥ 8 ∨ atBarrier s.group = true → exec (.qnt f) s = .next s) ∧
        (s.core.matq.length < 8 → atBarrier s.group = false → ∃ t new, exec (.qnt f) s = .next t ∧ OnlyCore s t s.sel.core ∧ SameBytes s t ∧ SplitIs s t (SplitPast s 1) ∧
          t.core.matq = s.core.matq ++ [{ entryOf s 5 0 with log := s.core.nextSer }] ∧
          t.core.reqs = s.core.reqs ++ new ∧ (new.map (·.line)).Nodup ∧
          (∀ q ∈ new, q.kind = .store ∧ q.st = .unsent ∧ q.ser = s.core.nextSer ∧ q.space = recSpace d ∧ q.blk = s.group.blk ∧
            q.mask = s.split.mask ∧ q.vid = s.group.vid ∧ (∀ b ∈ q.data, b.1 / 128 = q.line) ∧
            (recSpace d = 0 → ∀ e, tlbFind s.core.tlb s.group.asn (vpnOf (128 * q.line)) = some e →
              q.pa = lineOf (physOf e.stack e.frame (128 * q.line)) ∧ q.gen = e.gen)) ∧
          (∀ a b, (∃ q ∈ new, (a, b) ∈ q.data) ↔
            ∃ o, (o, b) ∈ qntBytes (w.toNat / 32 % 8) bl ∧ a = place o) ∧
          { t.group with splits := s.group.splits, qsat := s.group.qsat } = s.group ∧
          ∀ l, l < 48 → laneIn t.group.qsat l = (laneIn s.group.qsat l ||
            ((bl.flatMap (·.2.2)).getD l false || (bl.flatMap (·.2.2)).getD (l + 48) false)))))

/-- INV over a routine that copies xin to yout finds the target itself, by one run an issue: with a tolerance of t it
ends, converged, within t of the target, its bracket around it; targets beyond an end are clamped there and inverted
brackets kept, with INVX. -/
def Obligations.InvFindsTheTarget : Prop :=
  ∀ (s : State) (f : InvForm) (m : LR2), CanRun s (f.n1.toNat + 3) (f.refs s.group) → SearchMayBegin s →
    f.flt = 0 → f.dec = 0 → f.n1 = 0 → decodeWords (routineWord s 0) (routineNext s 0) = .ok (.mov m) → m.g = 0 → m.w = 0 →
    m.d.toNat = f.yout.toNat → m.a.toNat = f.xin.toNat → f.xin ≠ f.yout → 1 ≤ f.tol.toNat → 33 ≤ f.maxiter.toNat →
    ∃ n t, n ≤ 35 ∧ Issues (.inv f) n s t ∧ InvFrame s t f ∧ ∀ l, l < 48 → laneIn (s.active f.g) l = true →
      let x := s.group.vAt (s.group.lane 0 f.xin.toNat) l
      let y := s.group.vAt (s.group.lane 0 f.yout.toNat) l
      let g := s.group.vAt (s.group.lane 0 f.target.toNat) l
      (y.toInt < x.toInt → InvEndsAt s t f l x y x y false true) ∧
      (x.toInt ≤ y.toInt → g.toInt ≤ x.toInt → InvEndsAt s t f l x x x y false true) ∧
      (x.toInt ≤ y.toInt → y.toInt < g.toInt → InvEndsAt s t f l y y x y false true) ∧
      (x.toInt < g.toInt → g.toInt ≤ y.toInt → ∃ lo hi : Word, InvEndsAt s t f l hi hi lo hi true false ∧
        x.toInt ≤ lo.toInt ∧ lo.toInt < g.toInt ∧ g.toInt ≤ hi.toInt ∧ hi.toInt ≤ y.toInt ∧
        hi.toInt - lo.toInt ≤ f.tol.toNat)

/-- INV of any routine that may stand there, in either direction and comparison: with no active lane it only steps
past the routine, lanes whose bracket is inverted keep it with INVX set, and a word that may not stand in a routine is
fault 0x12. Where a lane's bracket is not inverted the search begins for the lanes whose is not: its split stays at
the INV, READY as before, with the registers and flags of those lanes as they were, and the inverted lanes end at
once. The boundary of a run in which some lane's output breaks the order of its ends takes trap 4 with the mask of
those lanes; xin, yout, the bracket, the status predicate and INVX hold in the active lanes what they held at the
INV's issue, and a retry would search again. -/
def Obligations.InvChecksItsRoutine : Prop :=
  (∀ (s : State) (f : InvForm), CanRun s (f.n1.toNat + 3) (f.refs s.group) →
      (RoutineOk s f → s.active f.g = 0 → ∃ t, exec (.inv f) s = .next t ∧ Passed s t (f.n1.toNat + 3)) ∧
      (RoutineOk s f → f.xin ≠ f.yout → (∀ l, l < 48 → laneIn (s.active f.g) l = true → InvertedAt s f l) →
        ∃ t, exec (.inv f) s = .next t ∧ InvFrame s t f ∧ ∀ l, l < 48 → laneIn (s.active f.g) l = true →
          InvEndsAt s t f l (s.group.vAt (s.group.lane 0 f.xin.toNat) l) (s.group.vAt (s.group.lane 0 f.yout.toNat) l)
            (s.group.vAt (s.group.lane 0 f.xin.toNat) l) (s.group.vAt (s.group.lane 0 f.yout.toNat) l) false true) ∧
      (RoutineOk s f → (∃ l, l < 48 ∧ laneIn (s.active f.g) l = true ∧ ¬ InvertedAt s f l) →
        ∃ t r, exec (.inv f) s = .next t ∧ SplitIs s t { s.split with search := some r } ∧ OnlyGroup s t ∧ r.runs = 0 ∧ r.word = 0 ∧
          r.act = s.active f.g ∧
          (∀ l, l < 48 → (laneIn r.searching l = true ↔ laneIn (s.active f.g) l = true ∧ ¬ InvertedAt s f l)) ∧
          (∀ x ∈ r.lanes, x.lo = keyAt s (f.flt == 1) (s.group.lane 0 f.xin.toNat) x.lane ∧
            x.hi = keyAt s (f.flt == 1) (s.group.lane 0 f.yout.toNat) x.lane ∧
            x.t = keyAt s (f.flt == 1) (s.group.lane 0 f.target.toNat) x.lane) ∧
          (∀ l, l < 48 → laneIn (s.active f.g) l = true → InvertedAt s f l → InvEndsAt s t f l
            (s.group.vAt (s.group.lane 0 f.xin.toNat) l) (s.group.vAt (s.group.lane 0 f.yout.toNat) l)
            (s.group.vAt (s.group.lane 0 f.xin.toNat) l) (s.group.vAt (s.group.lane 0 f.yout.toNat) l) false true) ∧
          (∀ l, l < 48 → (laneIn (s.active f.g) l = false ∨ ¬ InvertedAt s f l) → laneIn t.group.invx l = laneIn s.group.invx l ∧
            (∀ q, laneIn (t.group.pAt q) l = laneIn (s.group.pAt q) l) ∧ ∀ hi q, t.group.bAt hi q l = s.group.bAt hi q l) ∧
          { t.group with v := s.group.v, blo := s.group.blo, bhi := s.group.bhi, p := s.group.p, invx := s.group.invx,
                         splits := s.group.splits } = s.group ∧ ∀ q l, l < 48 → t.group.vAt q l = s.group.vAt q l) ∧
      (s.split.search = none → decodeWords (routineWord s 0) (routineNext s 0) = .ok .nop ∨ opcodeReserved ((routineWord s 0).toNat / 2 ^ 24) = true →
        ∃ t, exec (.inv f) s = .next t ∧ Faulted s t 0x12 ((routineWord s 0).setWidth 64))) ∧
  (∀ (s : State) (f : InvForm) (r : InvRun), CanRun s (f.n1.toNat + 3) [] → s.split.search = some r → r.word = f.n1.toNat + 1 →
      routineOwed s = false → s.group.dying = false → HandlerReady s →
      (∃ x ∈ r.lanes, BreaksOrder s f r x) → ∃ u t d, exec (.inv f) s = .next t ∧ TookTrap u t 4 d s.split.pc ∧
        OnlyGroup s u ∧ { u.group with v := s.group.v, blo := s.group.blo, bhi := s.group.bhi, p := s.group.p, invx := s.group.invx } = s.group ∧
        (∀ l, l < 48 → laneIn u.group.invx l = if laneIn r.act l then laneIn r.invx0 l else laneIn s.group.invx l) ∧
        (∀ hi q l, l < 48 → u.group.bAt hi q l = if q = f.bracket.toNat ∧ laneIn r.act l = true then
          (if hi then r.bhi0.getD l 0 else r.blo0.getD l 0) else s.group.bAt hi q l) ∧
        (∀ q l, l < 48 → u.group.vAt q l = if laneIn r.act l then
          (if q = r.yout then r.yout0.getD l 0 else if q = r.xin then r.xin0.getD l 0 else s.group.vAt q l)
          else s.group.vAt q l) ∧
        PredWrite s.group u.group f.status.toNat r.act (fun l => laneIn r.status0 l) ∧ OtherPreds s.group u.group [f.status.toNat] ∧
        ∀ l, l < 48 → (d.getLsbD l = true ↔ ∃ x ∈ r.lanes, x.lane = l ∧ BreaksOrder s f r x))

/-! ### Barriers, fences and queues (R92-R107, R134, R209, R240, R251, R275-R277) -/

/-- Named barriers: an arrival counts toward the generation, whose number BARARR writes; BARWAIT goes on when its
generation has completed; BARSYNC does both; a count of 0 is illegal (R275). Phase barriers: PHBARR takes arrivals off
the shared word and turns its phase when none is left, PHBWAIT waits while the phase is its own, or a store of its
split to the word is not performed; a bad word, offset or count is illegal, an offset beyond the allotment fault 0x11
(R276). -/
def Obligations.NamedAndPhaseBarriers : Prop :=
  (∀ (s : State) (f : QBar), CanRun s 1 [] → s.split.phase = 0 →
      let n := f.n.toNat
      let x := s.block.bar n
      let c := (s.group.sAt f.a.toNat).toNat % 64
      let g := (s.group.sAt f.a.toNat).extractLsb' 16 16
      let arrived (t : State) : Prop := OnlyBlock s t ∧ Arrives x (t.block.bar n) c ∧
        (∀ m, m ≠ n → t.block.bar m = s.block.bar m) ∧ { t.block with bars := s.block.bars } = s.block ∧
        UniWrite s.group t.group f.a.toNat (BitVec.ofNat 64 (65536 * x.gen.toNat + c)) ∧ OnlyUni s.group t.group
      (c = 0 → (∃ t, exec (.bararr f) s = .next t ∧ Illegal s t) ∧ ∃ t, exec (.barsync f) s = .next t ∧ Illegal s t) ∧
      (c ≠ 0 → Quiet s → (∃ t, exec (.bararr f) s = .next t ∧ arrived t ∧ SplitIs s t (SplitPast s 1)) ∧
        ∃ t, exec (.barsync f) s = .next t ∧ arrived t ∧
          (x.arrivals + 1 = (if x.arrivals = 0 then c else x.need) → SplitIs s t (SplitPast s 1)) ∧
          (x.arrivals + 1 ≠ (if x.arrivals = 0 then c else x.need) → StillAt s t (.barsync f))) ∧
      (c ≠ 0 → s.drained = false → (∃ t, exec (.bararr f) s = .next t ∧ Waits s t (.bararr f)) ∧
        ∃ t, exec (.barsync f) s = .next t ∧ Waits s t (.barsync f)) ∧
      ∃ t, exec (.barwait f) s = .next t ∧ (Completed x.gen g → Passed s t 1) ∧ (¬ Completed x.gen g → Waits s t (.barwait f))) ∧
  ((∀ (s : State) (f : QCount), CanRun s 1 [] → Memory.wf s.block.shared = true →
      let o := (s.group.sAt f.a.toNat).toNat
      let w := memNat s.block.shared o 8
      ((f.k = 0 ∨ 2 ^ 32 ≤ o ∨ o % 8 ≠ 0) → ∃ t, exec (.phbarr f) s = .next t ∧ Illegal s t) ∧
      (f.k ≠ 0 → o < 2 ^ 32 → o % 8 = 0 → s.block.sharedSize < o + 8 → ∃ t, exec (.phbarr f) s = .next t ∧
        Faulted s t 0x11 (BitVec.ofNat 64 (max o s.block.sharedSize % 2 ^ 32 + 2 ^ 32))) ∧
      (f.k ≠ 0 → o < 2 ^ 32 → o % 8 = 0 → o + 8 ≤ s.block.sharedSize → Quiet s → ∃ t, exec (.phbarr f) s = .next t ∧
        (¬ phaseLegal w → Illegal s t) ∧
        (phaseLegal w → OnlyBlock s t ∧ OnlySplits s.group t.group ∧ SplitIs s t (SplitPast s 1) ∧
          { t.block with shared := s.block.shared } = s.block ∧
          memNat t.block.shared o 8 = (if phaseLeft w ≤ f.k.toNat
            then phaseCountOf w + 65536 * phaseCountOf w + 2 ^ 32 * (1 - phaseBit w)
            else phaseCountOf w + 65536 * (phaseLeft w - f.k.toNat) + 2 ^ 32 * phaseBit w) ∧
          ∀ a, a < o ∨ o + 8 ≤ a → memGet t.block.shared a = memGet s.block.shared a))) ∧
    ∀ (s : State) (f : QPhase), CanRun s 1 [] → s.split.phase = 0 →
      let o := (s.group.sAt f.a.toNat).toNat
      o < 2 ^ 32 → o % 8 = 0 → o + 8 ≤ s.block.sharedSize → ∃ t, exec (.phbwait f) s = .next t ∧
        (phaseBit (memNat s.block.shared o 8) ≠ f.p.toNat → s.ownStoreAt 1 o 8 = false → Passed s t 1) ∧
        (phaseBit (memNat s.block.shared o 8) = f.p.toNat ∨ s.ownStoreAt 1 o 8 = true → Waits s t (.phbwait f)))

/-- A caravan's words on its home die: CVBAR counts its member, gives the generation and goes on when it is the last;
CAIRNMIN lowers the register and goes on when both replicas have fallen (log entry 49); CAIRNRD reads the replica,
never above what the group has seen; where the block has no such caravan they are illegal (R134, R135, R277). What
travels for a caravan: an arrival reaches its home and is counted there, and the home's completed generation and its
register reach the other die; the home's answer reaches the member's split while it still awaits that arrival (R251,
R277, R317). -/
def Obligations.CaravansMeetAcrossDies : Prop :=
  (∀ (s : State) (f : QCaravan), CanRun s 1 [] → s.split.phase = 0 →
      (s.caravanAt f.c = none → (∃ t, exec (.cvbar f) s = .next t ∧ Illegal s t) ∧
        (∃ t, exec (.cairnmin f) s = .next t ∧ Illegal s t) ∧ ∃ t, exec (.cairnrd f) s = .next t ∧ Illegal s t) ∧
      ∀ i, s.caravanAt f.c = some i →
        let c := s.grid.caravan i
        let d := dieOf s.sel.core
        let v := s.group.sAt f.a.toNat
        (∃ t, exec (.cairnrd f) s = .next t ∧ SteppedPast s t 1 ∧ UniWrite s.group t.group f.a.toNat
          (if (s.group.cairnLast i).toNat < (s.grid.replica d i).toNat then s.group.cairnLast i else s.grid.replica d i) ∧
          t.group.cairnLast i = t.group.sAt f.a.toNat ∧
          { t.group with s := s.group.s, cairnSeen := s.group.cairnSeen, splits := s.group.splits } = s.group) ∧
        (c.homeDie = d → c.scope.toNat ≤ 2 → Quiet s → ∃ t, exec (.cvbar f) s = .next t ∧ OnlyCaravan s t ∧
          IdemOff s t ∧ Joined c (t.grid.caravan i) ∧ (∀ j, j ≠ i → t.grid.caravan j = s.grid.caravan j) ∧
          (c.arrived + 1 = c.members → SplitIs s t (SplitPast s 1) ∧ OnlyUni s.group t.group ∧
            UniWrite s.group t.group f.a.toNat (c.gen.setWidth 64)) ∧
          (c.arrived + 1 ≠ c.members → Completed (s.grid.seen d i) c.gen ∨
            (StillAt s t (.cvbar f) ∧ OnlySplits s.group t.group ∧ t.split.phase = 3 ∧ t.split.wdata = c.gen.setWidth 64))) ∧
        (c.homeDie ≠ d → c.scope.toNat ≤ 2 → Quiet s → ∃ t, exec (.cvbar f) s = .next t ∧ OnlyCaravan s t ∧
          IdemOff s t ∧ StillAt s t (.cvbar f) ∧ OnlySplits s.group t.group ∧ t.split.phase = 4 ∧
          t.split.wdata = BitVec.ofNat 64 s.core.nextSer ∧
          t.grid.pendArr = s.grid.pendArr ++ [(i, .cvbar s.sel.core s.sel.grp s.sel.slot s.core.nextSer)]) ∧
        (c.homeDie = d →
          let low := if v.toNat < c.cairn.toNat then v else c.cairn
          ∃ t, exec (.cairnmin f) s = .next t ∧ OnlyCaravan s t ∧ IdemOff s t ∧
            t.grid.caravan i = { c with cairn := low } ∧ t.grid.replica d i = low ∧
            ((s.grid.replica (1 - d) i).toNat ≤ low.toNat → d < 2 → SplitIs s t (SplitPast s 1) ∧
              UniWrite s.group t.group f.a.toNat low) ∧
            (low.toNat < (s.grid.replica (1 - d) i).toNat → d < 2 → StillAt s t (.cairnmin f) ∧ OnlySplits s.group t.group ∧
              t.split.phase = 3 ∧ t.split.wdata = low))) ∧
  (∀ s : State,
      let g := s.gridAt s.sel.gid
      let answered (t : State) (k gi slot ser : Nat) (v : DWord) : Prop :=
        let p := (s.groupAt k gi).split slot
        (t.groupAt k gi).split slot = if p.awaitsHome ser then { p with phase := 3, wdata := v } else p
      (∀ i k gi slot ser, g.pendArr[s.sel.idx]? = some (i, .cvbar k gi slot ser) → ∃ t, exec .caravanHomeArrival s = .next t ∧
        SameBytes s t ∧ Joined (g.caravan i) ((t.gridAt s.sel.gid).caravan i) ∧
        (t.gridAt s.sel.gid).pendArr = g.pendArr.eraseIdx s.sel.idx ∧
        answered t k gi slot ser ((g.caravan i).gen.setWidth 64) ∧
        ∀ k' g', SameRegs (s.groupAt k' g') (t.groupAt k' g')) ∧
      (∀ i k gi slot ser v, g.pendArr[s.sel.idx]? = some (i, .cairnMin k gi slot ser v) → ∃ t, exec .caravanHomeArrival s = .next t ∧
        SameBytes s t ∧ (t.gridAt s.sel.gid).pendArr = g.pendArr.eraseIdx s.sel.idx ∧
        ((t.gridAt s.sel.gid).caravan i).cairn.toNat = min v.toNat (g.caravan i).cairn.toNat ∧
        answered t k gi slot ser ((t.gridAt s.sel.gid).caravan i).cairn) ∧
      (∃ t, exec .caravanGenerationCompletion s = .next t ∧ { t with grids := s.grids } = s ∧
        (∀ x, x ≠ s.sel.gid → t.gridAt x = s.gridAt x) ∧
        (t.gridAt s.sel.gid).seen s.sel.die s.sel.idx = (g.caravan s.sel.idx).gen ∧
        { t.gridAt s.sel.gid with genSeen := g.genSeen } = g) ∧
      ∃ t, exec .cairnUpdate s = .next t ∧ { t with grids := s.grids } = s ∧ (∀ x, x ≠ s.sel.gid → t.gridAt x = s.gridAt x) ∧
        (t.gridAt s.sel.gid).replica s.sel.die s.sel.idx = (g.caravan s.sel.idx).cairn ∧
        { t.gridAt s.sel.gid with replicas := g.replicas } = g)

/-- FENCE ends when its release has nothing to wait for and its acquire has its loads, emptying the L1, or the slices
read, at CLUSTER or wider; WCFLUSH sends the group's write-combining entries and ends once all have left the die;
RBATCH closes the open tag toward every peer and plane it used; RWAIT gives and clears the errors (R209, R240). The
die that a close notice goes to is log entry 35's choice. -/
def Obligations.FencesAndRemoteBatches : Prop :=
  (∀ (s : State) (f : FenceForm), CanRun s 1 [] → s.split.phase = 0 → f.scope.toNat ≤ 5 →
    (s.drained = true ∨ f.scope = 0 ∨ (f.kind = 1 ∧ s.loadsBack = true) → ∃ t, exec (.fence f) s = .next t ∧
      SplitIs s t (SplitPast s 1) ∧ OnlySplits s.group t.group ∧ SameBytes s t ∧ { t with cores := s.cores } = s ∧
      (f.kind ≠ 1 → f.scope ≠ 0 → t.block.idem = false) ∧
      (f.kind ≠ 2 → 3 ≤ f.scope.toNat → L1Emptied s t) ∧
      t.core.reqs = s.core.reqs ∧ t.core.wc = s.core.wc) ∧
    (f.kind ≠ 1 → f.scope ≠ 0 → s.drained = false → ∃ t, exec (.fence f) s = .next t ∧ StillAt s t (.fence f) ∧
      OnlySplits s.group t.group ∧ t.block = { s.block with idem := false } ∧ OnlyCore s t s.sel.core)) ∧
  (∀ s : State, CanRun s 1 [] → (∀ p, s.linkStd p = false) → ∃ t, exec .wcflush s = .next t ∧
    (t.writesWait s.sel.core s.sel.grp none = false → SplitIs s t (SplitPast s 1)) ∧
    (t.writesWait s.sel.core s.sel.grp none = true → StillAt s t .wcflush) ∧ SameBytes s t ∧ SameRegs s.group t.group ∧
    (∀ w ∈ t.core.wc, w ∈ s.core.wc ∧ w.grp ≠ s.sel.grp) ∧
    ∀ w ∈ s.core.wc, w.grp = s.sel.grp → ∃ p, LeftOrWaits t (dieOf s.sel.core) p ∧ p.1 = .remoteWrite ∧
      p.2.va = 128 * w.line ∧ p.2.dest / 2 = w.peer ∧ p.2.tag = w.tag ∧
      p.2.bytes = w.data.map fun c => (128 * w.line + c.1, c.2)) ∧
  ∀ (s : State) (f : UDst), s.split.phase = 0 →
    (CanRun s 1 (f.refs s.group) → s.canCloseTag s.sel.core s.sel.grp = true → s.core.wc = [] →
      let used := (mapGet {} s.group.rtags s.group.rtag.toNat).used
      ∃ t, exec (.rbatch f) s = .next t ∧ SplitIs s t (SplitPast s 1) ∧ SameBytes s t ∧
        t.group.rtag = s.group.rtag + 1 ∧ t.block.idem = false ∧
        UniWrite s.group t.group (s.group.uni f.i f.d.toNat)
          (BitVec.ofNat 64 (s.group.rtag.toNat + 256 * (used.map (·.1)).dedup.length)) ∧
        ∀ u ∈ used, ∃ p, LeftOrWaits t (dieOf s.sel.core) p ∧ p.1 = .closeNotice ∧ p.2.dest = 2 * u.1 + u.2 / 2 ∧
          p.2.role = u.2 ∧ p.2.tag = s.group.rtag ∧ p.2.srcGrp = 256 * s.sel.core + s.sel.grp) ∧
    (CanRun s 1 [uniRef s.group f.i f.d.toNat 2] →
      (s.tagsSettled s.sel.core s.sel.grp = true → ∃ t, exec (.rwait f) s = .next t ∧ SteppedPast s t 1 ∧
        (let d := s.group.uni f.i f.d.toNat
         t.group.sAt d = s.group.rwPeers ∧ t.group.sAt (d + 1) = s.group.rwErrs.setWidth 64 ∧
           ∀ r, r ≠ d → r ≠ d + 1 → t.group.sAt r = s.group.sAt r) ∧
        { t.group with s := s.group.s, splits := s.group.splits } = { s.group with rwPeers := 0, rwErrs := 0 }) ∧
      (s.tagsSettled s.sel.core s.sel.grp = false → ∃ t i, exec (.rwait f) s = .next t ∧ Waits s t i))

/-- QW gathers a command word by word and enters it whole, with what it captures, in the open batch, or waits for
room; behind those that issued before it; a command that fails a check is not performed and its QW takes the fault; it
pushes to a block's bounded queue or waits; QRD reads an engine's free words or pops a record or entry, or waits;
commands enter in the order in which they were completed; queues without that use are illegal (R92-R95, R101). BCLOSE
numbers the open batch and opens the next; WAITB waits for the batches up to a number, takes trap 7 for a side
information miss, else gives their marks once, a mark above the number at the first WAITB that covers it (log entry
69); QFENCE fences later commands of the named queues, waiting with W; with M the split's accesses are those of the
split's lanes (log entry 32) (R105-R107). -/
def Obligations.QueueWordsAndBatches : Prop :=
  (∀ (s : State) (f : QReg), CanRun s 1 [] → s.split.phase = 0 →
      let q := f.q.toNat
      let w := s.group.sAt f.a.toNat
      let ws := mapGet [] s.group.asm_ q ++ [w]
      let x := s.block.queue q
      let whole := q ≤ 2 ∧ wholeCommand (mapGet [] s.group.asm_ q) = false ∧ wholeCommand ws = true ∧ NoQwWaits s q
      ((3 ≤ q ∧ q ≤ 7) ∨ (8 ≤ q ∧ x.cap = 0) → ∃ t, exec (.qw f) s = .next t ∧ Illegal s t) ∧
      (q ≤ 2 → wholeCommand (mapGet [] s.group.asm_ q) = false → wholeCommand ws = false → NoQwWaits s q →
        ∃ t, exec (.qw f) s = .next t ∧ SteppedPast s t 1 ∧ mapGet [] t.group.asm_ q = ws ∧
          { t.group with asm_ := s.group.asm_, splits := s.group.splits } = s.group) ∧
      (whole → ¬ (KindInQueue ws q ∧ CommandFormed s ws ∧ CoreRuns s ws) → ∃ t, exec (.qw f) s = .next t ∧ Illegal s t) ∧
      (whole → KindInQueue ws q → CommandFormed s ws → CoreRuns s ws → ¬ GroupMaySend s ws →
        ∃ t, exec (.qw f) s = .next t ∧ Faulted s t 0x13 (wordsAtPc s)) ∧
      (whole → CommandPasses s q ws → s.entering s.sel.core q = [] → RoomFor s q ws.length → ∃ t c, exec (.qw f) s = .next t ∧ SameBytes s t ∧
          SplitIs s t (SplitPast s 1) ∧ NewCommand s ws c ∧ s.sel.core = t.sel.core ∧
          t.engQueue s.sel.core q = s.engQueue s.sel.core q ++ [c] ∧
          (∀ p, p ≠ q → t.engQueue s.sel.core p = s.engQueue s.sel.core p) ∧ mapGet [] t.group.asm_ q = [] ∧ t.entering s.sel.core q = [] ∧
          t.group.openBatch.open_ = s.group.openBatch.open_ + 1 ∧ SameRegs s.group t.group) ∧
      (whole → CommandPasses s q ws → (∀ c ∈ s.entering s.sel.core q, c.grp ≠ s.sel.grp) →
        s.entering s.sel.core q ≠ [] ∨ ¬ RoomFor s q ws.length → ∃ t, exec (.qw f) s = .next t ∧ StillAt s t (.qw f) ∧
          mapGet [] t.group.asm_ q = ws ∧ OnlyCore s t s.sel.core ∧ SameBytes s t ∧ SameRegs s.group t.group ∧
          t.core.eng = s.core.eng ∧ t.entering s.sel.core q = s.entering s.sel.core q ++ [wholeCmd ws s]) ∧
      (q ≤ 2 → wholeCommand (mapGet [] s.group.asm_ q) = true ∨ QwWaitsAhead s q → ∃ t, exec (.qw f) s = .next t ∧
        StillAt s t (.qw f) ∧ OnlyGroup s t ∧
        { t.group with asmOrder := s.group.asmOrder, splits := s.group.splits } = s.group) ∧
      (8 ≤ q → s.drained = true → x.q.length < x.cap → ∃ t, exec (.qw f) s = .next t ∧ OnlyBlock s t ∧
        SplitIs s t (SplitPast s 1) ∧ t.block.queue q = { x with q := x.q ++ [w] } ∧ OnlySplits s.group t.group ∧
        { t.block with queues := s.block.queues, idem := s.block.idem } = s.block) ∧
      (8 ≤ q → s.drained = true → 0 < x.cap → x.cap ≤ x.q.length → ∃ t, exec (.qw f) s = .next t ∧ StillAt s t (.qw f) ∧
        t.block.queue q = x) ∧
      (q = 3 ∨ (8 ≤ q ∧ x.cap = 0) → ∃ t, exec (.qrd f) s = .next t ∧ Illegal s t) ∧
      (q ≤ 2 → ∃ t, exec (.qrd f) s = .next t ∧
        UniResult s t 1 f.a.toNat (BitVec.ofNat 64 (s.engFree s.sel.core q))) ∧
      (4 ≤ q → q ≤ 6 → ∀ r rs, mapGet [] s.group.comp (q - 4) = r :: rs → ∃ t, exec (.qrd f) s = .next t ∧
        SteppedPast s t 1 ∧ UniWrite s.group t.group f.a.toNat r ∧ mapGet [] t.group.comp (q - 4) = rs ∧
        { t.group with s := s.group.s, comp := s.group.comp, splits := s.group.splits } = s.group) ∧
      (q = 7 → ∀ r rs, s.group.q7 = r :: rs → ∃ t, exec (.qrd f) s = .next t ∧ SteppedPast s t 1 ∧
        UniWrite s.group t.group f.a.toNat r ∧
        { t.group with s := s.group.s, q7cut := s.group.q7cut, splits := s.group.splits } = { s.group with q7 := rs }) ∧
      (8 ≤ q → 0 < x.cap → ∀ r rs, x.q = r :: rs → ∃ t, exec (.qrd f) s = .next t ∧ OnlyBlock s t ∧
        SplitIs s t (SplitPast s 1) ∧ UniWrite s.group t.group f.a.toNat r ∧ OnlyUni s.group t.group ∧
        t.block.queue q = { x with q := rs } ∧ { t.block with queues := s.block.queues } = s.block) ∧
      ((4 ≤ q ∧ q ≤ 6 ∧ mapGet [] s.group.comp (q - 4) = []) ∨ (q = 7 ∧ s.group.q7 = []) ∨ (8 ≤ q ∧ 0 < x.cap ∧ x.q = []) →
        ∃ t, exec (.qrd f) s = .next t ∧ Waits s t (.qrd f))) ∧
  ((∀ (s : State) (f : QSrc), CanRun s 1 [] → s.split.phase = 0 →
      (s.group.batches.length < 8 → ∃ t, exec (.bclose f) s = .next t ∧ SteppedPast s t 1 ∧
        UniWrite s.group t.group f.a.toNat ((s.group.lastClosed + 1).setWidth 64) ∧
        t.group.lastClosed = s.group.lastClosed + 1 ∧ t.group.openBatch = { num := 0, open_ := 0 } ∧
        (let b := { s.group.openBatch with num := s.group.lastClosed + 1 }
         (b.open_ ≠ 0 → t.group.batches = s.group.batches ++ [b] ∧ t.group.doneMarks = s.group.doneMarks) ∧
           (b.open_ = 0 → t.group.batches = s.group.batches ∧ t.group.doneMarks = s.group.doneMarks ++ [b]))) ∧
      (8 ≤ s.group.batches.length → ∃ t, exec (.bclose f) s = .next t ∧ Waits s t (.bclose f)) ∧
      let m : BitVec 16 := (s.group.sAt f.a.toNat).setWidth 16
      let ahead := decide (0 < (m - s.group.lastClosed).toNat ∧ (m - s.group.lastClosed).toNat < 32768)
      let n := if ahead then s.group.lastClosed else m
      ((∃ b ∈ s.group.batches, AtOrBefore b.num n) → ∃ t, exec (.waitb f) s = .next t ∧ Waits s t (.waitb f)) ∧
      ((∀ b ∈ s.group.batches, ¬ AtOrBefore b.num n) → (∀ x ∈ s.group.misses, x.reported = true ∨ ¬ AtOrBefore x.batch n) →
        ∃ t, exec (.waitb f) s = .next t ∧ SteppedPast s t 1 ∧
          UniWrite s.group t.group f.a.toNat (BitVec.ofNat 64 (waitbWord s.group n ahead)) ∧
          (∀ b, b ∈ t.group.doneMarks ↔ b ∈ s.group.doneMarks ∧ ¬ AtOrBefore b.num n) ∧
          { t.group with s := s.group.s, doneMarks := s.group.doneMarks, splits := s.group.splits } = s.group) ∧
      (∀ x, (∀ b ∈ s.group.batches, ¬ AtOrBefore b.num n) → s.group.misses = [x] → x.reported = false →
        AtOrBefore x.batch n → HandlerReady s → ∃ t, exec (.waitb f) s = .next t ∧ t.group.h = true ∧ t.group.misses = [] ∧
          t.group.frame.pc = s.split.pc ∧ ∃ rest, t.group.q7.tail = BitVec.ofNat 64 (x.batch.toNat + 65536 * x.pair.toNat +
            2 ^ 32 * x.pblk.toNat) :: rest)) ∧
    ∀ (s : State) (f : QFenceForm), CanRun s 1 [] → s.split.phase = 0 →
      (f.q = 0 → ∃ t, exec (.qfence f) s = .next t ∧ Illegal s t) ∧
      (f.q ≠ 0 →
        let own (i : Nat) (c : Cmd) : Prop := i < 3 ∧ f.q.getLsbD i = true ∧ c ∈ s.engQueue s.sel.core i ∧ c.grp = s.sel.grp
        (∀ i c, own i c → c.id < s.core.nextCmd) → ∃ t fence, exec (.qfence f) s = .next t ∧ OnlyGroup s t ∧
          t.group.fences = s.group.fences ++ [fence] ∧ fence.q = f.q ∧
          { t.group with fences := s.group.fences, splits := s.group.splits } = s.group ∧
          (∀ n, n ∈ fence.cmds ↔ ∃ i c, own i c ∧ c.id = n) ∧ (f.m = 0 → fence.sers = [] ∧ fence.acks = []) ∧
          (f.m = 1 → ∀ r ∈ s.core.reqs, r.grp = s.sel.grp → r.mask &&& s.split.mask ≠ 0 → r.ser ∈ fence.sers) ∧
          (f.m = 1 → ∀ e ∈ s.group.oplog, e.2.st ≠ .free → e.2.mask &&& s.split.mask ≠ 0 → e.2.ser ∈ fence.sers) ∧
          (f.m = 1 → ∀ w ∈ s.core.wc, w.grp = s.sel.grp → w.ack ∈ fence.acks) ∧
          (f.w = 0 ∨ fence.cmds = [] → SplitIs s t (SplitPast s 1)) ∧ (f.w = 1 → fence.cmds ≠ [] → StillAt s t (.qfence f))))

/-! ### Code segments, timers, waits (R262, R266, R279-R281, R317) -/

/-- JMPF enters a landed segment or takes trap 6; CFETCH asks for a segment and CFETCH_COMPLETE lands its 1,024 words
as VID 0 has them; CWAIT waits until a segment has landed. A fetch that is refused ends the grid with that fault's
code, which is the model's reading (log entry 57). -/
def Obligations.SegmentsAreFetchedAndEntered : Prop :=
  (∀ (s : State) (f : FarForm), CanRun s 1 [] →
    (s.grid.segmask.getLsbD f.s.toNat = false → ∃ t, exec (.jmpf f) s = .next t ∧ Illegal s t) ∧
    (s.grid.segmask.getLsbD f.s.toNat = true → s.landedAt s.sel.core s.group.gid f.s.toNat = false → HandlerReady s →
      ∃ t, exec (.jmpf f) s = .next t ∧ TookTrap s t 6 (f.s.setWidth 64) s.split.pc) ∧
    (s.grid.segmask.getLsbD f.s.toNat = true → s.landedAt s.sel.core s.group.gid f.s.toNat = true →
      ∃ t, exec (.jmpf f) s = .next t ∧ OnlyGroup s t ∧ OnlySplits s.group t.group ∧
        SplitIs s t { SplitPast s 1 with pc := BitVec.ofNat 15 (1024 * f.s.toNat + f.off.toNat) })) ∧
  (∀ (s : State) (f : SSrc), CanRun s 1 [] → s.split.phase = 0 →
    let n := (s.group.sAt f.a.toNat).toNat
    let here := s.landedAt s.sel.core s.group.gid n
    (32 ≤ n → (∃ t, exec (.cfetch f) s = .next t ∧ Illegal s t) ∧ ∃ t, exec (.cwait f) s = .next t ∧ Illegal s t) ∧
    (n < 32 → s.grid.ovlmask.getLsbD n = true → ∃ t, exec (.cfetch f) s = .next t ∧
      (here = true → Passed s t 1) ∧
      (here = false → segmentInUse s s.sel.core s.group.gid n = true → Illegal s t) ∧
      (here = false → segmentInUse s s.sel.core s.group.gid n = false → OnlyCore s t s.sel.core ∧ SameBytes s t ∧
        SplitIs s t (SplitPast s 1) ∧ OnlySplits s.group t.group ∧
        ∀ m, m < 32 → (mapGet 0 t.core.fetching s.group.gid).getLsbD m =
          ((mapGet 0 s.core.fetching s.group.gid).getLsbD m || decide (m = n)))) ∧
    (n < 32 → s.grid.segmask.getLsbD n = true → ∃ t, exec (.cwait f) s = .next t ∧ (here = true → Passed s t 1) ∧
      (here = false → Waits s t (.cwait f)))) ∧
  ∀ s : State, s.sel.idx < 32 → (mapGet 0 s.core.fetching s.sel.gid).getLsbD s.sel.idx = true →
    let g := s.gridAt s.sel.gid
    let va := g.image + 4096 * s.sel.idx
    (∀ pa u, resolveVa (dieOf s.sel.core) g.asn va true false s = (.at_ pa, u) → u.readFault 0 pa 4096 = none →
      ∃ w t, exec .cfetchComplete s = .next t ∧ OnlyReads s w ∧ OnlyCore w t s.sel.core ∧
        t.landedAt s.sel.core s.sel.gid s.sel.idx = true ∧
        (mapGet 0 t.core.fetching s.sel.gid).getLsbD s.sel.idx = false ∧
        ∀ i, i < 1024 → (t.codeAt s.sel.core s.sel.gid (1024 * s.sel.idx + i)).toNat =
          leNat (((u.rootBytes pa 4096).drop (4 * i)).take 4)) ∧
    ∀ u, resolveVa (dieOf s.sel.core) g.asn va true false s = (.refused, u) → ∃ t, exec .cfetchComplete s = .next t ∧
      OnlyReads s u ∧ { t with grids := s.grids } = u ∧ t.gridAt s.sel.gid = afterFault g
        { code := 0x10, detail := BitVec.ofNat 64 va, coreN := s.coreN s.sel.core, lease := u.leaseOf g.asn va }

/-- PHASE sets the expected time and starts the count with its margin; past it the group takes trap 5 once; a split
passed over 1,024 times is marked to win; a waiting split goes on when its wait is over. -/
def Obligations.TimersAndWaitsExpire : Prop :=
  (∀ (s : State) (f : SSrc), CanRun s 1 [] →
    let x := (s.group.sAt f.a.toNat).toNat
    let m := s.group.phmargin.toNat
    ∃ t, exec (.phase f) s = .next t ∧ (2 ^ 32 ≤ x → Illegal s t) ∧
      (x < 2 ^ 32 → SteppedPast s t 1 ∧ { t.group with splits := s.group.splits } = { s.group with
        expect := BitVec.ofNat 32 x, margin := x + x * (m % 256) / 64 + m / 256 % 2 ^ 24, phaseCount := 0,
        phaseOn := decide (x ≠ 0) })) ∧
  (∀ s : State, s.group.live = true → s.group.phaseOn = true → s.group.margin < s.group.phaseCount → s.split.st ≠ .free →
    s.split.search = none →
    HandlerReady s → s.group.q7.length ≤ 30 → ∃ t, exec .phaseTimerExpiry s = .next t ∧ SameBytes s t ∧
      t.group.phaseOn = false ∧ t.group.h = true ∧
      t.group.frame = { pc := s.split.pc, mask := s.split.mask, exec := s.split.exec } ∧
      t.group.q7 = trapWord 5 s.sel.slot s.split.pc.toNat s.group.q7ovf ::
        BitVec.ofNat 64 (s.group.expect.toNat + 2 ^ 32 * (s.group.phaseCount % 2 ^ 32)) :: s.group.q7 ∧
      t.split.st = .ready ∧ t.split.wait = none ∧ t.split.exec = s.split.mask ∧ t.split.mask = s.split.mask ∧
      t.split.pc.toNat = 1024 * (s.group.trapvec.toNat % 32) + s.group.trapvec.toNat / 32 % 1024 ∧
      SameRegs s.group t.group) ∧
  (∀ s : State, s.group.live = true → s.split.st = .ready → 1024 ≤ s.split.passed → s.split.starved = false →
    ∃ t, exec .starvationWin s = .next t ∧ OnlyGroup s t ∧ OnlySplits s.group t.group ∧
      SplitIs s t { s.split with starved := true }) ∧
  ∀ s : State, s.canIssue = true → groupMoves s s.sel.core s.sel.grp = true → s.split.st = .blocked → s.split.phase = 2 →
    s.split.held = false → s.stalledStore s.sel.core s.sel.grp s.split.mask = false → s.split.pc.toNat % 1024 + 1 ≤ 1023 →
    (∀ f, s.split.wait = some (.cwait f) → s.split.wdata.toNat < 32 →
      s.grid.segmask.getLsbD s.split.wdata.toNat = true → ∃ t, exec .splitWake s = .next t ∧
        (s.landedAt s.sel.core s.group.gid s.split.wdata.toNat = true → Passed s t 1) ∧
        (s.landedAt s.sel.core s.group.gid s.split.wdata.toNat = false → t = s)) ∧
    (∀ f, s.split.wait = some (.barwait f) → s.split.wdata.toNat < 65536 → ∃ t, exec .splitWake s = .next t ∧
      (Completed (s.block.bar f.n.toNat).gen (s.split.wdata.setWidth 16) → Passed s t 1) ∧
      (¬ Completed (s.block.bar f.n.toNat).gen (s.split.wdata.setWidth 16) → t = s)) ∧
    ∀ f o, s.split.wait = some (.phbwait f) → s.split.wdata.toNat = o → o < 2 ^ 32 → o % 8 = 0 →
      o + 8 ≤ s.block.sharedSize → ∃ t, exec .splitWake s = .next t ∧
        (phaseBit (memNat s.block.shared o 8) ≠ f.p.toNat → s.ownStoreAt 1 o 8 = false → Passed s t 1) ∧
        (phaseBit (memNat s.block.shared o 8) = f.p.toNat ∨ s.ownStoreAt 1 o 8 = true → t = s)

/-! ### Launch and versions (R73-R81, R282-R287, R296-R308) -/

/-- LAUNCH reads its record and queues the grid at the die's launch engine in the version of its group, or answers a
refusal code; a record beyond the caller's rights is fault 0x13, a misaligned address illegal. -/
def Obligations.LaunchQueuesAGrid : Prop :=
  ∀ (s : State) (f : UR2), CanRun s 1 (f.refs s.group) → s.drained = true → s.split.phase = 0 →
    (s.group.priv = false ∨ isOasis s.sel.core = false ∨ s.id.lock = true) →
    let va := (s.group.sAt (s.group.uni f.i f.a.toNat)).toNat
    let d := dieOf s.sel.core
    let n := (s.dieAt d).nextLaunch
    let rd := s.group.uni f.i f.d.toNat
    let read := checkRecord va (Unmarked s)
    ((va % 256 ≠ 0 ∨ 2 ^ 57 ≤ va) → ∃ t, exec (.launch f) s = .next t ∧ Illegal s t) ∧
    (va % 256 = 0 → va < 2 ^ 57 →
      (∀ u, read = (.fault, u) → ∃ t, exec (.launch f) s = .next t ∧ OnlyReads (Unmarked s) u ∧
        Faulted u t 0x13 (wordsAtPc s)) ∧
      (∀ c u, read = (.code c, u) → ∃ t, exec (.launch f) s = .next t ∧ AnsweredAfter s u t rd (BitVec.ofNat 64 c)) ∧
      (∀ r u, read = (.ok r, u) → 256 ≤ s.launchHeld d → ∃ t, exec (.launch f) s = .next t ∧ AnsweredAfter s u t rd 1) ∧
      (∀ r u, read = (.ok r, u) → s.launchHeld d < 256 →
        ∃ t, exec (.launch f) s = .next t ∧
          Answered s t rd (BitVec.ofNat 64 (2 ^ 32 * (2 ^ 31 * d + n))) ∧ OnlyReads (Unmarked s) u ∧ SameBytes u t ∧
          GridOf s t (2 ^ 31 * d + n) d s.group.vid r ∧ (t.dieAt d).nextLaunch = (if n = 2 ^ 31 - 1 then 1 else n + 1)))

/-- SPAWN makes a live version below its parent, with a permit of its die, and queues the grid in it in one step; any
refusal leaves the version table as it was and answers its code (R300, R301). -/
def Obligations.SpawnMakesAVersion : Prop :=
  ∀ (s : State) (f : UR3), CanRun s 1 (f.refs s.group) → s.drained = true → s.split.phase = 0 →
    let va := (s.group.sAt (s.group.uni f.i f.a.toNat)).toNat
    let p := (s.group.sAt (s.group.uni f.i f.b.toNat)).toNat
    let d := dieOf s.sel.core
    let n := (s.dieAt d).nextLaunch
    let rd := s.group.uni f.i f.d.toNat
    ((va % 256 ≠ 0 ∨ 2 ^ 57 ≤ va ∨ 256 ≤ p) → ∃ t, exec (.spawn f) s = .next t ∧ Illegal s t) ∧
    (va % 256 = 0 → va < 2 ^ 57 → p < 256 →
      (∀ c u, checkRecord va (Unmarked s) = (.code c, u) → ∃ t, exec (.spawn f) s = .next t ∧
        AnsweredAfter s u t rd (BitVec.ofNat 64 (256 * c))) ∧
      ∀ r z, checkRecord va (Unmarked s) = (.ok r, z) →
        (p ≠ 0 → (s.ver p).st ≠ .live → (s.ver p).st ≠ .closed → ∃ t, exec (.spawn f) s = .next t ∧
          AnsweredAfter s z t rd 0x400) ∧
        (p = 0 → s.group.vid = 0 → min (s.dieAt d).cap.toNat (s.dieAt d).limit.toNat ≤ (s.dieAt d).held_.toNat →
          ∃ t, exec (.spawn f) s = .next t ∧ AnsweredAfter s z t rd 0x100) ∧
        (spawnRefusal r p z = 0 →
          ∃ t u, exec (.spawn f) s = .next t ∧ 0 < u ∧ u < 256 ∧ (s.ver u).st = .free ∧
            Answered s t rd (BitVec.ofNat 64 (2 ^ 32 * (2 ^ 31 * d + n) + u)) ∧
            OnlyReads (Unmarked s) z ∧ t.mem = z.mem ∧ t.copies = z.copies ∧
            GridOf s t (2 ^ 31 * d + n) d u r ∧ (t.dieAt d).held_ = (s.dieAt d).held_ + 1 ∧
            (t.ver u).st = .live ∧ (t.ver u).parent = p ∧
            (t.ver u).depth = (if p = 0 then 1 else (s.ver p).depth + 1) ∧
            (t.ver u).permit = true ∧ (t.ver u).die = d ∧ (t.ver u).foreign = false ∧
            (t.ver u).spawnseq = s.vers.nextSeq ∧ t.vers.nextSeq = s.vers.nextSeq + 1 ∧
            ∀ w, w ≠ u → t.ver w = s.ver w))

/-- RESOLVE waits with its version, its bitmap's address and the length of its path until every version of the path is
closed or one is gone; its table step commits the path from the root with consecutive stamps and squashes the
siblings' subtrees, all in one step, giving back their permits. One die's slices see that at once, the other's after
that die's own step, with which the key-value step comes: that split of the step in two is the model's reading (log
entry 9). RESOLVE ends when both have taken it and every peer has acknowledged, with the counts; the sweeper then
frees a version: no copy and no L1 line of it is left and its children hang from the root. -/
def Obligations.ResolveCommitsAndSquashes : Prop :=
  (∀ (s : State) (f : UR3), CanRun s 1 (f.refs s.group) → s.split.phase = 0 →
    let v := (s.group.sAt (s.group.uni f.i f.a.toNat)).toNat
    let b := (s.group.sAt (s.group.uni f.i f.b.toNat)).toNat
    let rd := s.group.uni f.i f.d.toNat
    ((256 ≤ v ∨ b % 32 ≠ 0) → ∃ t, exec (.resolve f) s = .next t ∧ Illegal s t) ∧
    (v < 256 → b % 32 = 0 → s.group.vid ≠ 0 → ∃ t, exec (.resolve f) s = .next t ∧ AnsweredOnly s t rd 0x20000) ∧
    (v < 256 → b % 32 = 0 → s.group.vid = 0 → v ≠ 0 →
      (s.ver v).st = .free ∨ (s.ver v).st = .committed ∨ (s.ver v).st = .squashed ∨ (s.ver v).foreign = true ∨
        (s.ver v).asn ≠ s.group.asn → ∃ t, exec (.resolve f) s = .next t ∧ AnsweredOnly s t rd 0x10000) ∧
    (v < 256 → b % 32 = 0 → s.group.vid = 0 →
      v = 0 ∨ ((s.ver v).open_ = true ∧ (s.ver v).foreign = false ∧ (s.ver v).asn = s.group.asn) →
      ∃ t i, exec (.resolve f) s = .next t ∧ StillAt s t i ∧ t.split.phase = 4 + v ∧
        t.split.wdata = BitVec.ofNat 64 (b + min 31 (s.ancestors v).length) ∧ OnlySplits s.group t.group ∧ OnlyCore s t s.sel.core)) ∧
  (∀ (s : State) (f : UR3) (v : Nat), s.split.wait = some (.resolve f) → s.split.phase = 4 + v → s.group.live = true →
    let path := (s.ancestors v).reverse
    let b := s.split.wdata.toNat / 32 * 32
    let n := s.split.wdata.toNat % 32
    let ended (st : Nat) : Prop := ∃ t, exec .resolveTableStep s = .next t ∧ OnlyGroup s t ∧ StillAt s t (.resolve f) ∧
      t.split.phase = 3 ∧ t.split.wdata = BitVec.ofNat 64 (65536 * st + 2 ^ 32 * s.vers.nextResolve)
    ((s.ver v).st = .committed ∨ (s.ver v).st = .free → v ≠ 0 → ended 1) ∧
    (v ≠ 0 → (s.ver v).st ≠ .committed → (s.ver v).st ≠ .free → (∃ u ∈ path, (s.ver u).st = .squashed) → ended 4) ∧
    (ResolveHolds s v n → exec .resolveTableStep s = .next s) ∧
    (∀ a, ResolveGoes s v n → b ≠ 0 → s.grid.firstRefused false b 32 = some a → ∃ t,
      exec .resolveTableStep s = .next t ∧ FaultedAt (s.leaseOf s.group.asn a) s t 0x10 (BitVec.ofNat 64 a)) ∧
    (∀ bm, ResolveGoes s v n → (s.ancestors v).length < 256 → NoChains s → BitmapOf s b bm →
      let dead := squashSet s (squashRoots s s.group.asn bm path)
      ∃ t, exec .resolveTableStep s = .next t ∧
      (∀ i u, path[i]? = some u → (t.ver u).st = .committed ∧ (t.ver u).permit = false ∧
        (t.ver u).cstamp = s.vers.nextStamp + BitVec.ofNat 16 i) ∧
      (∀ u ∈ dead, (t.ver u).st = .squashed ∧ (t.ver u).permit = false) ∧
      (∀ u, u ∉ path → u ∉ dead → (t.ver u).st = (s.ver u).st ∧ (t.ver u).parent = (s.ver u).parent) ∧
      (∃ d, d < 2 ∧ t.vers.lag.isSome = true ∧ ∀ l u, u ∈ path ∨ u ∈ dead →
        ((t.seenAt l).ver u).st = if homeDie (128 * l) = d then (s.ver u).st else (t.ver u).st) ∧
      t.vers.sweep = s.vers.sweep ++ dead ++ path ∧ t.split.phase = 3 ∧
      t.split.wdata = BitVec.ofNat 64 (path.length + 256 * min 255 dead.length + 2 ^ 32 * s.vers.nextResolve))) ∧
  (∀ s : State, (∀ f, s.split.wait ≠ some (.resolve f)) →
    (s.vers.lag = none → exec .resolveTableStep s = .next s) ∧
    (NoChains s → exec .resolveTableStep s = .next { s with vers := { s.vers with lag := none } }) ∧
    ∀ d l, s.vers.lag = some (d, l) → exec .resolveTableStep s = .next (kvStep
      ((l.map (·.1)).filter fun u => (s.ver u).st == .committed) ((l.map (·.1)).filter fun u => (s.ver u).st != .committed)
      { s with vers := { s.vers with lag := none } })) ∧
  (∀ (s : State) (f : UR3), s.split.wait = some (.resolve f) → s.split.phase = 3 → s.split.pc.toNat % 1024 + 1 ≤ 1023 →
    s.vers.lag = none → (∀ a ∈ s.vers.acks, a.1 ≠ s.split.wdata.toNat / 2 ^ 32) → ∃ t, exec .resolveComplete s = .next t ∧ OnlyGroup s t ∧
      Answered s t f.d.toNat (BitVec.ofNat 64 (s.split.wdata.toNat % 2 ^ 32))) ∧
  ∀ (s : State) (v : Nat) (rest : List Nat), s.vers.sweep = v :: rest → v ≠ 0 → vidInFlight s v = false → s.vers.lag = none →
    ∃ t, exec .sweepEntry s = .next t ∧ t.vers.sweep = rest ∧ (t.ver v).st = .free ∧ (∀ c ∈ t.copies, c.vid ≠ v) ∧
      (∀ k, ∀ e ∈ (t.coreAt k).l1, e.vid ≠ v) ∧
      ∀ u, u ≠ v → (t.ver u).st = (s.ver u).st ∧ (t.ver u).parent = if (s.ver u).parent = v then 0 else (s.ver u).parent

/-- VQUERY reads the permit pool and the version unit's state for VID 0, and of another VID its table entry, zeros
where the context has no right to it (R305). The draft-tree queues keep 256 entries by rank: DTADD answers what did
not stay, DTTAKE the highest while the budget lasts, DTBUD sets the budget and answers the old one; TRDY raises a
token-ready generation, TWAIT waits for one (R306-R308). -/
def Obligations.VersionAndDraftQueries : Prop :=
  (∀ (s : State) (f : UR2), CanRun s 1 [uniRef s.group f.i f.d.toNat 2, uniRef s.group f.i f.a.toNat] →
      let v := (s.group.sAt (s.group.uni f.i f.a.toNat)).toNat
      let e := s.dieAt (dieOf s.sel.core)
      let x := s.ver v
      let answers (t : State) (lo hi : DWord) : Prop := SteppedPast s t 1 ∧ OnlyUni s.group t.group ∧
        t.group.sAt (s.group.uni f.i f.d.toNat) = lo ∧ t.group.sAt (s.group.uni f.i f.d.toNat + 1) = hi ∧
        ∀ r, r ≠ s.group.uni f.i f.d.toNat → r ≠ s.group.uni f.i f.d.toNat + 1 → t.group.sAt r = s.group.sAt r
      ∃ t, exec (.vquery f) s = .next t ∧ (256 ≤ v → Illegal s t) ∧
        (v = 0 → answers t (BitVec.ofNat 64 (e.cap.toNat + 256 * e.limit.toNat + 65536 * e.held_.toNat)) s.vstat) ∧
        (0 < v → v < 256 → x.st ≠ .free → x.asn = s.group.asn ∨ s.group.priv = true →
          answers t (BitVec.ofNat 64 (versionLow x)) x.peers) ∧
        (0 < v → v < 256 → x.asn ≠ s.group.asn → s.group.priv = false → answers t 0 0)) ∧
  ((∀ (s : State) (f : UR3), CanRun s 1 (f.refs s.group) →
      let d := dieOf s.sel.core
      let n := (s.group.sAt (s.group.uni f.i f.b.toNat)).toNat
      let x := s.group.sAt (s.group.uni f.i f.a.toNat)
      let q := (s.dieAt d).draft n
      let rd := s.group.uni f.i f.d.toNat
      d < 2 → (4 ≤ n → ∃ t, exec (.dtadd f) s = .next t ∧ Illegal s t) ∧
      (n < 4 → (∀ y ∈ q.q, ¬ nanKey y) → ∃ t, exec (.dtadd f) s = .next t ∧
        (nanKey x → DraftIs s t n q ∧ Answered s t rd x) ∧
        (¬ nanKey x → q.q.length < 256 → DraftIs s t n { q with q := q.q ++ [x] } ∧ Answered s t rd (BitVec.allOnes 64)) ∧
        (¬ nanKey x → 256 ≤ q.q.length → ∃ w, Lowest q.q w ∧
          (Above x w → DraftIs s t n { q with q := q.q.erase w ++ [x] } ∧ Answered s t rd w) ∧
          (¬ Above x w → DraftIs s t n q ∧ Answered s t rd x)))) ∧
    (∀ (s : State) (f : UR2), CanRun s 1 (f.refs s.group) → dieOf s.sel.core < 2 →
      let d := dieOf s.sel.core
      let n := (s.group.sAt (s.group.uni f.i f.a.toNat)).toNat
      let q := (s.dieAt d).draft n
      let rd := s.group.uni f.i f.d.toNat
      (4 ≤ n → ∃ t, exec (.dttake f) s = .next t ∧ Illegal s t) ∧
      (n < 4 → (∀ y ∈ q.q, ¬ nanKey y) → ∃ t, exec (.dttake f) s = .next t ∧
        (q.q = [] ∨ q.budget = 0 → DraftIs s t n q ∧ Answered s t rd (BitVec.allOnes 64)) ∧
        (q.q ≠ [] → q.budget ≠ 0 → ∃ w, Highest q.q w ∧ Answered s t rd w ∧
          DraftIs s t n { budget := q.budget - 1, q := q.q.erase w })) ∧
      (64 ≤ n → ∃ t, exec (.trdy f) s = .next t ∧ Illegal s t) ∧
      (n < 64 → s.drained = true → s.split.phase = 0 → ∃ t, exec (.trdy f) s = .next t ∧ OnlyDie s t ∧
        Answered s t rd (((s.dieAt d).tokenGen n + 1).setWidth 64) ∧ (t.dieAt d).tokenGen n = (s.dieAt d).tokenGen n + 1 ∧
        (∀ m, m ≠ n → (t.dieAt d).tokenGen m = (s.dieAt d).tokenGen m) ∧ t.block.idem = false)) ∧
    ∀ (s : State) (f : UR3), CanRun s 1 (f.refs s.group) → dieOf s.sel.core < 2 → s.split.phase = 0 →
      let d := dieOf s.sel.core
      let n := (s.group.sAt (s.group.uni f.i f.a.toNat)).toNat
      let x := (s.group.sAt (s.group.uni f.i f.b.toNat)).toNat
      let q := (s.dieAt d).draft n
      let rd := s.group.uni f.i f.d.toNat
      ((4 ≤ n ∨ 2 ^ 26 ≤ x) → ∃ t, exec (.dtbud f) s = .next t ∧ Illegal s t) ∧
      (n < 4 → x < 2 ^ 26 → ∃ t b, exec (.dtbud f) s = .next t ∧
        DraftIs s t n { budget := b, q := if x / 2 ^ 25 % 2 = 1 then [] else q.q } ∧
        (x / 2 ^ 24 % 2 = 0 → b = x % 65536) ∧ b ≤ 65535 ∧
        Answered s t rd (BitVec.ofNat 64 (q.budget + 65536 * q.q.length))) ∧
      ((64 ≤ n ∨ 65536 ≤ x) → ∃ t, exec (.twait f) s = .next t ∧ Illegal s t) ∧
      (n < 64 → x < 65536 → ∃ t, exec (.twait f) s = .next t ∧ SameBytes s t ∧ { t with cores := s.cores } = s ∧
        (((s.dieAt d).tokenGen n - BitVec.ofNat 16 x).toNat < 32768 →
          Answered s t rd (((s.dieAt d).tokenGen n).setWidth 64) ∧ L1Emptied s t) ∧
        (32768 ≤ ((s.dieAt d).tokenGen n - BitVec.ofNat 16 x).toNat → ∃ i, Waits s t i)))

/-! ### Walker instructions, holds, side information (R70, R83-R91, R219) -/

/-- KVWALK climbs to the node that holds the position and writes its page and the offset, stamping a committed leaf;
each failure of R87 has its status; a read or write the lease or the tables refuse is a fault and leaves no write of
the word, which waits where its line has no room: the model's readings (log entries 53, 51). -/
def Obligations.KvwalkClimbsToThePosition : Prop :=
  (∀ (s u z : State) (f : UR3) (e : KvNode) (path : List KvNode), CanRun s 1 (f.refsPair s.group) → s.drained = true →
    s.split.phase = 0 →
    let n := (s.group.sAt (s.group.uni f.i f.a.toNat)).toNat
    let p := (s.group.sAt (s.group.uni f.i f.b.toNat)).toNat
    let d := s.group.uni f.i f.d.toNat
    let w := unitOf s n
    let last := path.getLastD e
    let reads (t : State) : Prop := OnlyReads { s with cores := t.cores } t
    let fails (t : State) (st : Nat) : Prop := Pair s t d (BitVec.allOnes 64) (BitVec.ofNat 64 st) ∧ reads t
    n % 128 = 0 → NodeAt s w n e u → Climb w u e path z → path.length < 2 ^ 20 →
    (∀ x ∈ e :: path, x.free = false ∧ x.run ≤ 16) → (∀ x ∈ (e :: path).dropLast, p < x.start) →
    (e.start + e.run ≤ p → ∃ t, exec (.kvwalk f) s = .next t ∧ fails t 1) ∧
    (p < e.start + e.run → p < last.start → last.parent = 0 → ∃ t, exec (.kvwalk f) s = .next t ∧ fails t 1) ∧
    (p < e.start + e.run → last.start + last.run ≤ p → ∃ t, exec (.kvwalk f) s = .next t ∧ fails t 7) ∧
    (last.start ≤ p → p < last.start + last.run → p < e.start + e.run →
      (e.vid ≠ 0 → ∃ t, exec (.kvwalk f) s = .next t ∧ reads t ∧
        Pair s t d (BitVec.ofNat 64 last.page) (BitVec.ofNat 64 (p - last.start))) ∧
      ∀ pa y, e.vid = 0 → Writable z w (n + 104) 8 pa y → ∃ t, exec (.kvwalk f) s = .next t ∧ OnlyReads s y ∧
        WroteAt y t pa 8 (s.dieAt w.die).clk.toNat ∧
        Pair s t d (BitVec.ofNat 64 last.page) (BitVec.ofNat 64 (p - last.start)))) ∧
  ∀ (s : State) (f : UR3), CanRun s 1 (f.refsPair s.group) → s.drained = true → s.split.phase = 0 →
    let n := (s.group.sAt (s.group.uni f.i f.a.toNat)).toNat
    let d := s.group.uni f.i f.d.toNat
    (n % 128 ≠ 0 → ∃ t, exec (.kvwalk f) s = .next t ∧ Pair s t d (BitVec.allOnes 64) 2) ∧
    (∀ e u, n % 128 = 0 → NodeAt s (unitOf s n) n e u → e.free = true → ∃ t, exec (.kvwalk f) s = .next t ∧
      Pair s t d (BitVec.allOnes 64) 2) ∧
    UnitWord (.kvwalk f) s s (unitOf s n) (kvwalk (unitOf s n) n (s.group.sAt (s.group.uni f.i f.b.toNat)).toNat)
      fun t r => Pair s t d (pairOf r).1 (pairOf r).2

/-- KVEXT, KVFORK and KVREL act as one step at the unit of their pool, on memory and the version's chain, and write
their results (R88, R89: the accesses in their order); KVFORK in a version answers status 5; KVREL lowers a count
above 1 and touches nothing else. A failed access leaves none of the word's writes, and a word waits for room as a
store does: the model's readings (log entries 53, 51). -/
def Obligations.KvPoolWordsActAtTheirUnit : Prop :=
  (∀ (s : State) (f : UR3), CanRun s 1 (f.refsPair s.group) → s.drained = true → s.split.phase = 0 →
    let n := (s.group.sAt (s.group.uni f.i f.a.toNat)).toNat
    let pd := (s.group.sAt (s.group.uni f.i f.b.toNat)).toNat
    let d := s.group.uni f.i f.d.toNat
    let w := unitOf (Unmarked s) pd
    UnitWord (.kvext f) s (Unmarked s) w (kvext w n pd) (fun t r => Pair s t d (pairOf r).1 (pairOf r).2) ∧
    (n % 128 ≠ 0 → ∃ t, exec (.kvext f) s = .next t ∧ Pair s t d (BitVec.allOnes 64) 2) ∧
    ∀ e u, n % 128 = 0 → NodeAt (Unmarked s) w n e u →
      (e.free = true → ∃ t, exec (.kvext f) s = .next t ∧ Pair s t d (BitVec.allOnes 64) 2) ∧
      (e.free = false → e.run = 0 ∨ 16 < e.run → ∃ t, exec (.kvext f) s = .next t ∧ Pair s t d (BitVec.allOnes 64) 7) ∧
      ∀ (x : ExtTakes) (z : State), e.free = false → 1 ≤ e.run → e.run ≤ 16 → x.i ≠ 2 ^ 32 - 1 → x.k ≠ 2 ^ 32 - 1 →
        kvDo w (x.takes pd ++ .rd 0 (n + 14) 2 x.count :: x.fills w.v n e) u = some z →
        (w.v = 0 → e.count ≠ 65535 → ∀ z', kvDo w (x.joins n) z = some z' → ∃ t, exec (.kvext f) s = .next t ∧
          Pair s t d (BitVec.ofNat 64 (x.base + 128 * x.i)) (BitVec.ofNat 64 x.k) ∧ t.mem = z'.mem ∧ t.copies = z'.copies ∧
          t.vers = z'.vers) ∧
        (w.v ≠ 0 → (e.vid = 0 → e.count ≠ 65535) → (u.ver w.v).kvpool = 0 ∨ (u.ver w.v).kvpool = pd →
          ∀ z', kvDo w (x.pends n e (z.ver w.v).kvhead.toNat) z = some z' → ∃ t, exec (.kvext f) s = .next t ∧
          Pair s t d (BitVec.ofNat 64 (x.base + 128 * x.i)) (BitVec.ofNat 64 x.k) ∧ t.mem = z'.mem ∧ t.copies = z'.copies ∧
          t.vers = (z'.setVer w.v { z.ver w.v with kvhead := BitVec.ofNat 32 x.i, kvpool := pd }).vers)) ∧
  (∀ (s : State) (f : KvforkForm), CanRun s 1 (f.refs s.group) → s.drained = true → s.split.phase = 0 →
    let a := s.group.uni f.i f.a.toNat
    let d := s.group.uni f.i f.d.toNat
    let p := (s.group.sAt a).toNat
    let c := (s.group.sAt (a + 1)).toNat
    let w := unitOf (Unmarked s) (forkPool s p)
    UnitWord (.kvfork f) s (Unmarked s) w (kvfork w p c (decide (f.k = 1))) (fun t r => Answered s t d (oneOf r)) ∧
    (s.group.vid ≠ 0 → ∃ t, exec (.kvfork f) s = .next t ∧ Answered s t d (BitVec.ofNat 64 (2 ^ 63 + 5))) ∧
    (s.group.vid = 0 → p % 128 ≠ 0 ∨ c % 128 ≠ 0 → ∃ t, exec (.kvfork f) s = .next t ∧
      Answered s t d (BitVec.ofNat 64 (2 ^ 63 + 2))) ∧
    ∀ (x : Forks) (e : KvNode) (u v z : State), s.group.vid = 0 → p % 128 = 0 → c % 128 = 0 →
      kvDo w [.rd 0 p 8 x.leaf, .rd 0 (p + 12) 4 x.flags] (Unmarked s) = some u → x.flags % 2 = 1 → x.leaf % 128 = 0 →
      NodeAt u w x.leaf e v → e.free = false → e.count ≠ 65535 → kvDo w (x.copies p c e (decide (f.k = 1))) v = some z →
      ∃ t, exec (.kvfork f) s = .next t ∧ Answered s t d 0 ∧ t.mem = z.mem ∧ t.copies = z.copies ∧ t.vers = z.vers) ∧
  ∀ (s : State) (f : UR3), CanRun s 1 (f.refs s.group) → s.drained = true → s.split.phase = 0 →
    let n := (s.group.sAt (s.group.uni f.i f.a.toNat)).toNat
    let pd := (s.group.sAt (s.group.uni f.i f.b.toNat)).toNat
    let d := s.group.uni f.i f.d.toNat
    let w := unitOf (Unmarked s) pd
    UnitWord (.kvrel f) s (Unmarked s) w (kvrel w n pd) (fun t r => Answered s t d (oneOf r)) ∧
    ∀ e u, n % 128 = 0 → (w.node 0 n).on (Unmarked s) = .ok (e, u) → e.free = false →
      (e.vid ≠ 0 ∨ e.pend = true → ∃ t, exec (.kvrel f) s = .next t ∧ Answered s t d (BitVec.ofNat 64 (2 ^ 63 + 5))) ∧
      (e.vid = 0 → e.pend = false → e.count = 0 → ∃ t, exec (.kvrel f) s = .next t ∧
        Answered s t d (BitVec.ofNat 64 (2 ^ 63 + 4))) ∧
      ∀ pa z y, e.vid = 0 → e.pend = false → 2 ≤ e.count → (w.node 0 n).on u = .ok (e, z) → Writable z w (n + 14) 2 pa y →
        ∃ t, exec (.kvrel f) s = .next t ∧ Answered s t d (BitVec.ofNat 64 (e.count - 1)) ∧ OnlyReads (Unmarked s) y ∧
          WroteAt y t pa 2 (e.count - 1)

/-- PIN raises and UNPIN lowers HOLD of the page's entry and the grid's record of it, and answer GEN with a status;
nothing else in memory changes; an address outside the lease is fault 0x10, an entry that cannot be read fault 0x14; a
page whose generation has changed is NACKed, and the word waits until a walk finds the new one (R49, R57, R60, R70).
The limit of sixteen counts hold records, one for each successful PIN not yet undone, which is the model's reading
(log entry 76). SITREG enters a block of at most 4,096 bytes with its CRC-32C, in place of an entry of its number, and
answers the CRC or a status (the upper half of an answer without a CRC is a free value, log entry 91); it waits for
stores of its own to those bytes; SITDROP removes an entry (R219). -/
def Obligations.PinsAndSideInformation : Prop :=
  (∀ (s : State) (f : UR2), CanRun s 1 (f.refs s.group) → s.split.phase = 0 →
      let va := (s.group.sAt (s.group.uni f.i f.a.toNat)).toNat
      let d := s.group.uni f.i f.d.toNat
      let answers (t : State) (e : Pte) (st : Nat) : Prop := t.block.idem = false ∧
        Answered s t d (BitVec.ofNat 64 (65536 * (e.toNat / 2 ^ 48 % 65536) + st))
      (s.grid.permits false va = false ∨ 2 ^ 57 ≤ va →
        (∃ t, exec (.pin f) s = .next t ∧ FaultedAt (s.leaseOf s.group.asn va) s t 0x10 (BitVec.ofNat 64 va)) ∧
        ∃ t, exec (.unpin f) s = .next t ∧ FaultedAt (s.leaseOf s.group.asn va) s t 0x10 (BitVec.ofNat 64 va)) ∧
      ∀ st fr gen u, s.grid.permits false va = true → va < 2 ^ 57 → PageIs s va st fr gen u → OnlyTranslates s u ∧
        (∀ now w, u.staleGen (physOf st fr va) gen = some now →
          walk (dieOf s.sel.core) s.group.asn (vpnOf va) (some now)
            (dropTlb s.sel.core s.group.asn (vpnOf va) (endIdem u)) = (.none, w) →
          (∃ t i, exec (.pin f) s = .next t ∧ StillAt s t i ∧ t.split.phase = 3 + 32 * now.toNat ∧ t.block.idem = false ∧
            t.grids = s.grids) ∧
          ∃ t i, exec (.unpin f) s = .next t ∧ StillAt s t i ∧ t.split.phase = 3 + 32 * now.toNat ∧ t.block.idem = false ∧
            t.grids = s.grids) ∧
        (∀ b, u.staleGen (physOf st fr va) gen = none → u.pteBad st fr = some b →
          (∃ t, exec (.pin f) s = .next t ∧
            FaultedAt ((endIdem u).leaseFor s.group.asn 0x14 b) (endIdem u) t 0x14 (BitVec.ofNat 64 b)) ∧
          ∃ t, exec (.unpin f) s = .next t ∧
            FaultedAt ((endIdem u).leaseFor s.group.asn 0x14 b) (endIdem u) t 0x14 (BitVec.ofNat 64 b)) ∧
        (u.staleGen (physOf st fr va) gen = none → u.pteBad st fr = none → ∀ e, u.pte st fr = e → e.getLsbD 136 = true →
          let hold := e.toNat / 2 ^ 128 % 256
          (16 ≤ s.grid.holds.length → ∃ t, exec (.pin f) s = .next t ∧ SameBytes u t ∧ t.grids = s.grids ∧ answers t e 4) ∧
          (s.grid.holds.length < 16 → hold = 255 → ∃ t, exec (.pin f) s = .next t ∧ SameBytes u t ∧ t.grids = s.grids ∧
            answers t e 2) ∧
          (s.grid.holds.length < 16 → hold < 255 → EntryPlain u st fr → ∃ t, exec (.pin f) s = .next t ∧
            EntryIs u t st fr (BitVec.ofNat 256 (e.toNat + 2 ^ 128)) ∧
            t.grid = { s.grid with holds := vpnOf va :: s.grid.holds } ∧ answers t e 0) ∧
          (vpnOf va ∉ s.grid.holds → ∃ t, exec (.unpin f) s = .next t ∧ SameBytes u t ∧ t.grids = s.grids ∧ answers t e 3) ∧
          (vpnOf va ∈ s.grid.holds → 0 < hold → EntryPlain u st fr → ∃ t, exec (.unpin f) s = .next t ∧
            EntryIs u t st fr (BitVec.ofNat 256 (e.toNat - 2 ^ 128)) ∧
            t.grid = { s.grid with holds := s.grid.holds.erase (vpnOf va) } ∧ answers t e 0))) ∧
  (∀ (s : State) (f : UR2), CanRun s 1 [uniRef s.group f.i f.d.toNat, uniRef s.group f.i f.a.toNat 2] → s.split.phase = 0 →
      let a := s.group.uni f.i f.a.toNat
      let d := s.group.uni f.i f.d.toNat
      let va := (s.group.sAt a).toNat
      let x := (s.group.sAt (a + 1)).toNat
      let len := x / 2 ^ 32 % 2 ^ 13
      let blk := x % 2 ^ 32
      let mine (e : SitEntry) : Prop := e.asn = s.group.asn ∧ e.blk = blk
      let answers (u t : State) (c : Word) (st : Nat) : Prop := SameBytes u t ∧
        Answered s t d (BitVec.ofNat 64 (2 ^ 32 * c.toNat + st))
      (2 ^ 45 ≤ x → ∃ t, exec (.sitreg f) s = .next t ∧ Illegal s t) ∧
      (x < 2 ^ 45 → s.group.vid ≠ 0 → ∃ t, exec (.sitreg f) s = .next t ∧ answers s t (Config.noCrc va x) 3 ∧ t.sit = s.sit) ∧
      (x < 2 ^ 45 → s.group.vid = 0 → (len = 0 ∨ 4096 < len) → ∃ t, exec (.sitreg f) s = .next t ∧
        answers s t (Config.noCrc va x) 2 ∧ t.sit = s.sit) ∧
      (x < 2 ^ 45 → s.group.vid = 0 → 0 < len → len ≤ 4096 →
        (∀ i, i < len → va + i < 2 ^ 57 ∧ s.grid.permits false (va + i) = true) →
        (s.ownStoreAt 0 va len = true → ∃ t i, exec (.sitreg f) s = .next t ∧ StillAt s t i) ∧
        ∀ bs u, s.ownStoreAt 0 va len = false → readVa (dieOf s.sel.core) s.group.asn 0 va len (Unmarked s) = (.ok bs, u) →
          OnlyReads (Unmarked s) u ∧
          let e : SitEntry := { asn := s.group.asn, blk, gid := s.group.gid, va, len, crc := crc32c bs }
          ((∃ y ∈ s.sit, mine y) ∨ s.sit.length < 4096 → ∃ t, exec (.sitreg f) s = .next t ∧ answers u t (crc32c bs) 0 ∧
            e ∈ t.sit ∧ (∀ y, mine y → y ∈ t.sit → y = e) ∧ ∀ y, ¬ mine y → (y ∈ t.sit ↔ y ∈ s.sit)) ∧
          ((∀ y ∈ s.sit, ¬ mine y) → 4096 ≤ s.sit.length → ∃ t, exec (.sitreg f) s = .next t ∧ answers u t 0 1 ∧
            t.sit = s.sit)) ∧
      let n := va % 2 ^ 32
      ∃ t, exec (.sitdrop f) s = .next t ∧ SameBytes s t ∧
        Answered s t d (if ∃ y ∈ s.sit, y.asn = s.group.asn ∧ y.blk = n then 0 else 1) ∧
        ∀ y, y ∈ t.sit ↔ y ∈ s.sit ∧ ¬ (y.asn = s.group.asn ∧ y.blk = n))

/-! ### Engines (R66-R68, R96-R110, R220) -/

/-- COPY moves its bytes and GATHER its rows, byte by byte, zeros from beyond the source extent and nothing beyond the
destination's, under one translation of each page, and are sent with their clip mark; at VID 0 no byte of memory but
theirs changes; a failing byte ends the grid with its code and address and stores nothing (R58, R97, R98, R101). The
model's choices: all bytes are moved in one step (log entry 7), a failing command stores nothing and its lowest
failing byte decides (log entries 46, 29). FIFOFILL reads its whole source under one translation of each page and
begins a stream with its header, or goes on with the last one; then it appends one unit a step, the planes and scales
the header says, while the FIFO has room, until its units are all there (R58, R110). A header needs no room, a unit is
a step of its own and a failing fill appends nothing: the model's choices (log entries 47, 7, 46). Of several failing
bytes the one named is chosen as log 29 says. -/
def Obligations.EnginesMoveBytes : Prop :=
  ((∀ (s : State) (c : Cmd) (i : Instr) (pairs : List (Nat × Nat)),
      (i = .copy ∧ Starts s 1 c ∧ pairs = (List.range (c.w0.toNat / 2 ^ 32)).map fun j =>
        (c.w1.toNat % 2 ^ 32 + j, c.w1.toNat / 2 ^ 32 + j)) ∨
      (i = .gather ∧ Starts s 2 c ∧ gatherPairs s.sel.core c s (List.range (c.w0.toNat / 2 ^ 48)) = .ok pairs) →
      Memory.wf s.mem = true → Memory.wf (s.blockAt s.sel.core c.blk).shared = true →
      Memory.wf (s.blockAt s.sel.core c.blk).tile = true →
      ∀ pages u, Translated s s.sel.core s.sel.idx c (pairVas c pairs s) pages u → OnlyTranslates s u ∧
        (∀ l, moveBytes s.sel.core c pages u pairs = .ok l →
          u.deadVid c.vid = true ∨ ((∀ x ∈ linesWritten l, u.storeFault c.vid x = none) ∧ u.roomLines c.vid 0 (linesWritten l) = true) →
          ∃ t, exec i s = .next t ∧ BytesLie u t s.sel.core c (stored l) ∧
            SentIs u t c (decide (∃ m ∈ l, m.src = .clip ∨ m.dst = .clip)) ∧
            (c.vid = 0 → ∀ (j pa : Nat) x, (stored l)[j]? = some (Place.mem pa, x) →
              (∀ (k : Nat) y, j < k → (stored l)[k]? ≠ some (Place.mem pa, y)) → ¬ InSpill u pa → t.viewByte 0 pa = x) ∧
            (c.vid = 0 → LinesSettled u l → ∀ v pa, (∀ x, (Place.mem pa, x) ∉ stored l) → ¬ InSpill u pa →
              t.viewByte v pa = u.viewByte v pa)) ∧
        ∀ code detail, moveBytes s.sel.core c pages u pairs = .error (code, detail) →
          ∃ t, exec i s = .next t ∧ CommandFaulted u t c code detail) ∧
    ∀ (s : State) (c : Cmd) (code detail : Nat), Starts s 2 c →
      gatherPairs s.sel.core c s (List.range (c.w0.toNat / 2 ^ 48)) = .error (code, detail) →
      ∃ t, exec .gather s = .next t ∧ CommandFaulted s t c code detail) ∧
  (∀ (s : State) (c : Cmd), Starts s 3 c →
      let k := s.sel.core
      let b := s.blockAt k c.blk
      let fi := c.w0.toNat / 2 ^ 21 % 8
      let units := c.w0.toNat / 2 ^ 32
      let cont := c.w0.getLsbD 24
      let l0 := mapGet [] b.fifos fi
      let live (x : Stream) : Bool := decide (x.done < x.hdr.toNat / 65536 % 65536)
      let filled (t : State) (m : List Stream) : Prop := t.blockAt k c.blk = { b with fifos := mapSet b.fifos fi m }
      let size (h : DWord) : Nat := if h.toNat % 4 = 1 then 1536 else 800
      let kept (h : DWord) : List Nat :=
        if h.toNat % 4 = 0 then List.range (96 * (h.toNat / 4 % 16)) ++ (List.range 32).map (· + 768) else List.range (size h)
      (∀ h, c.taken = none → (cont = true → l0 ≠ [] ∧ (l0.getLast?.map (·.hdr)) = some h) → (cont = false → h = c.w2) →
        let offs := (List.range units).flatMap fun i => (kept h).map fun o => o + (c.w1.toNat % 2 ^ 32 + i * size h)
        ∀ pages u, Translated s k s.sel.idx c (recVas s c.srec offs) pages u → OnlyTranslates s u ∧
          (∀ bs, firstFailure (offs.map fun o => sourceByte k c pages o u) = .ok bs → ∃ t, exec .fifofill s = .next t ∧
            filled t (if cont then l0 else l0.filter live ++ [{ hdr := c.w2 }]) ∧
            CommandIs s t c fun x => { x with taken := some (bs.map fun y => (y.2, decide (y.1 = .clip))) }) ∧
          ∀ code detail, firstFailure (offs.map fun o => sourceByte k c pages o u) = .error (code, detail) →
            ∃ t, exec .fifofill s = .next t ∧ CommandFaulted u t c code detail) ∧
      (∀ bytes, c.taken = some bytes →
        (units ≤ c.count → ∃ t, exec .fifofill s = .next t ∧ SameBytes s t ∧ CommandIs s t c fun x => { x with st := .sent }) ∧
        ∀ older last, c.count < units → l0 = older ++ [last] →
          (fifoUsed l0 + (kept last.hdr).length ≤ b.fifoBytes → ∃ t, exec .fifofill s = .next t ∧ SameBytes s t ∧
            filled t (older ++ [{ last with units := last.units ++ [(bytes.take (kept last.hdr).length).map (·.1)] }]) ∧
            CommandIs s t c fun x =>
              { x with count := c.count + 1, taken := some (bytes.drop (kept last.hdr).length),
                       clipped := x.clipped || (bytes.take (kept last.hdr).length).any (·.2),
                       st := if units ≤ c.count + 1 then .sent else .queued }) ∧
          (b.fifoBytes < fifoUsed l0 + (kept last.hdr).length → exec .fifofill s = .next s)))

/-- DEMOTE and REQUANT write the target frame, copied or requantised, and mark the page's entry busy, or are refused,
or fault where the page or a table cannot be read; the swap then moves the page to the target with the next GEN,
without a write bit if it came from flash, frees the old frame and begins the invalidation of the page, unless a hold
or a version's line stands against it (R49, R52, R66-R68, R99). The model's choices: a DEMOTE of a page in flash is
refused (log entry 72), BUSY is set after the checks and the frame is written in one step (log entries 46, 7), which
versioned lines are live (log entry 73), the swap's invalidation (log entry 48) and the entry that the swap acts on
(log entry 84). -/
def Obligations.PagesMoveToTheirTarget : Prop :=
  (∀ (s : State) (c : Cmd) (i : Instr) (st fr : Nat) (e : Pte) (u : State),
    (i = .demote ∧ Starts s 6 c ∨ i = .requant ∧ Starts s 7 c) →
    commandPage s.sel.core c s = (.found st fr e, u) → Memory.wf s.mem = true →
    let t' := commandTarget c
    let frame := 2 ^ 41 * t'.1 + 2 ^ 21 * t'.2
    let bs := u.rootBytes (2 ^ 41 * st + 2 ^ 21 * fr) (2 ^ 21)
    OnlyReads s u ∧ (∀ b, tableFault c e u = some b → ∃ t, exec i s = .next t ∧ CommandFaulted u t c 0x14 b) ∧
    (tableFault c e u = none → ¬ SwapMayStart u c st e → ∃ t, exec i s = .next t ∧ RefusedIs u t c) ∧
    (∀ code detail, tableFault c e u = none → SwapMayStart u c st e → sourceFault c st fr e u = some (code, detail) → ∃ t, exec i s = .next t ∧
      CommandFaulted u t c code detail) ∧
    (tableFault c e u = none → SwapMayStart u c st e → sourceFault c st fr e u = none → ClearOf u frame (2 ^ 21) → ∃ t, exec i s = .next t ∧
      BytesAt t frame (if i = .demote then bs else (requantPage (c.w2.toNat % 16) bs).1) ∧
      (ClearOf u (u.pteAddr st fr) 32 → Apart (u.pteAddr st fr) 32 frame (2 ^ 21) →
        Apart (u.pteAddr st fr) 32 (u.wearAddr t'.1 t'.2) 4 → (t.pte st fr).getLsbD 139 = true) ∧
      CommandIs s t c fun x =>
        { x with st := .swapping, count := if i = .demote then 0 else min 255 (requantPage (c.w2.toNat % 16) bs).2 })) ∧
  ∀ (s : State) (c : Cmd) (st fr : Nat) (e : Pte) (u : State), swapDue s s.sel.core s.sel.idx = some c →
    (∀ x ∈ s.engQueue s.sel.core s.sel.idx, x.id = c.id → x = c) → commandPage s.sel.core c s = (.found st fr e, u) →
    Memory.wf s.mem = true →
    let t' := commandTarget c
    let h := xlHash c.asn (pteVpn e)
    let free := e.toNat / 2 ^ 128 % 256 = 0 ∧ s.arg.flag = false ∧ versionedIn u st fr = false
    ClearOf u (u.pteAddr st fr) 32 → OnlyReads s u ∧
    (∀ b, tableFault c e u = some b → ∃ t, exec .pageSwap s = .next t ∧ CommandFaulted u t c 0x14 b) ∧
    (tableFault c e u = none → ¬ free → ∃ t, exec .pageSwap s = .next t ∧ (t.pte st fr).getLsbD 139 = false ∧
      CommandIs s t c fun x => { x with st := .sent, refused := true }) ∧
    (tableFault c e u = none → free → ClearOf u (u.pteAddr t'.1 t'.2) 32 → ClearOf u (u.anchorAddr t'.1 h) 4 →
      Apart (u.pteAddr st fr) 32 (u.pteAddr t'.1 t'.2) 32 → Apart (u.pteAddr st fr) 32 (u.anchorAddr t'.1 h) 4 →
      Apart (u.pteAddr t'.1 t'.2) 32 (u.anchorAddr t'.1 h) 4 → ∃ t, exec .pageSwap s = .next t ∧
        (t.pte st fr).getLsbD 138 = false ∧ (t.pte st fr).getLsbD 139 = false ∧ pteGen (t.pte st fr) = pteGen e + 1 ∧
        (t.pte t'.1 t'.2).getLsbD 138 = true ∧ (8 ≤ st → (t.pte t'.1 t'.2).getLsbD 137 = false) ∧ pteVpn (t.pte t'.1 t'.2) = pteVpn e ∧ pteAsn (t.pte t'.1 t'.2) = pteAsn e ∧
        pteGen (t.pte t'.1 t'.2) = pteGen e + 1 ∧ pteNext (t.pte t'.1 t'.2) = u.rootNat (u.anchorAddr t'.1 h) 4 ∧
        t.rootNat (t.anchorAddr t'.1 h) 4 = t'.2 ∧ t.xl.busy = true ∧
        (∀ k, ∀ x ∈ (t.coreAt k).tlb, ¬ (x.asn = c.asn ∧ x.vpn = pteVpn e)) ∧
        CommandIs s t c fun x => { x with st := .sent, swapped := true })

/-- RCOPY's bytes leave for the peer as write messages under the command's tag and version; CSHUF's leave as one
message with its pair, role, partner and CRC, coded where it can meet its partner; each then waits for its summary
(R97, R208, R220). A command that has been answered leaves its queue and its batch, and its record, with the status of
highest rank, enters the group's completion queue if it asked for one and there is room (R103-R105). -/
def Obligations.RemoteCommandsAndCompletion : Prop :=
  ((∀ (s : State) (c : Cmd) (pages : Map Xlated) (u : State) (l : List Move), Starts s 4 c → s.spaceOf c.drec = 3 →
      (∀ p, s.linkStd p = false) → Translated s s.sel.core s.sel.idx c (pairVas c (copyPairs c c.len) s) pages u →
      moveBytes s.sel.core c pages u (copyPairs c c.len) = .ok l →
      let k := s.sel.core
      ∃ t new, exec .rcopy s = .next t ∧ LeaveOrWait s t (dieOf k) new ∧
        (∀ a x, (∃ m, (Instr.remoteWrite, m) ∈ new ∧ (a, x) ∈ m.bytes) ↔ (Place.peer a, x) ∈ stored l) ∧
        (∀ m, (Instr.remoteWrite, m) ∈ new → m.dest / 2 = recPeer c.drec ∧ m.tag = c.tag ∧ m.vid = c.vid ∧ m.asn = c.asn ∧
          m.srcGrp = 256 * k + c.grp ∧ m.req = c.id + 1) ∧
        CommandIs s t c fun x => { x with st := .sent, clipped := decide (∃ m ∈ l, m.src = .clip ∨ m.dst = .clip),
                                          owed := x.owed + if toPeers l = true then 1 else 0 }) ∧
    ∀ (s : State) (c : Cmd) (pages : Map Xlated) (u : State) (l : List Move), Starts s 5 c → s.spaceOf c.drec = 3 →
      (∀ p, s.linkStd p = false) → Translated s s.sel.core s.sel.idx c (pairVas c (copyPairs c c.shufLen) s) pages u →
      moveBytes s.sel.core c pages u (copyPairs c c.shufLen) = .ok l →
      let k := s.sel.core
      let role := c.w2.toNat % 4
      let clip := decide (∃ m ∈ l, m.src = .clip ∨ m.dst = .clip)
      (s.accepted 1 = false → ∃ t, exec .cshuf s = .next t ∧
        CommandIs s t c fun x => { x with st := .sent, clipped := clip, remoteErr := true }) ∧
      (s.accepted 1 = true → toPeers l = true → ∃ t new m, exec .cshuf s = .next t ∧
        LeaveOrWait s t (dieOf k) new ∧
        (∀ x ∈ new, x.1 = .dependencyOnlyMessage ∨ x.1 = .closeNotice ∨
          x = (if role ≠ 0 ∧ 2 ≤ hops s.id.pkg.toNat (recPeer c.drec) then
            Instr.codingWindowArrival else Instr.remoteWrite, m)) ∧ m ∈ new.map (·.2) ∧
        m.bytes = peerPart l ∧
        m.crc = crc32c (m.bytes.map (·.2)) ∧
        m.pair = c.w0.toNat / 2 ^ 48 ∧ m.role = role ∧ m.pblk = c.w2.toNat / 2 ^ 32 ∧ m.doff = c.w1.toNat / 2 ^ 32 ∧
        m.dest / 2 = recPeer c.drec ∧ m.tag = c.tag ∧ m.vid = c.vid ∧ m.req = c.id + 1 ∧
        CommandIs s t c fun x => { x with st := .sent, clipped := clip, owed := x.owed + 1 })) ∧
  (∀ (s : State) (c : Cmd), completable s s.sel.core s.sel.idx = some c → c.uncoded = false →
      let k := s.sel.core
      let q := s.sel.idx
      let g := s.groupAt k c.grp
      let status := if c.cancelled then 3 else if c.remoteErr then 5 else if c.refused then 2 else if c.clipped then 1 else 0
      let ovf := mapGet false g.compOvf q
      let mark (b : Batch) : Batch :=
        { b with open_ := b.open_ - 1, refused := b.refused || decide (status = 2),
                 cancelled := b.cancelled || decide (status = 3), remote := b.remote || decide (status = 5) }
      (g.blk = c.blk ∧ g.gid = c.gid ∧ c.grp ∈ s.core.groups.map (·.1) → ∃ t, exec .commandComplete s = .next t ∧
        SameBytes s t ∧ OnlyCore s t k ∧ (∀ j, j ≠ c.grp → t.groupAt k j = s.groupAt k j) ∧
        t.engQueue k q = (s.engQueue k q).filter (fun x => x.id ≠ c.id) ∧ SameRegs g (t.groupAt k c.grp) ∧
        mapGet [] (t.groupAt k c.grp).comp q = mapGet [] g.comp q ++
          (if c.w0.getLsbD 6 = true ∧ (mapGet [] g.comp q).length < 16 then [BitVec.ofNat 64 (c.batch.toNat + 2 ^ 16 * status +
            2 ^ 20 * (c.w0.toNat % 16) + (if ovf then 2 ^ 24 else 0) +
            2 ^ 32 * (if c.w0.toNat % 16 = 7 then c.count % 256 else 0) + 2 ^ 40 * (c.w0.toNat / 256 % 256))] else []) ∧
        (c.batch = g.lastClosed + 1 → (t.groupAt k c.grp).openBatch = mark g.openBatch ∧
          (t.groupAt k c.grp).batches = g.batches) ∧
        (c.batch ≠ g.lastClosed + 1 → (t.groupAt k c.grp).openBatch = g.openBatch ∧
          (∀ b ∈ g.batches, b.num = c.batch → b.open_ = 1 → mark b ∈ (t.groupAt k c.grp).doneMarks) ∧
          ∀ b ∈ g.batches, b.num ≠ c.batch → b.open_ ≠ 0 → b ∈ (t.groupAt k c.grp).batches)) ∧
      (¬ (g.blk = c.blk ∧ g.gid = c.gid ∧ c.grp ∈ s.core.groups.map (·.1)) → ∃ t, exec .commandComplete s = .next t ∧
        (∀ j, t.groupAt k j = s.groupAt k j) ∧ t.engQueue k q = (s.engQueue k q).filter fun x => x.id ≠ c.id))

/-! ### The fabric (R208-R222, R242-R253) -/

/-- A message for another package goes on by the die that serves its plane; one whose turn has not come is held; an
applied one makes its place known to both dies (R214, R245). An announcement goes to every die of the pod, and one
that names no message counts at once; the contention counters are halved (R217, R247). A package whose PODMASK bit is
clear enters no clock, and after a failed start-up no message acts (R334, R338). That a message waits for an earlier
one of its die for the other die of this package is the model's reading of R248 (log entry 87). -/
def Obligations.MessagesAreAppliedInCausalOrder : Prop :=
  (∀ i ∈ messageKinds, ∀ s : State, s.id.fail ≠ 0 → exec i s = .next s) ∧
  (∀ i ∈ messageKinds, ∀ s : State, s.id.fail = 0 → s.sel.idx = 0 → s.arg.msg.ord ≠ 3 →
    let m := s.arg.msg
    let d := m.dest % 2
    (m.dest / 2 ≠ s.id.pkg.toNat → let r := s.planeOf m.va / 2
      exec i s = .next (s.setDie r { s.dieAt r with egress := (s.dieAt r).egress ++ [(i, m)] })) ∧
    (m.dest / 2 = s.id.pkg.toNat → ¬ Delivered s d m → ∃ t, exec i s = .next t ∧
      t = s.setDie d { s.dieAt d with held := (s.dieAt d).held ++ [(i, m)] })) ∧
  (∀ (s : State) (d : Nat) (m : Msg), Delivered s d m → stdMsg m = false →
    ∃ t, exec .dependencyOnlyMessage s = .next t ∧ { t with north := s.north, south := s.south } = s ∧
      mapFind (t.dieAt d).lastFrom m.origin = some m.seq ∧
      mapGet [] (t.dieAt d).chanDeps m.origin = (accumulated (s.dieAt d) m).filter (fun x => s.id.podmask.getLsbD (x.1 / 2)) ∧
      (s.id.podmask.getLsbD (m.origin / 2) = true → (∀ a ∈ (s.dieAt d).announces, a.1 ≠ m.origin) →
        mapGet 0 (t.dieAt d).applied m.origin = if later32 m.seq (mapGet 0 (s.dieAt d).applied m.origin) then m.seq
          else mapGet 0 (s.dieAt d).applied m.origin) ∧
      (s.id.podmask.getLsbD (m.origin / 2) = false → (t.dieAt d).applied = (s.dieAt d).applied) ∧
      ∀ x, t.dieAt x = { t.dieAt x with
        held := (s.dieAt x).held, egress := (s.dieAt x).egress, sigma := (s.dieAt x).sigma, clk := (s.dieAt x).clk }) ∧
  (∀ s : State, 64 ≤ ((s.dieAt s.sel.die).clk - (s.dieAt s.sel.die).lastAnnounce).toNat →
    let e := s.dieAt s.sel.die
    ∃ t new, exec .sequenceAnnounce s = .next t ∧ Leave s t s.sel.die new ∧ (t.dieAt s.sel.die).lastAnnounce = e.clk ∧
      (∀ x, x ∈ new ↔ ∃ i ∈ s.farDies, x = (.sequenceAnnounceReceive, announcement s s.sel.die i)) ∧
      let own := s.iota s.sel.die
      let sib := 1 - s.sel.die
      mapGet 0 (t.dieAt sib).applied own = if later32 e.sigma (mapGet 0 (s.dieAt sib).applied own) then e.sigma
        else mapGet 0 (s.dieAt sib).applied own) ∧
  (∀ s : State, s.id.podmask.getLsbD (s.arg.msg.origin / 2) = false → exec .sequenceAnnounceReceive s = .next s) ∧
  (∀ s : State, s.id.fail = 0 → s.arg.msg.dest / 2 = s.id.pkg.toNat →
    s.id.podmask.getLsbD (s.arg.msg.origin / 2) = true → let m := s.arg.msg
    let e := s.dieAt (m.dest % 2)
    (∀ a ∈ e.announces, a.1 ≠ m.origin) →
    let now := m.count = 0 ∨ ∃ x, mapFind e.lastFrom m.origin = some x ∧ atOrAfter32 x m.prev = true
    ∃ t, exec .sequenceAnnounceReceive s = .next t ∧ { t with north := s.north, south := s.south } = s ∧
      (now → (t.dieAt (m.dest % 2)).announces = e.announces ∧ mapGet 0 (t.dieAt (m.dest % 2)).applied m.origin =
        if later32 m.seq (mapGet 0 e.applied m.origin) then m.seq else mapGet 0 e.applied m.origin) ∧
      (¬ now → (t.dieAt (m.dest % 2)).announces = e.announces ++ [(m.origin, m.seq, some m.prev)] ∧
        (t.dieAt (m.dest % 2)).applied = e.applied)) ∧
  ∀ s : State, 8500 ≤ ((s.dieAt s.sel.die).clk - (s.dieAt s.sel.die).lastDecay).toNat →
    ∃ t, exec .contentionDecay s = .next t ∧ SameView s t ∧ AllRegs s t ∧
      (∀ x ∈ (t.dieAt s.sel.die).migrated, homeDie (128 * x.1) = s.sel.die → ∀ h ∈ (t.dieAt s.sel.die).hot,
        h.page = x.1 / 2 ^ 14 → h.migrating = true) ∧
      (t.dieAt s.sel.die).hot.map (fun h => (h.page, h.counter)) =
        (s.dieAt s.sel.die).hot.map (fun h => (h.page, h.counter / 2)) ∧
      (∀ h ∈ (t.dieAt s.sel.die).hot, h.migrating = true → 8 ≤ h.counter) ∧
      (t.dieAt s.sel.die).lastDecay = (s.dieAt s.sel.die).clk

/-- A write of committed state lands at its home and is counted for its group and tag, a refused one is counted with
its error bit and stores nothing; a load answers the bytes, an atomic performs its function and answers the old word.
What may not be translated now is held and tried again; a write of a squashed version stores nothing (R57, R126, R208,
R211). -/
def Obligations.HomesServeOtherPackages : Prop :=
  (∀ (s : State) (d : Nat) (m : Msg), Delivered s d m → m.vid = 0 →
    let page := m.va / 2 ^ 21
    let pages := m.bytes.map fun b => b.1 / 2 ^ 21
    let row (t : State) (req : Nat) := rowOf t (m.origin / 2) m.srcGrp m.tag req
    let kind := if stdMsg m = true then 2 else 4
    (∀ p e u, HomeFinds s d m pages p (.ok e) u → FrameOpen u m.bytes p (frameNo e) →
      u.roomLines 0 0 ((m.bytes.map fun b => lineOf (placeOf e b.1)).dedup) = true → OnlyTranslates s u ∧
      (e.perm.getLsbD 1 = true → ∃ t, exec .remoteWrite s = .next t ∧ LieThere u t m.bytes (frameNo e) ∧ AllRegs s t ∧
        row t 0 = { row s 0 with count := (row s 0).count + 1 } ∧
        (m.req ≠ 0 → row t m.req = { row s m.req with count := (row s m.req).count + 1 }) ∧
        Replies s t d .remoteReply m { role := kind }) ∧
      (e.perm.getLsbD 1 = false → ∃ t, exec .remoteWrite s = .next t ∧ SameBytes u t ∧ AllRegs s t ∧
        row t 0 = { row s 0 with count := (row s 0).count + 1, errs := (row s 0).errs ||| 1 } ∧
        Replies s t d .remoteReply m { role := kind, errs := 1 })) ∧
    (∀ e u, HomeFinds s d m [page] page (.ok e) u → OnlyTranslates s u ∧
      (e.perm.getLsbD 0 = true → u.newestCommitted (lineOf (placeOf e m.va)) = none → s.badSectors = [] →
        ClearOf u (128 * lineOf (placeOf e m.va)) 128 → ∃ t, exec .remoteLoad s = .next t ∧ SameView u t ∧ AllRegs s t ∧
        Replies s t d .remoteReply m
          { bytes := m.bytes.map fun b => (b.1, u.viewByte 0 (128 * lineOf (placeOf e m.va) + b.1 % 128)) }) ∧
      (e.perm.getLsbD 0 = false → ∃ t, exec .remoteLoad s = .next t ∧ SameBytes u t ∧ AllRegs s t ∧
        Replies s t d .remoteReply m { errs := 1 }) ∧
      (∀ x, ∀ a ∈ atomicTable, e.perm = 3 → m.ops = [x] → m.func = a.1 → x.va % 128 + 4 ≤ 128 → s.badSectors = [] →
        PlainAt u (128 * lineOf (placeOf e m.va)) 128 →
        let at_ := 128 * lineOf (placeOf e m.va) + x.va % 128
        let old := BitVec.ofNat 32 (memNat u.mem at_ 4)
        ∃ t, exec .remoteAtomic s = .next t ∧ WroteAt u t at_ 4 (a.2 old x.x x.y).toNat ∧ AllRegs s t ∧
          Replies s t d .remoteReply m { ops := [{ x with x := old }] }) ∧
      (e.perm ≠ 3 → ∃ t, exec .remoteAtomic s = .next t ∧ SameBytes u t ∧ AllRegs s t ∧
        Replies s t d .remoteReply m { errs := 1 })) ∧
    (∀ i ∈ [Instr.remoteLoad, .remoteAtomic], ∀ u,
      (HomeFinds s d m [page] page .none u → ∃ t, exec i s = .next t ∧ SameBytes u t ∧
        Replies s t d .remoteReply m { errs := 1 }) ∧
      (∀ b, HomeFinds s d m [page] page (.unreadable b) u → ∃ t, exec i s = .next t ∧ SameBytes u t ∧
        Replies s t d .remoteReply m { errs := 2, count := b }) ∧
      ∀ n, homePages d m [page] s = (.again n, u) → ∃ t, exec i s = .next t ∧ SameBytes u t ∧
        (t.dieAt d).held = (s.dieAt d).held ++ [(i, n)])) ∧
  ∀ (s : State) (d : Nat) (m : Msg) (v : Nat), Delivered s d m → m.vid ≠ 0 → s.foreignOf (m.origin / 2) m.vid = some v →
    (s.ver v).st = .squashed → ∃ t, exec .remoteWrite s = .next t ∧ SameBytes s t ∧ AllRegs s t ∧
      (rowOf t (m.origin / 2) m.srcGrp m.tag 0).errs = (rowOf s (m.origin / 2) m.srcGrp m.tag 0).errs ||| 8 ∧
      Replies s t d .remoteReply m { role := if stdMsg m = true then 2 else 4, errs := 8 }

/-- A reply brings a load its bytes, a write of a standard-mode link its completion, a commit or squash message its
acknowledgement; a close notice for the last plane sends the summary, which settles its group's tag or answers its
command; a commit or squash message acts on the foreign entries it lists and is acknowledged (R208-R211, R213, R246,
R252). The lists of versions that are lacking and of those that have ended are the model's (log entry 23). -/
def Obligations.AnswersSummariesAndLists : Prop :=
  (∀ (s : State) (d : Nat) (m : Msg), Delivered s d m →
    let k := m.srcGrp / 256
    (m.role = 3 → ∃ t, exec .remoteReply s = .next t ∧ SameBytes s t ∧ AllRegs s t ∧
      t.vers.acks = s.vers.acks.erase (m.req, m.origin / 2)) ∧
    (∀ r e, m.role = 0 → m.errs = 0 → remoteReq s k m.req = some r → r.kind = .load → (s.groupAt k r.grp).live = true →
      (s.blockAt k r.blk).live = true → mapFind (s.groupAt k r.grp).oplog r.log = some e → e.ser = r.ser →
      (r.lanes.map (·.lane)).Nodup → (∀ x ∈ r.lanes, x.lane < 48) →
      ∃ t e' r', exec .remoteReply s = .next t ∧ SameBytes s t ∧
        mapFind (t.groupAt k r.grp).oplog r.log = some e' ∧ (∀ x ∈ r.lanes, Returned e' x fun n => mapGet 0 m.bytes (x.addr + n)) ∧
        r' ∈ (t.coreAt k).reqs ∧ r'.id = m.req ∧ r'.st = .performed ∧
        SameRegs (s.groupAt k r.grp) (t.groupAt k r.grp)) ∧
    (∀ o, m.role = 2 ∨ m.role = 4 → d = dieOf k → o.std = true → (s.dieAt d).waiting = [] →
      (∀ j, ∀ r ∈ (s.coreAt j).reqs, r.kind = .store → r.after = []) → (s.dieAt d).out.find? (fun o => o.core = k && o.ack = m.ack) = some o →
      let j := m.srcGrp % 256
      let r := mapGet {} (s.groupAt k j).rtags m.tag.toNat
      o.grp = j → j ∈ (s.coreAt k).groups.map (·.1) → (s.groupAt k j).live = true → r.closed = false →
      ∃ t, exec .remoteReply s = .next t ∧ SameBytes s t ∧ SameRegs (s.groupAt k j) (t.groupAt k j) ∧
        mapGet {} (t.groupAt k j).rtags m.tag.toNat = { r with
          errs := r.errs ||| m.errs, std := r.std - 1,
          errPeers := if m.errs = 0 then r.errPeers else r.errPeers ||| BitVec.ofNat 64 (2 ^ (m.origin / 2)) } ∧
        (m.req ≠ 0 → t.engQueue k 2 = AnsweredCmd (s.engQueue k 2) (m.req - 1) m.errs))) ∧
  (∀ (s : State) (d : Nat) (m : Msg), Delivered s d m →
    let row := rowOf s (m.origin / 2) m.srcGrp m.tag m.req
    let planes := row.closed ||| 2 ^ m.role
    (planes = m.count → ∃ t, exec .closeNotice s = .next t ∧ SameBytes s t ∧ AllRegs s t ∧
      Replies s t d .batchSummary m { count := row.count, errs := row.errs } ∧
      (rowOf t (m.origin / 2) m.srcGrp m.tag m.req).count = 0) ∧
    (planes ≠ m.count → ∃ t, exec .closeNotice s = .next t ∧ SameBytes s t ∧ AllRegs s t ∧
      rowOf t (m.origin / 2) m.srcGrp m.tag m.req = { row with closed := planes })) ∧
  (∀ (s : State) (d : Nat) (m : Msg), Delivered s d m → m.req ≠ 0 →
    let k := m.srcGrp / 256
    ∃ t, exec .batchSummary s = .next t ∧ SameBytes s t ∧
      t.engQueue k 2 = AnsweredCmd (s.engQueue k 2) (m.req - 1) m.errs) ∧
  (∀ (s : State) (d : Nat) (m : Msg), Delivered s d m → m.req = 0 →
    let k := m.srcGrp / 256
    let g := s.groupAt k (m.srcGrp % 256)
    let r := mapGet {} g.rtags m.tag.toNat
    m.srcGrp % 256 ∈ (s.coreAt k).groups.map (·.1) → g.live = true → r.closed = true → r.owed = [m.origin / 2] → r.std = 0 →
    ∃ t, exec .batchSummary s = .next t ∧ SameBytes s t ∧
      let h := t.groupAt k (m.srcGrp % 256)
      SameRegs g h ∧ h.rwErrs = g.rwErrs ||| (r.errs ||| m.errs) ∧ mapGet {} h.rtags m.tag.toNat = {} ∧
      h.rwPeers = g.rwPeers ||| (if m.errs = 0 then r.errPeers else r.errPeers ||| BitVec.ofNat 64 (2 ^ (m.origin / 2)))) ∧
  ∀ (s : State) (d : Nat) (m : Msg), Delivered s d m →
    let us := listedEntries m s
    (∀ u ∈ us, (s.ver u).open_ = true) → us.Nodup →
    (∃ t, exec .commitMessage s = .next t ∧ SameRegs s.group t.group ∧ t.mem = s.mem ∧
      (∀ (i u : Nat), us[i]? = some u → (t.ver u).st = .committed ∧ (t.ver u).cstamp = s.vers.nextStamp + BitVec.ofNat 16 i) ∧
      (∀ u, u ∉ us → t.ver u = s.ver u) ∧ t.vers.sweep = s.vers.sweep ++ us ∧ Replies s t d .remoteReply m { role := 3 } ∧
      ∀ v ∈ m.vids, (m.origin / 2, v) ∉ t.vers.lacking) ∧
    ∃ t, exec .squashMessage s = .next t ∧ SameRegs s.group t.group ∧ t.mem = s.mem ∧
      (∀ u ∈ us, (t.ver u).st = .squashed) ∧ (∀ u, u ∉ us → t.ver u = s.ver u) ∧ t.vers.sweep = s.vers.sweep ++ us ∧
      Replies s t d .remoteReply m { role := 3 } ∧
      ∀ v ∈ m.vids, (m.origin / 2, v) ∉ t.vers.lacking ∧
        ((m.origin / 2, v), if stdMsg m = true then none else some (s.iota d, (t.dieAt d).sigma)) ∈ t.vers.ended

/-! ### Coding, planes, links, RDMA (R213-R222, R253, R334) -/

/-- A message that meets its partner elsewhere goes on. At its meeting relay it waits in its plane's window for its
partner, 32 of them and 1 µs at most; partners leave coded, the XOR of their payloads to each receiver with the
partner's part of the header, where the relay has a credit of each receiver, or both uncoded (R220, R221). How a
receiver's 1,024 credits are shared among the relays and when they come back are free values (log entry 22); the way
round an even ring is the model's choice (log entry 70). A receiver with the side information and a CRC that fits
performs the flow's write, one without asks for a resend, and a message of a squashed version is dropped before that;
each ended decode owes its relay a credit; a resend leaves uncoded and marks its command (R221, R222; log entry 22).
-/
def Obligations.CodedMulticast : Prop :=
  ((∀ s : State,
      let m := s.arg.msg
      let plane := s.arg.n % 4
      let d := plane / 2
      let w := mapGet [] (s.dieAt d).windows plane
      let here := 2 ≤ hops (m.origin / 2) (m.dest / 2) ∧ meetingPkg (m.origin / 2) (m.dest / 2) = s.id.pkg.toNat ∧
        plane = s.planeOf m.va
      s.id.fail = 0 → (¬ here → let r := s.planeOf m.va / 2
        exec .codingWindowArrival s = .next (s.setDie r { s.dieAt r with
          egress := (s.dieAt r).egress ++ [(.codingWindowArrival, m)] })) ∧
      (here → (∀ x ∈ w, isPartner m x.1 = false) → w.length < 32 → ∃ t, exec .codingWindowArrival s = .next t ∧
        SameBytes s t ∧ mapGet [] (t.dieAt d).windows plane = w ++ [(m, (s.dieAt d).clk)] ∧ Leave s t d []) ∧
      (∀ x rest, here → w = x :: rest → (∀ y ∈ w, isPartner m y.1 = false) → w.length = 32 →
        ∃ t, exec .codingWindowArrival s = .next t ∧ SameBytes s t ∧ Leave s t d [(.remoteWrite, x.1)] ∧
          mapGet [] (t.dieAt d).windows plane = rest ++ [(m, (s.dieAt d).clk)]) ∧
      (∀ before x rest, here → w = before ++ x :: rest → (∀ y ∈ before, isPartner m y.1 = false ∧ y ≠ x) →
        isPartner m x.1 = true → ∃ t, exec .codingWindowArrival s = .next t ∧ SameBytes s t ∧
          mapGet [] (t.dieAt d).windows plane = before ++ rest ∧
          (∀ r, mapGet 0 (t.dieAt d).creditsOut r ≤ mapGet 0 (s.dieAt d).creditsOut r + 1 ∧
            (mapGet 0 (t.dieAt d).creditsOut r ≤ creditShare d r ∨
              mapGet 0 (t.dieAt d).creditsOut r ≤ mapGet 0 (s.dieAt d).creditsOut r) ∧
            (r ≠ m.dest → r ≠ x.1.dest → mapGet 0 (t.dieAt d).creditsOut r = mapGet 0 (s.dieAt d).creditsOut r)) ∧
          (creditShare d m.dest = 0 ∨ creditShare d x.1.dest = 0 → Leave s t d [(.remoteWrite, x.1), (.remoteWrite, m)]) ∧
          (1 ≤ creditShare d m.dest → 1 ≤ creditShare d x.1.dest → mapGet 0 (s.dieAt d).creditsOut m.dest = 0 →
            mapGet 0 (s.dieAt d).creditsOut x.1.dest = 0 → ∃ a b, Leave s t d [(.codedDecode, a), (.codedDecode, b)]) ∧
          (Leave s t d [(.remoteWrite, x.1), (.remoteWrite, m)] ∨ ∃ a b, Leave s t d [(.codedDecode, a), (.codedDecode, b)] ∧
          a.dest = m.dest ∧ b.dest = x.1.dest ∧ a.bytes.map (·.2) = b.bytes.map (·.2) ∧
          (a.gdoff, a.gpblk, a.gcrc, a.glen) = (x.1.doff, x.1.pblk, x.1.crc, x.1.size) ∧
          (b.gdoff, b.gpblk, b.gcrc, b.glen) = (m.doff, m.pblk, m.crc, m.size) ∧
          ∀ i, ((a.bytes.map (·.2)).getD i 0) = (m.bytes.map (·.2)).getD i 0 ^^^ (x.1.bytes.map (·.2)).getD i 0))) ∧
    ∀ (s : State) (x : Msg × DWord) (rest : List (Msg × DWord)),
      let plane := s.sel.idx % 4
      let d := plane / 2
      mapGet [] (s.dieAt d).windows plane = x :: rest → 850 ≤ ((s.dieAt d).clk - x.2).toNat →
      ∃ t, exec .codingWindowTimeout s = .next t ∧ SameBytes s t ∧ Leave s t d [(.remoteWrite, x.1)] ∧
        mapGet [] (t.dieAt d).windows plane = rest) ∧
  ((∀ (s : State) (d : Nat) (m : Msg), Delivered s d m → m.vid = 0 →
      let relay := 2 * meetingPkg (m.origin / 2) (m.dest / 2) + s.planeOf m.va / 2
      let given (t : State) : Prop := mapGet 0 (t.dieAt d).creditsBack relay = mapGet 0 (s.dieAt d).creditsBack relay + 1
      (∀ x z p e u, decodeBytes d m s = (some x, z) →
        let bs := (List.range x.length).map fun i => (m.va + i, x.getD i 0)
        let n := { m with bytes := bs }
        HomeFinds z d n (bs.map fun b => b.1 / 2 ^ 21) p (.ok e) u → FrameOpen u bs p (frameNo e) →
        u.roomLines 0 0 ((bs.map fun b => lineOf (placeOf e b.1)).dedup) = true → e.perm.getLsbD 1 = true → crc32c x = m.crc ∧
        ∃ t, exec .codedDecode s = .next t ∧ LieThere u t bs (frameNo e) ∧ AllRegs s t ∧ given t ∧
          rowOf t (m.origin / 2) m.srcGrp m.tag 0 = { rowOf s (m.origin / 2) m.srcGrp m.tag 0 with
            count := (rowOf s (m.origin / 2) m.srcGrp m.tag 0).count + 1 } ∧
          Replies s t d .remoteReply m { role := if stdMsg m = true then 2 else 4 }) ∧
      ((∀ e ∈ s.sit, e.asn = m.asn → e.blk ≠ m.pblk) → ∃ t, exec .codedDecode s = .next t ∧ SameBytes s t ∧
        AllRegs s t ∧ given t ∧ Replies s t d .resendRequest m {})) ∧
    (∀ (s : State) (d : Nat) (m : Msg) (v : Nat), Delivered s d m → m.vid ≠ 0 → s.foreignOf (m.origin / 2) m.vid = some v →
      (s.ver v).st = .squashed → ∃ t, exec .codedDecode s = .next t ∧ SameBytes s t ∧ AllRegs s t ∧
        (let relay := 2 * meetingPkg (m.origin / 2) (m.dest / 2) + s.planeOf m.va / 2
         mapGet 0 (t.dieAt d).creditsBack relay = mapGet 0 (s.dieAt d).creditsBack relay + 1) ∧
        Replies s t d .remoteReply m { role := if stdMsg m = true then 2 else 4, errs := 8 }) ∧
    ∀ (s : State) (d : Nat) (m : Msg) (c : Cmd) (pages : Map Xlated) (u : State) (l : List Move), Delivered s d m →
      let k := m.srcGrp / 256
      (s.engQueue k 2).find? (fun c => c.id + 1 = m.req && c.kind = 5) = some c → (∀ p, s.linkStd p = false) →
      Translated s k 2 c (pairVas c (copyPairs c c.shufLen) s) pages u →
      moveBytes k c pages u (copyPairs c c.shufLen) = .ok l → OnlyTranslates s u ∧
      ∃ t x, exec .resendRequest s = .next t ∧ (LinesSettled u l → SameView u t) ∧
        LeftOrWaits t (dieOf k) (.remoteWrite, x) ∧ x.role = 0 ∧ x.bytes = peerPart l ∧ x.req = m.req ∧
        x.dest / 2 = recPeer c.drec ∧
        t.engQueue k 2 = (s.engQueue k 2).map fun y => if y.id = c.id then { y with
          uncoded := true, st := .sent, clipped := decide (∃ m ∈ l, m.src = .clip ∨ m.dst = .clip), owed := y.owed + 1 } else y)

/-- A port that fails kills its plane, which every other package is told, and a request that it lost faults its grid;
a plane told dead is dead; a trained port is recorded with its partner, and one with a partner out of place is held
down and its plane dead, with the announcement; RDMA writes land at VID 0 in the context's pages, and an RDMA read is
answered from memory; after a failed start-up neither happens (R213, R216, R223, R253, R334, R338). That the notice
goes to die 2 * p is the model's choice (log entry 35). Port numbers belong to planes as log 25 says. -/
def Obligations.PlanesLinksAndRdma : Prop :=
  (∀ s : State,
    let plane := s.arg.off % 4
    let bit : BitVec 4 := BitVec.ofNat 4 (2 ^ plane)
    (s.host.dead.getLsbD plane = false → ∃ t, exec .portFailure s = .next t ∧ AllRegs s t ∧
      t.host.dead = s.host.dead ||| bit ∧ (s.arg.msg.vids = [] → t.grids = s.grids ∧
        ∀ p, p < 64 → p ≠ s.id.pkg.toNat → s.id.podmask.getLsbD p = true →
          ∃ m, (Instr.deadplane, m) ∈ (t.dieAt (plane / 2)).egress ∧ m.dest = 2 * p ∧ m.role = plane)) ∧
    (∀ x o, s.host.dead.getLsbD plane = false → (∀ d, (s.dieAt d).stdQueue = []) → s.arg.msg.vids = [x] →
      let k := x % 512
      let n := x / 512
      (s.dieAt (dieOf k)).out.find? (fun o => o.core = k && o.ack = n) = some o →
      (∀ r ∈ (s.coreAt k).reqs, r.id = n → r.gid = o.gid) → (s.gridAt o.gid).st ≠ .ended →
      (s.gridAt o.gid).squashed = false → (s.gridAt o.gid).fault = none →
      ∃ t f, exec .portFailure s = .next t ∧ (t.gridAt o.gid).fault = some f ∧ (t.gridAt o.gid).st = .faulting ∧
        f.code = 0x18 ∧ f.detail = BitVec.ofNat 64 (o.plane + 256 * o.peer)) ∧
    (s.host.dead.getLsbD plane = true → exec .portFailure s = .next s)) ∧
  (∀ (s : State) (d : Nat) (m : Msg), Delivered s d m → ∃ t, exec .deadplane s = .next t ∧ AllRegs s t ∧
    t.host.dead = s.host.dead ||| BitVec.ofNat 4 (2 ^ (m.role % 4)) ∧ (m.vids = [] → t.grids = s.grids)) ∧
  (∀ s : State,
    let port := s.arg.n % 16
    let x := s.id.pkg.toNat % 8
    let y := s.id.pkg.toNat / 8
    let next := [(x + 1) % 8 + 8 * y, (x + 7) % 8 + 8 * y, x + 8 * ((y + 1) % 8), x + 8 * ((y + 7) % 8)].getD (port % 4) 0
    let fits := s.arg.off = next ∨ (64 ≤ s.arg.off ∧ s.arg.flag = false)
    let told (t : State) : Prop := ∀ p, p < 64 → p ≠ s.id.pkg.toNat → s.id.podmask.getLsbD p = true →
      ∃ m, (Instr.deadplane, m) ∈ (t.dieAt (port / 8)).egress ∧ m.dest = 2 * p ∧ m.role = port / 4
    (s.id.fail ≠ 0 → exec .linkTraining s = .next s) ∧
    (s.id.fail = 0 → ∃ t, exec .linkTraining s = .next t ∧ AllRegs s t ∧ t.grids = s.grids ∧
      (fits ∨ s.host.dead.getLsbD (port / 4) = true → { t with host := s.host } = s) ∧
      (∀ l, l.1 ≠ port → (l ∈ t.host.links ↔ l ∈ s.host.links)) ∧
      (fits → t.host.dead = s.host.dead ∧ ∀ l, l.1 = port → (l ∈ t.host.links ↔ l = (port, s.arg.off, s.arg.flag))) ∧
      (¬ fits → (∀ l, l.1 = port → l ∉ t.host.links) ∧ (s.host.dead.getLsbD (port / 4) = false → told t) ∧
        t.host.dead = s.host.dead ||| BitVec.ofNat 4 (2 ^ (port / 4))))) ∧
  (∀ s : State, s.id.fail ≠ 0 ∨ s.host.ethUp = false → exec .rdmaWriteArrival s = .next s) ∧
  ∀ s : State, s.id.fail = 0 → s.host.ethUp = true →
    let bs := (List.range s.arg.data.length).map fun i => (s.arg.off + i, s.arg.data.getD i 0)
    (∀ p frame u, s.arg.flag = false → PageOpen s s.sel.die (s.arg.n % 4096) bs p frame u → OnlyReads s u ∧
      ∃ t, exec .rdmaWriteArrival s = .next t ∧ LieThere u t bs frame ∧ AllRegs s t ∧ t.grids = s.grids) ∧
    ∀ xs u, s.arg.flag = true → readVa s.sel.die (s.arg.n % 4096) 0 s.arg.off s.arg.len s = (.ok xs, u) →
      ∃ t, exec .rdmaWriteArrival s = .next t ∧ OnlyReads s u ∧
        t = { u with host := { u.host with ethReplies := u.host.ethReplies ++ [(s.arg.off, xs)] } }

/-! ### Dispatch, swaps, the end of grids (R62, R251, R256, R287-R297, R318-R324) -/

/-- A grid whose pages are ready gets its lease; its next block goes to the core the engine chooses, with its
allotments cleared, its range of shared memory apart from the others', and every group at entry; WAITADDR is met when
its word has reached the value (R62, R108, R287-R289). That a lease of ready pages is made in one step is the model's
choice (log entry 38), and so is which unmapped pages belong to peers, whose homes see to them (log entry 93). -/
def Obligations.BlocksAreDispatchedAtEntry : Prop :=
  (∀ s : State, heldStart s s.sel.gid = none → leaseDue s s.sel.gid = true →
    (∀ p ∈ (s.gridAt s.sel.gid).leasePages, pageReady (s.gridAt s.sel.gid) s p = .ready ∨
      pageReady (s.gridAt s.sel.gid) s p = .peer) →
    ∃ t, exec .blockDispatch s = .next t ∧ AllRegs s t ∧ (t.gridAt s.sel.gid).leaseReady = true ∧
      (t.gridAt s.sel.gid).pinned = ((s.gridAt s.sel.gid).leasePages.filter fun p =>
        pageReady (s.gridAt s.sel.gid) s p = .ready).map (·.1)) ∧
  (∀ (s : State) (k b : Nat) (rest : List Nat),
    let gid := s.sel.gid
    let g := s.gridAt gid
    let c := s.coreAt k
    heldStart s gid = none → leaseDue s gid = false → nextGrid s g.die g.cls = some gid → g.coResident = false → g.todo = b :: rest →
    bestCore s gid = some k → mayStart s k = true → (∃ x ∈ c.blocks, x.2.gid = gid) → c.frozen = false →
    c.blocks.length < 128 →
    c.groups.length + (g.stages.map (·.groups)).sum ≤ 128 →
    ∃ t key, exec .blockDispatch s = .next t ∧ SameBytes s t ∧ (t.gridAt gid).todo = rest ∧
      (t.gridAt gid).st = (if rest = [] then .running else .dispatching) ∧ key ∉ c.blocks.map (·.1) ∧
      (∀ i, i ≠ key → t.blockAt k i = s.blockAt k i) ∧
      let x := t.blockAt k key
      x.live = true ∧ x.gid = gid ∧ x.blk = b ∧ x.shared = [] ∧ x.tile = [] ∧ x.acc = [] ∧ x.fifos = [] ∧ x.bars = [] ∧
        x.queues = g.queues ∧ x.sharedSize = g.sharedBytes ∧ x.slots = g.slots ∧ x.idem = g.idem ∧
        x.groups.length = (g.stages.map (·.groups)).sum ∧ x.sharedBase + x.sharedSize ≤ sharedMax k ∧
        (∀ y ∈ c.blocks, y.2.place = .resident → y.2.sharedSize ≠ 0 →
          Apart x.sharedBase x.sharedSize y.2.sharedBase y.2.sharedSize) ∧
        (∀ i ∈ x.groups, i ∉ c.groups.map (·.1) ∧ AtEntry g k (t.groupAt k i) ∧ (t.groupAt k i).gid = gid ∧
          (t.groupAt k i).blk = key) ∧
        ∀ i, i ∉ x.groups → t.groupAt k i = s.groupAt k i) ∧
  ∀ (s : State) (bs : List Byte) (u : State),
    let g := s.gridAt s.sel.gid
    g.st = .waiting → g.waitMet = false → g.waitaddr ≠ 0 → g.fault = none → g.squashed = false →
    readVa g.die g.asn 0 g.waitaddr 8 s = (.ok bs, u) → OnlyReads s u ∧
    (g.waitval.toNat ≤ leNat bs → ∃ t, exec .waitaddrPoll s = .next t ∧ { t with grids := s.grids } = u ∧
      t.gridAt s.sel.gid = { g with waitMet := true } ∧ ∀ x, x ≠ s.sel.gid → t.gridAt x = s.gridAt x) ∧
    (leNat bs < g.waitval.toNat → exec .waitaddrPoll s = .next s)

/-- The shadow bank takes the saved context; a swap brings the shadow context in and, for a new block, sends the
residents out, every register as it was, and WCAGE goes with its context; regions are spilled and filled one by one, a
region only once the outgoing ones at its place have gone (R139, R321-R324). That a block which comes in begins with
WCAGE 8 is the model's choice (log entry 2), and so are contexts kept by place, without the save frame's bytes (log
entry 55). -/
def Obligations.SwapsKeepEveryRegister : Prop :=
  (∀ s : State, fillDue s s.sel.core = true → s.core.incoming = none → ∃ t, exec .shadowFill s = .next t ∧
    OnlyCore s t s.sel.core ∧ SameBytes s t ∧ ∀ i ∈ s.core.groups.map (·.1), t.groupAt s.sel.core i =
      { s.groupAt s.sel.core i with place := if (s.groupAt s.sel.core i).place = .saved then .shadow
                                              else (s.groupAt s.sel.core i).place }) ∧
  (∀ s : State, swapReady s s.sel.core = true →
    (∀ b ∈ s.core.blocks, b.2.place = .resident → b.2.idem = false) →
    ∃ t, exec .shadowSwap s = .next t ∧ SameBytes s t ∧ t.core.incoming = none ∧
      (s.core.incoming = none → t.core.wcage = s.core.wcageSaved) ∧
      (s.core.incoming ≠ none → t.core.wcage = 8 ∧
        ((∃ b ∈ s.core.blocks, b.2.place = .resident) → t.core.wcageSaved = s.core.wcage)) ∧
      ∀ i ∈ s.core.groups.map (·.1), SameRegs (s.groupAt s.sel.core i) (t.groupAt s.sel.core i) ∧
        (t.groupAt s.sel.core i).place = match (s.groupAt s.sel.core i).place with
          | .shadow => .resident
          | .resident => if s.core.incoming = none then .resident else .saved
          | .saved => .saved) ∧
  (∀ s : State, (∃ r ∈ s.core.toSpill, spillable s s.sel.core r = true) → ∃ t r, exec .regionSpill s = .next t ∧
    r ∈ s.core.toSpill ∧ spillable s s.sel.core r = true ∧ OnlyCore s t s.sel.core ∧
    t.core = { s.core with toSpill := s.core.toSpill.erase r }) ∧
  ∀ (s : State) (r : Nat), fillReady s s.sel.core = some r → ∃ t, exec .regionFill s = .next t ∧ r ∈ s.core.toFill ∧
    (∀ x ∈ s.core.toSpill, samePlace s.core r x = false) ∧ OnlyCore s t s.sel.core ∧
    t.core = { s.core with toFill := s.core.toFill.erase r }

/-- A completed grid ends: its DONEADDR counter rises by 1, its holds and side information go, and the last grid of a
version closes it. A faulted one ends its blocks, but for a split inside a run of an INV, which goes on to its
boundary, and squashes the versions it made, and then writes its status record (R65, R204, R256, R297, R318, R319). -/
def Obligations.GridsEnd : Prop :=
  (∀ s : State, completeDue s s.sel.gid = true →
    let gid := s.sel.gid
    let g := s.gridAt gid
    (∃ t, exec .gridComplete s = .next t ∧ AllRegs s t ∧ (t.gridAt gid).st = .ended ∧ (t.gridAt gid).holds = [] ∧
      (t.gridAt gid).pinned = [] ∧ (∀ e, e ∈ t.sit ↔ e ∈ s.sit ∧ e.gid ≠ gid) ∧
      (g.vid ≠ 0 → (s.ver g.vid).st = .live → (∀ x ∈ s.grids, x.1 ≠ gid → x.2.vid = g.vid → x.2.st = .ended) →
        mapSortedFrom 0 s.grids = true → (t.ver g.vid).st = .closed)) ∧
    ∀ pa, g.squashed = false → g.vid = 0 → g.holds = [] → g.pinned = [] → g.stataddr = 0 → g.doneaddr ≠ 0 →
      (s.dieAt g.die).evlog = 0 → (resolveVa g.die g.asn g.doneaddr true true s).1 = .at_ pa → pa % 8 = 0 →
      s.newestCommitted (lineOf pa) = none → Memory.wf s.mem = true → ClearOf s pa 8 →
      ∃ t, exec .gridComplete s = .next t ∧ WroteAt s t pa 8 ((memNat s.mem pa 8 + 1) % 2 ^ 64)) ∧
  (∀ s : State, (s.gridAt s.sel.gid).st = .faulting →
    let gid := s.sel.gid
    ∃ t, exec .gridFaultEnd s = .next t ∧ (t.gridAt gid).st = .ending ∧ (t.gridAt gid).todo = [] ∧
      (t.gridAt gid).fault = (s.gridAt gid).fault ∧ (∀ k i, (t.groupAt k i).gid = gid → (t.groupAt k i).live = false ∨
        ((t.groupAt k i).dying = true ∧ ∃ p ∈ (t.groupAt k i).splits, ∃ r, p.2.search = some r ∧ r.word ≠ 0)) ∧
      ∀ u, 0 < u → u < 256 → (s.ver u).open_ = true → (s.ver u).foreign = false → (s.ver u).spawner = gid →
        (t.ver u).st = .squashed) ∧
  ∀ (s : State) (f : FaultRec) (pa : Nat), faultStatusDue s s.sel.gid = true → (s.gridAt s.sel.gid).fault = some f →
    let gid := s.sel.gid
    let g := s.gridAt gid
    g.holds = [] → g.pinned = [] → g.doneaddr = 0 → (s.dieAt g.die).evlog = 0 → g.stataddr ≠ 0 →
    (resolveVa g.die g.asn g.stataddr false true s).1 = .at_ pa → pa % 64 = 0 → s.newestCommitted (lineOf pa) = none →
    Memory.wf s.mem = true → ClearOf s pa 64 → gid < 2 ^ 32 → f.code < 256 → f.blk < 2 ^ 32 → f.grpin < 256 → f.slot < 256 →
    ∃ t, exec .faultStatusWrite s = .next t ∧ AllRegs s t ∧ (t.gridAt gid).st = .ended ∧
      (∀ v a, (a < pa ∨ pa + 64 ≤ a) → ¬ InSpill s a → t.viewByte v a = s.viewByte v a) ∧
      memNat t.mem pa 8 = gid + 2 ^ 32 + 2 ^ 40 * f.code + 2 ^ 48 * (g.nfault % 256) ∧
      memNat t.mem (pa + 8) 8 = f.blk + 2 ^ 32 * f.coreN.toNat + 2 ^ 48 * f.grpin + 2 ^ 56 * f.slot ∧
      memNat t.mem (pa + 16) 2 = f.pc.toNat ∧ memNat t.mem (pa + 24) 8 = f.detail.toNat ∧
      memNat t.mem (pa + 40) 2 = f.expgen.toNat ∧ memNat t.mem (pa + 42) 2 = f.lease.toNat

/-! ### The host (R59, R78, R325, R331-R337) -/

/-- Invalidations remove the translations they name from every TLB and keep the others; one more is refused with ERR
while one runs; XLINV completes once its requests have been answered (R59). VSEN is set only with its feature accepted
and then stays, VSLOG takes 30 to 35 while VSEN is 0; FEATACC takes offered bits until the lock, else ERR; the W1C
bits, HOSTIRQ and FRZREL act as written, a masked vector waits for its mask; a write of PTBASE keeps bits 63:12; BAR2
takes the sizes of its capability; FLR clears the host function; a request beyond its BAR freezes the host, whose
requests then change nothing (R59, R78, R325, R331-R333, R336, R337, R339). BAR2 reads and writes bytes at VID 0
through its window's base and context; without a mapping it reads ones, writes nothing and sets W2ERR (R253, R337).
registerWrite's flag says that the write is in configuration space, and w1cClear's argument selects the register (log
42, log 43). -/
def Obligations.HostRequestsActAsWritten : Prop :=
  ((∀ s : State, HostOpen s →
      let v := s.arg.v.toNat
      (s.xl.busy = false →
        (∃ t, exec .xlinvPage s = .next t ∧ Invalidated s t fun a p => a = v / 2 ^ 36 % 4096 ∧ p = v % 2 ^ 36) ∧
        (∃ t, exec .xlinvAsn s = .next t ∧ Invalidated s t fun a _ => a = v / 2 ^ 36 % 4096) ∧
        ∃ t, exec .xlinvAll s = .next t ∧ Invalidated s t fun _ _ => True) ∧
      (s.xl.busy = true → ∀ i ∈ [Instr.xlinvPage, .xlinvAsn, .xlinvAll], ∃ t, exec i s = .next t ∧
        { t with xl := s.xl } = s ∧ t.xl.err = true ∧ t.xl.busy = true)) ∧
    ∀ s : State, s.xl.busy = true →
      (∀ a ∈ s.xl.awaits, ∀ r ∈ (s.coreAt a.1).reqs, r.id = a.2 → r.st ≠ .waiting) →
      ∃ t, exec .xlinvComplete s = .next t ∧ { t with xl := s.xl } = s ∧ t.xl.busy = false ∧ t.xl.done = s.xl.done + 1) ∧
  ((∀ s : State, HostOpen s →
      let v := s.arg.v
      let n := s.arg.n
      (∃ t, exec .vsenWrite s = .next t ∧
        t = { s with vers := { s.vers with vsen := s.vers.vsen || (v.getLsbD 0 && s.accepted 0) } }) ∧
      (s.vers.vsen = false → 30 ≤ v.toNat → v.toNat ≤ 35 → ∃ t, exec .vslogWrite s = .next t ∧
        t = { s with vers := { s.vers with vslog := v } }) ∧
      ((s.vers.vsen = true ∨ v.toNat < 30 ∨ 35 < v.toNat) → exec .vslogWrite s = .next s) ∧
      (s.id.lock = false → (∀ i, v.getLsbD i = true → s.id.featoff.getLsbD i = true) → ∃ t, exec .feataccWrite s = .next t ∧
        t = { s with id := { s.id with featacc := v } }) ∧
      ((s.id.lock = true ∨ ∃ i, v.getLsbD i = true ∧ s.id.featoff.getLsbD i = false) → ∃ t, exec .feataccWrite s = .next t ∧
        t = { s with id := { s.id with featErr := true } }) ∧
      (∃ t, exec .w1cClear s = .next t ∧
        (n = 0 → t = { s with xl := { s.xl with err := s.xl.err && !v.getLsbD 1 } }) ∧
        (n = 1 → t = { s with id := { s.id with featErr := s.id.featErr && !v.getLsbD 1 } }) ∧
        (n = 2 → t = { s with host := { s.host with w2err := s.host.w2err && !v.getLsbD 0 } })) ∧
      (2 ≤ v.toNat → v.toNat ≤ 63 → ∃ t, exec .hostirq s = .next t ∧
        (s.host.msixMask.getLsbD v.toNat = false → t = { s with host := { s.host with msix := s.host.msix ++ [v.toNat] } }) ∧
        (s.host.msixMask.getLsbD v.toNat = true → t = { s with host := { s.host with
          msixPend := s.host.msixPend ||| BitVec.ofNat 64 (2 ^ v.toNat) } })) ∧
      (∀ k, k < 10 → s.arg.flag = false → s.arg.off = 0x10000 + 8 * k → s.arg.data.length = 8 → ∃ t, exec .registerWrite s = .next t ∧
        { t with xl := s.xl } = s ∧ (mapGet 0 t.xl.ptbase k).toNat = leNat s.arg.data / 4096 * 4096 ∧
        (∀ j, j ≠ k → mapGet 0 t.xl.ptbase j = mapGet 0 s.xl.ptbase j) ∧ { t.xl with ptbase := s.xl.ptbase } = s.xl) ∧
      (s.arg.flag = false → 2 ^ 25 < s.arg.off + s.arg.data.length → ∃ t, exec .registerWrite s = .next t ∧
        t.host.frozen = true)) ∧
    (∀ s : State, s.host.frozen = true → (∀ i ∈ [Instr.vsenWrite, .vslogWrite, .feataccWrite, .w1cClear, .hostirq,
        .bar2Write, .xlinvPage, .xlinvAsn, .xlinvAll, .dbgctlStop, .dbgdataWrite], exec i s = .next s) ∧
      (s.arg.flag = false → exec .registerWrite s = .next s) ∧ ∃ t, exec .bar2Read s = .next t ∧
        t = { s with host := { s.host with replies := s.host.replies ++ [(s.arg.off, [])] } }) ∧
    (∀ s : State, s.arg.flag = true →
      (s.arg.off = 0 → 30 ≤ s.arg.v.toNat → s.arg.v.toNat ≤ 39 → ∃ t, exec .registerWrite s = .next t ∧
        t = { s with host := { s.host with bar2log := s.arg.v.toNat } }) ∧
      (s.arg.off = 1 → ∃ t, exec .registerWrite s = .next t ∧ { t with host := s.host } = s ∧ t.host.msixMask = s.arg.v ∧
        t.host.msixPend = s.host.msixPend &&& s.arg.v ∧ ∃ out, t.host.msix = s.host.msix ++ out ∧
          ∀ i, i ∈ out ↔ i < 64 ∧ s.host.msixPend.getLsbD i = true ∧ s.arg.v.getLsbD i = false)) ∧
    ∀ s : State,
      (s.arg.n = 0x8000 → ∃ t, exec .frzrel s = .next t ∧ t = { s with host := { s.host with frozen := false } }) ∧
      ∃ t, exec .functionLevelReset s = .next t ∧ t = { s with host :=
        { s.host with frozen := false, msixMask := 0, msixPend := 0, w2 := 0, w2err := false } }) ∧
  (∀ s : State, HostOpen s →
      let asn := s.host.w2.toNat % 4096
      let base := s.host.w2.toNat / 2 ^ 30 % 2 ^ 27 * 2 ^ 30 + s.arg.off
      (s.arg.off + s.arg.data.length ≤ 2 ^ s.host.bar2log →
        let bs := (List.range s.arg.data.length).map fun i => (base + i, s.arg.data.getD i 0)
        (∀ p frame u, PageOpen s 0 asn bs p frame u → OnlyReads s u ∧ ∃ t, exec .bar2Write s = .next t ∧
          LieThere u t bs frame ∧ AllRegs s t) ∧
        (∀ p a u, s.arg.data ≠ [] → (∀ b ∈ bs, b.1 / 2 ^ 21 = p) → resolveVa 0 asn (p * 2 ^ 21) false true s = (a, u) →
          (∀ pa, a ≠ .at_ pa) → ∃ t, exec .bar2Write s = .next t ∧ t = { u with host := { u.host with w2err := true } })) ∧
      (s.arg.flag = false → s.arg.off + s.arg.len ≤ 2 ^ s.host.bar2log →
        (∀ bs u, readVa 0 asn 0 base s.arg.len s = (.ok bs, u) → OnlyReads s u ∧ ∃ t, exec .bar2Read s = .next t ∧
          t = { u with host := { u.host with replies := u.host.replies ++ [(s.arg.off, bs)] } }) ∧
        ∀ e u, readVa 0 asn 0 base s.arg.len s = (.error e, u) → OnlyReads s u ∧ ∃ t, exec .bar2Read s = .next t ∧
          t = { u with host := { u.host with
            w2err := true, replies := u.host.replies ++ [(s.arg.off, List.replicate s.arg.len 0xFF)] } }))

/-! ### The debugger (R329, R330) -/

/-- STOP asks a resident group to stop, which it does once its loads have landed and no split is inside a run,
abandoning its waits; RESUME and STEP let a stopped one go, its cancelled loads replay, but for one that a freeze has
stopped; CANCEL frees a cancelled load's entry; DBGDATA reads and writes the registers of a stopped group. Which
groups the indices name is the model's choice (log entry 28). -/
def Obligations.TheDebuggerStopsAndInspects : Prop :=
  (∀ (s : State) (k i : Nat),
    let v := s.arg.v
    let g := s.groupAt k i
    let h := { g with bkstop := v.getLsbD 18 }
    DebugTarget s v k i → v.getLsbD 13 = false → v.getLsbD 14 = false → v.getLsbD 15 = false → v.getLsbD 19 = false →
    (g.live = true → g.stopped = false → ∃ t, exec .dbgctlStop s = .next t ∧ GroupIs s t k i { h with stopReq := true }) ∧
    (g.frz = false → ∃ t, exec .dbgctlResume s = .next t ∧ Resumed s t k i none ∧ (g.parked = [] →
      (∀ e ∈ g.oplog, e.2.st ≠ .pending) → GroupIs s t k i { h with stopped := false, stopReq := false, stepSlot := none })) ∧
    (g.frz = false → g.stopped = true →
      let slot := some (v.toNat / 2 ^ 16 % 4)
      ∃ t, exec .dbgctlStep s = .next t ∧ Resumed s t k i slot ∧ (g.parked = [] →
      (∀ e ∈ g.oplog, e.2.st ≠ .pending) → GroupIs s t k i { h with stopped := false, stopReq := false, stepSlot := slot })) ∧
    (g.frz = true → ∀ a ∈ [Instr.dbgctlResume, .dbgctlStep], ∃ t, exec a s = .next t ∧ GroupIs s t k i h) ∧
    (g.stopped = false → ∃ t, exec .dbgctlStep s = .next t ∧ GroupIs s t k i h) ∧
    ∀ e, mapFind g.oplog (v.toNat / 2 ^ 20 % 32) = some e → e.st = .pending → ∃ t, exec .dbgctlCancel s = .next t ∧
      GroupIs s t k i { h with oplog := mapDel g.oplog (v.toNat / 2 ^ 20 % 32),
                               parked := g.parked.filter fun r => decide (r.ser ≠ e.ser) }) ∧
  (∀ s : State, s.group.live = true → s.group.stopReq = true →
    (∀ e ∈ s.group.oplog, e.2.st ≠ .inFlight ∧ e.2.st ≠ .replaying) →
    (∀ e ∈ s.group.splits, ∀ r, e.2.search = some r → r.word = 0) → ∃ t, exec .debugStopTaken s = .next t ∧
      t.group.stopped = true ∧ t.group.stopReq = false ∧ SameRegs s.group t.group ∧
      (∀ j, (t.group.split j).pc = (s.group.split j).pc ∧ (t.group.split j).mask = (s.group.split j).mask ∧
        (t.group.split j).exec = (s.group.split j).exec ∧ ((s.group.split j).st = .blocked →
          (s.group.split j).wait.isSome = true → (t.group.split j).st = .ready)) ∧
      ∀ g, g ≠ s.sel.grp → t.groupAt s.sel.core g = s.groupAt s.sel.core g) ∧
  ∀ (s : State) (k i : Nat),
    let d := s.sel.die % 2
    let r := (s.dieAt d).dbgreg.toNat
    let n := r / 8 % 256
    let l := r / 2 ^ 11 % 64
    let g := s.groupAt k i
    DebugTarget s (s.dieAt d).dbgctl k i → g.stopped = true →
    (∃ t x, exec .dbgdataRead s = .next t ∧ SameBytes s t ∧ AllRegs s t ∧
      t.host.replies = s.host.replies ++ [(0x100010 + 0x80000 * d, leBytes 8 x)] ∧
      (r % 8 = 0 → (∀ e ∈ g.oplog, e.2.st ≠ .pending) → x = (g.vAt n l).toNat) ∧ (r % 8 = 1 → x = (g.sAt (n % 128)).toNat) ∧
      (r % 8 = 2 → x = if laneIn (g.pAt (n % 16)) l then 1 else 0) ∧ (r % 8 = 3 → x = (g.xAt (n % 4)).toNat)) ∧
    (r % 8 = 0 → l < 48 → ∃ t, exec .dbgdataWrite s = .next t ∧ SameBytes s t ∧
      LaneWrite g (t.groupAt k i) n (BitVec.ofNat 48 (2 ^ l)) (fun _ => s.arg.v.setWidth 32) ∧
      { t.groupAt k i with v := g.v } = g) ∧
    (r % 8 = 1 → ∃ t, exec .dbgdataWrite s = .next t ∧ GroupIs s t k i (g.setS (n % 128) s.arg.v))

/-! ### Bring-up, attestation, power (R301, R338-R341) -/

/-- Power-on clears the package but for its straps, memory and the registers without a reset value in the spec as the
model chose (log entries 1, 2); bring-up trains memory, releases the Oasis cores, then the clusters one by one, North
and South in turn, and then offers the eight features; a failed step stops it (R338, R339). -/
def Obligations.BringUpRunsInOrder : Prop :=
  (∀ s : State, ∃ t, exec .powerOnReset s = .next t ∧ t.id.pkg = BitVec.ofNat 6 s.arg.n ∧ t.id.stage = 1 ∧ t.cores = [] ∧
    t.grids = [] ∧ t.mem = [] ∧ t.copies = [] ∧ t.vers = {} ∧ t.xl = {} ∧ t.north = {} ∧ t.south = {} ∧ t.host = {} ∧
    t.id.lock = false ∧ t.id.featoff = 0 ∧ t.id.featacc = 0 ∧ t.id.podmask = BitVec.ofNat 64 (2 ^ (s.arg.n % 64)) ∧
    (s.arg.len = 0 → t.id.fail = 0) ∧ (s.arg.len = 1 → t.id.fail = 1) ∧ (s.arg.len = 2 → t.id.fail = 2)) ∧
  (∀ s : State, s.id.fail = 0 →
    (s.id.stage = 1 → ∃ t, exec .memoryTraining s = .next t ∧ t = { s with id :=
      { s.id with stage := 2, fail := if s.arg.flag then 0 else 3 } }) ∧
    (s.id.stage = 2 → ∃ t, exec .oasisRelease s = .next t ∧ OnlyBoot s t ∧ t.id = { s.id with stage := 3 } ∧
      ∀ k, (t.coreAt k).released = ((s.coreAt k).released || decide (k < 416 ∧ 200 ≤ k % 208)) ∧
        { t.coreAt k with released := (s.coreAt k).released } = s.coreAt k) ∧
    ((s.id.stage = 3 ∨ s.id.stage = 4) → s.id.clusters < 50 → ∃ t, exec .clusterRelease s = .next t ∧ OnlyBoot s t ∧
      t.id = { s.id with stage := 4, clusters := s.id.clusters + 1 } ∧
      ∀ k, (t.coreAt k).released = ((s.coreAt k).released ||
          decide (k / 208 = s.id.clusters % 2 ∧ k % 208 / 8 = s.id.clusters / 2)) ∧
        { t.coreAt k with released := (s.coreAt k).released } = s.coreAt k) ∧
    (s.id.stage = 4 → s.id.clusters = 50 → ∃ t, exec .runtimeReady s = .next t ∧
      t = { s with id := { s.id with stage := 5, featoff := 0xFF } })) ∧
  ∀ s : State, s.id.fail ≠ 0 → ∀ i ∈ [Instr.memoryTraining, .oasisRelease, .clusterRelease, .runtimeReady], exec i s = .next s

/-- Each attestation request adds one answer of its code and changes nothing else; measurements give MEAS 0 to 7. Over
the cap a power step lowers LIMIT by 8, and the clock only when both dies have shed everything; under it LIMIT rises;
a thermal trip faults every resident grid and stops the package (R301, R340, R341). The contents of the other answers
are free (log 12); that the clock is restored in the step that raises LIMIT is read by inference (log 26). -/
def Obligations.AttestationAndPower : Prop :=
  (∀ s : State, ∀ e ∈ [(Instr.getVersion, 0x84), (.getCapabilities, 0xE1), (.negotiateAlgorithms, 0xE3), (.getDigests, 0x81),
      (.getCertificate, 0x82), (.challenge, 0x83), (.getMeasurements, 0xE0)],
    ∃ t l, exec e.1 s = .next t ∧ t = { s with host := { s.host with spdm := s.host.spdm ++ [(e.2, l)] } } ∧
      (e.1 = .getVersion → l = [0x13]) ∧
      (e.1 = .getMeasurements → ∀ i, i < 8 → l[i]? = some (mapGet 0 s.id.meas i))) ∧
  (∀ s : State, s.arg.flag = false → 85000 ≤ (s.north.clk - s.id.lastPower).toNat →
    let hot := s.id.capw.toNat < s.id.pwr.toNat ∨ 95 ≤ s.id.temp.toNat
    ∃ t, exec .powerStep s = .next t ∧ SameBytes s t ∧ AllRegs s t ∧ t.id.lastPower = s.north.clk ∧
      (∀ d, { t.dieAt d with limit := (s.dieAt d).limit } = s.dieAt d) ∧
      (hot → ∀ d, (t.dieAt d).limit.toNat = min (s.dieAt d).cap.toNat (s.dieAt d).limit.toNat - 8) ∧
      (¬ hot → t.id.clkmhz = 850 ∧ ∀ d, (t.dieAt d).limit.toNat = min 255 ((s.dieAt d).limit.toNat + 8)) ∧
      (hot → (∃ d, (t.dieAt d).limit ≠ 0 ∨ (t.dieAt d).held_ ≠ 0) → t.id.clkmhz = s.id.clkmhz)) ∧
  ∀ s : State, ∃ t, exec .thermalTrip s = .next t ∧ t.id.tripped = true ∧
    ∀ k b, b ∈ (s.coreAt k).blocks → b.2.live = true → k ∈ s.cores.map (·.1) → (s.gridAt b.2.gid).st ≠ .ended →
      (s.gridAt b.2.gid).squashed = false → (s.gridAt b.2.gid).fault = none →
      ∃ f, (t.gridAt b.2.gid).fault = some f ∧ f.code = 0x14

/-! ### The whole machine -/

/-- The bytes of memory keep their canonical form through every step of the machine and every instruction: no address
is listed twice, and no listed byte is what an unlisted one reads as. The form is the model's own (log 1). -/
def Obligations.MemoryStaysCanonical : Prop :=
  (∀ s t : State, Memory.wf s.mem = true → step s = .next t → Memory.wf t.mem = true) ∧
  ∀ (i : Instr) (s t : State), Memory.wf s.mem = true → exec i s = .next t → Memory.wf t.mem = true

/-- Reset: memory is canonical with nothing listed, no core has left reset, no grid is resident and no version in use;
every register of the blocks reads as its table's reset column says, PODMASK as the package's own bit; cores, groups,
clocks, queues and barriers stand as the spec says. That memory lists nothing after power-on is the model's choice
(log entry 1). -/
def Obligations.ResetLeavesTheSpecsValues : Prop :=
  let r := State.reset
  Memory.wf r.mem = true ∧ r.mem = [] ∧ r.grids = [] ∧
    (∀ e ∈ resetTable, readReg e.1 r = BitVec.ofNat 64 e.2) ∧ (readReg 0x50 r).toNat = 2 ^ (readReg 0x48 r).toNat ∧
    r.host.bar2log = 34 ∧ r.host.frozen = false ∧
    (∀ k, (r.coreAt k).released = false ∧ (r.coreAt k).wcage = 8 ∧ (r.coreAt k).lamport = 0) ∧
    (∀ k i, (r.groupAt k i).phmargin = 0x100010 ∧ (r.groupAt k i).trapvec.toNat / 32 % 1024 = 0 ∧
      (r.groupAt k i).trapvec.toNat / 2 ^ 16 = 0 ∧ (r.groupAt k i).rtag = 0 ∧ ∀ n, (r.groupAt k i).dAt n = 0) ∧
    (∀ v, (r.ver v).st = .free) ∧
    ∀ d, (r.dieAt d).clk = 0 ∧ (r.dieAt d).cap = 255 ∧ (r.dieAt d).limit = 255 ∧ (r.dieAt d).held_ = 0 ∧
      (∀ i, mapGet 0 (r.dieAt d).known i = 0 ∧ mapGet 0 (r.dieAt d).applied i = 0 ∧ mapGet 0 (r.dieAt d).trbar i = 0) ∧
      ∀ n, ((r.dieAt d).draft n).budget = 0 ∧ ((r.dieAt d).draft n).q = []
end

