-- ==== Sys2Proof/Laws/Map.lean ====
section
/-!
SUPPORT. The laws of the sparse tables: what a read gives after a write, and that writes keep the order of the keys.
-/

namespace Sys2Proof

variable {α : Type} {d : α}

@[simp] theorem mapGet_nil (k : Nat) : mapGet d [] k = d := rfl

/-- A read of the key just written gives what was written, whatever the table. -/
@[simp] theorem mapGet_mapSet_same (m : Map α) (k : Nat) (v : α) : mapGet d (mapSet m k v) k = v := by
  induction m with
  | nil => simp [mapSet, mapGet]
  | cons e m ih =>
    obtain ⟨j, u⟩ := e
    unfold mapSet
    split
    · simp [mapGet]
    · split
      · simp [mapGet]
      · rename_i _ h
        have : j ≠ k := fun e => h e.symm
        simp [mapGet, this, ih]

/-- A write leaves every other key alone, whatever the table. -/
theorem mapGet_mapSet_ne (m : Map α) {k j : Nat} (v : α) (h : j ≠ k) : mapGet d (mapSet m k v) j = mapGet d m j := by
  induction m with
  | nil => simp [mapSet, mapGet, Ne.symm h]
  | cons e m ih =>
    obtain ⟨i, u⟩ := e
    unfold mapSet
    split
    · simp [mapGet, Ne.symm h]
    · split
      · rename_i _ hk
        subst hk
        simp [mapGet, Ne.symm h]
      · by_cases hi : i = j
        · simp [mapGet, hi]
        · simp [mapGet, hi, ih]

/-- A read after a write, both cases in one. -/
theorem mapGet_mapSet (m : Map α) (k j : Nat) (v : α) :
    mapGet d (mapSet m k v) j = if j = k then v else mapGet d m j := by
  by_cases h : j = k
  · subst h; simp
  · simp [h, mapGet_mapSet_ne m v h]

/-- The last write of a key is the one that counts. -/
theorem mapSet_mapSet (m : Map α) (k : Nat) (u v : α) : mapSet (mapSet m k u) k v = mapSet m k v := by
  induction m with
  | nil => simp [mapSet]
  | cons e m ih =>
    obtain ⟨j, w⟩ := e
    by_cases h : k < j
    · simp [mapSet, h]
    · by_cases hk : k = j
      · simp [mapSet, hk]
      · simp [mapSet, h, hk, ih]

theorem mapFind_mapSet_same (m : Map α) (k : Nat) (v : α) : mapFind (mapSet m k v) k = some v := by
  induction m with
  | nil => simp [mapSet, mapFind]
  | cons e m ih =>
    obtain ⟨j, u⟩ := e
    unfold mapSet
    split
    · simp [mapFind]
    · split
      · simp [mapFind]
      · rename_i _ h
        have : j ≠ k := fun e => h e.symm
        simp [mapFind, this, ih]

/-- A sorted table stays sorted when its least bound falls. -/
theorem mapSortedFrom_mono {m : Map α} {lo hi : Nat} (h : mapSortedFrom hi m = true) (le : lo ≤ hi) :
    mapSortedFrom lo m = true := by
  cases m with
  | nil => rfl
  | cons e m =>
    simp only [mapSortedFrom, Bool.and_eq_true, decide_eq_true_eq] at h ⊢
    exact ⟨le_trans le h.1, h.2⟩

/-- No key below the bound of a sorted table has an entry. -/
theorem mapGet_below {m : Map α} {lo k : Nat} (h : mapSortedFrom lo m = true) (lt : k < lo) : mapGet d m k = d := by
  induction m generalizing lo with
  | nil => rfl
  | cons e m ih =>
    obtain ⟨j, u⟩ := e
    simp only [mapSortedFrom, Bool.and_eq_true, decide_eq_true_eq] at h
    have : j ≠ k := by omega
    simp [mapGet, this, ih h.2 (by omega)]

theorem mapSortedFrom_mapSet {m : Map α} {lo k : Nat} (v : α) (h : mapSortedFrom lo m = true) (le : lo ≤ k) :
    mapSortedFrom lo (mapSet m k v) = true := by
  induction m generalizing lo with
  | nil => simpa [mapSet, mapSortedFrom] using le
  | cons e m ih =>
    obtain ⟨j, u⟩ := e
    simp only [mapSortedFrom, Bool.and_eq_true, decide_eq_true_eq] at h
    unfold mapSet
    split
    · simp only [mapSortedFrom, Bool.and_eq_true, decide_eq_true_eq]
      exact ⟨le, by omega, h.2⟩
    · split
      · rename_i hk
        subst hk
        simp only [mapSortedFrom, Bool.and_eq_true, decide_eq_true_eq]
        exact h
      · simp only [mapSortedFrom, Bool.and_eq_true, decide_eq_true_eq]
        exact ⟨h.1, ih h.2 (by omega)⟩

theorem mapSortedFrom_mapDel {m : Map α} {lo : Nat} (k : Nat) (h : mapSortedFrom lo m = true) :
    mapSortedFrom lo (mapDel m k) = true := by
  induction m generalizing lo with
  | nil => rfl
  | cons e m ih =>
    obtain ⟨j, u⟩ := e
    simp only [mapSortedFrom, Bool.and_eq_true, decide_eq_true_eq] at h
    unfold mapDel
    split
    · exact mapSortedFrom_mono h.2 (by omega)
    · simp only [mapSortedFrom, Bool.and_eq_true, decide_eq_true_eq]
      exact ⟨h.1, ih h.2⟩

theorem mapGet_mapDel_ne (m : Map α) {k j : Nat} (h : j ≠ k) : mapGet d (mapDel m k) j = mapGet d m j := by
  induction m with
  | nil => rfl
  | cons e m ih =>
    obtain ⟨i, u⟩ := e
    unfold mapDel
    split
    · rename_i hi
      have : i ≠ j := fun e => h (e.symm.trans hi)
      simp [mapGet, this]
    · by_cases hj : i = j
      · simp [mapGet, hj]
      · simp [mapGet, hj, ih]

/-- In a sorted table a deleted key reads as the default. -/
theorem mapGet_mapDel_same {m : Map α} {lo : Nat} (k : Nat) (h : mapSortedFrom lo m = true) :
    mapGet d (mapDel m k) k = d := by
  induction m generalizing lo with
  | nil => rfl
  | cons e m ih =>
    obtain ⟨j, u⟩ := e
    simp only [mapSortedFrom, Bool.and_eq_true, decide_eq_true_eq] at h
    unfold mapDel
    split
    · rename_i hj
      exact mapGet_below h.2 (by omega)
    · rename_i hj
      simp [mapGet, hj, ih h.2]

/-- Every entry of a written table is one of the old ones or the new one. -/
theorem mem_mapSet {m : Map α} {k : Nat} {v : α} {e : Nat × α} (h : e ∈ mapSet m k v) : e = (k, v) ∨ e ∈ m := by
  induction m with
  | nil => simpa [mapSet] using h
  | cons c m ih =>
    obtain ⟨j, u⟩ := c
    unfold mapSet at h
    split at h
    · simpa using h
    · split at h
      · rcases List.mem_cons.1 h with h | h
        · exact .inl h
        · exact .inr (List.mem_cons_of_mem _ h)
      · rcases List.mem_cons.1 h with h | h
        · exact .inr (h ▸ List.mem_cons_self)
        · exact (ih h).imp_right (List.mem_cons_of_mem _)

theorem mem_mapDel {m : Map α} {k : Nat} {e : Nat × α} (h : e ∈ mapDel m k) : e ∈ m := by
  induction m with
  | nil => exact h
  | cons c m ih =>
    obtain ⟨j, u⟩ := c
    unfold mapDel at h
    split at h
    · exact List.mem_cons_of_mem _ h
    · rcases List.mem_cons.1 h with h | h
      · exact h ▸ List.mem_cons_self
      · exact List.mem_cons_of_mem _ (ih h)

end Sys2Proof
end

