-- ==== Sys2Proof/Laws/State.lean ====
section
/-!
SUPPORT. One lemma per field per update of the state, of a core and of a group: what the named updates of Machine/Ops.lean
and Machine/Flags.lean leave as it was (each by `rfl`), and what a read of the agent just written gives.
-/

namespace Sys2Proof.Machine

/-! ### The package: fields that an update of one core, die or grid leaves -/

section
variable (s : State) (k g b d : Nat) (c : Core) (x : Group) (y : Block) (p : Split) (e : Grid)

@[simp] theorem State.setCore_sel : (s.setCore k c).sel = s.sel := rfl
@[simp] theorem State.setGroupAt_sel : (s.setGroupAt k g x).sel = s.sel := rfl
@[simp] theorem State.setGroup_sel : (s.setGroup x).sel = s.sel := rfl
@[simp] theorem State.setSplit_sel : (s.setSplit p).sel = s.sel := rfl
@[simp] theorem State.setBlockAt_sel : (s.setBlockAt k b y).sel = s.sel := rfl
@[simp] theorem State.setBlock_sel : (s.setBlock y).sel = s.sel := rfl
@[simp] theorem State.setCore_arg : (s.setCore k c).arg = s.arg := rfl
@[simp] theorem State.setGroupAt_arg : (s.setGroupAt k g x).arg = s.arg := rfl
@[simp] theorem State.setGroup_arg : (s.setGroup x).arg = s.arg := rfl
@[simp] theorem State.setSplit_arg : (s.setSplit p).arg = s.arg := rfl
@[simp] theorem State.setBlockAt_arg : (s.setBlockAt k b y).arg = s.arg := rfl
@[simp] theorem State.setBlock_arg : (s.setBlock y).arg = s.arg := rfl
@[simp] theorem State.setCore_inputs : (s.setCore k c).inputs = s.inputs := rfl
@[simp] theorem State.setGroupAt_inputs : (s.setGroupAt k g x).inputs = s.inputs := rfl
@[simp] theorem State.setGroup_inputs : (s.setGroup x).inputs = s.inputs := rfl
@[simp] theorem State.setSplit_inputs : (s.setSplit p).inputs = s.inputs := rfl
@[simp] theorem State.setBlockAt_inputs : (s.setBlockAt k b y).inputs = s.inputs := rfl
@[simp] theorem State.setBlock_inputs : (s.setBlock y).inputs = s.inputs := rfl
@[simp] theorem State.setCore_fresh : (s.setCore k c).fresh = s.fresh := rfl
@[simp] theorem State.setGroupAt_fresh : (s.setGroupAt k g x).fresh = s.fresh := rfl
@[simp] theorem State.setGroup_fresh : (s.setGroup x).fresh = s.fresh := rfl
@[simp] theorem State.setSplit_fresh : (s.setSplit p).fresh = s.fresh := rfl
@[simp] theorem State.setBlockAt_fresh : (s.setBlockAt k b y).fresh = s.fresh := rfl
@[simp] theorem State.setBlock_fresh : (s.setBlock y).fresh = s.fresh := rfl
@[simp] theorem State.setCore_grids : (s.setCore k c).grids = s.grids := rfl
@[simp] theorem State.setGroupAt_grids : (s.setGroupAt k g x).grids = s.grids := rfl
@[simp] theorem State.setGroup_grids : (s.setGroup x).grids = s.grids := rfl
@[simp] theorem State.setSplit_grids : (s.setSplit p).grids = s.grids := rfl
@[simp] theorem State.setBlockAt_grids : (s.setBlockAt k b y).grids = s.grids := rfl
@[simp] theorem State.setBlock_grids : (s.setBlock y).grids = s.grids := rfl
@[simp] theorem State.setCore_nextOrder : (s.setCore k c).nextOrder = s.nextOrder := rfl
@[simp] theorem State.setGroupAt_nextOrder : (s.setGroupAt k g x).nextOrder = s.nextOrder := rfl
@[simp] theorem State.setGroup_nextOrder : (s.setGroup x).nextOrder = s.nextOrder := rfl
@[simp] theorem State.setSplit_nextOrder : (s.setSplit p).nextOrder = s.nextOrder := rfl
@[simp] theorem State.setBlockAt_nextOrder : (s.setBlockAt k b y).nextOrder = s.nextOrder := rfl
@[simp] theorem State.setBlock_nextOrder : (s.setBlock y).nextOrder = s.nextOrder := rfl
@[simp] theorem State.setCore_vers : (s.setCore k c).vers = s.vers := rfl
@[simp] theorem State.setGroupAt_vers : (s.setGroupAt k g x).vers = s.vers := rfl
@[simp] theorem State.setGroup_vers : (s.setGroup x).vers = s.vers := rfl
@[simp] theorem State.setSplit_vers : (s.setSplit p).vers = s.vers := rfl
@[simp] theorem State.setBlockAt_vers : (s.setBlockAt k b y).vers = s.vers := rfl
@[simp] theorem State.setBlock_vers : (s.setBlock y).vers = s.vers := rfl
@[simp] theorem State.setCore_xl : (s.setCore k c).xl = s.xl := rfl
@[simp] theorem State.setGroupAt_xl : (s.setGroupAt k g x).xl = s.xl := rfl
@[simp] theorem State.setGroup_xl : (s.setGroup x).xl = s.xl := rfl
@[simp] theorem State.setSplit_xl : (s.setSplit p).xl = s.xl := rfl
@[simp] theorem State.setBlockAt_xl : (s.setBlockAt k b y).xl = s.xl := rfl
@[simp] theorem State.setBlock_xl : (s.setBlock y).xl = s.xl := rfl
@[simp] theorem State.setCore_north : (s.setCore k c).north = s.north := rfl
@[simp] theorem State.setGroupAt_north : (s.setGroupAt k g x).north = s.north := rfl
@[simp] theorem State.setGroup_north : (s.setGroup x).north = s.north := rfl
@[simp] theorem State.setSplit_north : (s.setSplit p).north = s.north := rfl
@[simp] theorem State.setBlockAt_north : (s.setBlockAt k b y).north = s.north := rfl
@[simp] theorem State.setBlock_north : (s.setBlock y).north = s.north := rfl
@[simp] theorem State.setCore_south : (s.setCore k c).south = s.south := rfl
@[simp] theorem State.setGroupAt_south : (s.setGroupAt k g x).south = s.south := rfl
@[simp] theorem State.setGroup_south : (s.setGroup x).south = s.south := rfl
@[simp] theorem State.setSplit_south : (s.setSplit p).south = s.south := rfl
@[simp] theorem State.setBlockAt_south : (s.setBlockAt k b y).south = s.south := rfl
@[simp] theorem State.setBlock_south : (s.setBlock y).south = s.south := rfl
@[simp] theorem State.setCore_mem : (s.setCore k c).mem = s.mem := rfl
@[simp] theorem State.setGroupAt_mem : (s.setGroupAt k g x).mem = s.mem := rfl
@[simp] theorem State.setGroup_mem : (s.setGroup x).mem = s.mem := rfl
@[simp] theorem State.setSplit_mem : (s.setSplit p).mem = s.mem := rfl
@[simp] theorem State.setBlockAt_mem : (s.setBlockAt k b y).mem = s.mem := rfl
@[simp] theorem State.setBlock_mem : (s.setBlock y).mem = s.mem := rfl
@[simp] theorem State.setCore_copies : (s.setCore k c).copies = s.copies := rfl
@[simp] theorem State.setGroupAt_copies : (s.setGroupAt k g x).copies = s.copies := rfl
@[simp] theorem State.setGroup_copies : (s.setGroup x).copies = s.copies := rfl
@[simp] theorem State.setSplit_copies : (s.setSplit p).copies = s.copies := rfl
@[simp] theorem State.setBlockAt_copies : (s.setBlockAt k b y).copies = s.copies := rfl
@[simp] theorem State.setBlock_copies : (s.setBlock y).copies = s.copies := rfl
@[simp] theorem State.setCore_due : (s.setCore k c).due = s.due := rfl
@[simp] theorem State.setGroupAt_due : (s.setGroupAt k g x).due = s.due := rfl
@[simp] theorem State.setGroup_due : (s.setGroup x).due = s.due := rfl
@[simp] theorem State.setSplit_due : (s.setSplit p).due = s.due := rfl
@[simp] theorem State.setBlockAt_due : (s.setBlockAt k b y).due = s.due := rfl
@[simp] theorem State.setBlock_due : (s.setBlock y).due = s.due := rfl
@[simp] theorem State.setCore_remoteAtoms : (s.setCore k c).remoteAtoms = s.remoteAtoms := rfl
@[simp] theorem State.setGroupAt_remoteAtoms : (s.setGroupAt k g x).remoteAtoms = s.remoteAtoms := rfl
@[simp] theorem State.setGroup_remoteAtoms : (s.setGroup x).remoteAtoms = s.remoteAtoms := rfl
@[simp] theorem State.setSplit_remoteAtoms : (s.setSplit p).remoteAtoms = s.remoteAtoms := rfl
@[simp] theorem State.setBlockAt_remoteAtoms : (s.setBlockAt k b y).remoteAtoms = s.remoteAtoms := rfl
@[simp] theorem State.setBlock_remoteAtoms : (s.setBlock y).remoteAtoms = s.remoteAtoms := rfl
@[simp] theorem State.setCore_performs : (s.setCore k c).performs = s.performs := rfl
@[simp] theorem State.setGroupAt_performs : (s.setGroupAt k g x).performs = s.performs := rfl
@[simp] theorem State.setGroup_performs : (s.setGroup x).performs = s.performs := rfl
@[simp] theorem State.setSplit_performs : (s.setSplit p).performs = s.performs := rfl
@[simp] theorem State.setBlockAt_performs : (s.setBlockAt k b y).performs = s.performs := rfl
@[simp] theorem State.setBlock_performs : (s.setBlock y).performs = s.performs := rfl
@[simp] theorem State.setCore_l2 : (s.setCore k c).l2 = s.l2 := rfl
@[simp] theorem State.setGroupAt_l2 : (s.setGroupAt k g x).l2 = s.l2 := rfl
@[simp] theorem State.setGroup_l2 : (s.setGroup x).l2 = s.l2 := rfl
@[simp] theorem State.setSplit_l2 : (s.setSplit p).l2 = s.l2 := rfl
@[simp] theorem State.setBlockAt_l2 : (s.setBlockAt k b y).l2 = s.l2 := rfl
@[simp] theorem State.setBlock_l2 : (s.setBlock y).l2 = s.l2 := rfl
@[simp] theorem State.setCore_badSectors : (s.setCore k c).badSectors = s.badSectors := rfl
@[simp] theorem State.setGroupAt_badSectors : (s.setGroupAt k g x).badSectors = s.badSectors := rfl
@[simp] theorem State.setGroup_badSectors : (s.setGroup x).badSectors = s.badSectors := rfl
@[simp] theorem State.setSplit_badSectors : (s.setSplit p).badSectors = s.badSectors := rfl
@[simp] theorem State.setBlockAt_badSectors : (s.setBlockAt k b y).badSectors = s.badSectors := rfl
@[simp] theorem State.setBlock_badSectors : (s.setBlock y).badSectors = s.badSectors := rfl
@[simp] theorem State.setCore_weakSectors : (s.setCore k c).weakSectors = s.weakSectors := rfl
@[simp] theorem State.setGroupAt_weakSectors : (s.setGroupAt k g x).weakSectors = s.weakSectors := rfl
@[simp] theorem State.setGroup_weakSectors : (s.setGroup x).weakSectors = s.weakSectors := rfl
@[simp] theorem State.setSplit_weakSectors : (s.setSplit p).weakSectors = s.weakSectors := rfl
@[simp] theorem State.setBlockAt_weakSectors : (s.setBlockAt k b y).weakSectors = s.weakSectors := rfl
@[simp] theorem State.setBlock_weakSectors : (s.setBlock y).weakSectors = s.weakSectors := rfl
@[simp] theorem State.setCore_corrected : (s.setCore k c).corrected = s.corrected := rfl
@[simp] theorem State.setGroupAt_corrected : (s.setGroupAt k g x).corrected = s.corrected := rfl
@[simp] theorem State.setGroup_corrected : (s.setGroup x).corrected = s.corrected := rfl
@[simp] theorem State.setSplit_corrected : (s.setSplit p).corrected = s.corrected := rfl
@[simp] theorem State.setBlockAt_corrected : (s.setBlockAt k b y).corrected = s.corrected := rfl
@[simp] theorem State.setBlock_corrected : (s.setBlock y).corrected = s.corrected := rfl
@[simp] theorem State.setCore_sit : (s.setCore k c).sit = s.sit := rfl
@[simp] theorem State.setGroupAt_sit : (s.setGroupAt k g x).sit = s.sit := rfl
@[simp] theorem State.setGroup_sit : (s.setGroup x).sit = s.sit := rfl
@[simp] theorem State.setSplit_sit : (s.setSplit p).sit = s.sit := rfl
@[simp] theorem State.setBlockAt_sit : (s.setBlockAt k b y).sit = s.sit := rfl
@[simp] theorem State.setBlock_sit : (s.setBlock y).sit = s.sit := rfl
@[simp] theorem State.setCore_counted : (s.setCore k c).counted = s.counted := rfl
@[simp] theorem State.setGroupAt_counted : (s.setGroupAt k g x).counted = s.counted := rfl
@[simp] theorem State.setGroup_counted : (s.setGroup x).counted = s.counted := rfl
@[simp] theorem State.setSplit_counted : (s.setSplit p).counted = s.counted := rfl
@[simp] theorem State.setBlockAt_counted : (s.setBlockAt k b y).counted = s.counted := rfl
@[simp] theorem State.setBlock_counted : (s.setBlock y).counted = s.counted := rfl
@[simp] theorem State.setCore_horizon : (s.setCore k c).horizon = s.horizon := rfl
@[simp] theorem State.setGroupAt_horizon : (s.setGroupAt k g x).horizon = s.horizon := rfl
@[simp] theorem State.setGroup_horizon : (s.setGroup x).horizon = s.horizon := rfl
@[simp] theorem State.setSplit_horizon : (s.setSplit p).horizon = s.horizon := rfl
@[simp] theorem State.setBlockAt_horizon : (s.setBlockAt k b y).horizon = s.horizon := rfl
@[simp] theorem State.setBlock_horizon : (s.setBlock y).horizon = s.horizon := rfl
@[simp] theorem State.setCore_annSent : (s.setCore k c).annSent = s.annSent := rfl
@[simp] theorem State.setGroupAt_annSent : (s.setGroupAt k g x).annSent = s.annSent := rfl
@[simp] theorem State.setGroup_annSent : (s.setGroup x).annSent = s.annSent := rfl
@[simp] theorem State.setSplit_annSent : (s.setSplit p).annSent = s.annSent := rfl
@[simp] theorem State.setBlockAt_annSent : (s.setBlockAt k b y).annSent = s.annSent := rfl
@[simp] theorem State.setBlock_annSent : (s.setBlock y).annSent = s.annSent := rfl
@[simp] theorem State.setCore_id : (s.setCore k c).id = s.id := rfl
@[simp] theorem State.setGroupAt_id : (s.setGroupAt k g x).id = s.id := rfl
@[simp] theorem State.setGroup_id : (s.setGroup x).id = s.id := rfl
@[simp] theorem State.setSplit_id : (s.setSplit p).id = s.id := rfl
@[simp] theorem State.setBlockAt_id : (s.setBlockAt k b y).id = s.id := rfl
@[simp] theorem State.setBlock_id : (s.setBlock y).id = s.id := rfl
@[simp] theorem State.setCore_host : (s.setCore k c).host = s.host := rfl
@[simp] theorem State.setGroupAt_host : (s.setGroupAt k g x).host = s.host := rfl
@[simp] theorem State.setGroup_host : (s.setGroup x).host = s.host := rfl
@[simp] theorem State.setSplit_host : (s.setSplit p).host = s.host := rfl
@[simp] theorem State.setBlockAt_host : (s.setBlockAt k b y).host = s.host := rfl
@[simp] theorem State.setBlock_host : (s.setBlock y).host = s.host := rfl
@[simp] theorem State.setGrid_sel : (s.setGrid g e).sel = s.sel := rfl
@[simp] theorem State.setGrid_arg : (s.setGrid g e).arg = s.arg := rfl
@[simp] theorem State.setGrid_inputs : (s.setGrid g e).inputs = s.inputs := rfl
@[simp] theorem State.setGrid_fresh : (s.setGrid g e).fresh = s.fresh := rfl
@[simp] theorem State.setGrid_cores : (s.setGrid g e).cores = s.cores := rfl
@[simp] theorem State.setGrid_nextOrder : (s.setGrid g e).nextOrder = s.nextOrder := rfl
@[simp] theorem State.setGrid_vers : (s.setGrid g e).vers = s.vers := rfl
@[simp] theorem State.setGrid_xl : (s.setGrid g e).xl = s.xl := rfl
@[simp] theorem State.setGrid_north : (s.setGrid g e).north = s.north := rfl
@[simp] theorem State.setGrid_south : (s.setGrid g e).south = s.south := rfl
@[simp] theorem State.setGrid_mem : (s.setGrid g e).mem = s.mem := rfl
@[simp] theorem State.setGrid_copies : (s.setGrid g e).copies = s.copies := rfl
@[simp] theorem State.setGrid_due : (s.setGrid g e).due = s.due := rfl
@[simp] theorem State.setGrid_remoteAtoms : (s.setGrid g e).remoteAtoms = s.remoteAtoms := rfl
@[simp] theorem State.setGrid_performs : (s.setGrid g e).performs = s.performs := rfl
@[simp] theorem State.setGrid_l2 : (s.setGrid g e).l2 = s.l2 := rfl
@[simp] theorem State.setGrid_badSectors : (s.setGrid g e).badSectors = s.badSectors := rfl
@[simp] theorem State.setGrid_weakSectors : (s.setGrid g e).weakSectors = s.weakSectors := rfl
@[simp] theorem State.setGrid_corrected : (s.setGrid g e).corrected = s.corrected := rfl
@[simp] theorem State.setGrid_sit : (s.setGrid g e).sit = s.sit := rfl
@[simp] theorem State.setGrid_counted : (s.setGrid g e).counted = s.counted := rfl
@[simp] theorem State.setGrid_horizon : (s.setGrid g e).horizon = s.horizon := rfl
@[simp] theorem State.setGrid_annSent : (s.setGrid g e).annSent = s.annSent := rfl
@[simp] theorem State.setGrid_id : (s.setGrid g e).id = s.id := rfl
@[simp] theorem State.setGrid_host : (s.setGrid g e).host = s.host := rfl
end

/-! ### The package: reads of the agent just written, and of the others -/

section
variable (s : State)

@[simp] theorem State.coreAt_setCore (k : Nat) (c : Core) : (s.setCore k c).coreAt k = c := mapGet_mapSet_same _ _ _
theorem State.coreAt_setCore_ne {j k : Nat} (c : Core) (h : j ≠ k) : (s.setCore k c).coreAt j = s.coreAt j :=
  mapGet_mapSet_ne _ _ h
@[simp] theorem State.gridAt_setGrid (k : Nat) (g : Grid) : (s.setGrid k g).gridAt k = g := mapGet_mapSet_same _ _ _
theorem State.gridAt_setGrid_ne {j k : Nat} (g : Grid) (h : j ≠ k) : (s.setGrid k g).gridAt j = s.gridAt j :=
  mapGet_mapSet_ne _ _ h
@[simp] theorem State.coreAt_setGrid (j k : Nat) (g : Grid) : (s.setGrid k g).coreAt j = s.coreAt j := rfl
@[simp] theorem State.groupAt_setGrid (j k i : Nat) (g : Grid) : (s.setGrid k g).groupAt j i = s.groupAt j i := rfl
@[simp] theorem State.group_setGrid (k : Nat) (g : Grid) : (s.setGrid k g).group = s.group := rfl
@[simp] theorem State.split_setGrid (k : Nat) (g : Grid) : (s.setGrid k g).split = s.split := rfl
@[simp] theorem State.gridAt_setCore (j k : Nat) (c : Core) : (s.setCore k c).gridAt j = s.gridAt j := rfl

@[simp] theorem State.groupAt_setGroupAt (k g : Nat) (x : Group) : (s.setGroupAt k g x).groupAt k g = x := by
  simp [State.groupAt, State.setGroupAt]
theorem State.groupAt_setGroupAt_ne (k : Nat) {g h : Nat} (x : Group) (n : h ≠ g) :
    (s.setGroupAt k g x).groupAt k h = s.groupAt k h := by
  simp [State.groupAt, State.setGroupAt, mapGet_mapSet_ne _ x n]
theorem State.coreAt_setGroupAt_ne {j k : Nat} (g : Nat) (x : Group) (n : j ≠ k) :
    (s.setGroupAt k g x).coreAt j = s.coreAt j := State.coreAt_setCore_ne s _ n
@[simp] theorem State.gridAt_setGroupAt (j k g : Nat) (x : Group) : (s.setGroupAt k g x).gridAt j = s.gridAt j := rfl
@[simp] theorem State.blockAt_setBlockAt (k b : Nat) (x : Block) : (s.setBlockAt k b x).blockAt k b = x := by
  simp [State.blockAt, State.setBlockAt]
theorem State.blockAt_setBlockAt_ne (k : Nat) {b c : Nat} (x : Block) (n : c ≠ b) :
    (s.setBlockAt k b x).blockAt k c = s.blockAt k c := by
  simp [State.blockAt, State.setBlockAt, mapGet_mapSet_ne _ x n]
@[simp] theorem State.groupAt_setBlockAt (k b j : Nat) (x : Block) (g : Nat) :
    (s.setBlockAt k b x).groupAt j g = s.groupAt j g := by
  by_cases h : j = k
  · subst h; simp [State.groupAt, State.setBlockAt]
  · simp [State.groupAt, State.setBlockAt, State.coreAt_setCore_ne s _ h]

@[simp] theorem State.group_setGroup (x : Group) : (s.setGroup x).group = x := State.groupAt_setGroupAt s _ _ x
@[simp] theorem State.group_setBlock (x : Block) : (s.setBlock x).group = s.group := State.groupAt_setBlockAt s _ _ _ x _
@[simp] theorem State.split_setBlock (x : Block) : (s.setBlock x).split = s.split := by simp [State.split]
@[simp] theorem State.setGroup_setGroup (x y : Group) : (s.setGroup x).setGroup y = s.setGroup y := by
  simp [State.setGroup, State.setGroupAt, State.setCore, State.coreAt, mapSet_mapSet]
@[simp] theorem State.width_setGroup (x : Group) : (s.setGroup x).width = s.width := rfl
@[simp] theorem State.grid_setGroup (x : Group) (h : x.gid = s.group.gid) : (s.setGroup x).grid = s.grid := by
  simp [State.grid, h]; rfl
theorem State.core_setGroup (x : Group) :
    (s.setGroup x).core = { s.core with groups := mapSet s.core.groups s.sel.grp x } :=
  State.coreAt_setCore s _ _

@[simp] theorem Group.split_setSplit (g : Group) (i : Nat) (p : Split) : (g.setSplit i p).split i = p :=
  mapGet_mapSet_same _ _ _
theorem Group.split_setSplit_ne (g : Group) {i j : Nat} (p : Split) (h : j ≠ i) :
    (g.setSplit i p).split j = g.split j := mapGet_mapSet_ne _ _ h
@[simp] theorem State.group_setSplit (p : Split) : (s.setSplit p).group = s.group.setSplit s.sel.slot p :=
  State.group_setGroup s _
@[simp] theorem State.split_setSplit (p : Split) : (s.setSplit p).split = p := by
  simp [State.split]
@[simp] theorem State.split_setGroup (x : Group) : (s.setGroup x).split = x.split s.sel.slot := by
  simp [State.split]
end

/-! ### A group: fields that an update of one register file, flag or split leaves -/

section
variable (g : Group) (r : Nat) (m y : Lanes) (f : Nat → Word) (u : DWord) (h : BitVec 16) (q : BitVec 128) (p : Split)

@[simp] theorem Group.setV_live : (g.setV r m f).live = g.live := rfl
@[simp] theorem Group.setV_place : (g.setV r m f).place = g.place := rfl
@[simp] theorem Group.setV_gid : (g.setV r m f).gid = g.gid := rfl
@[simp] theorem Group.setV_blk : (g.setV r m f).blk = g.blk := rfl
@[simp] theorem Group.setV_stage : (g.setV r m f).stage = g.stage := rfl
@[simp] theorem Group.setV_grpin : (g.setV r m f).grpin = g.grpin := rfl
@[simp] theorem Group.setV_sub : (g.setV r m f).sub = g.sub := rfl
@[simp] theorem Group.setV_budget : (g.setV r m f).budget = g.budget := rfl
@[simp] theorem Group.setV_priv : (g.setV r m f).priv = g.priv := rfl
@[simp] theorem Group.setV_vid : (g.setV r m f).vid = g.vid := rfl
@[simp] theorem Group.setV_asn : (g.setV r m f).asn = g.asn := rfl
@[simp] theorem Group.setV_s : (g.setV r m f).s = g.s := rfl
@[simp] theorem Group.setV_p : (g.setV r m f).p = g.p := rfl
@[simp] theorem Group.setV_x : (g.setV r m f).x = g.x := rfl
@[simp] theorem Group.setV_blo : (g.setV r m f).blo = g.blo := rfl
@[simp] theorem Group.setV_bhi : (g.setV r m f).bhi = g.bhi := rfl
@[simp] theorem Group.setV_d : (g.setV r m f).d = g.d := rfl
@[simp] theorem Group.setV_sat : (g.setV r m f).sat = g.sat := rfl
@[simp] theorem Group.setV_clip : (g.setV r m f).clip = g.clip := rfl
@[simp] theorem Group.setV_qsat : (g.setV r m f).qsat = g.qsat := rfl
@[simp] theorem Group.setV_invx : (g.setV r m f).invx = g.invx := rfl
@[simp] theorem Group.setV_phmargin : (g.setV r m f).phmargin = g.phmargin := rfl
@[simp] theorem Group.setV_trapvec : (g.setV r m f).trapvec = g.trapvec := rfl
@[simp] theorem Group.setV_rtag : (g.setV r m f).rtag = g.rtag := rfl
@[simp] theorem Group.setV_splits : (g.setV r m f).splits = g.splits := rfl
@[simp] theorem Group.setV_spill : (g.setV r m f).spill = g.spill := rfl
@[simp] theorem Group.setV_nextCre : (g.setV r m f).nextCre = g.nextCre := rfl
@[simp] theorem Group.setV_h : (g.setV r m f).h = g.h := rfl
@[simp] theorem Group.setV_frame : (g.setV r m f).frame = g.frame := rfl
@[simp] theorem Group.setV_q7 : (g.setV r m f).q7 = g.q7 := rfl
@[simp] theorem Group.setV_q7ovf : (g.setV r m f).q7ovf = g.q7ovf := rfl
@[simp] theorem Group.setV_q7cut : (g.setV r m f).q7cut = g.q7cut := rfl
@[simp] theorem Group.setV_comp : (g.setV r m f).comp = g.comp := rfl
@[simp] theorem Group.setV_compOvf : (g.setV r m f).compOvf = g.compOvf := rfl
@[simp] theorem Group.setV_asm_ : (g.setV r m f).asm_ = g.asm_ := rfl
@[simp] theorem Group.setV_asmOrder : (g.setV r m f).asmOrder = g.asmOrder := rfl
@[simp] theorem Group.setV_lastClosed : (g.setV r m f).lastClosed = g.lastClosed := rfl
@[simp] theorem Group.setV_openBatch : (g.setV r m f).openBatch = g.openBatch := rfl
@[simp] theorem Group.setV_batches : (g.setV r m f).batches = g.batches := rfl
@[simp] theorem Group.setV_doneMarks : (g.setV r m f).doneMarks = g.doneMarks := rfl
@[simp] theorem Group.setV_misses : (g.setV r m f).misses = g.misses := rfl
@[simp] theorem Group.setV_fences : (g.setV r m f).fences = g.fences := rfl
@[simp] theorem Group.setV_expect : (g.setV r m f).expect = g.expect := rfl
@[simp] theorem Group.setV_margin : (g.setV r m f).margin = g.margin := rfl
@[simp] theorem Group.setV_phaseCount : (g.setV r m f).phaseCount = g.phaseCount := rfl
@[simp] theorem Group.setV_phaseOn : (g.setV r m f).phaseOn = g.phaseOn := rfl
@[simp] theorem Group.setV_oplog : (g.setV r m f).oplog = g.oplog := rfl
@[simp] theorem Group.setV_parked : (g.setV r m f).parked = g.parked := rfl
@[simp] theorem Group.setV_rtags : (g.setV r m f).rtags = g.rtags := rfl
@[simp] theorem Group.setV_rwPeers : (g.setV r m f).rwPeers = g.rwPeers := rfl
@[simp] theorem Group.setV_rwErrs : (g.setV r m f).rwErrs = g.rwErrs := rfl
@[simp] theorem Group.setV_cairnSeen : (g.setV r m f).cairnSeen = g.cairnSeen := rfl
@[simp] theorem Group.setV_stopReq : (g.setV r m f).stopReq = g.stopReq := rfl
@[simp] theorem Group.setV_stopped : (g.setV r m f).stopped = g.stopped := rfl
@[simp] theorem Group.setV_bkstop : (g.setV r m f).bkstop = g.bkstop := rfl
@[simp] theorem Group.setV_frz : (g.setV r m f).frz = g.frz := rfl
@[simp] theorem Group.setV_dying : (g.setV r m f).dying = g.dying := rfl
@[simp] theorem Group.setV_stepSlot : (g.setV r m f).stepSlot = g.stepSlot := rfl
@[simp] theorem Group.setS_live : (g.setS r u).live = g.live := rfl
@[simp] theorem Group.setS_place : (g.setS r u).place = g.place := rfl
@[simp] theorem Group.setS_gid : (g.setS r u).gid = g.gid := rfl
@[simp] theorem Group.setS_blk : (g.setS r u).blk = g.blk := rfl
@[simp] theorem Group.setS_stage : (g.setS r u).stage = g.stage := rfl
@[simp] theorem Group.setS_grpin : (g.setS r u).grpin = g.grpin := rfl
@[simp] theorem Group.setS_sub : (g.setS r u).sub = g.sub := rfl
@[simp] theorem Group.setS_budget : (g.setS r u).budget = g.budget := rfl
@[simp] theorem Group.setS_priv : (g.setS r u).priv = g.priv := rfl
@[simp] theorem Group.setS_vid : (g.setS r u).vid = g.vid := rfl
@[simp] theorem Group.setS_asn : (g.setS r u).asn = g.asn := rfl
@[simp] theorem Group.setS_v : (g.setS r u).v = g.v := rfl
@[simp] theorem Group.setS_p : (g.setS r u).p = g.p := rfl
@[simp] theorem Group.setS_x : (g.setS r u).x = g.x := rfl
@[simp] theorem Group.setS_blo : (g.setS r u).blo = g.blo := rfl
@[simp] theorem Group.setS_bhi : (g.setS r u).bhi = g.bhi := rfl
@[simp] theorem Group.setS_d : (g.setS r u).d = g.d := rfl
@[simp] theorem Group.setS_sat : (g.setS r u).sat = g.sat := rfl
@[simp] theorem Group.setS_clip : (g.setS r u).clip = g.clip := rfl
@[simp] theorem Group.setS_qsat : (g.setS r u).qsat = g.qsat := rfl
@[simp] theorem Group.setS_invx : (g.setS r u).invx = g.invx := rfl
@[simp] theorem Group.setS_phmargin : (g.setS r u).phmargin = g.phmargin := rfl
@[simp] theorem Group.setS_trapvec : (g.setS r u).trapvec = g.trapvec := rfl
@[simp] theorem Group.setS_rtag : (g.setS r u).rtag = g.rtag := rfl
@[simp] theorem Group.setS_splits : (g.setS r u).splits = g.splits := rfl
@[simp] theorem Group.setS_spill : (g.setS r u).spill = g.spill := rfl
@[simp] theorem Group.setS_nextCre : (g.setS r u).nextCre = g.nextCre := rfl
@[simp] theorem Group.setS_h : (g.setS r u).h = g.h := rfl
@[simp] theorem Group.setS_frame : (g.setS r u).frame = g.frame := rfl
@[simp] theorem Group.setS_q7 : (g.setS r u).q7 = g.q7 := rfl
@[simp] theorem Group.setS_q7ovf : (g.setS r u).q7ovf = g.q7ovf := rfl
@[simp] theorem Group.setS_q7cut : (g.setS r u).q7cut = g.q7cut := rfl
@[simp] theorem Group.setS_comp : (g.setS r u).comp = g.comp := rfl
@[simp] theorem Group.setS_compOvf : (g.setS r u).compOvf = g.compOvf := rfl
@[simp] theorem Group.setS_asm_ : (g.setS r u).asm_ = g.asm_ := rfl
@[simp] theorem Group.setS_asmOrder : (g.setS r u).asmOrder = g.asmOrder := rfl
@[simp] theorem Group.setS_lastClosed : (g.setS r u).lastClosed = g.lastClosed := rfl
@[simp] theorem Group.setS_openBatch : (g.setS r u).openBatch = g.openBatch := rfl
@[simp] theorem Group.setS_batches : (g.setS r u).batches = g.batches := rfl
@[simp] theorem Group.setS_doneMarks : (g.setS r u).doneMarks = g.doneMarks := rfl
@[simp] theorem Group.setS_misses : (g.setS r u).misses = g.misses := rfl
@[simp] theorem Group.setS_fences : (g.setS r u).fences = g.fences := rfl
@[simp] theorem Group.setS_expect : (g.setS r u).expect = g.expect := rfl
@[simp] theorem Group.setS_margin : (g.setS r u).margin = g.margin := rfl
@[simp] theorem Group.setS_phaseCount : (g.setS r u).phaseCount = g.phaseCount := rfl
@[simp] theorem Group.setS_phaseOn : (g.setS r u).phaseOn = g.phaseOn := rfl
@[simp] theorem Group.setS_oplog : (g.setS r u).oplog = g.oplog := rfl
@[simp] theorem Group.setS_parked : (g.setS r u).parked = g.parked := rfl
@[simp] theorem Group.setS_rtags : (g.setS r u).rtags = g.rtags := rfl
@[simp] theorem Group.setS_rwPeers : (g.setS r u).rwPeers = g.rwPeers := rfl
@[simp] theorem Group.setS_rwErrs : (g.setS r u).rwErrs = g.rwErrs := rfl
@[simp] theorem Group.setS_cairnSeen : (g.setS r u).cairnSeen = g.cairnSeen := rfl
@[simp] theorem Group.setS_stopReq : (g.setS r u).stopReq = g.stopReq := rfl
@[simp] theorem Group.setS_stopped : (g.setS r u).stopped = g.stopped := rfl
@[simp] theorem Group.setS_bkstop : (g.setS r u).bkstop = g.bkstop := rfl
@[simp] theorem Group.setS_frz : (g.setS r u).frz = g.frz := rfl
@[simp] theorem Group.setS_dying : (g.setS r u).dying = g.dying := rfl
@[simp] theorem Group.setS_stepSlot : (g.setS r u).stepSlot = g.stepSlot := rfl
@[simp] theorem Group.setP_live : (g.setP r m y).live = g.live := rfl
@[simp] theorem Group.setP_place : (g.setP r m y).place = g.place := rfl
@[simp] theorem Group.setP_gid : (g.setP r m y).gid = g.gid := rfl
@[simp] theorem Group.setP_blk : (g.setP r m y).blk = g.blk := rfl
@[simp] theorem Group.setP_stage : (g.setP r m y).stage = g.stage := rfl
@[simp] theorem Group.setP_grpin : (g.setP r m y).grpin = g.grpin := rfl
@[simp] theorem Group.setP_sub : (g.setP r m y).sub = g.sub := rfl
@[simp] theorem Group.setP_budget : (g.setP r m y).budget = g.budget := rfl
@[simp] theorem Group.setP_priv : (g.setP r m y).priv = g.priv := rfl
@[simp] theorem Group.setP_vid : (g.setP r m y).vid = g.vid := rfl
@[simp] theorem Group.setP_asn : (g.setP r m y).asn = g.asn := rfl
@[simp] theorem Group.setP_v : (g.setP r m y).v = g.v := rfl
@[simp] theorem Group.setP_s : (g.setP r m y).s = g.s := rfl
@[simp] theorem Group.setP_x : (g.setP r m y).x = g.x := rfl
@[simp] theorem Group.setP_blo : (g.setP r m y).blo = g.blo := rfl
@[simp] theorem Group.setP_bhi : (g.setP r m y).bhi = g.bhi := rfl
@[simp] theorem Group.setP_d : (g.setP r m y).d = g.d := rfl
@[simp] theorem Group.setP_sat : (g.setP r m y).sat = g.sat := rfl
@[simp] theorem Group.setP_clip : (g.setP r m y).clip = g.clip := rfl
@[simp] theorem Group.setP_qsat : (g.setP r m y).qsat = g.qsat := rfl
@[simp] theorem Group.setP_invx : (g.setP r m y).invx = g.invx := rfl
@[simp] theorem Group.setP_phmargin : (g.setP r m y).phmargin = g.phmargin := rfl
@[simp] theorem Group.setP_trapvec : (g.setP r m y).trapvec = g.trapvec := rfl
@[simp] theorem Group.setP_rtag : (g.setP r m y).rtag = g.rtag := rfl
@[simp] theorem Group.setP_splits : (g.setP r m y).splits = g.splits := rfl
@[simp] theorem Group.setP_spill : (g.setP r m y).spill = g.spill := rfl
@[simp] theorem Group.setP_nextCre : (g.setP r m y).nextCre = g.nextCre := rfl
@[simp] theorem Group.setP_h : (g.setP r m y).h = g.h := rfl
@[simp] theorem Group.setP_frame : (g.setP r m y).frame = g.frame := rfl
@[simp] theorem Group.setP_q7 : (g.setP r m y).q7 = g.q7 := rfl
@[simp] theorem Group.setP_q7ovf : (g.setP r m y).q7ovf = g.q7ovf := rfl
@[simp] theorem Group.setP_q7cut : (g.setP r m y).q7cut = g.q7cut := rfl
@[simp] theorem Group.setP_comp : (g.setP r m y).comp = g.comp := rfl
@[simp] theorem Group.setP_compOvf : (g.setP r m y).compOvf = g.compOvf := rfl
@[simp] theorem Group.setP_asm_ : (g.setP r m y).asm_ = g.asm_ := rfl
@[simp] theorem Group.setP_asmOrder : (g.setP r m y).asmOrder = g.asmOrder := rfl
@[simp] theorem Group.setP_lastClosed : (g.setP r m y).lastClosed = g.lastClosed := rfl
@[simp] theorem Group.setP_openBatch : (g.setP r m y).openBatch = g.openBatch := rfl
@[simp] theorem Group.setP_batches : (g.setP r m y).batches = g.batches := rfl
@[simp] theorem Group.setP_doneMarks : (g.setP r m y).doneMarks = g.doneMarks := rfl
@[simp] theorem Group.setP_misses : (g.setP r m y).misses = g.misses := rfl
@[simp] theorem Group.setP_fences : (g.setP r m y).fences = g.fences := rfl
@[simp] theorem Group.setP_expect : (g.setP r m y).expect = g.expect := rfl
@[simp] theorem Group.setP_margin : (g.setP r m y).margin = g.margin := rfl
@[simp] theorem Group.setP_phaseCount : (g.setP r m y).phaseCount = g.phaseCount := rfl
@[simp] theorem Group.setP_phaseOn : (g.setP r m y).phaseOn = g.phaseOn := rfl
@[simp] theorem Group.setP_oplog : (g.setP r m y).oplog = g.oplog := rfl
@[simp] theorem Group.setP_parked : (g.setP r m y).parked = g.parked := rfl
@[simp] theorem Group.setP_rtags : (g.setP r m y).rtags = g.rtags := rfl
@[simp] theorem Group.setP_rwPeers : (g.setP r m y).rwPeers = g.rwPeers := rfl
@[simp] theorem Group.setP_rwErrs : (g.setP r m y).rwErrs = g.rwErrs := rfl
@[simp] theorem Group.setP_cairnSeen : (g.setP r m y).cairnSeen = g.cairnSeen := rfl
@[simp] theorem Group.setP_stopReq : (g.setP r m y).stopReq = g.stopReq := rfl
@[simp] theorem Group.setP_stopped : (g.setP r m y).stopped = g.stopped := rfl
@[simp] theorem Group.setP_bkstop : (g.setP r m y).bkstop = g.bkstop := rfl
@[simp] theorem Group.setP_frz : (g.setP r m y).frz = g.frz := rfl
@[simp] theorem Group.setP_dying : (g.setP r m y).dying = g.dying := rfl
@[simp] theorem Group.setP_stepSlot : (g.setP r m y).stepSlot = g.stepSlot := rfl
@[simp] theorem Group.setX_live : (g.setX r h).live = g.live := rfl
@[simp] theorem Group.setX_place : (g.setX r h).place = g.place := rfl
@[simp] theorem Group.setX_gid : (g.setX r h).gid = g.gid := rfl
@[simp] theorem Group.setX_blk : (g.setX r h).blk = g.blk := rfl
@[simp] theorem Group.setX_stage : (g.setX r h).stage = g.stage := rfl
@[simp] theorem Group.setX_grpin : (g.setX r h).grpin = g.grpin := rfl
@[simp] theorem Group.setX_sub : (g.setX r h).sub = g.sub := rfl
@[simp] theorem Group.setX_budget : (g.setX r h).budget = g.budget := rfl
@[simp] theorem Group.setX_priv : (g.setX r h).priv = g.priv := rfl
@[simp] theorem Group.setX_vid : (g.setX r h).vid = g.vid := rfl
@[simp] theorem Group.setX_asn : (g.setX r h).asn = g.asn := rfl
@[simp] theorem Group.setX_v : (g.setX r h).v = g.v := rfl
@[simp] theorem Group.setX_s : (g.setX r h).s = g.s := rfl
@[simp] theorem Group.setX_p : (g.setX r h).p = g.p := rfl
@[simp] theorem Group.setX_blo : (g.setX r h).blo = g.blo := rfl
@[simp] theorem Group.setX_bhi : (g.setX r h).bhi = g.bhi := rfl
@[simp] theorem Group.setX_d : (g.setX r h).d = g.d := rfl
@[simp] theorem Group.setX_sat : (g.setX r h).sat = g.sat := rfl
@[simp] theorem Group.setX_clip : (g.setX r h).clip = g.clip := rfl
@[simp] theorem Group.setX_qsat : (g.setX r h).qsat = g.qsat := rfl
@[simp] theorem Group.setX_invx : (g.setX r h).invx = g.invx := rfl
@[simp] theorem Group.setX_phmargin : (g.setX r h).phmargin = g.phmargin := rfl
@[simp] theorem Group.setX_trapvec : (g.setX r h).trapvec = g.trapvec := rfl
@[simp] theorem Group.setX_rtag : (g.setX r h).rtag = g.rtag := rfl
@[simp] theorem Group.setX_splits : (g.setX r h).splits = g.splits := rfl
@[simp] theorem Group.setX_spill : (g.setX r h).spill = g.spill := rfl
@[simp] theorem Group.setX_nextCre : (g.setX r h).nextCre = g.nextCre := rfl
@[simp] theorem Group.setX_h : (g.setX r h).h = g.h := rfl
@[simp] theorem Group.setX_frame : (g.setX r h).frame = g.frame := rfl
@[simp] theorem Group.setX_q7 : (g.setX r h).q7 = g.q7 := rfl
@[simp] theorem Group.setX_q7ovf : (g.setX r h).q7ovf = g.q7ovf := rfl
@[simp] theorem Group.setX_q7cut : (g.setX r h).q7cut = g.q7cut := rfl
@[simp] theorem Group.setX_comp : (g.setX r h).comp = g.comp := rfl
@[simp] theorem Group.setX_compOvf : (g.setX r h).compOvf = g.compOvf := rfl
@[simp] theorem Group.setX_asm_ : (g.setX r h).asm_ = g.asm_ := rfl
@[simp] theorem Group.setX_asmOrder : (g.setX r h).asmOrder = g.asmOrder := rfl
@[simp] theorem Group.setX_lastClosed : (g.setX r h).lastClosed = g.lastClosed := rfl
@[simp] theorem Group.setX_openBatch : (g.setX r h).openBatch = g.openBatch := rfl
@[simp] theorem Group.setX_batches : (g.setX r h).batches = g.batches := rfl
@[simp] theorem Group.setX_doneMarks : (g.setX r h).doneMarks = g.doneMarks := rfl
@[simp] theorem Group.setX_misses : (g.setX r h).misses = g.misses := rfl
@[simp] theorem Group.setX_fences : (g.setX r h).fences = g.fences := rfl
@[simp] theorem Group.setX_expect : (g.setX r h).expect = g.expect := rfl
@[simp] theorem Group.setX_margin : (g.setX r h).margin = g.margin := rfl
@[simp] theorem Group.setX_phaseCount : (g.setX r h).phaseCount = g.phaseCount := rfl
@[simp] theorem Group.setX_phaseOn : (g.setX r h).phaseOn = g.phaseOn := rfl
@[simp] theorem Group.setX_oplog : (g.setX r h).oplog = g.oplog := rfl
@[simp] theorem Group.setX_parked : (g.setX r h).parked = g.parked := rfl
@[simp] theorem Group.setX_rtags : (g.setX r h).rtags = g.rtags := rfl
@[simp] theorem Group.setX_rwPeers : (g.setX r h).rwPeers = g.rwPeers := rfl
@[simp] theorem Group.setX_rwErrs : (g.setX r h).rwErrs = g.rwErrs := rfl
@[simp] theorem Group.setX_cairnSeen : (g.setX r h).cairnSeen = g.cairnSeen := rfl
@[simp] theorem Group.setX_stopReq : (g.setX r h).stopReq = g.stopReq := rfl
@[simp] theorem Group.setX_stopped : (g.setX r h).stopped = g.stopped := rfl
@[simp] theorem Group.setX_bkstop : (g.setX r h).bkstop = g.bkstop := rfl
@[simp] theorem Group.setX_frz : (g.setX r h).frz = g.frz := rfl
@[simp] theorem Group.setX_dying : (g.setX r h).dying = g.dying := rfl
@[simp] theorem Group.setX_stepSlot : (g.setX r h).stepSlot = g.stepSlot := rfl
@[simp] theorem Group.setD_live : (g.setD r q).live = g.live := rfl
@[simp] theorem Group.setD_place : (g.setD r q).place = g.place := rfl
@[simp] theorem Group.setD_gid : (g.setD r q).gid = g.gid := rfl
@[simp] theorem Group.setD_blk : (g.setD r q).blk = g.blk := rfl
@[simp] theorem Group.setD_stage : (g.setD r q).stage = g.stage := rfl
@[simp] theorem Group.setD_grpin : (g.setD r q).grpin = g.grpin := rfl
@[simp] theorem Group.setD_sub : (g.setD r q).sub = g.sub := rfl
@[simp] theorem Group.setD_budget : (g.setD r q).budget = g.budget := rfl
@[simp] theorem Group.setD_priv : (g.setD r q).priv = g.priv := rfl
@[simp] theorem Group.setD_vid : (g.setD r q).vid = g.vid := rfl
@[simp] theorem Group.setD_asn : (g.setD r q).asn = g.asn := rfl
@[simp] theorem Group.setD_v : (g.setD r q).v = g.v := rfl
@[simp] theorem Group.setD_s : (g.setD r q).s = g.s := rfl
@[simp] theorem Group.setD_p : (g.setD r q).p = g.p := rfl
@[simp] theorem Group.setD_x : (g.setD r q).x = g.x := rfl
@[simp] theorem Group.setD_blo : (g.setD r q).blo = g.blo := rfl
@[simp] theorem Group.setD_bhi : (g.setD r q).bhi = g.bhi := rfl
@[simp] theorem Group.setD_sat : (g.setD r q).sat = g.sat := rfl
@[simp] theorem Group.setD_clip : (g.setD r q).clip = g.clip := rfl
@[simp] theorem Group.setD_qsat : (g.setD r q).qsat = g.qsat := rfl
@[simp] theorem Group.setD_invx : (g.setD r q).invx = g.invx := rfl
@[simp] theorem Group.setD_phmargin : (g.setD r q).phmargin = g.phmargin := rfl
@[simp] theorem Group.setD_trapvec : (g.setD r q).trapvec = g.trapvec := rfl
@[simp] theorem Group.setD_rtag : (g.setD r q).rtag = g.rtag := rfl
@[simp] theorem Group.setD_splits : (g.setD r q).splits = g.splits := rfl
@[simp] theorem Group.setD_spill : (g.setD r q).spill = g.spill := rfl
@[simp] theorem Group.setD_nextCre : (g.setD r q).nextCre = g.nextCre := rfl
@[simp] theorem Group.setD_h : (g.setD r q).h = g.h := rfl
@[simp] theorem Group.setD_frame : (g.setD r q).frame = g.frame := rfl
@[simp] theorem Group.setD_q7 : (g.setD r q).q7 = g.q7 := rfl
@[simp] theorem Group.setD_q7ovf : (g.setD r q).q7ovf = g.q7ovf := rfl
@[simp] theorem Group.setD_q7cut : (g.setD r q).q7cut = g.q7cut := rfl
@[simp] theorem Group.setD_comp : (g.setD r q).comp = g.comp := rfl
@[simp] theorem Group.setD_compOvf : (g.setD r q).compOvf = g.compOvf := rfl
@[simp] theorem Group.setD_asm_ : (g.setD r q).asm_ = g.asm_ := rfl
@[simp] theorem Group.setD_asmOrder : (g.setD r q).asmOrder = g.asmOrder := rfl
@[simp] theorem Group.setD_lastClosed : (g.setD r q).lastClosed = g.lastClosed := rfl
@[simp] theorem Group.setD_openBatch : (g.setD r q).openBatch = g.openBatch := rfl
@[simp] theorem Group.setD_batches : (g.setD r q).batches = g.batches := rfl
@[simp] theorem Group.setD_doneMarks : (g.setD r q).doneMarks = g.doneMarks := rfl
@[simp] theorem Group.setD_misses : (g.setD r q).misses = g.misses := rfl
@[simp] theorem Group.setD_fences : (g.setD r q).fences = g.fences := rfl
@[simp] theorem Group.setD_expect : (g.setD r q).expect = g.expect := rfl
@[simp] theorem Group.setD_margin : (g.setD r q).margin = g.margin := rfl
@[simp] theorem Group.setD_phaseCount : (g.setD r q).phaseCount = g.phaseCount := rfl
@[simp] theorem Group.setD_phaseOn : (g.setD r q).phaseOn = g.phaseOn := rfl
@[simp] theorem Group.setD_oplog : (g.setD r q).oplog = g.oplog := rfl
@[simp] theorem Group.setD_parked : (g.setD r q).parked = g.parked := rfl
@[simp] theorem Group.setD_rtags : (g.setD r q).rtags = g.rtags := rfl
@[simp] theorem Group.setD_rwPeers : (g.setD r q).rwPeers = g.rwPeers := rfl
@[simp] theorem Group.setD_rwErrs : (g.setD r q).rwErrs = g.rwErrs := rfl
@[simp] theorem Group.setD_cairnSeen : (g.setD r q).cairnSeen = g.cairnSeen := rfl
@[simp] theorem Group.setD_stopReq : (g.setD r q).stopReq = g.stopReq := rfl
@[simp] theorem Group.setD_stopped : (g.setD r q).stopped = g.stopped := rfl
@[simp] theorem Group.setD_bkstop : (g.setD r q).bkstop = g.bkstop := rfl
@[simp] theorem Group.setD_frz : (g.setD r q).frz = g.frz := rfl
@[simp] theorem Group.setD_dying : (g.setD r q).dying = g.dying := rfl
@[simp] theorem Group.setD_stepSlot : (g.setD r q).stepSlot = g.stepSlot := rfl
@[simp] theorem Group.setSplit_live : (g.setSplit r p).live = g.live := rfl
@[simp] theorem Group.setSplit_place : (g.setSplit r p).place = g.place := rfl
@[simp] theorem Group.setSplit_gid : (g.setSplit r p).gid = g.gid := rfl
@[simp] theorem Group.setSplit_blk : (g.setSplit r p).blk = g.blk := rfl
@[simp] theorem Group.setSplit_stage : (g.setSplit r p).stage = g.stage := rfl
@[simp] theorem Group.setSplit_grpin : (g.setSplit r p).grpin = g.grpin := rfl
@[simp] theorem Group.setSplit_sub : (g.setSplit r p).sub = g.sub := rfl
@[simp] theorem Group.setSplit_budget : (g.setSplit r p).budget = g.budget := rfl
@[simp] theorem Group.setSplit_priv : (g.setSplit r p).priv = g.priv := rfl
@[simp] theorem Group.setSplit_vid : (g.setSplit r p).vid = g.vid := rfl
@[simp] theorem Group.setSplit_asn : (g.setSplit r p).asn = g.asn := rfl
@[simp] theorem Group.setSplit_v : (g.setSplit r p).v = g.v := rfl
@[simp] theorem Group.setSplit_s : (g.setSplit r p).s = g.s := rfl
@[simp] theorem Group.setSplit_p : (g.setSplit r p).p = g.p := rfl
@[simp] theorem Group.setSplit_x : (g.setSplit r p).x = g.x := rfl
@[simp] theorem Group.setSplit_blo : (g.setSplit r p).blo = g.blo := rfl
@[simp] theorem Group.setSplit_bhi : (g.setSplit r p).bhi = g.bhi := rfl
@[simp] theorem Group.setSplit_d : (g.setSplit r p).d = g.d := rfl
@[simp] theorem Group.setSplit_sat : (g.setSplit r p).sat = g.sat := rfl
@[simp] theorem Group.setSplit_clip : (g.setSplit r p).clip = g.clip := rfl
@[simp] theorem Group.setSplit_qsat : (g.setSplit r p).qsat = g.qsat := rfl
@[simp] theorem Group.setSplit_invx : (g.setSplit r p).invx = g.invx := rfl
@[simp] theorem Group.setSplit_phmargin : (g.setSplit r p).phmargin = g.phmargin := rfl
@[simp] theorem Group.setSplit_trapvec : (g.setSplit r p).trapvec = g.trapvec := rfl
@[simp] theorem Group.setSplit_rtag : (g.setSplit r p).rtag = g.rtag := rfl
@[simp] theorem Group.setSplit_spill : (g.setSplit r p).spill = g.spill := rfl
@[simp] theorem Group.setSplit_nextCre : (g.setSplit r p).nextCre = g.nextCre := rfl
@[simp] theorem Group.setSplit_h : (g.setSplit r p).h = g.h := rfl
@[simp] theorem Group.setSplit_frame : (g.setSplit r p).frame = g.frame := rfl
@[simp] theorem Group.setSplit_q7 : (g.setSplit r p).q7 = g.q7 := rfl
@[simp] theorem Group.setSplit_q7ovf : (g.setSplit r p).q7ovf = g.q7ovf := rfl
@[simp] theorem Group.setSplit_q7cut : (g.setSplit r p).q7cut = g.q7cut := rfl
@[simp] theorem Group.setSplit_comp : (g.setSplit r p).comp = g.comp := rfl
@[simp] theorem Group.setSplit_compOvf : (g.setSplit r p).compOvf = g.compOvf := rfl
@[simp] theorem Group.setSplit_asm_ : (g.setSplit r p).asm_ = g.asm_ := rfl
@[simp] theorem Group.setSplit_asmOrder : (g.setSplit r p).asmOrder = g.asmOrder := rfl
@[simp] theorem Group.setSplit_lastClosed : (g.setSplit r p).lastClosed = g.lastClosed := rfl
@[simp] theorem Group.setSplit_openBatch : (g.setSplit r p).openBatch = g.openBatch := rfl
@[simp] theorem Group.setSplit_batches : (g.setSplit r p).batches = g.batches := rfl
@[simp] theorem Group.setSplit_doneMarks : (g.setSplit r p).doneMarks = g.doneMarks := rfl
@[simp] theorem Group.setSplit_misses : (g.setSplit r p).misses = g.misses := rfl
@[simp] theorem Group.setSplit_fences : (g.setSplit r p).fences = g.fences := rfl
@[simp] theorem Group.setSplit_expect : (g.setSplit r p).expect = g.expect := rfl
@[simp] theorem Group.setSplit_margin : (g.setSplit r p).margin = g.margin := rfl
@[simp] theorem Group.setSplit_phaseCount : (g.setSplit r p).phaseCount = g.phaseCount := rfl
@[simp] theorem Group.setSplit_phaseOn : (g.setSplit r p).phaseOn = g.phaseOn := rfl
@[simp] theorem Group.setSplit_oplog : (g.setSplit r p).oplog = g.oplog := rfl
@[simp] theorem Group.setSplit_parked : (g.setSplit r p).parked = g.parked := rfl
@[simp] theorem Group.setSplit_rtags : (g.setSplit r p).rtags = g.rtags := rfl
@[simp] theorem Group.setSplit_rwPeers : (g.setSplit r p).rwPeers = g.rwPeers := rfl
@[simp] theorem Group.setSplit_rwErrs : (g.setSplit r p).rwErrs = g.rwErrs := rfl
@[simp] theorem Group.setSplit_cairnSeen : (g.setSplit r p).cairnSeen = g.cairnSeen := rfl
@[simp] theorem Group.setSplit_stopReq : (g.setSplit r p).stopReq = g.stopReq := rfl
@[simp] theorem Group.setSplit_stopped : (g.setSplit r p).stopped = g.stopped := rfl
@[simp] theorem Group.setSplit_bkstop : (g.setSplit r p).bkstop = g.bkstop := rfl
@[simp] theorem Group.setSplit_frz : (g.setSplit r p).frz = g.frz := rfl
@[simp] theorem Group.setSplit_dying : (g.setSplit r p).dying = g.dying := rfl
@[simp] theorem Group.setSplit_stepSlot : (g.setSplit r p).stepSlot = g.stepSlot := rfl
@[simp] theorem Group.setSat_live : (g.setSat m).live = g.live := rfl
@[simp] theorem Group.setSat_place : (g.setSat m).place = g.place := rfl
@[simp] theorem Group.setSat_gid : (g.setSat m).gid = g.gid := rfl
@[simp] theorem Group.setSat_blk : (g.setSat m).blk = g.blk := rfl
@[simp] theorem Group.setSat_stage : (g.setSat m).stage = g.stage := rfl
@[simp] theorem Group.setSat_grpin : (g.setSat m).grpin = g.grpin := rfl
@[simp] theorem Group.setSat_sub : (g.setSat m).sub = g.sub := rfl
@[simp] theorem Group.setSat_budget : (g.setSat m).budget = g.budget := rfl
@[simp] theorem Group.setSat_priv : (g.setSat m).priv = g.priv := rfl
@[simp] theorem Group.setSat_vid : (g.setSat m).vid = g.vid := rfl
@[simp] theorem Group.setSat_asn : (g.setSat m).asn = g.asn := rfl
@[simp] theorem Group.setSat_v : (g.setSat m).v = g.v := rfl
@[simp] theorem Group.setSat_s : (g.setSat m).s = g.s := rfl
@[simp] theorem Group.setSat_p : (g.setSat m).p = g.p := rfl
@[simp] theorem Group.setSat_x : (g.setSat m).x = g.x := rfl
@[simp] theorem Group.setSat_blo : (g.setSat m).blo = g.blo := rfl
@[simp] theorem Group.setSat_bhi : (g.setSat m).bhi = g.bhi := rfl
@[simp] theorem Group.setSat_d : (g.setSat m).d = g.d := rfl
@[simp] theorem Group.setSat_clip : (g.setSat m).clip = g.clip := rfl
@[simp] theorem Group.setSat_qsat : (g.setSat m).qsat = g.qsat := rfl
@[simp] theorem Group.setSat_invx : (g.setSat m).invx = g.invx := rfl
@[simp] theorem Group.setSat_phmargin : (g.setSat m).phmargin = g.phmargin := rfl
@[simp] theorem Group.setSat_trapvec : (g.setSat m).trapvec = g.trapvec := rfl
@[simp] theorem Group.setSat_rtag : (g.setSat m).rtag = g.rtag := rfl
@[simp] theorem Group.setSat_splits : (g.setSat m).splits = g.splits := rfl
@[simp] theorem Group.setSat_spill : (g.setSat m).spill = g.spill := rfl
@[simp] theorem Group.setSat_nextCre : (g.setSat m).nextCre = g.nextCre := rfl
@[simp] theorem Group.setSat_h : (g.setSat m).h = g.h := rfl
@[simp] theorem Group.setSat_frame : (g.setSat m).frame = g.frame := rfl
@[simp] theorem Group.setSat_q7 : (g.setSat m).q7 = g.q7 := rfl
@[simp] theorem Group.setSat_q7ovf : (g.setSat m).q7ovf = g.q7ovf := rfl
@[simp] theorem Group.setSat_q7cut : (g.setSat m).q7cut = g.q7cut := rfl
@[simp] theorem Group.setSat_comp : (g.setSat m).comp = g.comp := rfl
@[simp] theorem Group.setSat_compOvf : (g.setSat m).compOvf = g.compOvf := rfl
@[simp] theorem Group.setSat_asm_ : (g.setSat m).asm_ = g.asm_ := rfl
@[simp] theorem Group.setSat_asmOrder : (g.setSat m).asmOrder = g.asmOrder := rfl
@[simp] theorem Group.setSat_lastClosed : (g.setSat m).lastClosed = g.lastClosed := rfl
@[simp] theorem Group.setSat_openBatch : (g.setSat m).openBatch = g.openBatch := rfl
@[simp] theorem Group.setSat_batches : (g.setSat m).batches = g.batches := rfl
@[simp] theorem Group.setSat_doneMarks : (g.setSat m).doneMarks = g.doneMarks := rfl
@[simp] theorem Group.setSat_misses : (g.setSat m).misses = g.misses := rfl
@[simp] theorem Group.setSat_fences : (g.setSat m).fences = g.fences := rfl
@[simp] theorem Group.setSat_expect : (g.setSat m).expect = g.expect := rfl
@[simp] theorem Group.setSat_margin : (g.setSat m).margin = g.margin := rfl
@[simp] theorem Group.setSat_phaseCount : (g.setSat m).phaseCount = g.phaseCount := rfl
@[simp] theorem Group.setSat_phaseOn : (g.setSat m).phaseOn = g.phaseOn := rfl
@[simp] theorem Group.setSat_oplog : (g.setSat m).oplog = g.oplog := rfl
@[simp] theorem Group.setSat_parked : (g.setSat m).parked = g.parked := rfl
@[simp] theorem Group.setSat_rtags : (g.setSat m).rtags = g.rtags := rfl
@[simp] theorem Group.setSat_rwPeers : (g.setSat m).rwPeers = g.rwPeers := rfl
@[simp] theorem Group.setSat_rwErrs : (g.setSat m).rwErrs = g.rwErrs := rfl
@[simp] theorem Group.setSat_cairnSeen : (g.setSat m).cairnSeen = g.cairnSeen := rfl
@[simp] theorem Group.setSat_stopReq : (g.setSat m).stopReq = g.stopReq := rfl
@[simp] theorem Group.setSat_stopped : (g.setSat m).stopped = g.stopped := rfl
@[simp] theorem Group.setSat_bkstop : (g.setSat m).bkstop = g.bkstop := rfl
@[simp] theorem Group.setSat_frz : (g.setSat m).frz = g.frz := rfl
@[simp] theorem Group.setSat_dying : (g.setSat m).dying = g.dying := rfl
@[simp] theorem Group.setSat_stepSlot : (g.setSat m).stepSlot = g.stepSlot := rfl
@[simp] theorem Group.setClip_live : (g.setClip m).live = g.live := rfl
@[simp] theorem Group.setClip_place : (g.setClip m).place = g.place := rfl
@[simp] theorem Group.setClip_gid : (g.setClip m).gid = g.gid := rfl
@[simp] theorem Group.setClip_blk : (g.setClip m).blk = g.blk := rfl
@[simp] theorem Group.setClip_stage : (g.setClip m).stage = g.stage := rfl
@[simp] theorem Group.setClip_grpin : (g.setClip m).grpin = g.grpin := rfl
@[simp] theorem Group.setClip_sub : (g.setClip m).sub = g.sub := rfl
@[simp] theorem Group.setClip_budget : (g.setClip m).budget = g.budget := rfl
@[simp] theorem Group.setClip_priv : (g.setClip m).priv = g.priv := rfl
@[simp] theorem Group.setClip_vid : (g.setClip m).vid = g.vid := rfl
@[simp] theorem Group.setClip_asn : (g.setClip m).asn = g.asn := rfl
@[simp] theorem Group.setClip_v : (g.setClip m).v = g.v := rfl
@[simp] theorem Group.setClip_s : (g.setClip m).s = g.s := rfl
@[simp] theorem Group.setClip_p : (g.setClip m).p = g.p := rfl
@[simp] theorem Group.setClip_x : (g.setClip m).x = g.x := rfl
@[simp] theorem Group.setClip_blo : (g.setClip m).blo = g.blo := rfl
@[simp] theorem Group.setClip_bhi : (g.setClip m).bhi = g.bhi := rfl
@[simp] theorem Group.setClip_d : (g.setClip m).d = g.d := rfl
@[simp] theorem Group.setClip_sat : (g.setClip m).sat = g.sat := rfl
@[simp] theorem Group.setClip_qsat : (g.setClip m).qsat = g.qsat := rfl
@[simp] theorem Group.setClip_invx : (g.setClip m).invx = g.invx := rfl
@[simp] theorem Group.setClip_phmargin : (g.setClip m).phmargin = g.phmargin := rfl
@[simp] theorem Group.setClip_trapvec : (g.setClip m).trapvec = g.trapvec := rfl
@[simp] theorem Group.setClip_rtag : (g.setClip m).rtag = g.rtag := rfl
@[simp] theorem Group.setClip_splits : (g.setClip m).splits = g.splits := rfl
@[simp] theorem Group.setClip_spill : (g.setClip m).spill = g.spill := rfl
@[simp] theorem Group.setClip_nextCre : (g.setClip m).nextCre = g.nextCre := rfl
@[simp] theorem Group.setClip_h : (g.setClip m).h = g.h := rfl
@[simp] theorem Group.setClip_frame : (g.setClip m).frame = g.frame := rfl
@[simp] theorem Group.setClip_q7 : (g.setClip m).q7 = g.q7 := rfl
@[simp] theorem Group.setClip_q7ovf : (g.setClip m).q7ovf = g.q7ovf := rfl
@[simp] theorem Group.setClip_q7cut : (g.setClip m).q7cut = g.q7cut := rfl
@[simp] theorem Group.setClip_comp : (g.setClip m).comp = g.comp := rfl
@[simp] theorem Group.setClip_compOvf : (g.setClip m).compOvf = g.compOvf := rfl
@[simp] theorem Group.setClip_asm_ : (g.setClip m).asm_ = g.asm_ := rfl
@[simp] theorem Group.setClip_asmOrder : (g.setClip m).asmOrder = g.asmOrder := rfl
@[simp] theorem Group.setClip_lastClosed : (g.setClip m).lastClosed = g.lastClosed := rfl
@[simp] theorem Group.setClip_openBatch : (g.setClip m).openBatch = g.openBatch := rfl
@[simp] theorem Group.setClip_batches : (g.setClip m).batches = g.batches := rfl
@[simp] theorem Group.setClip_doneMarks : (g.setClip m).doneMarks = g.doneMarks := rfl
@[simp] theorem Group.setClip_misses : (g.setClip m).misses = g.misses := rfl
@[simp] theorem Group.setClip_fences : (g.setClip m).fences = g.fences := rfl
@[simp] theorem Group.setClip_expect : (g.setClip m).expect = g.expect := rfl
@[simp] theorem Group.setClip_margin : (g.setClip m).margin = g.margin := rfl
@[simp] theorem Group.setClip_phaseCount : (g.setClip m).phaseCount = g.phaseCount := rfl
@[simp] theorem Group.setClip_phaseOn : (g.setClip m).phaseOn = g.phaseOn := rfl
@[simp] theorem Group.setClip_oplog : (g.setClip m).oplog = g.oplog := rfl
@[simp] theorem Group.setClip_parked : (g.setClip m).parked = g.parked := rfl
@[simp] theorem Group.setClip_rtags : (g.setClip m).rtags = g.rtags := rfl
@[simp] theorem Group.setClip_rwPeers : (g.setClip m).rwPeers = g.rwPeers := rfl
@[simp] theorem Group.setClip_rwErrs : (g.setClip m).rwErrs = g.rwErrs := rfl
@[simp] theorem Group.setClip_cairnSeen : (g.setClip m).cairnSeen = g.cairnSeen := rfl
@[simp] theorem Group.setClip_stopReq : (g.setClip m).stopReq = g.stopReq := rfl
@[simp] theorem Group.setClip_stopped : (g.setClip m).stopped = g.stopped := rfl
@[simp] theorem Group.setClip_bkstop : (g.setClip m).bkstop = g.bkstop := rfl
@[simp] theorem Group.setClip_frz : (g.setClip m).frz = g.frz := rfl
@[simp] theorem Group.setClip_dying : (g.setClip m).dying = g.dying := rfl
@[simp] theorem Group.setClip_stepSlot : (g.setClip m).stepSlot = g.stepSlot := rfl
@[simp] theorem Group.setQsat_live : (g.setQsat m).live = g.live := rfl
@[simp] theorem Group.setQsat_place : (g.setQsat m).place = g.place := rfl
@[simp] theorem Group.setQsat_gid : (g.setQsat m).gid = g.gid := rfl
@[simp] theorem Group.setQsat_blk : (g.setQsat m).blk = g.blk := rfl
@[simp] theorem Group.setQsat_stage : (g.setQsat m).stage = g.stage := rfl
@[simp] theorem Group.setQsat_grpin : (g.setQsat m).grpin = g.grpin := rfl
@[simp] theorem Group.setQsat_sub : (g.setQsat m).sub = g.sub := rfl
@[simp] theorem Group.setQsat_budget : (g.setQsat m).budget = g.budget := rfl
@[simp] theorem Group.setQsat_priv : (g.setQsat m).priv = g.priv := rfl
@[simp] theorem Group.setQsat_vid : (g.setQsat m).vid = g.vid := rfl
@[simp] theorem Group.setQsat_asn : (g.setQsat m).asn = g.asn := rfl
@[simp] theorem Group.setQsat_v : (g.setQsat m).v = g.v := rfl
@[simp] theorem Group.setQsat_s : (g.setQsat m).s = g.s := rfl
@[simp] theorem Group.setQsat_p : (g.setQsat m).p = g.p := rfl
@[simp] theorem Group.setQsat_x : (g.setQsat m).x = g.x := rfl
@[simp] theorem Group.setQsat_blo : (g.setQsat m).blo = g.blo := rfl
@[simp] theorem Group.setQsat_bhi : (g.setQsat m).bhi = g.bhi := rfl
@[simp] theorem Group.setQsat_d : (g.setQsat m).d = g.d := rfl
@[simp] theorem Group.setQsat_sat : (g.setQsat m).sat = g.sat := rfl
@[simp] theorem Group.setQsat_clip : (g.setQsat m).clip = g.clip := rfl
@[simp] theorem Group.setQsat_invx : (g.setQsat m).invx = g.invx := rfl
@[simp] theorem Group.setQsat_phmargin : (g.setQsat m).phmargin = g.phmargin := rfl
@[simp] theorem Group.setQsat_trapvec : (g.setQsat m).trapvec = g.trapvec := rfl
@[simp] theorem Group.setQsat_rtag : (g.setQsat m).rtag = g.rtag := rfl
@[simp] theorem Group.setQsat_splits : (g.setQsat m).splits = g.splits := rfl
@[simp] theorem Group.setQsat_spill : (g.setQsat m).spill = g.spill := rfl
@[simp] theorem Group.setQsat_nextCre : (g.setQsat m).nextCre = g.nextCre := rfl
@[simp] theorem Group.setQsat_h : (g.setQsat m).h = g.h := rfl
@[simp] theorem Group.setQsat_frame : (g.setQsat m).frame = g.frame := rfl
@[simp] theorem Group.setQsat_q7 : (g.setQsat m).q7 = g.q7 := rfl
@[simp] theorem Group.setQsat_q7ovf : (g.setQsat m).q7ovf = g.q7ovf := rfl
@[simp] theorem Group.setQsat_q7cut : (g.setQsat m).q7cut = g.q7cut := rfl
@[simp] theorem Group.setQsat_comp : (g.setQsat m).comp = g.comp := rfl
@[simp] theorem Group.setQsat_compOvf : (g.setQsat m).compOvf = g.compOvf := rfl
@[simp] theorem Group.setQsat_asm_ : (g.setQsat m).asm_ = g.asm_ := rfl
@[simp] theorem Group.setQsat_asmOrder : (g.setQsat m).asmOrder = g.asmOrder := rfl
@[simp] theorem Group.setQsat_lastClosed : (g.setQsat m).lastClosed = g.lastClosed := rfl
@[simp] theorem Group.setQsat_openBatch : (g.setQsat m).openBatch = g.openBatch := rfl
@[simp] theorem Group.setQsat_batches : (g.setQsat m).batches = g.batches := rfl
@[simp] theorem Group.setQsat_doneMarks : (g.setQsat m).doneMarks = g.doneMarks := rfl
@[simp] theorem Group.setQsat_misses : (g.setQsat m).misses = g.misses := rfl
@[simp] theorem Group.setQsat_fences : (g.setQsat m).fences = g.fences := rfl
@[simp] theorem Group.setQsat_expect : (g.setQsat m).expect = g.expect := rfl
@[simp] theorem Group.setQsat_margin : (g.setQsat m).margin = g.margin := rfl
@[simp] theorem Group.setQsat_phaseCount : (g.setQsat m).phaseCount = g.phaseCount := rfl
@[simp] theorem Group.setQsat_phaseOn : (g.setQsat m).phaseOn = g.phaseOn := rfl
@[simp] theorem Group.setQsat_oplog : (g.setQsat m).oplog = g.oplog := rfl
@[simp] theorem Group.setQsat_parked : (g.setQsat m).parked = g.parked := rfl
@[simp] theorem Group.setQsat_rtags : (g.setQsat m).rtags = g.rtags := rfl
@[simp] theorem Group.setQsat_rwPeers : (g.setQsat m).rwPeers = g.rwPeers := rfl
@[simp] theorem Group.setQsat_rwErrs : (g.setQsat m).rwErrs = g.rwErrs := rfl
@[simp] theorem Group.setQsat_cairnSeen : (g.setQsat m).cairnSeen = g.cairnSeen := rfl
@[simp] theorem Group.setQsat_stopReq : (g.setQsat m).stopReq = g.stopReq := rfl
@[simp] theorem Group.setQsat_stopped : (g.setQsat m).stopped = g.stopped := rfl
@[simp] theorem Group.setQsat_bkstop : (g.setQsat m).bkstop = g.bkstop := rfl
@[simp] theorem Group.setQsat_frz : (g.setQsat m).frz = g.frz := rfl
@[simp] theorem Group.setQsat_dying : (g.setQsat m).dying = g.dying := rfl
@[simp] theorem Group.setQsat_stepSlot : (g.setQsat m).stepSlot = g.stepSlot := rfl
@[simp] theorem Group.setInvx_live : (g.setInvx m).live = g.live := rfl
@[simp] theorem Group.setInvx_place : (g.setInvx m).place = g.place := rfl
@[simp] theorem Group.setInvx_gid : (g.setInvx m).gid = g.gid := rfl
@[simp] theorem Group.setInvx_blk : (g.setInvx m).blk = g.blk := rfl
@[simp] theorem Group.setInvx_stage : (g.setInvx m).stage = g.stage := rfl
@[simp] theorem Group.setInvx_grpin : (g.setInvx m).grpin = g.grpin := rfl
@[simp] theorem Group.setInvx_sub : (g.setInvx m).sub = g.sub := rfl
@[simp] theorem Group.setInvx_budget : (g.setInvx m).budget = g.budget := rfl
@[simp] theorem Group.setInvx_priv : (g.setInvx m).priv = g.priv := rfl
@[simp] theorem Group.setInvx_vid : (g.setInvx m).vid = g.vid := rfl
@[simp] theorem Group.setInvx_asn : (g.setInvx m).asn = g.asn := rfl
@[simp] theorem Group.setInvx_v : (g.setInvx m).v = g.v := rfl
@[simp] theorem Group.setInvx_s : (g.setInvx m).s = g.s := rfl
@[simp] theorem Group.setInvx_p : (g.setInvx m).p = g.p := rfl
@[simp] theorem Group.setInvx_x : (g.setInvx m).x = g.x := rfl
@[simp] theorem Group.setInvx_blo : (g.setInvx m).blo = g.blo := rfl
@[simp] theorem Group.setInvx_bhi : (g.setInvx m).bhi = g.bhi := rfl
@[simp] theorem Group.setInvx_d : (g.setInvx m).d = g.d := rfl
@[simp] theorem Group.setInvx_sat : (g.setInvx m).sat = g.sat := rfl
@[simp] theorem Group.setInvx_clip : (g.setInvx m).clip = g.clip := rfl
@[simp] theorem Group.setInvx_qsat : (g.setInvx m).qsat = g.qsat := rfl
@[simp] theorem Group.setInvx_phmargin : (g.setInvx m).phmargin = g.phmargin := rfl
@[simp] theorem Group.setInvx_trapvec : (g.setInvx m).trapvec = g.trapvec := rfl
@[simp] theorem Group.setInvx_rtag : (g.setInvx m).rtag = g.rtag := rfl
@[simp] theorem Group.setInvx_splits : (g.setInvx m).splits = g.splits := rfl
@[simp] theorem Group.setInvx_spill : (g.setInvx m).spill = g.spill := rfl
@[simp] theorem Group.setInvx_nextCre : (g.setInvx m).nextCre = g.nextCre := rfl
@[simp] theorem Group.setInvx_h : (g.setInvx m).h = g.h := rfl
@[simp] theorem Group.setInvx_frame : (g.setInvx m).frame = g.frame := rfl
@[simp] theorem Group.setInvx_q7 : (g.setInvx m).q7 = g.q7 := rfl
@[simp] theorem Group.setInvx_q7ovf : (g.setInvx m).q7ovf = g.q7ovf := rfl
@[simp] theorem Group.setInvx_q7cut : (g.setInvx m).q7cut = g.q7cut := rfl
@[simp] theorem Group.setInvx_comp : (g.setInvx m).comp = g.comp := rfl
@[simp] theorem Group.setInvx_compOvf : (g.setInvx m).compOvf = g.compOvf := rfl
@[simp] theorem Group.setInvx_asm_ : (g.setInvx m).asm_ = g.asm_ := rfl
@[simp] theorem Group.setInvx_asmOrder : (g.setInvx m).asmOrder = g.asmOrder := rfl
@[simp] theorem Group.setInvx_lastClosed : (g.setInvx m).lastClosed = g.lastClosed := rfl
@[simp] theorem Group.setInvx_openBatch : (g.setInvx m).openBatch = g.openBatch := rfl
@[simp] theorem Group.setInvx_batches : (g.setInvx m).batches = g.batches := rfl
@[simp] theorem Group.setInvx_doneMarks : (g.setInvx m).doneMarks = g.doneMarks := rfl
@[simp] theorem Group.setInvx_misses : (g.setInvx m).misses = g.misses := rfl
@[simp] theorem Group.setInvx_fences : (g.setInvx m).fences = g.fences := rfl
@[simp] theorem Group.setInvx_expect : (g.setInvx m).expect = g.expect := rfl
@[simp] theorem Group.setInvx_margin : (g.setInvx m).margin = g.margin := rfl
@[simp] theorem Group.setInvx_phaseCount : (g.setInvx m).phaseCount = g.phaseCount := rfl
@[simp] theorem Group.setInvx_phaseOn : (g.setInvx m).phaseOn = g.phaseOn := rfl
@[simp] theorem Group.setInvx_oplog : (g.setInvx m).oplog = g.oplog := rfl
@[simp] theorem Group.setInvx_parked : (g.setInvx m).parked = g.parked := rfl
@[simp] theorem Group.setInvx_rtags : (g.setInvx m).rtags = g.rtags := rfl
@[simp] theorem Group.setInvx_rwPeers : (g.setInvx m).rwPeers = g.rwPeers := rfl
@[simp] theorem Group.setInvx_rwErrs : (g.setInvx m).rwErrs = g.rwErrs := rfl
@[simp] theorem Group.setInvx_cairnSeen : (g.setInvx m).cairnSeen = g.cairnSeen := rfl
@[simp] theorem Group.setInvx_stopReq : (g.setInvx m).stopReq = g.stopReq := rfl
@[simp] theorem Group.setInvx_stopped : (g.setInvx m).stopped = g.stopped := rfl
@[simp] theorem Group.setInvx_bkstop : (g.setInvx m).bkstop = g.bkstop := rfl
@[simp] theorem Group.setInvx_frz : (g.setInvx m).frz = g.frz := rfl
@[simp] theorem Group.setInvx_dying : (g.setInvx m).dying = g.dying := rfl
@[simp] theorem Group.setInvx_stepSlot : (g.setInvx m).stepSlot = g.stepSlot := rfl
end

/-! ### A group: reads of the register just written, and of the others -/

section
variable (g : Group)

theorem Group.vAt_setV_same (r : Nat) (m : Lanes) (f : Nat → Word) {l : Nat} (h : l < 48) :
    (g.setV r m f).vAt r l = if laneIn m l then f l else g.vAt r l := by
  simp [Group.vAt, Group.setV, List.getElem?_map, List.getElem?_range h]
theorem Group.vAt_setV_ne {r q : Nat} (m : Lanes) (f : Nat → Word) (l : Nat) (h : q ≠ r) :
    (g.setV r m f).vAt q l = g.vAt q l := by
  simp [Group.vAt, Group.setV, mapGet_mapSet_ne _ _ h]
@[simp] theorem Group.sAt_setS (r : Nat) (x : DWord) : (g.setS r x).sAt r = x := mapGet_mapSet_same _ _ _
theorem Group.sAt_setS_ne {r q : Nat} (x : DWord) (h : q ≠ r) : (g.setS r x).sAt q = g.sAt q := mapGet_mapSet_ne _ _ h
@[simp] theorem Group.pAt_setP (r : Nat) (m x : Lanes) : (g.setP r m x).pAt r = (g.pAt r &&& ~~~m) ||| (x &&& m) :=
  mapGet_mapSet_same _ _ _
theorem Group.pAt_setP_ne {r q : Nat} (m x : Lanes) (h : q ≠ r) : (g.setP r m x).pAt q = g.pAt q := mapGet_mapSet_ne _ _ h
@[simp] theorem Group.xAt_setX (r : Nat) (x : BitVec 16) : (g.setX r x).xAt r = x := mapGet_mapSet_same _ _ _
theorem Group.xAt_setX_ne {r q : Nat} (x : BitVec 16) (h : q ≠ r) : (g.setX r x).xAt q = g.xAt q := mapGet_mapSet_ne _ _ h
@[simp] theorem Group.dAt_setD (r : Nat) (x : BitVec 128) : (g.setD r x).dAt r = x := mapGet_mapSet_same _ _ _
theorem Group.dAt_setD_ne {r q : Nat} (x : BitVec 128) (h : q ≠ r) : (g.setD r x).dAt q = g.dAt q := mapGet_mapSet_ne _ _ h
/-! Reads of a register file look at that file alone. -/
@[simp] theorem Group.vAt_setSplit (i : Nat) (p : Split) (r l : Nat) : (g.setSplit i p).vAt r l = g.vAt r l := rfl
@[simp] theorem Group.sAt_setSplit (i : Nat) (p : Split) (r : Nat) : (g.setSplit i p).sAt r = g.sAt r := rfl
@[simp] theorem Group.pAt_setSplit (i : Nat) (p : Split) (r : Nat) : (g.setSplit i p).pAt r = g.pAt r := rfl
@[simp] theorem Group.xAt_setSplit (i : Nat) (p : Split) (r : Nat) : (g.setSplit i p).xAt r = g.xAt r := rfl
@[simp] theorem Group.dAt_setSplit (i : Nat) (p : Split) (r : Nat) : (g.setSplit i p).dAt r = g.dAt r := rfl
@[simp] theorem Group.vAt_setSat (m : Lanes) (r l : Nat) : (g.setSat m).vAt r l = g.vAt r l := rfl
@[simp] theorem Group.vAt_setS (q : Nat) (x : DWord) (r l : Nat) : (g.setS q x).vAt r l = g.vAt r l := rfl
@[simp] theorem Group.sAt_setV (q : Nat) (m : Lanes) (f : Nat → Word) (r : Nat) : (g.setV q m f).sAt r = g.sAt r := rfl
@[simp] theorem Group.pAt_setV (q : Nat) (m : Lanes) (f : Nat → Word) (r : Nat) : (g.setV q m f).pAt r = g.pAt r := rfl
end

/-! ### What an update of the selected group leaves -/

section
variable (s : State) (x : Group)

theorem State.setGroup_rest : { s.setGroup x with cores := s.cores } = s := rfl
theorem State.setGroup_cores {k : Nat} (h : k ≠ s.sel.core) : (s.setGroup x).coreAt k = s.coreAt k :=
  State.coreAt_setGroupAt_ne s _ x h
theorem State.setGroup_core : { (s.setGroup x).core with groups := s.core.groups } = s.core := by
  rw [State.core_setGroup]
theorem State.setGroup_groups {g : Nat} (h : g ≠ s.sel.grp) :
    (s.setGroup x).groupAt s.sel.core g = s.groupAt s.sel.core g := State.groupAt_setGroupAt_ne s _ x h
@[simp] theorem State.setGroup_block (h : x.blk = s.group.blk) : (s.setGroup x).block = s.block := by
  have e : (s.setGroup x).coreAt s.sel.core = { s.core with groups := mapSet s.core.groups s.sel.grp x } :=
    State.core_setGroup s x
  simp only [State.block, State.blockAt, State.setGroup_sel, State.group_setGroup, h, e]
  rfl
end

/-! ### A split that leaves its instruction -/

section
variable (p : Split) (pc : BitVec 15)

@[simp] theorem Split.resumed_mask : (p.resumed pc).mask = p.mask := rfl
@[simp] theorem Split.resumed_exec : (p.resumed pc).exec = p.exec := rfl
@[simp] theorem Split.resumed_pri : (p.resumed pc).pri = p.pri := rfl
@[simp] theorem Split.resumed_yld : (p.resumed pc).yld = p.yld := rfl
@[simp] theorem Split.resumed_ypri : (p.resumed pc).ypri = p.ypri := rfl
@[simp] theorem Split.resumed_cre : (p.resumed pc).cre = p.cre := rfl
@[simp] theorem Split.resumed_passed : (p.resumed pc).passed = p.passed := rfl
@[simp] theorem Split.resumed_starved : (p.resumed pc).starved = p.starved := rfl
@[simp] theorem Split.resumed_sync : (p.resumed pc).sync = p.sync := rfl
@[simp] theorem Split.resumed_held : (p.resumed pc).held = p.held := rfl
@[simp] theorem Split.resumed_pc : (p.resumed pc).pc = pc := rfl
@[simp] theorem Split.resumed_st : (p.resumed pc).st = .ready := rfl
@[simp] theorem Split.resumed_wait : (p.resumed pc).wait = none := rfl
@[simp] theorem Split.resumed_search : (p.resumed pc).search = none := rfl
end

end Sys2Proof.Machine
end

