-- ==== Sys2Proof/Laws/Memory.lean ====
section
/-!
SUPPORT. The laws of the byte store: a read after a write, and that every operation over memory keeps the canonical
form (addresses strictly rising, no entry equal to what an unlisted byte reads as).
-/

namespace Sys2Proof.Machine

theorem Memory.wf_iff (m : List Host.Cell) :
    Memory.wf m = true ↔ mapSortedFrom 0 m = true ∧ ∀ c ∈ m, c.2 ≠ blankByte := by
  simp [Memory.wf, List.all_eq_true]

/-! ### One byte -/

theorem memGet_memSet_ne (m : List Host.Cell) {a b : Nat} (x : Byte) (h : b ≠ a) : memGet (memSet m a x) b = memGet m b := by
  unfold memSet memGet
  split
  · exact mapGet_mapDel_ne m h
  · exact mapGet_mapSet_ne m x h

theorem memGet_memSet_same {m : List Host.Cell} (a : Nat) (x : Byte) (h : Memory.wf m = true) :
    memGet (memSet m a x) a = x := by
  unfold memSet memGet
  split
  · rename_i hx
    exact (mapGet_mapDel_same a ((Memory.wf_iff m).1 h).1).trans hx.symm
  · exact mapGet_mapSet_same m a x

theorem memSet_wf {m : List Host.Cell} (a : Nat) (x : Byte) (h : Memory.wf m = true) : Memory.wf (memSet m a x) = true := by
  obtain ⟨hs, hb⟩ := (Memory.wf_iff m).1 h
  refine (Memory.wf_iff _).2 ?_
  unfold memSet
  split
  · exact ⟨mapSortedFrom_mapDel a hs, fun c hc => hb c (mem_mapDel hc)⟩
  · rename_i hx
    exact ⟨mapSortedFrom_mapSet x hs (Nat.zero_le a), fun c hc =>
      (mem_mapSet hc).elim (fun e => e ▸ hx) (fun e => hb c e)⟩

/-! ### Lists of bytes -/

theorem memSetAll_wf {m : List Host.Cell} (bs : List (Nat × Byte)) (h : Memory.wf m = true) :
    Memory.wf (memSetAll m bs) = true := by
  induction bs generalizing m with
  | nil => exact h
  | cons c bs ih => exact ih (memSet_wf c.1 c.2 h)

theorem memSetNat_wf {m : List Host.Cell} (a n v : Nat) (h : Memory.wf m = true) : Memory.wf (memSetNat m a n v) = true :=
  memSetAll_wf _ h

/-- Bytes that are not written keep their value. -/
theorem memGet_memSetAll_notin (m : List Host.Cell) (bs : List (Nat × Byte)) {a : Nat} (h : ∀ c ∈ bs, c.1 ≠ a) :
    memGet (memSetAll m bs) a = memGet m a := by
  induction bs generalizing m with
  | nil => rfl
  | cons c bs ih =>
    rw [memSetAll, ih _ fun e he => h e (List.mem_cons_of_mem _ he)]
    exact memGet_memSet_ne m c.2 (h c List.mem_cons_self).symm

theorem atAddr_addresses {a : Nat} {bs : List Byte} {c : Nat × Byte} (h : c ∈ atAddr a bs) : a ≤ c.1 ∧ c.1 < a + bs.length := by
  induction bs generalizing a with
  | nil => simp [atAddr] at h
  | cons b bs ih =>
    rcases List.mem_cons.1 h with rfl | h
    · simp
    · have := ih h
      simp only [List.length_cons]
      omega

@[simp] theorem leBytes_length (n v : Nat) : (leBytes n v).length = n := by
  induction n generalizing v with
  | zero => rfl
  | succ n ih => simp [leBytes, ih]

/-- A store of a number leaves every byte outside its own alone. -/
theorem memGet_memSetNat_outside (m : List Host.Cell) (a n v : Nat) {b : Nat} (h : b < a ∨ a + n ≤ b) :
    memGet (memSetNat m a n v) b = memGet m b := by
  refine memGet_memSetAll_notin _ _ fun c hc => ?_
  have := atAddr_addresses hc
  simp only [leBytes_length] at this
  omega

/-- The bytes just written read back. -/
theorem memBytes_memSetAll (m : List Host.Cell) (a : Nat) (bs : List Byte) (h : Memory.wf m = true) :
    memBytes (memSetAll m (atAddr a bs)) a bs.length = bs := by
  induction bs generalizing m a with
  | nil => rfl
  | cons b bs ih =>
    simp only [atAddr, memSetAll, List.length_cons, memBytes]
    congr 1
    · rw [memGet_memSetAll_notin _ _ fun c hc => by have := atAddr_addresses hc; omega]
      exact memGet_memSet_same a b h
    · exact ih _ _ (memSet_wf a b h)

/-- Little-endian bytes of a number that fits are the number. -/
theorem leNat_leBytes (n v : Nat) : leNat (leBytes n v) = v % 256 ^ n := by
  induction n generalizing v with
  | zero => simp [leBytes, leNat, Nat.mod_one]
  | succ n ih =>
    simp only [leBytes, leNat, ih, BitVec.toNat_ofNat]
    have := Nat.mod_mul (a := 256) (b := 256 ^ n) (x := v)
    have e : 256 ^ (n + 1) = 256 * 256 ^ n := by ring
    rw [e, this]

/-- A number just stored reads back, cut to its bytes. -/
theorem memNat_memSetNat (m : List Host.Cell) (a n v : Nat) (h : Memory.wf m = true) :
    memNat (memSetNat m a n v) a n = v % 256 ^ n := by
  have := memBytes_memSetAll m a (leBytes n v) h
  rw [leBytes_length] at this
  rw [memNat, memSetNat, this, leNat_leBytes]

/-! ### The operations over device memory keep the canonical form -/

theorem spillOut_wf {s : State} (c : LineCopy) (k : Nat) (h : Memory.wf s.mem = true) : Memory.wf (spillOut c k s).mem = true :=
  memSetAll_wf _ (memSetNat_wf _ _ _ h)

theorem freeSlot_wf {s : State} (k : Option Nat) (h : Memory.wf s.mem = true) : Memory.wf (freeSlot k s).mem = true := by
  cases k with
  | none => exact h
  | some k => exact memSetNat_wf _ _ _ h

theorem dropCopies_wf {s : State} (p : LineCopy → Bool) (h : Memory.wf s.mem = true) :
    Memory.wf (dropCopies p s).mem = true := by
  have : ∀ (l : List LineCopy) (t : State), Memory.wf t.mem = true →
      Memory.wf (l.foldl (fun t c => freeSlot c.spilled t) t).mem = true := by
    intro l
    induction l with
    | nil => exact fun _ h => h
    | cons c l ih => exact fun t ht => ih _ (freeSlot_wf c.spilled ht)
  exact this _ s h

theorem l2Leave_wf {s : State} (e : L2Line) (h : Memory.wf s.mem = true) : Memory.wf (l2Leave e s).mem = true := by
  unfold l2Leave
  dsimp only
  split
  · exact h
  · split
    · exact spillOut_wf _ _ h
    · exact h

theorem l2Take_wf {s : State} (e : L2Line) (h : Memory.wf s.mem = true) : Memory.wf (l2Take e s).mem = true := by
  unfold l2Take
  dsimp only
  repeat' first | exact h | exact l2Leave_wf _ h | split

theorem settle_wf {s : State} (l : Nat) (h : Memory.wf s.mem = true) : Memory.wf (settle l s).mem = true := by
  unfold settle
  split
  · exact h
  · exact l2Take_wf _ (dropCopies_wf _ (memSetAll_wf _ h))

theorem countCorrected_mem (as : List Nat) (s : State) : (countCorrected as s).mem = s.mem := by
  unfold countCorrected
  generalize as.filter _ = l
  induction l generalizing s with
  | nil => rfl
  | cons a l ih => exact ih _

theorem noteLine_wf {s : State} (v l : Nat) (need : BitVec 4) (cls : Nat) (h : Memory.wf s.mem = true) :
    Memory.wf (noteLine v l need cls s).mem = true := by
  unfold noteLine
  split
  · split
    · exact l2Take_wf _ h
    · exact h
  · exact l2Take_wf _ (by rw [countCorrected_mem]; exact h)

theorem unspill_wf {s : State} (l v : Nat) (h : Memory.wf s.mem = true) : Memory.wf (unspill l v s).mem = true := by
  unfold unspill
  split
  · exact h
  · exact freeSlot_wf _ h

theorem ownCopy_wf {s : State} (v l cls : Nat) (h : Memory.wf s.mem = true) :
    Memory.wf (ownCopy v l cls s).2.mem = true := by
  unfold ownCopy
  split
  · exact unspill_wf _ _ h
  · exact noteLine_wf _ _ _ _ h

theorem settleRange_wf {s : State} (pa n : Nat) (h : Memory.wf s.mem = true) : Memory.wf (settleRange pa n s).mem = true := by
  unfold settleRange
  split
  · exact h
  · generalize linesOf pa n = ls
    induction ls generalizing s with
    | nil => exact h
    | cons l ls ih => exact ih (settle_wf l h)

theorem noteReads_wf {s : State} (v pa n : Nat) (h : Memory.wf s.mem = true) :
    Memory.wf (noteReads v pa n s).mem = true := by
  unfold noteReads
  split
  · exact h
  · generalize linesOf pa n = ls
    induction ls generalizing s with
    | nil => exact h
    | cons l ls ih => exact ih (noteLine_wf v l _ _ (settle_wf l h))

theorem readView_wf {s : State} (v pa n : Nat) (h : Memory.wf s.mem = true) : Memory.wf (readView v pa n s).2.mem = true :=
  noteReads_wf v pa n h

theorem writeLine_wf {s : State} (v l : Nat) (bs : List (Nat × Byte)) (cls : Nat) (h : Memory.wf s.mem = true) :
    Memory.wf (writeLine v l bs cls s).mem = true := by
  have hs := settle_wf l h
  unfold writeLine
  dsimp only
  split
  · exact l2Take_wf _ (memSetAll_wf _ hs)
  · exact l2Take_wf _ (ownCopy_wf v l cls hs)

theorem writeView_wf {s : State} (v : Nat) (bs : List (Nat × Byte)) (h : Memory.wf s.mem = true) :
    Memory.wf (writeView v bs s).mem = true := by
  unfold writeView
  generalize (bs.map fun c => lineOf c.1).dedup = ls
  induction ls generalizing s with
  | nil => exact h
  | cons l ls ih => exact ih (writeLine_wf v l _ _ h)

theorem writeNat_wf {s : State} (v pa n x : Nat) (h : Memory.wf s.mem = true) : Memory.wf (writeNat v pa n x s).mem = true :=
  writeView_wf v _ h

/-- A store of a line at VID 0 that no committed copy waits on writes its bytes in place, then the line is the most
recently used of its set (R72, R77). -/
theorem writeLine_root {s : State} (l : Nat) (bs : List (Nat × Byte)) (cls : Nat) (h : s.newestCommitted l = none) :
    writeLine 0 l bs cls s =
      l2Take { (s.l2At l 0).getD { line := l } with
          dirty := ((s.l2At l 0).getD { line := l }).dirty ||| dirtyOf bs, cls }
        { s with mem := memSetAll s.mem bs } := by
  simp [writeLine, settle, h]

/-! ### What a version sees depends on memory, the copies and the version table alone -/

theorem lineage_congr {s t : State} (h : t.vers = s.vers) (n v : Nat) : t.lineage n v = s.lineage n v := by
  induction n generalizing v with
  | zero => rfl
  | succ n ih =>
    unfold State.lineage State.ver
    rw [h, ih]

/-- With no table step under way every die sees the table as it stands. -/
theorem seenAt_self {s : State} (h : s.vers.lag = none) (l : Nat) : s.seenAt l = s := by
  unfold State.seenAt
  rw [h]

theorem seenAt_vers {s t : State} (h : t.vers = s.vers) (l : Nat) : (t.seenAt l).vers = (s.seenAt l).vers := by
  unfold State.seenAt
  rw [h]
  split
  · exact h
  · split
    · rfl
    · exact h

theorem viewByte_congr {s t : State} (hm : t.mem = s.mem) (hc : t.copies = s.copies) (hv : t.vers = s.vers) (v a : Nat) :
    t.viewByte v a = s.viewByte v a := by
  simp only [State.viewByte, State.seenCopy, State.ancestors, State.copyOf, lineage_congr (seenAt_vers hv _), hm, hc]

theorem viewByte_setGroup (s : State) (x : Group) (v a : Nat) : (s.setGroup x).viewByte v a = s.viewByte v a :=
  viewByte_congr (State.setGroup_mem s x) (State.setGroup_copies s x) (State.setGroup_vers s x) v a

theorem viewByte_setGrid (s : State) (g : Nat) (x : Grid) (v a : Nat) : (s.setGrid g x).viewByte v a = s.viewByte v a :=
  viewByte_congr (State.setGrid_mem s g x) (State.setGrid_copies s g x) (State.setGrid_vers s g x) v a

theorem mirrorBytes_wf {s : State} (pa : Nat) (bs : List Byte) (h : Memory.wf s.mem = true) :
    Memory.wf (mirrorBytes pa bs s).mem = true := by
  unfold mirrorBytes
  simp only
  generalize (s.copies.filter fun c => decide (c.line = lineOf pa)) = l
  generalize s.mem = m at h ⊢
  induction l generalizing m with
  | nil => exact h
  | cons c l ih =>
    refine ih _ ?_
    dsimp only
    split
    · exact memSetAll_wf _ h
    · exact h

/-- The empty store is canonical. -/
theorem reset_mem_wf : Memory.wf State.reset.mem = true := rfl

end Sys2Proof.Machine
end

