-- ==== Sys2Proof/Laws/Words.lean ====
section
/-!
SUPPORT. What the operations shared by every instruction word can do: the issue checks of R40, the step past a word
(R34), a trap (R311), a return from one (R315) and a fault (R318).
-/

namespace Sys2Proof.Machine

/-! ### The bound check (R27, R28) -/

/-- The check passes exactly when every register of every run lies below its limit. -/
theorem boundFail_none_iff (budget : Nat) (refs : List RegRef) :
    boundFail budget refs = none ↔ ∀ r ∈ refs, r.first + r.run ≤ if r.uni then 128 else budget := by
  induction refs with
  | nil => simp [boundFail]
  | cons r rs ih =>
    unfold boundFail
    rw [List.forall_mem_cons]
    by_cases h : r.first + r.run > (if r.uni = true then 128 else budget)
    · simp only [h, if_true, reduceCtorEq, false_iff, not_and]
      omega
    · simp only [h, if_false, ih]
      exact ⟨fun k => ⟨by omega, k⟩, fun k => k.2⟩

/-! ### Issue -/

/-- A word that can issue always answers a next state. -/
theorem runWord_next {s : State} (avail priv : Bool) (refs : List RegRef) (eff : State → State) (h : s.canIssue = true) :
    runWord avail priv refs eff s = .next (checked avail priv refs eff s) := by
  simp [runWord, h]

/-- A word is never refused. -/
theorem runWord_not_refused (avail priv : Bool) (refs : List RegRef) (eff : State → State) (s : State) (q : Refusal) :
    runWord avail priv refs eff s ≠ .refused q := by
  unfold runWord
  split <;> simp

/-- With every check passed, the word's own effect is all that happens. -/
theorem checked_ok {s : State} {refs : List RegRef} (eff : State → State) (h : boundFail s.group.budget refs = none) :
    checked true true refs eff s = eff s := by
  simp [checked, h]

/-- What the checks can do: refuse the word in one of three ways, or let it act. -/
theorem checked_cases (avail priv : Bool) (refs : List RegRef) (eff : State → State) (s : State) :
    (avail = false ∧ checked avail priv refs eff s = illegal s) ∨
    (avail = true ∧ priv = false ∧ checked avail priv refs eff s = privilegeViolation s) ∨
    (∃ d, boundFail s.group.budget refs = some d ∧ checked avail priv refs eff s = takeTrap 3 d s.split.pc s) ∨
    (boundFail s.group.budget refs = none ∧ checked avail priv refs eff s = eff s) := by
  cases avail <;> cases priv <;> simp [checked]
  cases boundFail s.group.budget refs <;> simp

theorem plainWord_next {s : State} {refs : List RegRef} (n : Nat) (eff : State → State) (h : s.canIssue = true)
    (hb : boundFail s.group.budget refs = none) : plainWord refs n eff s = .next (advance n (eff s)) := by
  rw [plainWord, runWord_next _ _ _ _ h, checked_ok _ hb]

/-- A step past an instruction that is not the last of its segment. -/
theorem advance_ok {s : State} (n : Nat) (h : s.split.pc.toNat % 1024 + n ≤ 1023) :
    advance n s = s.setSplit (s.split.resumed (s.split.pc + BitVec.ofNat 15 n)) := by
  have : ¬ s.split.pc.toNat % 1024 + n > 1023 := by omega
  simp [advance, this]

/-- A step past the last word of a segment is fault 0x12. -/
theorem advance_past {s : State} (n : Nat) (h : s.split.pc.toNat % 1024 + n > 1023) : advance n s = illegal s := by
  simp [advance, h]

/-- A plain word whose effect is an update of the selected group that leaves its splits: the group is updated and the
split stands past the word, nothing else. -/
theorem plainWord_group {s : State} {refs : List RegRef} {n : Nat} {eff : State → State} {x : Group}
    (h : s.canIssue = true) (hb : boundFail s.group.budget refs = none) (hp : s.split.pc.toNat % 1024 + n ≤ 1023)
    (he : eff s = s.setGroup x) (hx : x.splits = s.group.splits) :
    plainWord refs n eff s =
      .next (s.setGroup (x.setSplit s.sel.slot (s.split.resumed (s.split.pc + BitVec.ofNat 15 n)))) := by
  have hs : (s.setGroup x).split = s.split := by
    rw [State.split_setGroup]
    simp only [Group.split, hx]
    rfl
  rw [plainWord_next n eff h hb, he, advance_ok n (by rw [hs]; exact hp), hs, State.setSplit, State.group_setGroup,
    State.setGroup_setGroup, State.setGroup_sel]

/-! ### Traps and faults -/

/-- What taking a trap can do: one of three faults, or entry to the handler. -/
theorem takeTrap_cases (code : Nat) (detail : DWord) (pc : BitVec 15) (s : State) :
    (s.group.h = true ∧ takeTrap code detail pc s = raiseFault 0x17 (BitVec.ofNat 64 code) s) ∨
    (s.group.h = false ∧ s.group.trapvec.getLsbD 15 = false ∧
      takeTrap code detail pc s = raiseFault 0x16 (BitVec.ofNat 64 code) s) ∨
    (s.group.h = false ∧ s.group.trapvec.getLsbD 15 = true ∧
      s.landedAt s.sel.core s.group.gid (s.group.trapvec.toNat % 32) = false ∧
      takeTrap code detail pc s = raiseFault 0x16 (BitVec.ofNat 64 (code + 32)) s) ∨
    (s.group.h = false ∧ s.group.trapvec.getLsbD 15 = true ∧
      s.landedAt s.sel.core s.group.gid (s.group.trapvec.toNat % 32) = true ∧
      takeTrap code detail pc s = s.setGroup
        ((pushTrapRecord { s.group with frame := { pc, mask := s.split.mask, exec := s.split.exec }, h := true }
            code s.sel.slot pc.toNat detail).setSplit s.sel.slot
          { s.split.resumed (BitVec.ofNat 15 (1024 * (s.group.trapvec.toNat % 32) + s.group.trapvec.toNat / 32 % 1024))
              with exec := s.split.mask })) := by
  cases h : s.group.h
  · cases ht : s.group.trapvec.getLsbD 15
    · exact .inr (.inl ⟨rfl, rfl, by
        simp only [takeTrap, h, ht, Bool.false_eq_true, if_false, Bool.not_false, if_true]⟩)
    · cases hl : s.landedAt s.sel.core s.group.gid (s.group.trapvec.toNat % 32)
      · exact .inr (.inr (.inl ⟨rfl, rfl, rfl, by
          simp only [takeTrap, h, ht, hl, Bool.false_eq_true, if_false, Bool.not_false, Bool.not_true, if_true]⟩))
      · exact .inr (.inr (.inr ⟨rfl, rfl, rfl, by
          simp only [takeTrap, h, ht, hl, Bool.false_eq_true, if_false, Bool.not_true]⟩))
  · exact .inl ⟨rfl, by simp only [takeTrap, h, if_true]⟩

/-- What a return can do: fault 0x12, or go back to the frame, with SKIP past the trapped word. -/
theorem returnFromTrap_cases (skip : Bool) (s : State) :
    returnFromTrap skip s = illegal s ∨
    (s.group.h = true ∧ s.split.mask = s.group.frame.mask ∧
      returnFromTrap skip s = s.setGroup ({ s.group with h := false }.setSplit s.sel.slot
        { s.split.resumed (s.group.frame.pc + BitVec.ofNat 15
            (if skip then wordLength (s.codeAt s.sel.core s.group.gid s.group.frame.pc.toNat) else 0)) with
          exec := s.group.frame.exec &&& s.split.mask })) := by
  by_cases h : s.group.h = true
  · by_cases hm : s.split.mask = s.group.frame.mask
    · exact .inr ⟨h, hm, by simp [returnFromTrap, h, hm]⟩
    · exact .inl (by simp [returnFromTrap, h, hm])
  · exact .inl (by simp [returnFromTrap, h])

/-- A fault changes the selected split and, at most, its grid's record. -/
theorem raiseFault_mem (code : Nat) (detail : DWord) (s : State) : (raiseFault code detail s).mem = s.mem := by
  simp only [raiseFault, raiseFaultWith, State.setSplit_mem, reportFault]
  split
  · rfl
  · split <;> rfl

/-- A grid's first fault is the one that is recorded (R319). -/
theorem reportFault_first {gid : Nat} (f : FaultRec) {s : State} (hs : (s.gridAt gid).st ≠ .ended)
    (hq : (s.gridAt gid).squashed = false) (hf : (s.gridAt gid).fault = none) :
    ((reportFault gid f s).gridAt gid).fault = some f := by
  simp [reportFault, hs, hq, hf]

/-- A later fault is counted, and the record stays (R319). -/
theorem reportFault_later {gid : Nat} (f : FaultRec) {e : FaultRec} {s : State} (hs : (s.gridAt gid).st ≠ .ended)
    (hq : (s.gridAt gid).squashed = false) (hf : (s.gridAt gid).fault = some e) :
    (reportFault gid f s).gridAt gid = { s.gridAt gid with nfault := min 255 ((s.gridAt gid).nfault + 1) } := by
  simp [reportFault, hs, hq, hf]

end Sys2Proof.Machine
end

