-- ==== Sys2Proof/Laws/Shapes.lean ====
section
/-!
SUPPORT. The shapes of the vocabulary, once for each shared operation: what an update of the selected group, a step past a
word, a jump, a fault and a trap give, in the words the statements use.
-/

namespace Sys2Proof.Statements
open Sys2Proof.Machine

theorem fits_none {g : Group} {refs} (h : Fits g refs) : boundFail g.budget refs = none := (boundFail_none_iff _ _).2 h

theorem onlyGroup_setGroup (s : State) (x : Group) : OnlyGroup s (s.setGroup x) :=
  ⟨rfl, fun _ h => State.setGroup_cores s x h, State.setGroup_core s x, fun _ h => State.setGroup_groups s x h, viewByte_setGroup s x⟩

theorem splitIs_setGroup (s : State) (x : Group) (p : Split) (hs : x.splits = s.group.splits) :
   SplitIs s (s.setGroup (x.setSplit s.sel.slot p)) p := by
  refine ⟨by simp, ?_⟩
  intro i hi; simp [Group.split_setSplit_ne _ _ hi]; simp [Group.split, hs]

theorem steppedPast_setGroup (s : State) (x : Group) (n : Nat) (hs : x.splits = s.group.splits) :
   SteppedPast s (s.setGroup (x.setSplit s.sel.slot (s.split.resumed (s.split.pc + BitVec.ofNat 15 n)))) n :=
  ⟨onlyGroup_setGroup _ _, splitIs_setGroup s x _ hs⟩

theorem run_group {refs n eff} {s : State} (hc : CanRun s n refs) (x : Group) (he : eff s = s.setGroup x) (hx : x.splits = s.group.splits) :
  plainWord refs n eff s = .next (s.setGroup (x.setSplit s.sel.slot (s.split.resumed (s.split.pc + BitVec.ofNat 15 n)))) :=
  plainWord_group hc.1 (fits_none hc.2.2) hc.2.1 he hx

theorem laneResult (s : State) (n d m f) :
  LaneResult s (s.setGroup ((s.group.setV d m f).setSplit s.sel.slot (s.split.resumed (s.split.pc + BitVec.ofNat 15 n)))) n d m f := by
  refine ⟨steppedPast_setGroup s _ _ rfl, ?_, ?_, ?_⟩
  · simp [OnlyLanes,  Group.setV, Group.setSplit]
  · intro l hl
    rw [State.group_setGroup, Group.vAt_setSplit]
    exact Group.vAt_setV_same _ _ _ _ hl
  · intro r l hr
    rw [State.group_setGroup, Group.vAt_setSplit]
    exact Group.vAt_setV_ne _ _ _ _ hr

theorem uniResult (s : State) (n d x) :
  UniResult s (s.setGroup ((s.group.setS d x).setSplit s.sel.slot (s.split.resumed (s.split.pc + BitVec.ofNat 15 n)))) n d x := by
  refine ⟨steppedPast_setGroup s _ _ rfl, ?_, ?_, ?_⟩
  · simp [OnlyUni,  Group.setS, Group.setSplit]
  · rw [State.group_setGroup, Group.sAt_setSplit]; simp
  · intro r hr
    rw [State.group_setGroup, Group.sAt_setSplit]
    exact Group.sAt_setS_ne _ _ hr

theorem faultedAt (s : State) (lease code detail) :
    FaultedAt lease s (raiseFaultWith lease 0 code detail s) code detail := by
  have key : ∀ f gid, (reportFault gid f s) = s.setGrid gid (afterFault (s.gridAt gid) f) ∨ (reportFault gid f s = s ∧ afterFault (s.gridAt gid) f = s.gridAt gid) := by
    intro f gid
    unfold reportFault afterFault
    by_cases h : (s.gridAt gid).st = .ended ∨ (s.gridAt gid).squashed = true
    · right; rcases h with h | h <;> simp [h]
    · left
      have h1 : ((s.gridAt gid).st == .ended || (s.gridAt gid).squashed) = false := by
        simp only [not_or] at h; simp [h.1]; simpa using h.2
      simp only [h1, Bool.false_eq_true, if_false, h]
      cases (s.gridAt gid).fault <;> rfl
  have kg := key { code, detail, blk := s.block.blk, coreN := s.coreN s.sel.core, grpin := s.group.grpin, slot := s.sel.slot, pc := s.split.pc, lease } s.group.gid
  unfold raiseFaultWith
  rcases kg with kg | ⟨kg, kg2⟩
  · simp only [kg]
    refine ⟨rfl, ?_, ?_, ?_, fun v a => ?_, ?_, ?_, ?_, ?_⟩
    · intro k hk
      exact State.setGroup_cores (s.setGrid _ _) _ hk
    · exact State.setGroup_core (s.setGrid _ _) _
    · intro g hg
      exact State.setGroup_groups (s.setGrid _ _) _ hg
    · exact (viewByte_setGroup (s.setGrid _ _) _ v a).trans (viewByte_setGrid s _ _ v a)
    · intro g hg
      exact State.gridAt_setGrid_ne s _ hg
    · exact State.gridAt_setGrid s _ _
    · exact splitIs_setGroup (s.setGrid _ _) _ _ rfl
    · rw [State.group_setSplit]; rfl
  · simp only [kg]
    refine ⟨rfl, ?_, ?_, ?_, fun v a => ?_, ?_, ?_, ?_, ?_⟩
    · intro k hk
      exact State.setGroup_cores (s) _ hk
    · exact State.setGroup_core (s) _
    · intro g hg
      exact State.setGroup_groups (s) _ hg
    · exact viewByte_setGroup s _ v a
    · intro g hg; rfl
    · exact kg2.symm
    · exact splitIs_setGroup s _ _ rfl
    · rw [State.group_setSplit]; rfl

theorem faulted (s : State) (code detail) : Faulted s (raiseFault code detail s) code detail := faultedAt s 0 code detail

theorem ill (s : State) : Illegal s (illegal s) := faulted s _ _

theorem tookTrap (s : State) (code detail saved) (hc : code < 32) (h : HandlerReady s) : TookTrap s (takeTrap code detail saved s) code detail saved := by
  obtain ⟨h1, h2, h3⟩ := h
  rcases takeTrap_cases code detail saved s with c | c | c | ⟨-, -, -, c⟩
  · simp_all
  · simp_all
  · simp_all
  · rw [c]
    by_cases hl : s.group.q7.length ≤ 30
    · refine ⟨onlyGroup_setGroup _ _, ?_, ?_, ?_, splitIs_setGroup s _ _ ?_, ?_⟩
      · simp [pushTrapRecord, hl]
      · simp [pushTrapRecord, hl]
      · exact ⟨s.group.q7ovf, s.group.q7,
          by simp [pushTrapRecord, hl, recordWord, trapWord, Nat.mod_eq_of_lt hc, Nat.mod_eq_of_lt saved.isLt],
          fun _ => ⟨rfl, rfl, by simp [pushTrapRecord, hl]⟩⟩
      · simp [pushTrapRecord, hl]
      · simp [pushTrapRecord, hl, Group.setSplit]
    · refine ⟨onlyGroup_setGroup _ _, ?_, ?_, ?_, splitIs_setGroup s _ _ ?_, ?_⟩
      · simp [pushTrapRecord, hl]
      · simp [pushTrapRecord, hl]
      · exact ⟨true, (makeRoom 16 (q7Records s.group.q7cut s.group.q7)).1.flatten,
          by simp [pushTrapRecord, hl, recordWord, trapWord, Nat.mod_eq_of_lt hc, Nat.mod_eq_of_lt saved.isLt],
          fun h => absurd h hl⟩
      · simp [pushTrapRecord, hl]
      · simp [pushTrapRecord, hl, Group.setSplit]

theorem nextSplit {s : State} {n} (h : s.split.pc.toNat % 1024 + n ≤ 1023) (t : State) (hs : t.split = s.split) :
  advance n t = t.setSplit (s.split.resumed (s.split.pc + BitVec.ofNat 15 n)) := by
  rw [advance_ok _ (by rw [hs]; exact h), hs]

theorem run_ok {refs eff} {s : State} {n} (hc : CanRun s n refs) : runWord true true refs eff s = .next (eff s) := by
  rw [runWord_next _ _ _ _ hc.1, checked_ok _ (fits_none hc.2.2)]

theorem passed {s : State} {n} (h : s.split.pc.toNat % 1024 + n ≤ 1023) : Passed s (advance n s) n := by
  rw [advance_ok n h, State.setSplit]
  exact ⟨steppedPast_setGroup s s.group n rfl, by simp [OnlySplits, Group.setSplit]⟩

theorem movedTo (s : State) (o : Nat) : MovedTo s (jumpTo o s) o := by
  rw [jumpTo, State.setSplit]
  exact ⟨onlyGroup_setGroup _ _, splitIs_setGroup s s.group _ rfl, by simp [OnlySplits, Group.setSplit]⟩

theorem branched (s : State) (off) : Branched s (takeBranch off s) off := by
  unfold takeBranch branchTarget
  have e : targetOf s off = ((s.split.pc.toNat % 1024 : Nat) : Int) + off.toInt := rfl
  constructor
  · intro h
    simp only [InSegment, e] at h
    simp only [h, and_self, if_true]
    exact movedTo s _
  · intro h
    simp only [InSegment, e] at h
    simp only [h, if_false]
    exact ill s
end Sys2Proof.Statements
end

