-- ==== Sys2Proof/Safety.lean ====
section
/-!
DEFINITION. What a safe run of the machine is: every step answers a next state, the memory stays in its
canonical form, and no grid has been ended by a fault (R318).
-/

namespace Sys2Proof.Safety

/-- The step goes on. -/
def goesOn (s : Machine.State) : Prop := ∃ t, Machine.step s = .next t

/-- No grid holds a fault (R318, R319). -/
def noFault (s : Machine.State) : Prop := ∀ g, (s.gridAt g).fault = none

/-- The byte store is canonical. -/
def memoryCanonical (s : Machine.State) : Prop := Machine.Memory.wf s.mem = true

/-- A safe state. -/
def safe (s : Machine.State) : Prop := memoryCanonical s ∧ noFault s

/-- The machine runs `n` steps from `s`, every one answering a next state. -/
def runsFor : Nat → Machine.State → Prop
  | 0, _ => True
  | n + 1, s => ∃ t, Machine.step s = .next t ∧ runsFor n t

end Sys2Proof.Safety
end

