-- ==== Sys2Proof/Tests/Slice0.lean ====
section
/-!
SUPPORT. Tests of this model, with results taken from the spec's own examples and tables, and for every statement a state
and operands that meet its hypotheses.
-/

namespace Sys2Proof.Tests

open Sys2Proof Sys2Proof.Machine Sys2Proof.Statements

/-! One theorem after another, so that the file needs the memory of one. -/
set_option Elab.async false

/-! ### Small states -/

/-- A split at word `pc` with lanes `m` in EXEC. -/
def split0 (pc : BitVec 15) (m : Lanes) : Split := { st := .ready, pc, mask := allLanes 0, exec := m }
/-- A group of one split. -/
def group0 (p : Split) : Group := { live := true, gid := 1, splits := [(0, p)], nextCre := 1 }
def block0 : Block := { live := true, gid := 1, groups := [0], sharedSize := 4096, slots := 1, tileBytes := 1024 }
def core0 (g : Group) : Core := { released := true, groups := [(0, g)], blocks := [(0, block0)], landed := [(1, 1)] }
def grid0 : Grid := { st := .running, segmask := 1, nblk := 1, ranges := [{ base := 0, len := 2 ^ 40, rw := true }] }
/-- One core with group `g`, selected. -/
def mach (g : Group) : State := { State.reset with cores := [(0, core0 g)], grids := [(1, grid0)], sel := { gid := 1 } }
/-- The same on an Oasis core of the South die. -/
def oasis (g : Group) : State :=
  { State.reset with cores := [(408, core0 g)], grids := [(1, grid0)], sel := { core := 408, die := 1, gid := 1 } }
/-- The last word but `n`, lanes 0 and 47 in EXEC. -/
def lastBut (n : Nat) : Split := split0 (BitVec.ofNat 15 (1023 - n)) 0x800000000001
def plain : Group := group0 (split0 5 (allLanes 0))

/-! ### Witnesses: lane words -/

theorem witness_lane_words : ∃ (s : State) (f : LR3), CanRun s 1 (f.refs s.group) ∧ s.split.pc = 1022 :=
  ⟨mach (group0 (lastBut 1)), { g := 0, d := 63, a := 1, b := 2, w := 0 }, by unfold CanRun Fits; decide⟩

theorem witness_unary_words : ∃ (s : State) (f : LR2), CanRun s 1 (f.refs s.group) ∧ s.group.budget = 64 ∧ f.d = 63 :=
  ⟨mach { group0 (lastBut 1) with budget := 64 }, { g := 0, d := 63, a := 1, w := 0 }, by unfold CanRun Fits; decide⟩

theorem witness_immediates : ∃ (s : State) (f : LImm) (h : LShift) (k : LLit),
    CanRun s 1 (f.refs s.group) ∧ CanRun s 1 (h.refs s.group) ∧ CanRun s 2 (k.refs s.group) :=
  ⟨mach (group0 (lastBut 2)), { g := 0, d := 63, a := 1, imm := 0x40 }, { g := 0, d := 3, a := 1, c := 31 },
    { g := 0, d := 0, lit := 7 }, by unfold CanRun Fits; decide⟩

theorem witness_special_words : ∃ (s : State) (f : LSpec) (h : LR2) (k : LR3),
    CanRun s 1 (f.refs s.group) ∧ CanRun s 1 [laneRef s.group 0 h.d.toNat] ∧ CanRun s 1 (rngRefs k s.group) :=
  ⟨mach { plain with budget := 64 }, { g := 0, d := 63, c := 10, w := 0 }, { g := 0, d := 63, a := 63, w := 1 },
    { g := 0, d := 60, a := 60, b := 62, w := 0 }, by unfold CanRun Fits; decide⟩

theorem witness_conversions : ∃ (s : State) (f : LCode), f.c = 3 ∧ f.c.toNat < 4 ∧ CanRun s 1 (f.refs s.group) :=
  ⟨mach plain, { g := 0, d := 3, a := 1, c := 3, w := 0 }, by unfold CanRun Fits; decide⟩

theorem witness_float_operands : ∃ x y z : Word, finite x ∧ finite y ∧ finite z ∧ x ≠ y :=
  ⟨0x7F7FFFFF, 1, 0x80000000, by unfold finite; decide⟩

theorem witness_float_special : (∃ x y : Word, nanPattern x ∨ nanPattern y) ∧ (∃ x : Word, finite x ∧ valueOf x < 0) ∧
    (∃ x : Word, finite x ∧ 128 ≤ valueOf x) ∧ ∃ x : Word, finite x ∧ valueOf x ≤ -150 := by
  refine ⟨⟨0x7F800001, 0, by decide⟩, ⟨0x80000001, by unfold finite; decide, ?_⟩,
    ⟨0x43000000, by unfold finite; decide, ?_⟩, 0xC3160000, by unfold finite; decide, ?_⟩ <;>
    unfold valueOf magnitude <;> decide +kernel

theorem witness_compares : ∃ (s : State) (f : LCmp) (h : LPset) (k : LPget) (p : LPred), CanRun s 1 (f.refs s.group) ∧ f.p = 1 ∧
    CanRun s 1 (h.refs s.group) ∧ CanRun s 1 (k.refs s.group) ∧ CanRun s 1 [] ∧ p.x = 1 :=
  ⟨mach plain, { g := 0, p := 1, d := 15, a := 1, b := 2, w := 0 }, { g := 0, d := 15, a := 1, c := 5, w := 0 },
    { g := 0, d := 3, a := 15, w := 0 }, { g := 0, d := 2, a := 0, b := 5, x := 1, y := 0 }, by unfold CanRun Fits; decide⟩

theorem witness_bcast : (∃ (s : State) (f : LCode), CanRun s 1 (f.refs s.group) ∧ f.c.toNat < s.width ∧ f.c = 47) ∧
    ∃ (s : State) (f : LCode), CanRun s 1 (f.refs s.group) ∧ s.width ≤ f.c.toNat ∧ f.c = 16 :=
  ⟨⟨mach plain, { g := 0, d := 5, a := 9, c := 47, w := 0 }, by unfold CanRun Fits; decide⟩,
    oasis (group0 (split0 5 0xFFFF)), { g := 0, d := 5, a := 9, c := 16, w := 0 }, by unfold CanRun Fits; decide⟩

/-! ### Witnesses: uniform words and control flow -/

theorem witness_uniform_words : ∃ (s : State) (f : UR3) (h : UR2) (k : UImm) (l : ULitForm), CanRun s 1 (f.refs s.group) ∧
    CanRun s 1 (h.refs s.group) ∧ CanRun s 1 [] ∧ CanRun s 2 [] ∧ k.d = 127 ∧ l.x = 1 :=
  ⟨mach (group0 (lastBut 2)), { d := 127, a := 0, b := 1, i := 0 }, { d := 127, a := 0, i := 0 }, { d := 127, imm := 0x1FFFF },
    { d := 1, x := 1, lit := 0x80000000 }, by unfold CanRun Fits; decide⟩

theorem witness_records : ∃ (s : State) (f : RecsetForm) (h : LdrecForm) (k : SetxForm), CanRun s 1 (f.refs s.group) ∧
    LegalRecordHigh (s.group.sAt (s.group.uni f.i f.a.toNat)) ∧ ¬ LegalRecordHigh (s.group.sAt (s.group.uni f.i f.b.toNat)) ∧
    CanRun s 1 (h.refs s.group) ∧ CanRun s 1 [] ∧ k.n = 3 :=
  ⟨mach { plain with s := [(1, 0x0043000000000000), (2, 0x0050000000000000)] }, { d := 0, a := 1, b := 2, i := 0 },
    { d := 126, a := 3, i := 0 }, { n := 3, imm := 5 }, by unfold CanRun Fits LegalRecordHigh; decide⟩

/-- A state whose S1 holds `x`. -/
def withS1 (priv : Bool) (x : DWord) : State := mach { plain with s := [(1, x)], priv }

/-- Every limit of MOVCW can be met and missed: its operand takes any value, in either mode. -/
theorem witness_control_registers (c : BitVec 3) (x : DWord) (priv : Bool) : let s := withS1 priv x
    let f : MovcwForm := { c, a := 1, i := 0 }
    CanRun s 1 (f.refs s.group) ∧ s.group.sAt (s.group.uni f.i f.a.toNat) = x ∧ s.group.priv = priv := by
  refine ⟨⟨rfl, (by decide : (5 : BitVec 15).toNat % 1024 + 1 ≤ 1023), fun r h => ?_⟩, rfl, rfl⟩
  obtain rfl := List.mem_singleton.mp h
  exact (by decide : 1 + 1 ≤ 128)

theorem witness_movc : ∃ (s : State) (f : MovcForm), CanRun s 1 (f.refs s.group) ∧ f.c = 4 :=
  ⟨mach plain, { d := 127, c := 4, i := 0 }, by unfold CanRun Fits; decide⟩

/-! A value in units of 2^-149, and how the middle of two neighbours lies to 0 and to 1. -/

def unitsOfPattern (n : Nat) : Nat := if n / 2 ^ 23 % 256 = 0 then n % 2 ^ 23 else (n % 2 ^ 23 + 2 ^ 23) * 2 ^ (n / 2 ^ 23 % 256 - 1)

theorem magnitude_units (w : Word) : magnitude w = (unitsOfPattern w.toNat : ℚ) / 2 ^ 149 := by
  unfold magnitude unitsOfPattern
  by_cases h : w.toNat / 2 ^ 23 % 256 = 0
  · simp only [h, if_true]
  · obtain ⟨k, hk⟩ : ∃ k, w.toNat / 2 ^ 23 % 256 = k + 1 := ⟨_, (Nat.succ_pred_eq_of_pos (Nat.pos_of_ne_zero h)).symm⟩
    simp only [hk, Nat.add_sub_cancel, if_neg (Nat.succ_ne_zero k)]
    push_cast
    rw [pow_succ]
    ring

theorem far_from_ties {k : Nat} (h : ∀ n, n + 1 < 2 ^ 31 → unitsOfPattern n + unitsOfPattern (n + 1) ≠ k * 2 ^ 150)
    (h0 : ∀ n, 0 < unitsOfPattern n + unitsOfPattern (n + 1)) : FarFromTies k := by
  intro w hf hf1 hs
  have hm : ∀ n, unitsOfPattern (n % 2 ^ 31) = unitsOfPattern n := fun n => by
    have h1 : n % 2 ^ 31 / 2 ^ 23 % 256 = n / 2 ^ 23 % 256 := by omega
    have h2 : n % 2 ^ 31 % 2 ^ 23 = n % 2 ^ 23 := by omega
    simp only [unitsOfPattern, h1, h2]
  have hn : (w + 1).toNat % 2 ^ 31 = w.toNat % 2 ^ 31 + 1 ∧ w.toNat % 2 ^ 31 + 1 < 2 ^ 31 := by
    unfold finite at hf hf1
    have := w.isLt
    have : (w + 1).toNat = (w.toNat + 1) % 2 ^ 32 := by simp [BitVec.toNat_add]
    omega
  set a := unitsOfPattern (w.toNat % 2 ^ 31) with ha
  set b := unitsOfPattern (w.toNat % 2 ^ 31 + 1) with hb
  have e1 : magnitude w = (a : ℚ) / 2 ^ 149 := by rw [magnitude_units, ha, hm]
  have e2 : magnitude (w + 1) = (b : ℚ) / 2 ^ 149 := by rw [magnitude_units, hb, ← hn.1, hm]
  have hne : a + b ≠ k * 2 ^ 150 := h _ hn.2
  have hpos : 0 < a + b := h0 _
  have hz : ∀ z : ℤ, z ≠ 0 → (1 : ℝ) / 2 ^ 2000 ≤ |(z : ℝ) / 2 ^ 150| := fun z hz => by
    rw [abs_div, abs_of_pos (by positivity : (0 : ℝ) < 2 ^ 150)]
    have : (1 : ℝ) ≤ |(z : ℝ)| := by exact_mod_cast Int.one_le_abs hz
    calc (1 : ℝ) / 2 ^ 2000 ≤ 1 / 2 ^ 150 := by
          apply one_div_le_one_div_of_le (by positivity)
          exact pow_le_pow_right₀ (by norm_num) (by norm_num)
      _ ≤ _ := by gcongr
  unfold negative at hs
  have hiff : (w + 1).toNat / 2 ^ 31 = 1 ↔ w.toNat / 2 ^ 31 = 1 := by simpa only [decide_eq_decide] using hs
  by_cases hw : w.toNat / 2 ^ 31 = 1
  · have hw1 := hiff.2 hw
    have := hz (-((a + b : ℕ) : ℤ) - (k * 2 ^ 150 : ℕ)) (by omega)
    convert this using 2
    simp only [valueOf, hw, hw1, if_true, e1, e2]
    push_cast
    ring
  · have hw1 : ¬ (w + 1).toNat / 2 ^ 31 = 1 := fun h1 => hw (hiff.1 h1)
    have := hz (((a + b : ℕ) : ℤ) - (k * 2 ^ 150 : ℕ)) (by omega)
    convert this using 2
    simp only [valueOf, hw, hw1, if_false, e1, e2]
    push_cast
    ring

theorem units_pos (n : Nat) : 0 < unitsOfPattern n + unitsOfPattern (n + 1) := by
  unfold unitsOfPattern
  by_cases h : n % 2 ^ 23 = 0
  · have : 0 < (n + 1) % 2 ^ 23 := by omega
    split <;> split <;> positivity
  · have : 0 < n % 2 ^ 23 := by omega
    split <;> split <;> positivity

theorem units_low {n : Nat} (h : n < 0x3F800000) : unitsOfPattern n < 2 ^ 149 := by
  unfold unitsOfPattern
  split
  · exact lt_of_lt_of_le (Nat.mod_lt _ (by norm_num)) (by norm_num)
  · have h1 : n % 2 ^ 23 + 2 ^ 23 < 2 ^ 24 := by omega
    have h2 : n / 2 ^ 23 % 256 - 1 ≤ 125 := by omega
    calc (n % 2 ^ 23 + 2 ^ 23) * 2 ^ (n / 2 ^ 23 % 256 - 1) ≤ (n % 2 ^ 23 + 2 ^ 23) * 2 ^ 125 :=
          Nat.mul_le_mul_left _ (Nat.pow_le_pow_right (by norm_num) h2)
      _ < 2 ^ 24 * 2 ^ 125 := (Nat.mul_lt_mul_right (by norm_num)).2 h1
      _ = 2 ^ 149 := by norm_num

theorem units_high {n : Nat} (h : 0x3F800000 ≤ n) (h1 : n < 2 ^ 31) :
    2 ^ 149 ≤ unitsOfPattern n ∧ (0x3F800000 < n → 2 ^ 149 < unitsOfPattern n) := by
  have h2 : 127 ≤ n / 2 ^ 23 % 256 := by omega
  unfold unitsOfPattern
  rw [if_neg (by omega)]
  have h3 : 2 ^ 126 ≤ 2 ^ (n / 2 ^ 23 % 256 - 1) := Nat.pow_le_pow_right (by norm_num) (by omega)
  have e : 2 ^ 149 = 2 ^ 23 * 2 ^ 126 := by norm_num
  refine ⟨e ▸ Nat.mul_le_mul (by omega) h3, fun h4 => ?_⟩
  by_cases h5 : n % 2 ^ 23 = 0
  · have h6 : 2 ^ 127 ≤ 2 ^ (n / 2 ^ 23 % 256 - 1) := Nat.pow_le_pow_right (by norm_num) (by omega)
    calc 2 ^ 149 < 2 ^ 23 * 2 ^ 127 := by norm_num
      _ ≤ _ := Nat.mul_le_mul (by omega) h6
  · calc 2 ^ 149 = 2 ^ 23 * 2 ^ 126 := e
      _ < (n % 2 ^ 23 + 2 ^ 23) * 2 ^ 126 := (Nat.mul_lt_mul_right (by norm_num)).2 (by omega)
      _ ≤ _ := Nat.mul_le_mul_left _ h3

theorem far_from_zero : FarFromTies 0 := by
  have := far_from_ties (k := 0) (fun n _ => by have := units_pos n; omega) units_pos
  simpa using this

theorem far_from_one : FarFromTies 1 := by
  have := far_from_ties (k := 1) (fun n hn => by
    rcases lt_or_ge n 0x3F800000 with h | h
    · have h1 := units_low h
      rcases lt_or_ge (n + 1) 0x3F800000 with h2 | h2
      · have := units_low h2; omega
      · have e : n + 1 = 0x3F800000 := by omega
        rw [e]
        have : unitsOfPattern 0x3F800000 = 2 ^ 149 := by decide +kernel
        omega
    · have h1 := (units_high h (by omega)).1
      have h2 := (units_high (n := n + 1) (by omega) hn).2 (by omega)
      omega) units_pos
  simpa using this

/-- At 0 the sine is 0, the cosine and the power of two are 1; at 1 the logarithm is 0. -/
theorem witness_functions : finite 0 ∧ finite 0x3F800000 ∧ FarFromTies ((2 : ℝ) ^ ((valueOf 0 : ℚ) : ℝ)) ∧
    FarFromTies (Real.sin (valueOf 0 : ℚ)) ∧ FarFromTies (Real.cos (valueOf 0 : ℚ)) ∧
    (0 : ℝ) < (valueOf 0x3F800000 : ℚ) ∧ FarFromTies (Real.logb 2 (valueOf 0x3F800000 : ℚ)) := by
  have h0 : valueOf 0 = 0 := by unfold valueOf magnitude; decide +kernel
  have h1 : valueOf 0x3F800000 = 1 := by unfold valueOf magnitude; decide +kernel
  rw [h0, h1]
  refine ⟨by unfold finite; decide, by unfold finite; decide, ?_⟩
  simp [far_from_zero, far_from_one]

theorem witness_branches : ∃ (s : State) (f g : UBr) (h : UBrC), CanRun s 1 [] ∧ InSegment (targetOf s f.off) ∧
    targetOf s f.off = 1023 ∧ ¬ InSegment (targetOf s g.off) ∧ targetOf s g.off = 1024 ∧ s.split.exec = 0 ∧
    s.group.sAt h.c.toNat ≠ 0 ∧ s.group.sAt 0 = 0 :=
  ⟨mach { group0 (split0 5 0) with s := [(31, 1)] }, { off := 1018 }, { off := 1019 }, { c := 31, off := 0 }, by
    unfold CanRun Fits InSegment targetOf; decide⟩

theorem witness_ret : ∃ (s : State) (f g h k : USrc), CanRun s 1 (f.refs s.group) ∧ CanRun s 1 (g.refs s.group) ∧
    CanRun s 1 (h.refs s.group) ∧ CanRun s 1 (k.refs s.group) ∧ s.group.sAt (s.group.uni f.i f.a.toNat) = 1023 ∧
    s.group.sAt (s.group.uni g.i g.a.toNat) = 1024 ∧ s.group.sAt (s.group.uni h.i h.a.toNat) = 65536 ∧
    s.group.sAt (s.group.uni k.i k.a.toNat) = 2048 :=
  ⟨mach { plain with s := [(1, 1023), (2, 1024), (3, 65536), (4, 2048)] }, { a := 1, i := 0 }, { a := 2, i := 0 },
    { a := 3, i := 0 }, { a := 4, i := 0 }, by unfold CanRun Fits; decide⟩

/-- A group whose P1 holds lanes `m`, with `k` occupied slots and `n` spilled splits. -/
def divides (m : Lanes) (k n : Nat) : State := mach { plain with
  p := [(1, m)], splits := (List.range k).map fun i => (i, { split0 5 (allLanes 0) with cre := BitVec.ofNat 16 i }),
  spill := List.replicate n (7, 1) }

theorem witness_brd : ∃ f g : UBrC, f.off = 1 ∧ g.off = 2000 ∧
    (∀ n ∈ [0, 15, 16], CanRun (divides 3 4 n) 1 [] ∧ (divides 3 4 n).split.exec &&& (divides 3 4 n).group.guardMask f.c = 3 ∧
      (divides 3 4 n).split.mask ≠ 3 ∧ InSegment (targetOf (divides 3 4 n) f.off) ∧
      (∀ i, i < 4 → ((divides 3 4 n).group.split i).st ≠ .free) ∧ (divides 3 4 n).group.spill.length = n) ∧
    (CanRun (divides 0 1 0) 1 [] ∧ (divides 0 1 0).split.exec &&& (divides 0 1 0).group.guardMask f.c = 0) ∧
    (CanRun (divides (allLanes 0) 1 0) 1 [] ∧
      (divides (allLanes 0) 1 0).split.exec &&& (divides (allLanes 0) 1 0).group.guardMask f.c = (divides (allLanes 0) 1 0).split.mask) ∧
    CanRun (divides 3 1 0) 1 [] ∧ (divides 3 1 0).split.exec &&& (divides 3 1 0).group.guardMask g.c ≠ 0 ∧
    ¬ InSegment (targetOf (divides 3 1 0) g.off) ∧ ((divides 3 1 0).group.split 1).st = .free :=
  ⟨{ c := 2, off := 1 }, { c := 2, off := 2000 }, by unfold CanRun Fits InSegment targetOf; decide⟩

/-- BRX's source V0: lanes 0 and 1 go to offset 9, the others to 3; lane 47 to `x`. -/
def brxState (x : Word) (e : Lanes) : State :=
  mach { group0 (split0 5 e) with v := [(0, 9 :: 9 :: (List.replicate 45 3 ++ [x]))] }

theorem witness_brx : ∃ f : LaneSrc, CanRun (brxState 1023 (allLanes 0)) 1 [laneRef (brxState 1023 (allLanes 0)).group 0 f.a.toNat] ∧
    (∀ l ∈ laneList (brxState 1023 (allLanes 0)).split.exec,
      ((brxState 1023 (allLanes 0)).group.vAt ((brxState 1023 (allLanes 0)).group.lane 0 f.a.toNat) l).toNat < 1024) ∧
    (brxState 1023 (allLanes 0)).split.exec ≠ 0 ∧
    (addSplits (brxState 1023 (allLanes 0)).split [(4, 3), (8, 1023)] (brxState 1023 (allLanes 0)).group).isSome = true ∧
    ((brxState 1024 (allLanes 0)).group.vAt ((brxState 1024 (allLanes 0)).group.lane 0 f.a.toNat) 47).toNat = 1024 ∧
    (brxState 0 0).split.exec = 0 :=
  ⟨{ a := 0 }, by unfold CanRun Fits; decide +kernel⟩

theorem witness_join : ∃ s : State, s.group.live = true ∧ s.sel.slot < 4 ∧ JoinMayGo s.group s.sel.slot ∧
    s.split.pc.toNat % 1024 + 1 ≤ 1023 := by
  refine ⟨mach { plain with splits := [(0, { split0 1022 7 with st := .joinwait }), (1, { split0 1023 8 with st := .joinwait })] },
    by decide, by decide, ⟨by decide, by unfold Held; decide, fun j h ⟨hj, _⟩ _ => ?_⟩, by decide⟩
  have : j = 1 ∨ j = 2 ∨ j = 3 := by simp [mach] at h; omega
  rcases this with rfl | rfl | rfl <;> decide

/-- A split in JOIN whose store is stalled at its home. -/
theorem witness_join_stalled : ∃ s : State, s.group.live = true ∧ JoinMayGo s.group s.sel.slot ∧
    s.stalledStore s.sel.core s.sel.grp s.split.mask = true := by
  refine ⟨{ mach (group0 { split0 5 1 with st := .joinwait }) with cores := [(0, { core0 (group0 { split0 5 1 with st := .joinwait })
      with reqs := [{ id := 0, ser := 0, kind := .store, grp := 0, slot := 0, mask := 1, gid := 1, blk := 0, line := 0, space := 0,
                      asn := 0, vid := 1, stalled := true }] })] },
    by decide, ⟨by decide, by unfold Held; decide, fun j h ⟨hj, _⟩ _ => ?_⟩, by decide⟩
  have : j = 1 ∨ j = 2 ∨ j = 3 := by simp [mach] at h; omega
  rcases this with rfl | rfl | rfl <;> decide

theorem witness_exec_words : ∃ (s : State) (f : UDst) (g : USrc) (h : UPred), CanRun s 1 [] ∧ CanRun s 1 (f.refs s.group) ∧
    CanRun s 1 (g.refs s.group) ∧ CanRun s 1 (h.refs s.group) ∧ h.n = 1 :=
  ⟨mach plain, { d := 127, i := 0 }, { a := 127, i := 0 }, { d := 1, n := 1, b := 15, i := 0 }, by unfold CanRun Fits; decide⟩

/-- A group whose handler is in segment 0 (landed) or 1 (not landed). -/
def trapState (h : Bool) (vec : DWord) (stop : Bool) : State := mach { plain with h, trapvec := vec, bkstop := stop }

theorem witness_traps : (CanRun (trapState false 0x8000 false) 1 [] ∧ HandlerReady (trapState false 0x8000 false)) ∧
    (CanRun (trapState false 0x8000 true) 1 [] ∧ (trapState false 0x8000 true).group.bkstop = true) ∧
    (CanRun (trapState true 0x8000 false) 1 [] ∧ (trapState true 0x8000 false).group.h = true) ∧
    (CanRun (trapState false 0 false) 1 [] ∧ (trapState false 0 false).group.trapvec.getLsbD 15 = false) ∧
    CanRun (trapState false 0x8001 false) 1 [] ∧ (trapState false 0x8001 false).group.h = false ∧
    (trapState false 0x8001 false).group.trapvec.getLsbD 15 = true ∧ (trapState false 0x8001 false).landedAt 0 1 1 = false := by
  unfold CanRun Fits HandlerReady; decide

/-- A handler whose frame holds `pc` and MASK `m`. -/
def handler (h : Bool) (pc : BitVec 15) (m : Lanes) : State := mach { plain with h, frame := { pc, mask := m, exec := 1 } }

theorem witness_rte (h : Bool) (m : Lanes) : (handler h 1022 m).canIssue = true ∧ (handler h 1022 m).group.h = h ∧
    (handler h 1022 m).group.frame.mask = m ∧ (handler h 1022 m).split.mask = allLanes 0 ∧
    (handler h 1022 m).group.frame.pc.toNat % 1024 + wordLength ((handler h 1022 m).codeAt 0 1 1022) ≤ 1023 :=
  ⟨rfl, rfl, rfl, rfl, by change 1022 + wordLength 0 ≤ 1023; decide⟩

theorem witness_exit : ∃ s : State, s.canIssue = true ∧ s.group.h = true := ⟨handler true 5 7, by decide⟩

/-! ### Witnesses: words in general -/

theorem witness_decoding : (∃ i, wellFormed i = true ∧ (encode i).length = 2) ∧ (∃ i, wellFormed i = true ∧ (encode i).length = 1) ∧
    ∃ (w : Word) (after : Option Word) (i : Instr), decodeWords w after = .ok i ∧ wordLength w = 2 :=
  ⟨⟨.movl { g := 31, d := 63, lit := 0xFFFFFFFF }, by decide⟩, ⟨.exit, by decide⟩,
    0x20020000, some 7, .movl { g := 0, d := 16, lit := 7 }, by decide⟩

/-- A main core has every word but a BCAST. -/
theorem lacks_none {i : Instr} {s : State} (h : isOasis s.sel.core = false) (hb : ∀ f, i ≠ .bcast f) : ¬ CoreLacks i s := by
  rintro (⟨h1, -⟩ | ⟨f, h1, -⟩)
  · rw [h] at h1; cases h1
  · exact hb f h1

theorem witness_word_checks :
    (∃ i s, IsWord i ∧ s.canIssue = true ∧ isOasis s.sel.core = true ∧ CoreLacks i s) ∧
    (∃ i s f, IsWord i ∧ i = .bcast f ∧ s.canIssue = true ∧ CoreLacks i s) ∧
    (∃ i s, IsWord i ∧ s.canIssue = true ∧ ¬ CoreLacks i s ∧ PrivilegedWord i ∧ s.group.priv = false) ∧
    ∃ i s r, IsWord i ∧ s.canIssue = true ∧ ¬ CoreLacks i s ∧ ¬ PrivilegedWord i ∧
      FirstPast s.group (wordRefs i s.group) r ∧ HandlerReady s := by
  refine ⟨⟨.mma { g := 0, a := 0, w := 0 }, oasis (group0 (split0 5 0xFFFF)), ⟨by decide, nofun⟩, by decide, by decide, .inl ⟨by decide, .inl ⟨_, rfl⟩⟩⟩,
    ⟨.bcast { g := 0, d := 1, a := 2, c := 16, w := 0 }, oasis (group0 (split0 5 0xFFFF)), { g := 0, d := 1, a := 2, c := 16, w := 0 },
      ⟨by decide, nofun⟩, rfl, by decide, .inr ⟨_, rfl, by decide⟩⟩,
    ⟨.movcw { c := 4, a := 1, i := 0 }, mach plain, ⟨by decide, nofun⟩, by decide, lacks_none (by decide) nofun, .inr ⟨_, rfl, rfl⟩, rfl⟩,
    .iadd { g := 0, d := 1, a := 32, b := 40, w := 0 }, mach { plain with budget := 32, trapvec := 0x8000 },
    laneRef { plain with budget := 32 } 0 32, ⟨by decide, nofun⟩, by decide, lacks_none (by decide) nofun, ?_, ?_, by unfold HandlerReady; decide⟩
  · rintro (h | ⟨_, h, _⟩)
    · exact absurd h (by decide)
    · cases h
  · exact ⟨[laneRef { plain with budget := 32 } 0 1], [laneRef { plain with budget := 32 } 0 40], by decide,
      by unfold Fits; decide, by decide⟩

theorem witness_reserved_and_last_word : ∃ (w : Word) (s : State) (f : LR3) (h : UR3), opcodeReserved (w.toNat / 2 ^ 24) = true ∧
    s.canIssue = true ∧ s.split.pc.toNat % 1024 = 1023 ∧ Fits s.group (f.refs s.group) ∧ Fits s.group (h.refs s.group) :=
  ⟨0xF7FFFFFF, mach (group0 (split0 1023 7)), { g := 0, d := 63, a := 1, b := 2, w := 0 }, { d := 127, a := 0, b := 1, i := 0 },
    by unfold Fits; decide⟩

theorem witness_steps :
    (candidates (State.reset.withFetchWord 32 0x8F000000) = [.issue { gid := 1 }] ∧
      decodeWords (beginIssue { State.reset.withFetchWord 32 0x8F000000 with sel := { gid := 1 } }).word0
        (beginIssue { State.reset.withFetchWord 32 0x8F000000 with sel := { gid := 1 } }).word1 = .ok .nop) ∧
    decodeWords (beginIssue { State.reset.withFetchWord 32 0x8F000004 with sel := { gid := 1 } }).word0
        (beginIssue { State.reset.withFetchWord 32 0x8F000004 with sel := { gid := 1 } }).word1 = .error .zeroField ∧
    candidates { State.reset with inputs := [] } = [.tick] ∧
    candidates { State.reset with inputs := [], id := { State.reset.id with tripped := true } } = [] ∧
    candidates { State.reset with inputs := [], id := { State.reset.id with temp := 105 } } = [.event .thermalTrip {}] ∧
    (∃ (s : State) (i : Instr), s.inputs = [(i, {}, {})] ∧ s.id.tripped = true ∧ i ≠ .powerOnReset ∧ ∃ v, exec i s = .next v) ∧
    candidates State.reset = [.input, .tick] ∧ State.reset.inputs.head? = some (.powerOnReset, {}, {}) ∧
    (match exec .nop (State.reset.withFetchWord 32 0x8F000000), exec .xlinvComplete State.reset with
      | .next _, .next _ => true
      | _, _ => false) = true := by
  refine ⟨by decide, by decide, by decide, by decide, by decide, ⟨{ State.reset with
      inputs := [(.getVersion, {}, {})], id := { State.reset.id with tripped := true } }, .getVersion, rfl, rfl, nofun, _, rfl⟩, by decide⟩

/-! ### Witnesses: memory words -/

/-- A record: base, extent, stride 0, swizzle, space, peer (R117). -/
def mkRec (base extent swz space peer : Nat) : BitVec 128 :=
  BitVec.ofNat 128 (base + 2 ^ 64 * extent + 2 ^ 112 * swz + 2 ^ 116 * space + 2 ^ 120 * peer)

/-- Lane 0 of EXEC alone, record D0, V1 the index and V2 the data; page 0 lies in frame 1 of stack 0. -/
def memState (d : BitVec 128) (lane : Word) (log : Map LogEntry) : State :=
  { State.reset with
    cores := [(0, { core0 { group0 (split0 5 1) with d := [(0, d)], v := [(1, [lane])], trapvec := 0x8000, oplog := log } with
      tlb := [{ asn := 0, vpn := 0, stack := 0, frame := 1, perm := 3, gen := 0 }] })],
    grids := [(1, grid0)], sel := { gid := 1 } }

def ldw : LMem := { g := 0, d := 2, a := 1, r := 0 }
def ordw (ord : BitVec 2) : LMemX := { g := 0, d := 2, a := 1, r := 0, ord, scope := 5, policy := 0, cbyp := 0 }

theorem only_lane_zero {l : Nat} (h : l < 48) (ha : laneIn (1 : Lanes) l = true) : l = 0 :=
  (by decide : ∀ l < 48, laneIn (1 : Lanes) l = true → l = 0) l h ha

/-- A word over lane 0 may go where that lane passes. -/
theorem goes_zero {m : Access} {s : State} (hm : m.act = 1) {l : Nat} (h : m.Goes s l) : l = 0 := by
  obtain ⟨h1, h2, -⟩ := h
  rw [hm] at h2
  exact only_lane_zero h1 h2

theorem witness_load : ∃ s, CanRun s 1 (ldw.refs 1 s.group) ∧ (relaxedAccess s (.load, 4, 1) ldw).MayGo s ∧
    (relaxedAccess s (.load, 4, 1) ldw).Goes s 0 ∧ (relaxedAccess s (.load, 4, 1) ldw).addr s 0 = 4092 := by
  refine ⟨memState (mkRec 4000 96 0 0 0) 92 [], by unfold CanRun Fits; decide, ⟨⟨by change _ ∈ [0, 1, 2, 3, 4]; decide, by decide⟩, by decide,
    .inr ⟨0, by decide, rfl⟩, fun l h => ?_, .inl rfl, by decide, fun h => absurd h (by decide), fun _ _ => ⟨rfl, rfl⟩, fun h => absurd h (by decide)⟩,
    ⟨by decide, by decide, by unfold Access.Clips; decide⟩, by decide⟩
  obtain rfl := goes_zero rfl h
  refine ⟨by decide, ?_, fun _ => ⟨{ asn := 0, vpn := 0, stack := 0, frame := 1, perm := 3, gen := 0 }, by decide⟩⟩
  unfold Access.Leased; decide

theorem witness_store : ∃ s, CanRun s 1 (ldw.refs 1 s.group) ∧ (relaxedAccess s (.store, 4, 1) ldw).MayGo s ∧
    (relaxedAccess s (.store, 4, 1) ldw).Goes s 0 := by
  refine ⟨memState (mkRec 0 4096 0 1 0) 4092 [], by unfold CanRun Fits; decide, ⟨⟨by change _ ∈ [0, 1, 2, 3]; decide, by decide⟩, by decide,
    .inl rfl, fun l h => ?_, .inl rfl, by decide, fun h => absurd h (by decide), fun h => absurd h (by decide),
    fun _ h => absurd h (by decide)⟩, ⟨by decide, by decide, by unfold Access.Clips; decide⟩⟩
  obtain rfl := goes_zero rfl h
  change 4092 + 4 ≤ 4096; decide

theorem witness_ordered : ∃ s, CanRun s 2 ((ordw 2).refs 1 s.group) ∧ wellFormed (.atomAdd (ordw 2)) = true ∧
    (orderedAccess s (.atom, 4, 1, 0) (ordw 2)).MayGo s ∧ (orderedAccess s (.atom, 4, 1, 0) (ordw 2)).Goes s 0 := by
  refine ⟨memState (mkRec 0 4096 0 1 0) 0 [], by unfold CanRun Fits; decide, by decide, ⟨⟨by change _ ∈ [0, 1, 3]; decide, by decide⟩,
    by decide, .inr ⟨0, by decide, rfl⟩, fun l h => ?_, .inr (.inr (.inr ⟨by decide, .inr (by decide)⟩)), by decide, fun h => absurd h (by decide),
    fun h => absurd h (by decide), fun h => absurd h (by decide)⟩, ⟨by decide, by decide, by unfold Access.Clips; decide⟩⟩
  obtain rfl := goes_zero rfl h
  change 0 + 4 ≤ 4096; decide

/-- A full operand log. -/
def fullLog : Map LogEntry := (List.range 32).map fun i => (i, { st := .inFlight })

theorem witness_memory_checks :
    (∃ s, CanRun s 1 (ldw.refs 1 s.group) ∧ ¬ (relaxedAccess s (.load, 4, 1) ldw).Room s) ∧
    (∃ s, let m := relaxedAccess s (.load, 16, 4) ldw
      CanRun s 1 (ldw.refs 4 s.group) ∧ m.Room s ∧ recSwz (m.record s) = 3 ∧ 8 ≤ m.sz) ∧
    (∃ s, CanRun s 1 (ldw.refs 1 s.group) ∧ (relaxedAccess s (.store, 4, 1) ldw).space s = 4) ∧
    (∃ s, let m := relaxedAccess s (.load, 4, 1) ldw
      CanRun s 1 (ldw.refs 1 s.group) ∧ m.Room s ∧ m.SpaceFits s ∧ m.space s = 1 ∧ m.FailsFirst s 0) ∧
    ∃ s, let m := relaxedAccess s (.load, 4, 1) ldw
      CanRun s 1 (ldw.refs 1 s.group) ∧ m.Room s ∧ m.SpaceFits s ∧ m.space s = 0 ∧ m.FailsFirst s 0 ∧
      (m.addr s 0 + 0 < 2 ^ 57 ∧ s.grid.permits (m.kind != .load) (m.addr s 0 + 0) = false) := by
  refine ⟨⟨memState (mkRec 0 4096 0 0 0) 0 fullLog, by unfold CanRun Fits; decide, ?_⟩,
    ⟨memState (mkRec 0 4096 3 0 0) 0 [], by unfold CanRun Fits; decide, .inr ⟨0, by decide, rfl⟩, by decide, by decide⟩,
    ⟨memState (mkRec 0 4096 0 4 0) 0 [], by unfold CanRun Fits; decide, by decide⟩,
    ⟨memState (mkRec 0 8192 0 1 0) 4096 [], by unfold CanRun Fits; decide, .inr ⟨0, by decide, rfl⟩,
      ⟨by change _ ∈ [0, 1, 2, 3, 4]; decide, by decide⟩, by decide, fun h => absurd h (by decide),
      ⟨by decide, by decide, by unfold Access.Clips; decide⟩, by change ¬ 4096 + 4 ≤ 4096; decide, fun j h => by omega⟩,
    memState (mkRec (2 ^ 40) 8192 0 0 0) 0 [], by unfold CanRun Fits; decide, .inr ⟨0, by decide, rfl⟩,
      ⟨by change _ ∈ [0, 1, 2, 3, 4]; decide, by decide⟩, by decide, ⟨fun _ j hj hl => absurd (hl 0 (by decide)).2 (by
        obtain rfl := goes_zero rfl hj; decide), ⟨by decide, by decide, by unfold Access.Clips; decide⟩,
      (by change ¬ (_ = 0 ∧ inWindow _ = true) ∧ ¬ Access.Leased _ _ _
          exact ⟨by decide, fun h => absurd (h 0 (by decide)).2 (by decide)⟩), fun j h => by omega⟩, by decide⟩
  rintro (h | ⟨j, hj, h⟩)
  · exact absurd h (by decide)
  · have : ∀ j < 32, mapFind fullLog j ≠ none := by decide
    exact this j hj h

def storeLeft : Req :=
  { id := 0, ser := 0, kind := .store, grp := 0, slot := 0, mask := 1, gid := 1, blk := 0, line := 0, space := 1, asn := 0, vid := 0 }
/-- A store of the split to shared space has not been performed. -/
def owingStore : State :=
  let s := memState (mkRec 0 4096 0 1 0) 0 [(0, { st := .inFlight, mask := 1 })]
  { s with cores := [(0, { s.coreAt 0 with reqs := [storeLeft] })] }

theorem witness_ordered_checks :
    (∃ s, CanRun s 2 ((ordw 0).refs 1 s.group) ∧ (orderedAccess s (.atom, 4, 1, 0) (ordw 0)).Room s ∧
      (orderedAccess s (.atom, 4, 1, 0) (ordw 0)).space s = 2) ∧
    (∃ s, CanRun s 2 ((ordw 0).refs 1 s.group) ∧ (orderedAccess s (.dqop, 32, 1, 0) (ordw 0)).Room s ∧
      (orderedAccess s (.dqop, 32, 1, 0) (ordw 0)).space s = 4) ∧
    ∃ s, let m := orderedAccess s (.store, 4, 1, 0) (ordw 2)
      CanRun s 2 ((ordw 2).refs 1 s.group) ∧ m.Room s ∧ m.SpaceFits s ∧ (∀ l, m.Goes s l → m.Reaches s l) ∧
      s.split.phase = 0 ∧ s.drained = false ∧ m.space s = 1 ∧
      ∃ q ∈ s.core.reqs, q.grp = s.sel.grp ∧ q.mask &&& s.split.mask ≠ 0 ∧ q.space = m.space s ∧ q.st ≠ .performed := by
  refine ⟨⟨memState (mkRec 0 4096 0 2 0) 0 [], by unfold CanRun Fits; decide, .inr ⟨0, by decide, rfl⟩, by decide⟩,
    ⟨memState (mkRec 0 4096 0 4 0) 0 [], by unfold CanRun Fits; decide, .inr ⟨0, by decide, rfl⟩, by decide⟩,
    owingStore, by unfold CanRun Fits; decide, .inl rfl,
    ⟨by change _ ∈ [0, 1, 2, 3]; decide, by decide⟩, fun l h => ?_, by decide, by decide, by decide,
    storeLeft, by decide⟩
  obtain rfl := goes_zero rfl h
  change 0 + 4 ≤ 4096; decide

theorem witness_peer_words : ∃ s, let m := relaxedAccess s (.store, 4, 1) ldw
    CanRun s 1 (ldw.refs 1 s.group) ∧ m.SpaceFits s ∧ m.space s = 3 ∧ m.Room s ∧ (∀ l, m.Goes s l → m.Reaches s l) ∧
    s.core.wc = [] ∧ (∀ x, ∃ a, a / 128 = x ∧ ∀ b, ¬ m.Stores s a b) ∧ m.Goes s 0 := by
  refine ⟨memState (mkRec 0 4096 0 3 5) 0 [], by unfold CanRun Fits; decide, ⟨by change _ ∈ [0, 1, 2, 3]; decide, by decide⟩, by decide,
    .inl rfl, fun l h => ?_, by decide, fun x => ⟨128 * x + 4, by omega, fun b ⟨l, hl, _, h, _⟩ => ?_⟩,
    ⟨by decide, by decide, by unfold Access.Clips; decide⟩⟩
  · obtain rfl := goes_zero rfl h
    refine ⟨by decide, ?_, fun h => absurd rfl h⟩
    unfold Access.Leased; decide
  · obtain rfl := goes_zero rfl hl
    have : (relaxedAccess (memState (mkRec 0 4096 0 3 5) 0 []) (.store, 4, 1) ldw).addr (memState (mkRec 0 4096 0 3 5) 0 []) 0 +
      (relaxedAccess (memState (mkRec 0 4096 0 3 5) 0 []) (.store, 4, 1) ldw).sz = 4 := by decide
    omega

/-! ### Witnesses: homes -/

/-- Page 0 of context 0 lies in frame 1 of stack 0: tables at 0x1000 and 0x2000; GEN `gen`, HOLD `hold`, flags PERM, V, BUSY. -/
def tableMem (gen hold flags : Byte) : List Host.Cell :=
  ([(0, 255), (1, 255), (2, 255), (3, 255), (0x1000, 1), (0x2026, gen), (0x2028, 255), (0x2029, 255), (0x202A, 255), (0x202B, 255),
    (0x2030, hold), (0x2031, flags)] : List (Nat × Byte)).filter fun c => c.2 != 0

/-- A machine with those tables. -/
def tabled (gen hold flags : Byte) (s : State) : State :=
  { s with mem := tableMem gen hold flags, xl := { s.xl with ptbase := [(0, 0x2000)], anchbase := [(0, 0x1000)] }
           vers := { s.vers with vsbase := 0x200000000000 } }

/-- The spill area of those machines lies at 2^45. -/
theorem clear_of {s : State} {a n : Nat} (hb : s.vers.vsbase = 0x200000000000) (hc : s.copies = []) (ha : a + n ≤ 2 ^ 45) :
    ClearOf s a n := by
  intro x _ hx h
  simp only [InSpill, hb, hc] at h
  obtain ⟨h, -⟩ | ⟨_, h, -⟩ := h
  · rw [show (0x200000000000 : DWord).toNat = 2 ^ 45 from rfl] at h; omega
  · exact List.not_mem_nil h

/-- A request of the group's lane 0 for a line of page 0. -/
def req0 (kind : ReqKind) : Req :=
  { id := 0, ser := 0, kind, grp := 0, slot := 0, mask := 1, gid := 1, blk := 0, line := 0, pa := 16384, gen := 7, space := 0,
    asn := 0, vid := 0, lanes := if kind == .store then [] else [{ lane := 0, addr := 124, size := 4, x := 5, y := 6 }],
    data := if kind == .store then [(0, 0xAB), (127, 0xCD)] else [] }
def log0 (kind : Nat) : LogEntry := { st := .inFlight, kind, dest := 2, nreg := 1, lanes := 1, mask := 1, wr := 1 }

/-- A machine in which request `r` waits. -/
def homed (log : Map LogEntry) (r : Req) : State :=
  tabled 7 0 7 { State.reset with
    cores := [(0, { core0 { group0 (split0 5 1) with oplog := log } with reqs := [r] })], grids := [(1, grid0)], sel := { gid := 1 } }

/-- The same with version 1 in state `st`. -/
def versioned (st : VSt) (s : State) : State := { s with vers := { s.vers with tab := [(1, { st })] } }

theorem witness_store_homes :
    (∃ s r, Served .l2Request s r ∧ r.kind = .store ∧ (r.data.map fun b => b.1 % 128).Nodup ∧ r.window = false ∧ r.space = 1 ∧
      Memory.wf (s.blockAt s.sel.core r.blk).shared = true) ∧
    (∃ s r, Served .l2Request s r ∧ r.kind = .store ∧ r.space = 2 ∧ Memory.wf (s.blockAt s.sel.core r.blk).tile = true) ∧
    (∃ s r, Served .l2Request s r ∧ r.kind = .store ∧ HomeReady s r ∧ r.vid = 0 ∧ Memory.wf s.mem = true) ∧
    ∃ s r, Served .l2Request s r ∧ r.kind = .store ∧ HomeReady s r ∧ (s.ver r.vid).open_ = true ∧ ((s.seenAt r.pa).ver r.vid).open_ = true ∧ r.vid ≠ 0 ∧
      (∀ c ∈ s.copies, Memory.wf c.bytes = true) := by
  refine ⟨⟨homed [] { req0 .store with space := 1 }, { req0 .store with space := 1 }, ⟨rfl, .inl ⟨rfl, by decide⟩⟩, by decide⟩,
    ⟨homed [] { req0 .store with space := 2 }, { req0 .store with space := 2 }, ⟨rfl, .inl ⟨rfl, by decide⟩⟩, by decide⟩,
    ⟨homed [] (req0 .store), req0 .store, ⟨rfl, .inl ⟨rfl, by decide⟩⟩, by decide, ⟨by decide, by decide, by decide, by decide,
      by decide, by decide, by decide⟩, by decide⟩,
    versioned .live (homed [] { req0 .store with vid := 1 }), { req0 .store with vid := 1 }, ⟨rfl, .inl ⟨rfl, by decide⟩⟩,
    by decide, ⟨by decide, by decide, by decide, by decide, by decide, by decide, by decide⟩, by decide⟩

theorem witness_load_homes : ∃ s r e, Served .l2Request s r ∧ r.kind = .load ∧ LogOf s r e ∧ r.window = false ∧
    (r.lanes.map (·.lane)).Nodup ∧ (∀ x ∈ r.lanes, x.lane < 48 ∧ x.addr / 128 = r.line ∧ x.addr % 128 + x.size ≤ 128) ∧
    HomeReady s r ∧ s.deadVid r.vid = false := by
  refine ⟨homed [(0, log0 2)] (req0 .load), req0 .load, log0 2, ⟨rfl, .inl ⟨rfl, by decide⟩⟩, by decide, by unfold LogOf; decide,
    by decide, by decide, by decide, ⟨by decide, by decide, by decide, by decide, by decide, by decide, by decide⟩, by decide⟩

theorem witness_refusals :
    (∃ s r, Served .l2Request s r ∧ r.window = false ∧ r.space = 0 ∧ r.kind = .store ∧ s.deadVid r.vid = true) ∧
    (∃ s r e, Served .l2Request s r ∧ r.kind = .load ∧ LogOf s r e ∧ s.deadVid r.vid = true) ∧
    (∃ s r, Served .l2Request s r ∧ s.deadVid r.vid = false ∧ s.staleGen (128 * r.pa) r.gen = some 7) ∧
    (∃ s r, Served .l2Request s r ∧ s.deadVid r.vid = false ∧ s.staleGen (128 * r.pa) r.gen = none ∧
      badOf r s = some (2 ^ 21 + 96)) ∧
    ∃ s r, Served .l2Request s r ∧ r.kind ≠ .load ∧ s.deadVid r.vid = false ∧ s.staleGen (128 * r.pa) r.gen = none ∧
      badOf r s = none ∧ s.storeRoom r.pa r.vid (classOf r.policy) ≠ .ready := by
  refine ⟨⟨versioned .squashed (homed [] { req0 .store with vid := 1 }), { req0 .store with vid := 1 },
      ⟨rfl, .inl ⟨rfl, by decide⟩⟩, by decide⟩,
    ⟨versioned .squashed (homed [(0, log0 2)] { req0 .load with vid := 1 }), { req0 .load with vid := 1 }, log0 2,
      ⟨rfl, .inl ⟨rfl, by decide⟩⟩, by decide, by unfold LogOf; decide, by decide⟩,
    ⟨homed [] { req0 .store with gen := 6 }, { req0 .store with gen := 6 }, ⟨rfl, .inl ⟨rfl, by decide⟩⟩, by decide⟩,
    ⟨{ homed [] (req0 .load) with badSectors := [2 ^ 21 + 96] }, req0 .load, ⟨rfl, .inl ⟨rfl, by decide⟩⟩, by decide⟩,
    { versioned .live (homed [] { req0 .store with vid := 1 }) with
      vers := { tab := [(1, { st := .live })], vslog := 12, vsres := 30 } }, { req0 .store with vid := 1 },
    ⟨rfl, .inl ⟨rfl, by decide⟩⟩, by decide⟩

/-- The entry of frame 1 in `tabled 7 0 7`. -/
def tableEntry : Pte := BitVec.ofNat 256 (7 * 2 ^ 48 + (2 ^ 32 - 1) * 2 ^ 64 + 7 * 2 ^ 136)

theorem witness_replays :
    (∃ s r e, s.reqAt s.sel.core s.sel.idx = some r ∧ nackDue s s.sel.core r = true ∧
      (walk (dieOf s.sel.core) r.asn (vpnOf (128 * r.line)) r.expect (dropTlb s.sel.core r.asn (vpnOf (128 * r.line)) s)).1 =
        .found 0 1 e ∧ permOk (ptePerm 0 e) (r.kind != .store) (r.kind != .load) = true) ∧
    (∃ s r, s.reqAt s.sel.core s.sel.idx = some r ∧ retryDue s s.sel.core r = true ∧ r.retries = 15 ∧
      (walk (dieOf s.sel.core) r.asn (vpnOf (128 * r.line)) r.expect s).1 = .none) ∧
    ∃ s r, s.reqAt s.sel.core s.sel.idx = some r ∧ retryDue s s.sel.core r = true ∧ r.retries = 16 ∧
      (walk (dieOf s.sel.core) r.asn (vpnOf (128 * r.line)) r.expect s).1 = .none := by
  refine ⟨⟨homed [] { req0 .store with st := .nacked, expect := some 7 }, _, tableEntry, rfl, by decide, by decide +kernel, by decide⟩,
    ⟨homed [] { req0 .store with st := .backoff, expect := some 8, retries := 15 }, _, rfl, by decide, rfl, by decide +kernel⟩,
    homed [] { req0 .store with st := .backoff, expect := some 8, retries := 16 }, _, rfl, by decide, rfl, by decide +kernel⟩

/-- Accepted and locked features: the fabric's extension, coding, demotion, requantising, the debugger (R339). -/
def extended (s : State) : State := { s with id := { s.id with featacc := 0xFF, lock := true } }
def wc0 : WcEntry :=
  { grp := 0, gid := 1, asn := 0, peer := 5, line := 3, vid := 0, tag := 0, data := [(4, 9)], born := 0, age := 8 }

theorem witness_answers :
    (∃ s e, mapFind s.group.oplog s.sel.idx = some e ∧ logDone s s.sel.core s.sel.grp e = true ∧ e.acq = some 3) ∧
    (∃ s r, s.reqAt s.sel.core s.sel.idx = some r ∧ ackDue s s.sel.core r = true) ∧
    ∃ (s : State) (w : WcEntry), s.core.wc[s.sel.idx]? = some w ∧ wcAged s s.sel.core w = true ∧
      ∀ p, s.linkStd p = false := by
  refine ⟨⟨homed [(0, { log0 2 with acq := some 3 })] { req0 .load with st := .performed }, _, rfl, by decide, rfl⟩,
    ⟨homed [] { req0 .store with st := .performed }, _, rfl, by decide⟩,
    extended { State.reset with north := { clk := 1700 }, cores := [(0, { released := true, wc := [wc0] })] }, wc0, rfl, by decide, fun _ => rfl⟩

theorem witness_announcements :
    (∃ s : State, scInFlight s s.sel.core = false ∧ (s.dieAt (dieOf s.sel.core)).stdQueue = [] ∧
      (s.dieAt (dieOf s.sel.core)).waiting = [] ∧
      (∀ q ∈ s.core.reqs, q.after = []) ∧ (∀ q ∈ s.core.reqs, q.ord = 3 → q.st = .performed) ∧ (max s.core.lamport.toNat s.core.heard.toNat) + 1 < 2 ^ 48) ∧
    (∃ (s : State) (c : Nat) (a : BitVec 48), s.arg.n = c ∧ s.arg.v = a.setWidth 64 ∧ c / 416 = s.id.pkg.toNat ∧ (c, a) ∈ s.annSent) ∧
    (∃ (s : State) (c : Nat) (a : BitVec 48), s.arg.n = c ∧ s.arg.v = a.setWidth 64 ∧ c / 416 ≠ s.id.pkg.toNat ∧ s.id.fail = 0 ∧
      s.id.podmask.getLsbD (c / 416) = true) ∧
    ∃ s : State, s.group.live = true ∧ s.arg.flag = false :=
  ⟨⟨homed [] { req0 .store with st := .performed, ord := 3 }, by decide⟩,
    ⟨{ State.reset with arg := { n := 3, v := 9 }, annSent := [(3, 9)] }, 3, 9, by decide⟩,
    ⟨{ State.reset with arg := { n := 417, v := 9 }, id := { podmask := 3 } }, 417, 9, by decide⟩, mach plain, by decide⟩

/-- An atomic or deque operation of lane 0 on shared space, with header bytes. -/
def sharedOp (kind : ReqKind) (func : Nat) (sh : Map Byte) : State :=
  tabled 7 0 7 { State.reset with
    cores := [(0, { core0 { group0 (split0 5 1) with oplog := [(0, log0 6)] } with
      reqs := [{ req0 kind with space := 1, func, lanes := [{ lane := 0, addr := 0, size := 4, x := 5, y := 6 }] }]
      blocks := [(0, { block0 with shared := sh })] })], grids := [(1, grid0)], sel := { gid := 1 } }

theorem witness_atomics :
    (∃ s r e f, f ∈ atomicTable ∧ Served .l2Request s r ∧ r.kind = .atom ∧ r.func = f.1 ∧ r.window = false ∧ LogOf s r e ∧
      (r.lanes.map (·.lane)).Nodup ∧ (∀ x ∈ r.lanes, x.addr = 0 ∧ x.lane < 48) ∧ 0 / 128 = r.line ∧ r.space = 1 ∧
      Memory.wf (s.blockAt s.sel.core r.blk).shared = true) ∧
    ∃ s r e f, f ∈ atomicTable ∧ Served .l2Request s r ∧ r.kind = .atom ∧ r.func = f.1 ∧ LogOf s r e ∧
      (∀ x ∈ r.lanes, x.addr = 124 ∧ x.lane < 48) ∧ 124 / 128 = r.line ∧ HomeReady s r ∧ r.vid = 0 ∧ Memory.wf s.mem = true := by
  refine ⟨⟨sharedOp .atom 9 [], _, log0 6, (9, fun m x y => if m = x then y else m), by simp [atomicTable], ⟨rfl, .inl ⟨rfl, by decide⟩⟩,
      rfl, rfl, rfl, by unfold LogOf; decide, by decide⟩,
    homed [(0, log0 5)] (req0 .atom), _, log0 5, (0, fun m x _ => BitVec.ofNat 32 (m.toNat + x.toNat)), by simp [atomicTable],
      ⟨rfl, .inl ⟨rfl, by decide⟩⟩, rfl, rfl, by unfold LogOf; decide, by decide, by decide,
      ⟨by decide, by decide, by decide, by decide, by decide, by decide, by decide⟩, by decide⟩

/-- A deque header at 0 with BOTTOM `b`, capacity 2, its array at 64. -/
def header (b : Byte) : Map Byte := (if b = 0 then [] else [(4, b)]) ++ [(8, 1), (16, 64)]

theorem deque_at (b : Byte) (h : b ∈ [0, 1, 2]) : DequeAt (header b) 0 0 b.toNat 2 64 := by
  fin_cases h <;> exact ⟨by decide, by decide, ⟨1, by decide⟩, by decide, by decide⟩

theorem witness_deques :
    (∀ b ∈ ([0, 1, 2] : List Byte), ∀ f ∈ [0, 1, 2], ∃ r e x, Served .l2Request (sharedOp .dqop f (header b)) r ∧ r.kind = .dqop ∧
      r.window = false ∧ r.space = 1 ∧ LogOf (sharedOp .dqop f (header b)) r e ∧ r.lanes = [x] ∧ x.lane < 48 ∧ r.func = f ∧
      x.addr = 0 ∧ x.x ≠ 0xFFFFFFFF) ∧
    (∀ b ∈ ([0, 1, 2] : List Byte), Memory.wf (header b) = true ∧ dequeSize 0 b.toNat = b.toNat) ∧
    64 + 4 * 2 + 4 ≤ 4096 ∧ memNat ([] : Map Byte) 8 4 < 1 := by
  refine ⟨fun b hb f hf => ⟨{ req0 .dqop with space := 1, func := f, lanes := [{ lane := 0, addr := 0, size := 4, x := 5, y := 6 }] },
    log0 6, { lane := 0, addr := 0, size := 4, x := 5, y := 6 }, ⟨rfl, .inl ⟨rfl, ?_⟩⟩, rfl, rfl, rfl, ⟨rfl, rfl⟩, rfl, by decide,
    rfl, rfl, by decide⟩, by decide, by decide, by decide⟩
  fin_cases hf <;> rfl

/-! ### Witnesses: conversions, ordered words, the window, retries -/

theorem witness_conversion_values : finite 0x3FC00000 ∧ valueOf 0x3FC00000 ≠ 0 ∧ finite16 0x3FC0 ∧ finite8 0x3C ∧
    nanPattern 0x7F800001 = true ∧ -(2 ^ 31) ≤ (2 ^ 32 - 1 : Int) ∧ (2 ^ 32 - 1 : Int) < 2 ^ 32 := by
  refine ⟨by unfold finite; decide, ?_, by unfold finite16; decide, by unfold finite8; decide, by decide, by norm_num, by norm_num⟩
  unfold valueOf magnitude; decide +kernel

/-- A relaxed load, an ordered store and an SC store to a peer, with nothing ahead of them. -/
theorem witness_words_leave :
    (∃ s, CanRun s 1 (ldw.refs 1 s.group) ∧ (relaxedAccess s (.load, 4, 1) ldw).MayLeave s ∧ (relaxedAccess s (.load, 4, 1) ldw).Goes s 0) ∧
    ∀ o ∈ ([2, 3] : List (BitVec 2)), ∃ s, CanRun s 2 ((ordw o).refs 1 s.group) ∧ wellFormed (.stwOrdered (ordw o)) = true ∧ (ordw o).cbyp = 0 ∧
      let m := orderedAccess s (.store, 4, 1, 0) (ordw o)
      m.MayLeave s ∧ m.Goes s 0 ∧ m.version s = 0 := by
  have reaches (m : Access) (h1 : m.act = 1) (h2 : m.space (memState (mkRec 0 4096 0 3 5) 0 []) = 3)
      (h3 : m.addr (memState (mkRec 0 4096 0 3 5) 0 []) 0 = 0) (h4 : m.sz = 4) (l : Nat) (h : m.Goes (memState (mkRec 0 4096 0 3 5) 0 []) l) :
      m.Reaches (memState (mkRec 0 4096 0 3 5) 0 []) l := by
    obtain rfl := goes_zero h1 h
    unfold Access.Reaches
    rw [h2, h3]
    refine ⟨by decide, ?_, fun h => absurd rfl h⟩
    intro i hi
    rw [h4] at hi
    rw [h3]
    have : i = 0 ∨ i = 1 ∨ i = 2 ∨ i = 3 := by omega
    rcases this with rfl | rfl | rfl | rfl <;> cases (m.kind != .load) <;> decide
  refine ⟨⟨memState (mkRec 0 4096 0 3 5) 0 [], by unfold CanRun Fits; decide, ⟨⟨by change _ ∈ [0, 1, 2, 3, 4]; decide, by decide⟩, by decide,
    .inr ⟨0, by decide, rfl⟩, reaches _ rfl rfl rfl rfl, .inl rfl, rfl, fun _ h => (List.not_mem_nil h).elim,
    fun h => absurd h (by decide)⟩, ⟨by decide, by decide, by unfold Access.Clips; decide⟩⟩, fun o h => ?_⟩
  fin_cases h <;> exact ⟨memState (mkRec 0 4096 0 3 5) 0 [], by unfold CanRun Fits; decide, by decide, rfl,
    ⟨⟨by change _ ∈ [0, 1, 2, 3]; decide, by decide⟩, by decide, .inl rfl, reaches _ rfl rfl rfl rfl,
      .inr (.inr (.inr ⟨by decide, .inr (by decide)⟩)), rfl, fun _ h => (List.not_mem_nil h).elim,
      fun _ => ⟨0, by decide, by decide, by unfold Access.Clips; decide⟩⟩, ⟨by decide, by decide, by unfold Access.Clips; decide⟩, by decide⟩

/-! ### Witnesses: the matrix engine and INV -/

/-- V1 holds `w` in every lane, but `x` in lane 0; lanes `e` are active; the FIFOs and the queue as given. -/
def matState (w x : Word) (e : Lanes) (fifos : Map (List Stream)) (q : List MatEntry) : State :=
  { State.reset with
    cores := [(0, { core0 { group0 (split0 5 e) with v := [(1, x :: List.replicate 47 w)], trapvec := 0x8000 } with
      matq := q, blocks := [(0, { block0 with fifos })] })], grids := [(1, grid0)], sel := { gid := 1 } }

/-- One MMA step of two planes on int8, slot 0 (R184), with its streams' headers. -/
def mmaWord : Word := 8
def stream (hdr : DWord) (n : Nat) : Stream := { hdr, units := List.replicate n [] }
def mmaFifos (n : Nat) : Map (List Stream) := [(0, [stream 65544 n]), (4, [stream 65568 n])]

theorem witness_accumulator_words : ∃ f : LCtl2, isOasis 0 = false ∧
    (∀ e ∈ accWords (matState 0 0 0 [] []) f, CanRun (matState 0 0 0 [] []) 1 (wordRefs e.2.1 (matState 0 0 0 [] []).group)) ∧
    (matState 0 0 0 [] []).active f.g = 0 ∧ (matState 0 0 0 [] []).group.lane f.w f.a.toNat = 1 ∧
    (∀ op ∈ [1, 2, 3, 4], ControlTaken (matState 0 0 0x800000000001 [] []) op 0 ∨ op = 3) ∧
    ControlWord (matState 0 0 0x800000000001 [] []) 1 0x800000000001 0 ∧
    HandlerReady (matState 7 0 0x800000000001 [] []) ∧ laneIn (0x800000000001 : Lanes) 0 = true ∧
    (matState 7 0 0x800000000001 [] []).group.vAt 1 47 ≠ (matState 7 0 0x800000000001 [] []).group.vAt 1 0 := by
  refine ⟨{ g := 0, a := 1, b := 2, w := 0 }, rfl, ?_, by decide, by decide, ?_, ⟨⟨0, by decide⟩, by decide⟩,
    by unfold HandlerReady; decide, by decide⟩
  · unfold CanRun Fits; decide
  · unfold ControlTaken; decide

theorem witness_accsc : ControlTaken (matState 0 0 1 [] []) 3 0 := by unfold ControlTaken; decide

theorem witness_accrd : ∃ g : LR2, CanRun (matState 0 0 1 [] []) 1 (g.refs (matState 0 0 1 [] []).group) ∧
    mapFind (matState 0 0 1 [] []).group.oplog 0 = none :=
  ⟨{ g := 0, d := 3, a := 1, w := 0 }, by unfold CanRun Fits; decide⟩

theorem witness_mma : ∃ f : LCtl, CanRun (matState 8 8 1 [] []) 1 (f.refs (matState 8 8 1 [] []).group) ∧
    (matState 8 8 1 [] []).active f.g ≠ allLanes 0 ∧ HandlerReady (matState 8 8 1 [] []) ∧
    (matState 8 8 (allLanes 0) [] []).active f.g = allLanes 0 ∧
    ControlWord (matState 8 8 (allLanes 0) [] []) 1 (allLanes 0) mmaWord ∧ formatOk mmaWord 1 = true ∧
    formatOk (mmaWord + 0x10000) 1 = false ∧ matHold (matState 8 8 (allLanes 0) [] []) (entryOf (matState 8 8 (allLanes 0) [] []) 0 mmaWord) = false ∧
    entryPlaced (matState 8 8 (allLanes 0) [] []) 0 (entryOf (matState 8 8 (allLanes 0) [] []) 0 mmaWord) = true ∧
    fInt56 mmaWord = false ∧ headerCheck (matState 8 8 (allLanes 0) [] []).block mmaWord = none ∧
    headerCheck (matState 8 8 (allLanes 0) [(0, [stream 65548 0]), (4, [stream 65568 0])] []).block mmaWord = some false ∧
    headerCheck (matState 8 8 (allLanes 0) (mmaFifos 0) []).block mmaWord = some true := by
  refine ⟨{ g := 0, a := 1, w := 0 }, by unfold CanRun Fits; decide, by decide, by unfold HandlerReady; decide, by decide,
    ⟨⟨0, by decide⟩, by decide⟩, by decide⟩

/-- The head of the queue: operation `op` on slot 0 with control word `w`. -/
def headState (op : Nat) (w : Word) : State :=
  matState 0 0 1 (mmaFifos 12) [{ op, grp := 0, blk := 0, ctl := w, lanes := 1, vals := [0x3F800000], log := 9 }]

theorem witness_matrix_entries : (∀ op ∈ [0, 1, 2, 3, 4, 5], matReady (headState op 8) 0 = true) ∧
    (∃ x y, performStream (mapGet [] ((headState 0 mmaWord).blockAt 0 0).fifos (fAfifo mmaWord)) = some x ∧
      performStream (mapGet [] ((headState 0 mmaWord).blockAt 0 0).fifos (fBfifo mmaWord)) = some y) ∧
    mapSortedFrom 0 (((headState 2 0).blockAt 0 0).slot 0).cells = true ∧
    (([(3, { st := .inFlight, kind := 7, ser := 9, dest := 2, nreg := 1, wr := 1 })] : Map LogEntry).find?
      fun l => decide (l.2.ser = 9) && decide (l.2.kind = 7)).isSome = true :=
  ⟨by decide, ⟨stream 65544 12, stream 65568 12, rfl, rfl⟩, by decide⟩

/-- QNT's control in V1, offset in V2, record D0 in space `space` with `extent`. -/
def qntState (space extent : Nat) : State :=
  { State.reset with
    cores := [(0, core0 { plain with d := [(0, mkRec (if space = 2 then 64512 else 0) extent 0 space 0)], trapvec := 0x8000 })],
    grids := [(1, grid0)], sel := { gid := 1 } }

theorem witness_qnt : ∃ f : LR3, (∀ sp ∈ [1, 2], ∀ x ∈ [799, 800], CanRun (qntState sp x) 1 (qntRefs f (qntState sp x).group)) ∧
    (qntState 1 800).active f.g = allLanes 0 ∧ ControlWord (qntState 1 800) 2 (allLanes 0) 0 ∧
    ControlWord (qntState 1 800) 1 (allLanes 0) 0 ∧ recSwz ((qntState 1 800).group.dAt 0) = 0 ∧
    recSpace ((qntState 1 800).group.dAt 0) = 1 ∧ recExtent ((qntState 1 800).group.dAt 0) = 800 ∧
    recExtent ((qntState 1 799).group.dAt 0) < 800 ∧
    (∀ o, o < 800 → ((qntState 1 800).block.allotment 1).1 ≤ recBase ((qntState 1 800).group.dAt 0) + (0 + o) ∧
      recBase ((qntState 1 800).group.dAt 0) + (0 + o) + 1 ≤ ((qntState 1 800).block.allotment 1).2) ∧
    (matState 0 0 1 [] []).active f.g ≠ allLanes 0 ∧
    8 ≤ (matState 0 0 1 [] (List.replicate 8 { op := 1, grp := 1, blk := 0, ctl := 0 })).core.matq.length := by
  have h0 : recBase ((qntState 1 800).group.dAt 0) = 0 := by decide
  have h1 : (qntState 1 800).block.allotment 1 = (0, 4096) := by decide
  refine ⟨{ g := 0, d := 1, a := 3, b := 2, w := 0 }, by unfold CanRun Fits; decide +kernel, by decide,
    ⟨⟨0, by decide⟩, by decide⟩, ⟨⟨0, by decide⟩, by decide⟩, by decide, by decide, by decide, by decide,
    fun o h => by rw [h0, h1]; constructor <;> simp; omega, by decide, by decide⟩

/-- INV at word 5 with its routine from word 7 on; xin V1, yout V2, target V3. -/
def invState (routine : Word) (x y g : Word) (e : Lanes) (run : Option InvRun) : State :=
  { State.reset with
    cores := [(0, { core0 { group0 { split0 5 e with search := run } with v := [(1, [x]), (2, [y]), (3, [g])], trapvec := 0x8000 } with
      imem := [(codeKey 1 7, routine)] })], grids := [(1, grid0)], sel := { gid := 1 } }
/-- MOV V2, V1: LR, op 0x1A, d 2, a 1. -/
def movWord : Word := 0x1A004080
def inv0 : InvForm :=
  { g := 0, n1 := 0, bracket := 7, xin := 1, yout := 2, target := 3, tol := 1, status := 2, maxiter := 33, flt := 0, dec := 0 }

/-- An inverted bracket, a target at its low end, one above it, one inside, one at its high end. -/
theorem witness_inv : ∀ e ∈ ([(1, 0, 0), (0, 5, 0), (0, 5, 6), (0, 5, 1), (0, 5, 5)] : List (Word × Word × Word)),
    let s := invState movWord e.1 e.2.1 e.2.2 1 none
    CanRun s (inv0.n1.toNat + 3) (inv0.refs s.group) ∧ SearchMayBegin s ∧ routineWord s 0 = movWord ∧
      wordLength movWord = 1 ∧
    laneIn (s.active inv0.g) 0 = true ∧ s.group.vAt 1 0 = e.1 ∧ s.group.vAt 2 0 = e.2.1 ∧ s.group.vAt 3 0 = e.2.2 := by
  intro e h
  fin_cases h <;> unfold CanRun Fits SearchMayBegin <;> decide

theorem witness_inv_word : ∀ next, decodeWords movWord next = .ok (.mov { g := 0, d := 2, a := 1, w := 0 }) ∧ inv0.flt = 0 ∧ inv0.dec = 0 ∧
    inv0.n1 = 0 ∧ inv0.xin ≠ inv0.yout ∧ 1 ≤ inv0.tol.toNat ∧ 33 ≤ inv0.maxiter.toNat := fun _ => ⟨rfl, by decide⟩

/-- A run at hi whose output 4 lies below the 5 of the run at lo, and a bisection run whose output 6 lies above both ends. -/
def run0 (runs : Nat) : InvRun :=
  { act := 1, lanes := [{ lane := 0, lo := 0, hi := 5, yl := 5, yh := 5, t := 5 }], runs, word := 1, xin := 1, yout := 2,
    xin0 := [0], yout0 := [5], blo0 := [0], bhi0 := [5], status0 := 0, invx0 := 0, recs := [], xs := [] }

theorem witness_inv_checks :
    (∃ s : State, CanRun s 3 (inv0.refs s.group) ∧ RoutineOk s inv0 ∧ s.active inv0.g = 0) ∧
    (∃ s : State, CanRun s 3 (inv0.refs s.group) ∧ RoutineOk s inv0 ∧ laneIn (s.active inv0.g) 0 = true ∧
      ∀ l, l < 48 → laneIn (s.active inv0.g) l = true → InvertedAt s inv0 l) ∧
    (∃ s : State, CanRun s 3 (inv0.refs s.group) ∧ RoutineOk s inv0 ∧ laneIn (s.active inv0.g) 0 = true ∧ ¬ InvertedAt s inv0 0) ∧
    (∃ s : State, CanRun s 3 (inv0.refs s.group) ∧ s.split.search = none ∧
      opcodeReserved ((routineWord s 0).toNat / 2 ^ 24) = true) ∧
    (∃ s : State, decodeWords (routineWord s 0) (routineNext s 0) = .ok .nop ∧ s.split.search = none) ∧
    ∀ n ∈ [1, 2], ∃ s : State, CanRun s 3 [] ∧ s.split.search = some (run0 n) ∧ routineOwed s = false ∧
      s.group.dying = false ∧ HandlerReady s ∧
      ∃ x ∈ (run0 n).lanes, BreaksOrder s inv0 (run0 n) x := by
  have fits (s : State) (h : s.group.budget = 256) (hx : s.group.x = []) : Fits s.group (inv0.refs s.group) := by
    intro r hr
    fin_cases hr <;> simp [laneRef, h, Group.lane, Group.xAt, hx, inv0, mapGet]
  refine ⟨⟨invState movWord 0 1 0 0 none, ⟨rfl, by decide, fits _ rfl rfl⟩, ⟨rfl, by decide⟩, by decide⟩,
    ⟨invState movWord 1 0 0 1 none, ⟨rfl, by decide, fits _ rfl rfl⟩, ⟨rfl, by decide⟩, by decide,
      fun l h ha => by obtain rfl := only_lane_zero h ha; unfold InvertedAt; decide⟩,
    ⟨invState movWord 0 1 0 1 none, ⟨rfl, by decide, fits _ rfl rfl⟩, ⟨rfl, by decide⟩, by decide, by unfold InvertedAt; decide⟩,
    ⟨invState 0 0 1 0 1 none, ⟨rfl, by decide, fits _ rfl rfl⟩, rfl, by decide⟩,
    ⟨invState 0x8F000000 0 1 0 1 none, by decide, rfl⟩, fun n h => ?_⟩
  have h4 (y : Word) : CanRun (invState movWord 0 y 0 1 (some (run0 n))) 3 [] :=
    ⟨rfl, (by decide : 5 % 1024 + 3 ≤ 1023), fun _ h => (List.not_mem_nil h).elim⟩
  fin_cases h
  · exact ⟨_, h4 4, rfl, by decide, by decide, by unfold HandlerReady; decide, _, List.mem_singleton.2 rfl, by unfold BreaksOrder; decide⟩
  · exact ⟨_, h4 6, rfl, by decide, by decide, by unfold HandlerReady; decide, _, List.mem_singleton.2 rfl, by unfold BreaksOrder; decide⟩

/-! ### Witnesses: barriers, caravans, fences, queues -/

/-- Uniform registers `u`, block `b`, operand log `log`, every lane in EXEC at word 5, a trap handler at word 0. -/
def uniState (u : Map DWord) (b : Block) (log : Map LogEntry) : State :=
  { State.reset with
    cores := [(0, { core0 { plain with s := u, oplog := log, trapvec := 0x8000 } with blocks := [(0, b)] })]
    grids := [(1, grid0)], sel := { gid := 1 } }
def owing : Map LogEntry := [(0, { st := .inFlight, mask := allLanes 0 })]
def qbar : QBar := { n := 3, a := 1 }
def bar3 (arrivals need : Nat) (gen : BitVec 16) : Block := { block0 with bars := [(3, { gen, arrivals, need })] }

theorem uni_can_run (u : Map DWord) (b : Block) (log : Map LogEntry) : CanRun (uniState u b log) 1 [] :=
  ⟨rfl, (by decide : 5 % 1024 + 1 ≤ 1023), fun _ h => (List.not_mem_nil h).elim⟩

/-- Counts 0, 1 and 2 of a barrier, drained or not; generations just completed, not yet, and half the range ago. -/
theorem witness_named_barriers :
    (∀ c, CanRun (uniState [(1, c)] (bar3 0 0 0) []) 1 [] ∧ (uniState [(1, c)] (bar3 0 0 0) []).split.phase = 0 ∧
      Quiet (uniState [(1, c)] (bar3 0 0 0) []) ∧ (uniState [(1, c)] (bar3 0 0 0) []).group.sAt 1 = c) ∧
    (uniState [(1, 2)] (bar3 0 0 0) owing).drained = false ∧
    Completed 1 0 ∧ ¬ Completed 0 0 ∧ Completed 0x7FFF 0 ∧ ¬ Completed 0x8000 0 :=
  ⟨fun c => ⟨uni_can_run _ _ _, rfl, ⟨rfl, rfl, fun _ h => (List.not_mem_nil h).elim⟩, rfl⟩, by decide, by unfold Completed; decide⟩

def word8 (count left phase : Byte) : Map Byte := ([(0, count), (2, left), (4, phase)] : Map Byte).filter fun c => c.2 != 0
def qcount (k : BitVec 13) : QCount := { k, a := 1 }

/-- A misaligned and a far offset, one whose word ends at the allotment's end and one beyond; a last arrival, one of three,
and words with no count or a reserved bit. -/
theorem witness_phase_barriers :
    (∀ o, CanRun (uniState [(1, o)] block0 []) 1 [] ∧ Memory.wf (uniState [(1, o)] block0 []).block.shared = true ∧
      Quiet (uniState [(1, o)] block0 []) ∧ (uniState [(1, o)] block0 []).group.sAt 1 = o ∧
      (uniState [(1, o)] block0 []).block.sharedSize = 4096) ∧
    (∀ m ∈ [word8 3 3 0, word8 3 1 1, word8 1 1 0, word8 1 1 2, word8 1 0 0, []], Memory.wf m = true) ∧
    phaseLegal (memNat (word8 3 3 0) 0 8) ∧ phaseLegal (memNat (word8 3 1 1) 0 8) ∧
    ¬ phaseLegal (memNat (word8 1 1 2) 0 8) ∧ ¬ phaseLegal (memNat (word8 1 0 0) 0 8) ∧ ¬ phaseLegal (memNat [] 0 8) ∧
    phaseBit (memNat (word8 3 1 1) 0 8) = 1 ∧ phaseBit (memNat (word8 3 3 0) 0 8) = 0 ∧
    (uniState [(1, 0)] { block0 with shared := word8 3 3 0 } []).split.phase = 0 :=
  ⟨fun o => ⟨uni_can_run _ _ _, rfl, ⟨rfl, rfl, fun _ h => (List.not_mem_nil h).elim⟩, rfl, rfl⟩, by decide, by unfold phaseLegal; decide⟩

/-- A block whose first caravan is entry 2 of its grid, with its home on die `home`. -/
def cvState (home members arrived : Nat) (v cairn other : DWord) (cv : Word) : State :=
  { uniState [(1, v)] { block0 with cvword := cv } [] with
    grids := [(1, { grid0 with
      caravans := [(2, { valid := true, scope := 2, home, members, arrived, gen := 6, cairn })]
      replicas := [(2, cairn), (258, other)], pendArr := [(2, .cvbar 0 0 0 4), (2, .cairnMin 0 0 0 4 3)] })] }
def qcv : QCaravan := { c := 0, a := 1 }

theorem witness_caravans :
    (∀ home members arrived v c o cv, CanRun (cvState home members arrived v c o cv) 1 [] ∧
      Quiet (cvState home members arrived v c o cv)) ∧
    (cvState 0 2 1 9 8 7 0xFFFFFFFF).caravanAt 0 = none ∧ (cvState 0 2 1 9 8 7 0xFFFFFF02).caravanAt 0 = some 2 ∧
    ((cvState 0 2 1 9 8 7 0xFFFFFF02).grid.caravan 2).homeDie = dieOf 0 ∧
    ((cvState 1 2 1 9 8 7 0xFFFFFF02).grid.caravan 2).homeDie ≠ dieOf 0 ∧
    ((cvState 0 2 1 9 8 7 0xFFFFFF02).grid.caravan 2).arrived + 1 = ((cvState 0 2 1 9 8 7 0xFFFFFF02).grid.caravan 2).members ∧
    ((cvState 0 3 1 9 8 7 0xFFFFFF02).grid.caravan 2).arrived + 1 ≠ ((cvState 0 3 1 9 8 7 0xFFFFFF02).grid.caravan 2).members ∧
    ((cvState 0 2 1 9 8 7 0xFFFFFF02).grid.replica 1 2).toNat ≤ 8 ∧ 8 < ((cvState 0 2 1 9 8 9 0xFFFFFF02).grid.replica 1 2).toNat ∧
    (∀ i ∈ [0, 1], ((cvState 0 2 1 9 8 7 0xFFFFFF02).gridAt 1).pendArr[i]? =
      some (2, if i = 0 then .cvbar 0 0 0 4 else .cairnMin 0 0 0 4 3)) :=
  ⟨fun _ _ _ _ _ _ _ => ⟨⟨rfl, (by decide : 5 % 1024 + 1 ≤ 1023), fun _ h => (List.not_mem_nil h).elim⟩, rfl, rfl, fun _ h => (List.not_mem_nil h).elim⟩, by decide⟩

def fence0 (kind : BitVec 2) (scope : BitVec 3) : FenceForm := { kind, scope }

theorem witness_fences :
    CanRun (uniState [] block0 []) 1 [] ∧ (uniState [] block0 []).split.phase = 0 ∧ (uniState [] block0 []).drained = true ∧
    (uniState [] block0 owing).drained = false ∧ (fence0 0 5).scope.toNat ≤ 5 ∧ (fence0 0 5).kind ≠ 1 ∧ (fence0 0 5).scope ≠ 0 ∧
    (fence0 1 0).scope = 0 ∧ (uniState [] block0 []).loadsBack = true := by
  unfold CanRun Fits; decide +kernel

/-- A write-combining entry of the group toward a partner with the extension, and the tag's use of it. -/
def batchState (tags : Map RTagState) (wc : List WcEntry) : State :=
  extended { State.reset with
    cores := [(0, { core0 { plain with rtags := tags } with wc })], grids := [(1, grid0)], sel := { gid := 1 } }
def udst : UDst := { i := 0, d := 4 }

theorem witness_remote_batches :
    CanRun (batchState [] [wc0]) 1 [] ∧ (∀ p, (batchState [] [wc0]).linkStd p = false) ∧
    (batchState [(0, { used := [(5, 1)] })] []).split.phase = 0 ∧
    CanRun (batchState [(0, { used := [(5, 1)] })] []) 1 (udst.refs (batchState [(0, { used := [(5, 1)] })] []).group) ∧
    (batchState [(0, { used := [(5, 1)] })] []).canCloseTag 0 0 = true ∧ (batchState [(0, { used := [(5, 1)] })] []).core.wc = [] ∧
    CanRun (batchState [] []) 1 [uniRef (batchState [] []).group 0 4 2] ∧ (batchState [] []).tagsSettled 0 0 = true ∧
    (batchState [(0, { closed := true, owed := [5] })] []).tagsSettled 0 0 = false := by
  refine ⟨by unfold CanRun Fits; decide, fun _ => rfl, ?_⟩
  unfold CanRun Fits; decide +kernel

/-- Group `g` in block `b` with engine queues `eng`; the next command is number 9. -/
def queueState (g : Group) (b : Block) (eng : Map (List Cmd)) : State :=
  { State.reset with
    cores := [(0, { core0 g with blocks := [(0, b)], eng, nextCmd := 9 })], grids := [(1, grid0)], sel := { gid := 1 } }
/-- The group of `queueState`: S1 is `w`, the buffer of CE0 holds `buf`, records D0 in space 0 and D1 in space 1. -/
def asmGroup (w : DWord) (buf : List DWord) : Group :=
  { plain with s := [(1, w)], asm_ := [(0, buf)], d := [(1, mkRec 0 4096 0 1 0)], trapvec := 0x8000 }
/-- First word of a COPY of two words, from D0 to D1 (R96). -/
def copyWord : DWord := 0x200011
def cmd0 (w0 : DWord) (words : Nat) : Cmd :=
  { id := 3, w0, words, grp := 0, blk := 0, gid := 1, asn := 0, vid := 0, batch := 1, tag := 0, drec := mkRec 0 4096 0 1 0 }

theorem queue_can_run (w : DWord) (buf : List DWord) (b : Block) (eng : Map (List Cmd)) :
    CanRun (queueState (asmGroup w buf) b eng) 1 [] ∧ (queueState (asmGroup w buf) b eng).split.phase = 0 :=
  ⟨⟨rfl, (by decide : 5 % 1024 + 1 ≤ 1023), fun _ h => (List.not_mem_nil h).elim⟩, rfl⟩

/-- The bounded queue 8 with `n` of 2 entries. -/
def queue8 (n : Nat) : Block := { block0 with queues := [(8, { cap := 2, q := List.replicate n 7 })] }

/-- A whole command of group 1 waits for room before the group's own. -/
def queueBehind : State :=
  let s := queueState (asmGroup 0 [copyWord]) block0 []
  { s with cores := [(0, { s.coreAt 0 with entering := [(0, [{ cmd0 copyWord 2 with grp := 1 }])] })] }

/-- A first word, a second one with room for two words and without, one behind another group's command, a pending buffer; Q8
empty and full. -/
theorem witness_queue_writes :
    mapGet [] (asmGroup copyWord []).asm_ 0 = [] ∧ wholeCommand [] = false ∧ wholeCommand [copyWord] = false ∧
    wholeCommand [copyWord, 0] = true ∧ (commandFault (queueState (asmGroup 0 [copyWord]) block0 []) 0 [copyWord, 0]).isNone = true ∧
    RoomFor (queueState (asmGroup 0 [copyWord]) block0 [(0, [cmd0 copyWord 62])]) 0 2 ∧
    ¬ RoomFor (queueState (asmGroup 0 [copyWord]) block0 [(0, [cmd0 copyWord 63])]) 0 2 ∧
    (queueState (asmGroup 0 [copyWord]) block0 []).entering 0 0 = [] ∧ queueBehind.entering 0 0 ≠ [] ∧
    (∀ c ∈ queueBehind.entering 0 0, c.grp ≠ queueBehind.sel.grp) ∧
    (queueState (asmGroup 0 []) (queue8 1) []).drained = true ∧ ((queue8 1).queue 8).q.length < ((queue8 1).queue 8).cap ∧
    ((queue8 2).queue 8).cap ≤ ((queue8 2).queue 8).q.length ∧ (block0.queue 8).cap = 0 := by
  unfold RoomFor; decide

theorem witness_queue_reads :
    mapGet [] ({ plain with comp := [(0, [5])] } : Group).comp 0 = [5] ∧ (queue8 1).queue 8 = { cap := 2, q := [7] } ∧
    ({ plain with q7 := [5] } : Group).q7 = [5] ∧ mapGet [] plain.comp 0 = [] ∧ plain.q7 = [] ∧ ((queue8 0).queue 8).q = [] ∧
    ∀ g : Group, g = { plain with comp := [(0, [5])] } ∨ g = { plain with q7 := [5] } ∨ g = plain →
      CanRun (queueState g (queue8 0) []) 1 [] ∧ (queueState g (queue8 0) []).split.phase = 0 := by
  refine ⟨rfl, rfl, rfl, rfl, rfl, rfl, fun g h => ?_⟩
  obtain rfl | rfl | rfl := h <;>
    exact ⟨⟨rfl, (by decide : 5 % 1024 + 1 ≤ 1023), fun _ h => (List.not_mem_nil h).elim⟩, rfl⟩

/-- Seven batches before BCLOSE and eight; batch 2 outstanding; all done; a miss of batch 2. -/
theorem witness_batches :
    (List.replicate 7 ({ num := 1, open_ := 1 } : Batch)).length < 8 ∧ 8 ≤ (List.replicate 8 ({ num := 1, open_ := 1 } : Batch)).length ∧
    (∃ b ∈ [({ num := 2, open_ := 1 } : Batch)], AtOrBefore b.num 2) ∧ (∀ b ∈ [({ num := 3, open_ := 1 } : Batch)], ¬ AtOrBefore b.num 2) ∧
    (∀ bs m, CanRun (queueState { asmGroup 2 [] with batches := bs, lastClosed := 3, misses := m } block0 []) 1 [] ∧
      (queueState { asmGroup 2 [] with batches := bs, lastClosed := 3, misses := m } block0 []).split.phase = 0) ∧
    HandlerReady (queueState { asmGroup 2 [] with lastClosed := 3, misses := [{ batch := 2, pair := 1, pblk := 4 }] } block0 []) := by
  refine ⟨by decide, by decide, by unfold AtOrBefore; decide, by unfold AtOrBefore; decide, fun bs m =>
    ⟨⟨rfl, (by decide : 5 % 1024 + 1 ≤ 1023), fun _ h => (List.not_mem_nil h).elim⟩, rfl⟩, by unfold HandlerReady; decide⟩

/-- A fence of no queue, and of CE0 with a command there. -/
theorem witness_qfence :
    (∀ i c, c ∈ (queueState (asmGroup 0 []) block0 [(0, [cmd0 copyWord 2])]).engQueue 0 i → i < 3 →
      c.id < (queueState (asmGroup 0 []) block0 [(0, [cmd0 copyWord 2])]).core.nextCmd) ∧
    ∃ f g : QFenceForm, f.q = 0 ∧ g.q ≠ 0 ∧ g.w = 1 ∧ g.m = 1 := by
  refine ⟨fun i c h hi => ?_, { q := 0, w := 0, m := 0 }, { q := 1, w := 1, m := 1 }, by decide⟩
  have : i = 0 ∨ i = 1 ∨ i = 2 := by omega
  obtain rfl | rfl | rfl := this
  · obtain rfl : c = cmd0 copyWord 2 := List.mem_singleton.1 h
    decide
  · exact (List.not_mem_nil h).elim
  · exact (List.not_mem_nil h).elim

/-! ### Witnesses: segments, timers, waits -/

/-- The overlay masks name segments 0 and 31; segment 0 has landed, and 31 is being fetched if `f`. -/
def segState (a : DWord) (f : Bool) (landed : Word) : State :=
  tabled 7 0 7 { State.reset with
    cores := [(0, { core0 { plain with s := [(1, a)], trapvec := 0x8000 } with
      landed := [(1, landed)], fetching := if f then [(1, 0x80000000)] else [] })]
    grids := [(1, { grid0 with segmask := 0x80000001, ovlmask := 0x80000001, image := 0 })], sel := { gid := 1, idx := 31 } }

theorem witness_segments :
    (∀ a f l, CanRun (segState a f l) 1 [] ∧ (segState a f l).split.phase = 0 ∧
      (segState a f l).grid.segmask = 0x80000001 ∧ (segState a f l).grid.ovlmask = 0x80000001) ∧
    HandlerReady (segState 31 false 1) ∧ (segState 31 false 1).landedAt 0 1 31 = false ∧
    (segState 31 false 0x80000001).landedAt 0 1 31 = true ∧
    segmentInUse (segState 31 false 1) 0 1 31 = false ∧ segmentInUse (segState 0 false 0) 0 1 0 = true ∧
    (segState 0 false 0).landedAt 0 1 0 = false := by
  refine ⟨fun a f l => ⟨⟨rfl, (by decide : 5 % 1024 + 1 ≤ 1023), fun _ h => (List.not_mem_nil h).elim⟩, rfl, rfl, rfl⟩,
    by unfold HandlerReady; decide, by decide⟩

theorem witness_segment_arrives :
    (∃ s : State, s.sel.idx < 32 ∧ (mapGet 0 s.core.fetching s.sel.gid).getLsbD s.sel.idx = true ∧
      ∃ pa u, resolveVa (dieOf s.sel.core) (s.gridAt s.sel.gid).asn ((s.gridAt s.sel.gid).image + 4096 * s.sel.idx) true false s =
        (.at_ pa, u) ∧ u.readFault 0 pa 4096 = none) ∧
    ∃ s : State, s.sel.idx < 32 ∧ (mapGet 0 s.core.fetching s.sel.gid).getLsbD s.sel.idx = true ∧
      ∃ u, resolveVa (dieOf s.sel.core) (s.gridAt s.sel.gid).asn ((s.gridAt s.sel.gid).image + 4096 * s.sel.idx) true false s =
        (.refused, u) := by
  refine ⟨⟨segState 0 true 1, by decide, by decide, 2 ^ 21 + 4096 * 31, _, Prod.ext (by decide +kernel) rfl, by decide +kernel⟩,
    { segState 0 true 1 with grids := [(1, { grid0 with image := 2 ^ 57 })] }, by decide, by decide, _, Prod.ext (by decide +kernel) rfl⟩

/-- A PHASE of 2^32 and of 2^32 - 1; a count past its margin; a split passed over; waiting splits. -/
theorem witness_timers :
    (∀ a f l, CanRun (segState a f l) 1 [] ∧ (segState a f l).group.sAt 1 = a) ∧
    (∃ s : State, s.group.live = true ∧ s.group.phaseOn = true ∧ s.group.margin < s.group.phaseCount ∧ s.split.st ≠ .free ∧
      s.split.search = none ∧ HandlerReady s ∧ s.group.q7.length ≤ 30) ∧
    ∃ s : State, s.group.live = true ∧ s.split.st = .ready ∧ 1024 ≤ s.split.passed ∧ s.split.starved = false := by
  refine ⟨fun a f l => ⟨(witness_segments.1 a f l).1, rfl⟩,
    ⟨queueState { asmGroup 0 [] with phaseOn := true, margin := 7, phaseCount := 8 } block0 [], by decide, by decide, by decide,
      by decide, by decide, by unfold HandlerReady; decide, by decide⟩,
    mach (group0 { split0 5 (allLanes 0) with passed := 1024 }), by decide⟩

def waiting (w : Instr) (x : DWord) (b : Block) (landed : Word) : State :=
  { State.reset with
    cores := [(0, { core0 (group0 { split0 5 (allLanes 0) with st := .blocked, wait := some w, phase := 2, wdata := x }) with
      landed := [(1, landed)], blocks := [(0, b)] })]
    grids := [(1, { grid0 with segmask := 0x80000001 })], sel := { gid := 1 } }

theorem witness_waits :
    (∀ w x b l, (waiting w x b l).canIssue = true ∧ groupMoves (waiting w x b l) 0 0 = true ∧ (waiting w x b l).split.st = .blocked ∧
      (waiting w x b l).split.phase = 2 ∧ (waiting w x b l).split.wait = some w ∧ (waiting w x b l).split.wdata = x ∧
      (waiting w x b l).split.held = false ∧ (waiting w x b l).stalledStore 0 0 (waiting w x b l).split.mask = false) ∧
    (waiting (.cwait { a := 1 }) 31 block0 1).landedAt 0 1 31 = false ∧
    (waiting (.cwait { a := 1 }) 31 block0 0x80000000).landedAt 0 1 31 = true ∧
    (waiting (.cwait { a := 1 }) 31 block0 1).grid.segmask.getLsbD 31 = true ∧
    (5 : BitVec 15).toNat % 1024 + 1 ≤ 1023 ∧
    Completed ((bar3 0 0 6).bar 3).gen 5 ∧ ¬ Completed ((bar3 0 0 6).bar 3).gen 6 :=
  ⟨fun _ _ _ _ => ⟨rfl, rfl, rfl, rfl, rfl, rfl, rfl, rfl⟩, by decide, by decide, by decide, by decide, by unfold Completed; decide⟩

/-! ### Witnesses: launch, versions, drafts -/

/-- A launch record at address 0, read in page 0: context `asn`, `nblk` blocks, one compute stage of one group, segment 0. -/
def recordMem (asn nblk : Byte) : List Host.Cell :=
  tableMem 7 0 7 ++ (([(0x200000, asn), (0x200004, nblk), (0x200008, 9), (0x200038, 1), (0x200058, 255), (0x200059, 255),
    (0x20005A, 255), (0x20005B, 255)] : List (Nat × Byte)).filter fun c => c.2 != 0)

/-- S4 the record's address, S6 another operand; versions 1 live, 2 closed below it, 3 committed, 4 squashed. -/
def launchState (asn nblk : Byte) (a b : DWord) (v : Nat) (held : BitVec 8) (more : Map Grid) : State :=
  { State.reset with
    mem := recordMem asn nblk, xl := { ptbase := [(0, 0x2000)], anchbase := [(0, 0x1000)] }
    cores := [(0, core0 { plain with s := [(4, a), (6, b)], vid := v })], grids := (1, grid0) :: more, sel := { gid := 1 }
    north := { held_ := held }
    vers := { vsen := true, vsbase := 0x200000000000, tab := [(1, { st := .live }), (2, { st := .closed, parent := 1, depth := 2 }), (3, { st := .committed }),
      (4, { st := .squashed })] } }

def uw2 : UR2 := { i := 0, d := 20, a := 4 }
def uw3 : UR3 := { i := 0, d := 20, a := 4, b := 6 }

def isOk : RecordAnswer → Bool
  | .ok _ => true
  | _ => false
theorem ok_of {a : RecordAnswer × State} (h : isOk a.1 = true) : ∃ r u, a = (.ok r, u) := by
  obtain ⟨a, u⟩ := a
  cases a with
  | ok r => exact ⟨r, u, rfl⟩
  | _ => cases h

theorem fits_uni {g : Group} (l : List (Nat × Nat)) (h : ∀ x ∈ l, x.1 + x.2 ≤ 128) :
    Fits g (l.map fun x => { uni := true, first := x.1, run := x.2 }) := by
  unfold Fits
  intro r hr
  obtain ⟨x, hx, rfl⟩ := List.mem_map.1 hr
  simpa using h x hx

theorem launch_can_run (asn nblk : Byte) (a b : DWord) (v : Nat) (held : BitVec 8) (more : Map Grid) :
    let s := launchState asn nblk a b v held more
    CanRun s 1 (uw2.refs s.group) ∧ CanRun s 1 (uw3.refs s.group) ∧ s.drained = true ∧ s.split.phase = 0 ∧ s.group.sAt 4 = a ∧
      s.group.sAt 6 = b :=
  ⟨⟨rfl, (by decide : 5 % 1024 + 1 ≤ 1023), fits_uni [(20, 1), (4, 1)] (by decide)⟩,
    ⟨rfl, (by decide : 5 % 1024 + 1 ≤ 1023), fits_uni [(20, 1), (4, 1), (6, 1)] (by decide)⟩, rfl, rfl, rfl, rfl⟩

/-- An accepted record, one of another context, one without a block; a full launch engine and one short of it. -/
theorem witness_launch :
    (∃ r u, checkRecord 0 (Unmarked (launchState 0 1 0 0 0 0 [])) = (.ok r, u)) ∧
    (∃ u, checkRecord 0 (Unmarked (launchState 5 1 0 0 0 0 [])) = (.fault, u)) ∧
    (∃ u, checkRecord 0 (Unmarked (launchState 0 0 0 0 0 0 [])) = (.code 2, u)) ∧
    (launchState 0 1 0 0 0 0 ((List.range 255).map fun i => (i + 2, {}))).launchHeld 0 = 256 ∧
    (launchState 0 1 0 0 0 0 ((List.range 254).map fun i => (i + 2, {}))).launchHeld 0 < 256 ∧
    (launchState 0 1 0 0 0 0 []).group.priv = false :=
  ⟨ok_of (by decide +kernel), ⟨_, rfl⟩, ⟨_, rfl⟩, by decide +kernel,
    by decide +kernel, rfl⟩

/-- A parent that is neither live nor closed, no permit left, and a SPAWN that goes. -/
theorem witness_spawn :
    ((launchState 0 1 0 3 0 0 []).ver 3).st ≠ .live ∧ ((launchState 0 1 0 3 0 0 []).ver 3).st ≠ .closed ∧
    (launchState 0 1 0 0 0 0 []).group.vid = 0 ∧
    min ((launchState 0 1 0 0 0 255 []).dieAt 0).cap.toNat ((launchState 0 1 0 0 0 255 []).dieAt 0).limit.toNat ≤
      ((launchState 0 1 0 0 0 255 []).dieAt 0).held_.toNat ∧
    ∃ r z, checkRecord 0 (Unmarked (launchState 0 1 0 1 0 0 [])) = (.ok r, z) ∧ spawnRefusal r 1 z = 0 := by
  refine ⟨by decide, by decide, rfl, by decide, ?_⟩
  obtain ⟨r, z, h⟩ := ok_of (a := checkRecord 0 (Unmarked (launchState 0 1 0 1 0 0 []))) (by decide +kernel)
  refine ⟨r, z, h, ?_⟩
  have h2 : (match checkRecord 0 (Unmarked (launchState 0 1 0 1 0 0 [])) with
    | (.ok r, z) => spawnRefusal r 1 z | _ => 1) = 0 := by decide +kernel
  rwa [h] at h2

/-- RESOLVE of VID 256, in a version, of a committed version, of an open one. -/
theorem witness_resolve :
    (launchState 0 1 2 0 1 0 []).group.vid ≠ 0 ∧ ((launchState 0 1 3 0 0 0 []).ver 3).st = .committed ∧
    ((launchState 0 1 1 32 0 0 []).ver 1).open_ = true ∧ ((launchState 0 1 1 32 0 0 []).ver 1).foreign = false ∧
    ((launchState 0 1 1 32 0 0 []).ver 1).asn = (launchState 0 1 1 32 0 0 []).group.asn := by decide

/-- A RESOLVE that waits in phase `p` with `v` kept; versions 1 and 2 in states `x`, `y`, 5 beside 1. -/
def resolving (v : DWord) (p : Nat) (x y : VSt) : State :=
  tabled 7 0 7 { State.reset with
    cores := [(0, core0 (group0 { split0 5 (allLanes 0) with st := .blocked, wait := some (.resolve uw3), phase := p, wdata := v }))]
    grids := [(1, grid0)], sel := { gid := 1 }
    vers := { tab := [(1, { st := x }), (2, { st := y, parent := 1 }), (5, { st := .live })], sweep := [1] } }

theorem witness_resolve_step :
    (∀ v p x y, (resolving v p x y).split.wait = some (.resolve uw3) ∧ (resolving v p x y).split.phase = p ∧
      (resolving v p x y).group.live = true ∧ (resolving v p x y).split.wdata = v ∧ (resolving v p x y).vers.acks = [] ∧
      (resolving v p x y).split.pc.toNat % 1024 + 1 ≤ 1023) ∧
    ResolveHolds (resolving 2 6 .live .closed) 2 2 ∧ ResolveGoes (resolving 2 6 .closed .closed) 2 2 ∧
    ResolveGoes (resolving 3 6 .live .live) 2 3 ∧ ((resolving 0 6 .closed .committed).ver 2).st = .committed ∧
    (∃ u ∈ ((resolving 0 6 .squashed .closed).ancestors 2).reverse, ((resolving 0 6 .squashed .closed).ver u).st = .squashed) ∧
    (∀ l, NoChains { resolving 0 6 .closed .closed with vers := { (resolving 0 6 .closed .closed).vers with lag := l } }) ∧
    ((resolving 0 6 .closed .closed).ancestors 2).length < 256 ∧
    (resolving 0 6 .closed .closed).grid.firstRefused false (2 ^ 57) 32 = some (2 ^ 57) ∧
    (resolving 2 3 .committed .closed).vers.sweep = [1] ∧ vidInFlight (resolving 2 3 .committed .closed) 1 = false ∧
    (resolving 2 3 .committed .closed).vers.lag = none :=
  ⟨fun _ _ _ _ => ⟨rfl, rfl, rfl, rfl, rfl, (by decide : 5 % 1024 + 1 ≤ 1023)⟩, by unfold ResolveHolds; decide +kernel,
    by unfold ResolveGoes; decide +kernel, by unfold ResolveGoes; decide +kernel, by decide, by decide +kernel,
    fun l d c _ x _ => by
      have h : ∀ v, ((resolving 0 6 .closed .closed).ver v).kvhead = BitVec.allOnes 32 := fun v => by
        by_cases h1 : v = 1
        · subst h1; decide
        by_cases h2 : v = 2
        · subst h2; decide
        by_cases h5 : v = 5
        · subst h5; decide
        unfold State.ver resolving tabled
        simp [mapGet, Ne.symm h1, Ne.symm h2, Ne.symm h5]
      exact h x.1,
    by decide +kernel⟩

/-- The selection that stands for the other die's step names no waiting RESOLVE. -/
theorem witness_other_die (f : UR3) : ({ State.reset with sel := { core := 416 } } : State).split.wait ≠ some (.resolve f) := by
  have h : ({ State.reset with sel := { core := 416 } } : State).split.wait = none := by decide +kernel
  simp [h]

/-- Between the two dies' steps, version 1's copy of a line is committed for the slices of one die only (R252). -/
def splitStep (line : Nat) : State :=
  { State.reset with
    vers := { tab := [(1, { st := .committed })], lag := some (1, [(1, .closed)]) }
    copies := [{ line, vid := 1, bytes := [(0, 7)] }] }

theorem test_one_die_sees_the_commit :
    (splitStep 0).newestCommitted 0 ≠ none ∧ (splitStep (2 ^ 36)).newestCommitted (2 ^ 36) = none := by decide

/-- A RESOLVE without a bitmap, and one whose bitmap lies in page 0. -/
theorem witness_bitmaps : BitmapOf (resolving 0 6 .closed .closed) 0 none ∧
    ∃ bs, BitmapOf (resolving 32 6 .closed .closed) 32 (some bs) :=
  ⟨.inl ⟨rfl, rfl⟩, _, .inr ⟨by decide, by decide +kernel, by decide +kernel, _, _, rfl, rfl⟩⟩

/-- VQUERY of the root, of a live version, of one of another context. -/
theorem witness_vquery : ∃ s : State, CanRun s 1 [uniRef s.group 0 20 2, uniRef s.group 0 4] ∧
    s.dieAt (dieOf s.sel.core) = s.north ∧ (s.ver 1).st ≠ .free ∧ (s.ver 1).asn = s.group.asn ∧ (s.ver 6).asn ≠ s.group.asn ∧
    s.group.priv = false := by
  refine ⟨{ launchState 0 1 0 0 0 0 [] with vers := { tab := [(1, { st := .live }), (6, { st := .live, asn := 9 })] } },
    ⟨rfl, by decide, fits_uni [(20, 2), (4, 1)] (by decide)⟩, rfl, by decide, by decide, by decide, rfl⟩

/-- Draft queue 3 holds `q` with `budget`; S4 and S6 as given; the token generation of slot 63 is 5. -/
def draftState (a b : DWord) (budget : Nat) (q : List DWord) : State :=
  { launchState 0 1 a b 0 0 [] with north := { drafts := [(3, { budget, q })], trbar := [(63, 5)] } }

theorem draft_can_run (a b : DWord) (budget : Nat) (q : List DWord) :
    let s := draftState a b budget q
    CanRun s 1 (uw2.refs s.group) ∧ CanRun s 1 (uw3.refs s.group) ∧ s.drained = true ∧ s.split.phase = 0 ∧
      dieOf s.sel.core < 2 ∧ s.group.sAt 4 = a ∧ s.group.sAt 6 = b ∧ (s.dieAt 0).draft 3 = { budget, q } ∧
      (s.dieAt 0).tokenGen 63 = 5 :=
  ⟨⟨rfl, (by decide : 5 % 1024 + 1 ≤ 1023), fits_uni [(20, 1), (4, 1)] (by decide)⟩,
    ⟨rfl, (by decide : 5 % 1024 + 1 ≤ 1023), fits_uni [(20, 1), (4, 1), (6, 1)] (by decide)⟩, rfl, rfl,
    (by decide : dieOf 0 < 2), rfl, rfl, rfl, rfl⟩

/-- A NaN key and a number; 255 and 256 entries; an entry above the lowest and one that is not; a budget of 0 and of 1;
a command that resets the queue; generations reached and not. -/
theorem witness_drafts :
    nanKey 0x7FC00000 ∧ ¬ nanKey 0x3F800000 ∧ (∀ y ∈ List.replicate 256 (0x3F800000 : DWord), ¬ nanKey y) ∧
    Above 0x40000000 0x3F800000 ∧ ¬ Above 0x3F800000 0x3F800000 ∧ ¬ Above 0x3F000000 0x3F800000 ∧
    Lowest [0x40000000, 0x3F800000] 0x3F800000 ∧ Highest [0x40000000, 0x3F800000] 0x40000000 ∧
    (5 - (BitVec.ofNat 16 5)).toNat < 32768 ∧ 32768 ≤ (5 - (BitVec.ofNat 16 6)).toNat ∧ 0x2000007 / 2 ^ 25 % 2 = 1 ∧
    0x2000007 < 2 ^ 26 := by
  have hn : ¬ nanKey 0x3F800000 := by unfold nanKey; decide
  have ha : Above 0x40000000 0x3F800000 := .inl (by decide)
  have hb : ¬ Above 0x3F800000 0x3F800000 := by unfold Above; decide
  have hc : ¬ Above 0x3F800000 0x40000000 := by unfold Above; decide
  have hd : ¬ Above 0x40000000 0x40000000 := by unfold Above; decide
  refine ⟨by unfold nanKey; decide, hn, fun y h => List.eq_of_mem_replicate h ▸ hn, ha, hb, by unfold Above; decide,
    ⟨by decide, fun x h => ?_⟩, ⟨by decide, fun x h => ?_⟩, by decide⟩ <;> fin_cases h <;> assumption

/-! ### Witnesses: walker instructions, holds, side information -/

/-- Bytes of a node at `n` of page 0: parent, first position, run, count, VID, flags (R83). -/
def nodeCells (n : Nat) (parent start run count vid flags : Byte) : List Host.Cell :=
  ([(2 ^ 21 + n, parent), (2 ^ 21 + n + 8, start), (2 ^ 21 + n + 12, run), (2 ^ 21 + n + 14, count), (2 ^ 21 + n + 112, vid),
    (2 ^ 21 + n + 113, flags)] : List (Nat × Byte)).filter fun c => c.2 != 0

/-- Memory of `nodes`; S4 a node, S6 a position or pool, in the version `v`. -/
def kvState (nodes : List Host.Cell) (a b : DWord) (v : Nat) : State :=
  { launchState 0 0 a b v 0 [] with mem := tableMem 7 0 7 ++ nodes }

theorem kv_can_run (nodes : List Host.Cell) (a b : DWord) (v : Nat) :
    let s := kvState nodes a b v
    CanRun s 1 (uw3.refsPair s.group) ∧ CanRun s 1 (uw3.refs s.group) ∧ s.drained = true ∧ s.split.phase = 0 ∧
      s.group.sAt 4 = a ∧ s.group.sAt 6 = b :=
  ⟨⟨rfl, (by decide : 5 % 1024 + 1 ≤ 1023), fits_uni [(20, 2), (4, 1), (6, 1)] (by decide)⟩,
    ⟨rfl, (by decide : 5 % 1024 + 1 ≤ 1023), fits_uni [(20, 1), (4, 1), (6, 1)] (by decide)⟩, rfl, rfl, rfl, rfl⟩

/-- Leaf at 0x80 of positions 5 and 6, in version `v`, whose parent at 0x20 begins at `start`; flags of the leaf. -/
def twoNodes (start vid flags : Byte) : List Host.Cell := nodeCells 0 0 start 4 0 0 0 ++ nodeCells 128 0 5 2 2 vid flags
def leaf (vid flags : Nat) : KvNode := { parent := 0, start := 5, run := 2, count := 2, page := 0, vid, flags }

/-- The leaf alone holds 5 and 6: position 5 is found, in a committed leaf and in a version's; 7 lies beyond, 4 before. -/
theorem witness_kvwalk :
    (∃ u y, NodeAt (kvState (twoNodes 0 0 0) 128 5 0) (unitOf (kvState (twoNodes 0 0 0) 128 5 0) 128) 128 (leaf 0 0) u ∧
      Writable u (unitOf (kvState (twoNodes 0 0 0) 128 5 0) 128) (128 + 104) 8 (2 ^ 21 + 232) y) ∧
    (∃ u, NodeAt (kvState (twoNodes 0 1 0) 128 5 0) (unitOf (kvState (twoNodes 0 1 0) 128 5 0) 128) 128 (leaf 1 0) u) ∧
    (∃ u, NodeAt (kvState (twoNodes 0 0 2) 128 5 0) (unitOf (kvState (twoNodes 0 0 2) 128 5 0) 128) 128 (leaf 0 2) u) ∧
    (leaf 0 0).free = false ∧ (leaf 0 2).free = true ∧ (leaf 0 0).run ≤ 16 := by
  refine ⟨⟨_, _, rfl, rfl, by decide +kernel, by decide +kernel, clear_of rfl rfl (by decide)⟩, ⟨_, rfl⟩, ⟨_, rfl⟩, rfl, rfl, by decide⟩

/-- A leaf at 0x100 below a node of positions 1 to 2 at 0x80: 2 is found above, 3 is in a gap, 0 below everything. -/
def chain : List Host.Cell := nodeCells 128 0 1 2 0 0 0 ++ nodeCells 256 128 4 2 1 0 0

theorem witness_kvwalk_climbs : ∀ p ∈ ([0, 2, 3] : List DWord), ∃ e x : KvNode,
    let s := kvState chain 256 p 0
    (∃ u z, NodeAt s (unitOf s 256) 256 e u ∧ Climb (unitOf s 256) u e [x] z) ∧ e.start = 4 ∧ x.start = 1 ∧ x.run = 2 ∧ x.parent = 0 ∧
      e.free = false ∧ x.free = false :=
  fun p hp => ⟨{ parent := 128, start := 4, run := 2, count := 1, page := 0, vid := 0, flags := 0 },
    { parent := 0, start := 1, run := 2, count := 0, page := 0, vid := 0, flags := 0 }, by
      fin_cases hp <;> exact ⟨⟨_, _, rfl, by decide, _, rfl, rfl⟩, rfl, rfl, rfl, rfl, rfl, rfl⟩⟩

/-- A leaf of count 2, one of count 0, one of a version, one pending, one freed, one of no positions. -/
theorem witness_kv_pool :
    (∀ c f, c ∈ [0, 1] → f ∈ [0, 2, 4] →
      ∃ u, NodeAt (Unmarked (kvState (twoNodes 0 (BitVec.ofNat 8 c) (BitVec.ofNat 8 f)) 128 0 0))
        (unitOf (Unmarked (kvState (twoNodes 0 (BitVec.ofNat 8 c) (BitVec.ofNat 8 f)) 128 0 0)) 0) 128 (leaf c f) u) ∧
    (∃ u, NodeAt (Unmarked (kvState (nodeCells 128 0 5 0 0 0 0) 128 0 0)) (unitOf (Unmarked (kvState (nodeCells 128 0 5 0 0 0 0) 128 0 0)) 0)
      128 { parent := 0, start := 5, run := 0, count := 0, page := 0, vid := 0, flags := 0 } u) ∧
    (leaf 0 0).count = 2 ∧ (leaf 0 4).pend = true ∧ (leaf 0 2).free = true ∧
    ∃ u z y, let s := Unmarked (kvState (twoNodes 0 0 0) 128 0 0)
      ((unitOf s 0).node 0 128).on s = .ok (leaf 0 0, u) ∧ ((unitOf s 0).node 0 128).on u = .ok (leaf 0 0, z) ∧
      Writable z (unitOf s 0) (128 + 14) 2 (2 ^ 21 + 142) y := by
  refine ⟨fun c f hc hf => by fin_cases hc <;> fin_cases hf <;> exact ⟨_, rfl⟩, ⟨_, rfl⟩, rfl, rfl, rfl,
    _, _, _, rfl, rfl, rfl, by decide +kernel, by decide +kernel, clear_of rfl rfl (by decide)⟩

theorem witness_kvfork : ∀ (p c : DWord) (v : Nat), ∃ s : State, ∃ f : KvforkForm, CanRun s 1 (f.refs s.group) ∧ s.drained = true ∧
    s.split.phase = 0 ∧ s.group.vid = v ∧ s.group.sAt 4 = p ∧ s.group.sAt 5 = c :=
  fun p c v => ⟨{ kvState [] 0 0 v with cores := [(0, core0 { plain with s := [(4, p), (5, c)], vid := v })] },
    { i := 0, d := 20, a := 4, k := 1 }, ⟨rfl, (by decide : 5 % 1024 + 1 ≤ 1023), fits_uni [(20, 1), (4, 2)] (by decide)⟩,
    rfl, rfl, rfl, rfl, rfl⟩

/-- S4 is `va`; the grid holds `holds`; the page's entry has HOLD `hold`. -/
def pinState (va : DWord) (holds : List Nat) (hold : Byte) : State :=
  { launchState 0 0 va 0 0 0 [] with mem := tableMem 7 hold 7, grids := [(1, { grid0 with holds })] }
/-- The core holds a translation of page 0 of a generation before its frame's, and the page has no entry any more. -/
def pinMoved : State :=
  { pinState 0 [] 0 with
    mem := tableMem 7 0 3
    cores := [(0, { core0 { plain with s := [(4, 0)] } with
      tlb := [{ asn := 0, vpn := 0, stack := 0, frame := 1, perm := 3, gen := 6 }] })] }
def pinEntry (hold : Nat) : Pte := BitVec.ofNat 256 (7 * 2 ^ 48 + (2 ^ 32 - 1) * 2 ^ 64 + hold * 2 ^ 128 + 7 * 2 ^ 136)

/-- An address outside the lease and the last one inside; HOLD 0, 254 and 255; 15 and 16 holds; held and not held. -/
theorem witness_pins :
    (∀ va holds h, CanRun (pinState va holds h) 1 (uw2.refs (pinState va holds h).group) ∧ (pinState va holds h).group.sAt 4 = va ∧
      (pinState va holds h).grid.holds = holds) ∧
    (pinState 0 [] 0).grid.permits false (2 ^ 40) = false ∧ (pinState 0 [] 0).grid.permits false 0 = true ∧
    (∀ h ∈ [0, 254, 255], ∃ u, PageIs (pinState 0 [] (BitVec.ofNat 8 h)) 0 0 1 7 u ∧ u.staleGen (physOf 0 1 0) 7 = none ∧
      u.pte 0 1 = pinEntry h ∧ (pinEntry h).getLsbD 136 = true ∧ (pinEntry h).toNat / 2 ^ 128 % 256 = h ∧ EntryPlain u 0 1) ∧
    (∃ u w, PageIs pinMoved 0 0 1 6 u ∧ u.staleGen (physOf 0 1 0) 6 = some 7 ∧
      walk 0 0 (vpnOf 0) (some 7) (dropTlb 0 0 (vpnOf 0) (endIdem u)) = (.none, w)) ∧
    (List.replicate 15 7).length < 16 ∧ 16 ≤ (List.replicate 16 7).length ∧ vpnOf 0 ∉ ([] : List Nat) ∧ vpnOf 0 ∈ [0] := by
  refine ⟨fun va holds h => ⟨⟨rfl, (by decide : 5 % 1024 + 1 ≤ 1023), fits_uni [(20, 1), (4, 1)] (by decide)⟩, rfl, rfl⟩, by decide,
    by decide, fun h hh => ?_, ⟨_, _, ⟨_, rfl, rfl, rfl, rfl⟩, by decide, Prod.ext (by decide +kernel) rfl⟩, by decide⟩
  · have he : ∃ u, translate 0 0 0 (pinState 0 [] (BitVec.ofNat 8 h)) = (.ok { asn := 0, vpn := 0, stack := 0, frame := 1, perm := 3, gen := 7 }, u) ∧
        u.staleGen (physOf 0 1 0) 7 = none ∧ u.pte 0 1 = pinEntry h ∧ u.pteAddr 0 1 = 0x2020 ∧ Memory.wf u.mem = true ∧ u.copies = [] ∧
        u.vers.vsbase = 0x200000000000 := by
      fin_cases hh <;> exact ⟨_, rfl, by decide +kernel, by decide +kernel, by decide +kernel, by decide +kernel, rfl, rfl⟩
    obtain ⟨u, h1, h2, h3, h4, h5, h6, h7⟩ := he
    refine ⟨u, ⟨_, h1, rfl, rfl, rfl⟩, h2, h3, ?_, ?_, by rw [h4], by rw [h4]; exact ⟨h5, by simp [h6], clear_of h7 h6 (by decide)⟩⟩ <;>
      fin_cases hh <;> decide

/-- S4, S5 of a SITREG; entries `l`. -/
def sitState (va x : DWord) (v : Nat) (l : List SitEntry) : State :=
  { launchState 0 0 0 0 0 0 [] with mem := tableMem 7 0 7, sit := l, cores := [(0, core0 { plain with s := [(4, va), (5, x)], vid := v })] }
def sit0 (blk : Nat) : SitEntry := { asn := 0, blk, gid := 1, va := 0, len := 1, crc := 0 }

/-- A reserved bit; a version; lengths 0, 4,096 and 4,097; a read block; a table with the block, a full one without. -/
theorem witness_sit :
    (∀ va x v l, CanRun (sitState va x v l) 1 [uniRef (sitState va x v l).group 0 20, uniRef (sitState va x v l).group 0 4 2] ∧
      (sitState va x v l).group.sAt 4 = va ∧ (sitState va x v l).group.sAt 5 = x ∧ (sitState va x v l).group.vid = v ∧
      (sitState va x v l).sit = l) ∧
    (0x100000000007 : Nat) < 2 ^ 45 ∧ 0x100000000007 / 2 ^ 32 % 2 ^ 13 = 4096 ∧ 0x100100000007 / 2 ^ 32 % 2 ^ 13 = 4097 ∧
    (∃ bs u, (sitState 0 0x100000007 0 [sit0 7]).ownStoreAt 0 0 1 = false ∧
      readVa 0 0 0 0 1 (Unmarked (sitState 0 0x100000007 0 [sit0 7])) = (.ok bs, u)) ∧
    (∃ s : State, s.ownStoreAt 0 0 1 = true) ∧
    (∃ y ∈ [sit0 7], y.asn = 0 ∧ y.blk = 7) ∧ (∀ y ∈ List.replicate 4096 (sit0 9), ¬ (y.asn = 0 ∧ y.blk = 7)) ∧
    4096 ≤ (List.replicate 4096 (sit0 9)).length :=
  ⟨fun va x v l => ⟨⟨rfl, (by decide : 5 % 1024 + 1 ≤ 1023), fits_uni [(20, 1), (4, 2)] (by decide)⟩, rfl, rfl, rfl, rfl⟩,
    by decide, by decide, by decide, ⟨_, _, by decide, rfl⟩, ⟨homed [] { req0 .store with pa := 1 }, by decide⟩, by decide,
    fun y h => List.eq_of_mem_replicate h ▸ by decide, List.length_replicate.ge⟩

/-! ### Witnesses: engines -/

theorem pair_of {α β : Type} {p : α × β} {a : α} (h : p.1 = a) : p = (a, p.2) := Prod.ext h rfl

def isRight {α β : Type} : Except α β → Bool
  | .ok _ => true
  | .error _ => false
theorem right_of {α β : Type} {a : Except α β} (h : isRight a = true) : ∃ x, a = .ok x := by
  cases a with
  | ok x => exact ⟨x, rfl⟩
  | error _ => cases h
theorem left_of {α β : Type} {a : Except α β} (h : isRight a = false) : ∃ x, a = .error x := by
  cases a with
  | ok _ => cases h
  | error x => exact ⟨x, rfl⟩

/-- Command `c` stands first in queue `q` of core 0; bytes `sh` in its block's shared space; page 0 with `flags`. -/
def engState (q : Nat) (c : Cmd) (sh : Map Byte) (flags : Byte) : State :=
  tabled 7 0 flags (extended { State.reset with
    cores := [(0, { core0 plain with eng := [(q, [c])], blocks := [(0, { block0 with shared := sh })] })]
    grids := [(1, grid0)], sel := { gid := 1, idx := q } })

/-- A command with source and destination records in spaces `a` and `b`, bases `x` and `y`, 4,096 bytes each. -/
def cmdOf (w0 w1 w2 : DWord) (a x b y : Nat) : Cmd :=
  { cmd0 w0 3 with w1, w2, srec := mkRec x 4096 0 a 5, drec := mkRec y 4096 0 b 5 }
/-- COPY of 4 bytes from 4,094 on: two beyond the extent (R97). -/
def copy4 (a b : Nat) : Cmd := cmdOf 0x400000001 0xFFE 0 a 0 b 0
/-- GATHER of one row of 4 bytes, its index at 8. -/
def gather1 : Cmd := cmdOf 0x1000400000002 8 0 0 0 1 256

/-- The pages of a command on queue `q` are translated and its moves computed, and these pass `P`. -/
def movesPass (q : Nat) (c : Cmd) (pairs : List (Nat × Nat)) (P : Map Xlated → State → List Move → Bool) (s : State) : Bool :=
  match commandPages 0 q c (pairVas c pairs s) s with
  | (.ok pages, u) => match moveBytes 0 c pages u pairs with
    | .ok l => P pages u l
    | .error _ => false
  | _ => false

theorem moves_of {q : Nat} {c : Cmd} {pairs : List (Nat × Nat)} {P : Map Xlated → State → List Move → Bool} {s : State}
    (h : movesPass q c pairs P s = true) : ∃ pages u l, Translated s 0 q c (pairVas c pairs s) pages u ∧
      moveBytes 0 c pages u pairs = .ok l ∧ P pages u l = true := by
  unfold movesPass at h
  split at h
  · rename_i pages u hp
    split at h
    · rename_i l hl
      exact ⟨pages, u, l, hp, hl, h⟩
    · cases h
  · cases h

/-- The lines the moves write have room and no bad sector. -/
def canWrite (c : Cmd) (_ : Map Xlated) (u : State) (l : List Move) : Bool :=
  (linesWritten l).all (fun x => (u.storeFault c.vid x).isNone) && u.roomLines c.vid 0 (linesWritten l)
/-- No committed copy waits on a line of theirs. -/
def settled (u : State) (l : List Move) : Bool :=
  l.all fun m => (match m.src with | .mem pa => (u.newestCommitted (lineOf pa)).isNone | _ => true) &&
    match m.dst with | .mem pa => (u.newestCommitted (lineOf pa)).isNone | _ => true

theorem settled_of {u : State} {l : List Move} (h : settled u l = true) : LinesSettled u l := by
  intro m hm pa hp
  obtain ⟨h1, h2⟩ := Bool.and_eq_true_iff.1 (List.all_eq_true.1 h m hm)
  rcases hp with hp | hp
  · rw [hp] at h1; exact Option.isNone_iff_eq_none.1 h1
  · rw [hp] at h2; exact Option.isNone_iff_eq_none.1 h2

theorem witness_copy :
    (∀ c ∈ [copy4 0 1, copy4 1 0], Starts (engState 0 c [] 7) 1 c ∧ Memory.wf (engState 0 c [] 7).mem = true ∧
      Memory.wf (engState 0 c [] 7).block.shared = true ∧ Memory.wf (engState 0 c [] 7).block.tile = true ∧
      ∃ pages u l, Translated (engState 0 c [] 7) 0 0 c (pairVas c (copyPairs c 4) (engState 0 c [] 7)) pages u ∧
        moveBytes 0 c pages u (copyPairs c 4) = .ok l ∧ canWrite c pages u l = true ∧ LinesSettled u l) ∧
    (∃ pages u, Translated (engState 0 (copy4 1 0) [] 1) 0 0 (copy4 1 0) (pairVas (copy4 1 0) (copyPairs (copy4 1 0) 4)
      (engState 0 (copy4 1 0) [] 1)) pages u ∧ ∃ e, moveBytes 0 (copy4 1 0) pages u (copyPairs (copy4 1 0) 4) = .error e) ∧
    ∃ s : State, s.deadVid 1 = true := by
  refine ⟨fun c h => ?_, ⟨_, _, rfl, left_of (by decide +kernel)⟩, versioned .squashed State.reset, by decide⟩
  have hp : movesPass 0 c (copyPairs c 4) (fun p u l => canWrite c p u l && settled u l) (engState 0 c [] 7) = true := by
    fin_cases h <;> decide +kernel
  obtain ⟨pages, u, l, h1, h2, h3⟩ := moves_of hp
  obtain ⟨h3, h4⟩ := Bool.and_eq_true_iff.1 h3
  refine ⟨⟨?_, ?_, fun x hx _ => List.mem_singleton.1 hx⟩, ?_, rfl, rfl, pages, u, l, h1, h2, h3, settled_of h4⟩ <;>
    fin_cases h <;> decide +kernel

theorem witness_gather : Starts (engState 0 gather1 [(8, 3)] 7) 2 gather1 ∧
    ∃ pairs, gatherPairs 0 gather1 (engState 0 gather1 [(8, 3)] 7) (List.range (gather1.w0.toNat / 2 ^ 48)) = .ok pairs :=
  ⟨⟨by decide +kernel, by decide, fun x h _ => List.mem_singleton.1 h⟩, right_of (by decide +kernel)⟩

/-- FIFOFILL of `n` units of integer data of two planes into FIFO 2. -/
def fillFrom (space n : Nat) : Cmd := cmdOf (BitVec.ofNat 64 (3 + 2 ^ 22 + 2 ^ 32 * n)) 0 0x10008 space 0 1 0
def fill (n : Nat) : Cmd := fillFrom 1 n

/-- The same with its source read, and `n` of its units appended. -/
def filling (units n : Nat) : Cmd := { fill units with taken := some (List.replicate (224 * units) (0, false)), count := n }
/-- FIFO 2 holds a stream of one unit of `n` bytes. -/
def fifoState (c : Cmd) (n : Nat) : State :=
  let s := engState 0 c [] 7
  { s with cores := [(0, { s.coreAt 0 with blocks := [(0, { block0 with fifos := [(2, [{ hdr := 0x10008, units := [List.replicate n 0] }])] })] })] }

/-- The command's pages are translated, and these pass `P`. -/
def pagesPass (c : Cmd) (vas : List Nat) (P : Map Xlated → State → Bool) (s : State) : Bool :=
  match commandPages 0 0 c vas s with
  | (.ok pages, u) => P pages u
  | _ => false
theorem pages_of {c : Cmd} {vas : List Nat} {P : Map Xlated → State → Bool} {s : State} (h : pagesPass c vas P s = true) :
    ∃ pages u, Translated s 0 0 c vas pages u ∧ P pages u = true := by
  unfold pagesPass at h
  split at h
  · rename_i pages u hp
    exact ⟨pages, u, hp, h⟩
  · cases h

/-- A source read, one of a page that may not be read; the last unit appended, and one to come with room and without. -/
theorem witness_fifofill :
    (∀ n ∈ [0, 1], Starts (engState 0 (fill n) [] 7) 3 (fill n) ∧ (fill n).taken = none ∧ (fill n).w0.getLsbD 24 = false) ∧
    (let offs := List.range (96 * 2) ++ (List.range 32).map (· + 768)
     (∃ pages u, Translated (engState 0 (fill 1) [] 7) 0 0 (fill 1) (recVas (engState 0 (fill 1) [] 7) (fill 1).srec offs) pages u ∧
        ∃ bs, firstFailure (offs.map fun o => sourceByte 0 (fill 1) pages o u) = .ok bs) ∧
      ∃ pages u, Translated (engState 0 (fillFrom 0 1) [] 4) 0 0 (fillFrom 0 1)
          (recVas (engState 0 (fillFrom 0 1) [] 4) (fillFrom 0 1).srec offs) pages u ∧
        ∃ e, firstFailure (offs.map fun o => sourceByte 0 (fillFrom 0 1) pages o u) = .error e) ∧
    (∀ n ∈ [0, 1], Starts (fifoState (filling 1 n) 0) 3 (filling 1 n) ∧ (filling 1 n).taken.isSome = true ∧ (filling 1 n).count = n) ∧
    fifoUsed [({ hdr := 0x10008, units := [List.replicate 0 0] } : Stream)] + 224 ≤ (fifoState (filling 1 0) 0).block.fifoBytes ∧
    (∃ b : Block, b.fifoBytes < fifoUsed [({ hdr := 0x10008, units := List.replicate 123 (List.replicate 800 0) } : Stream)] + 224) := by
  refine ⟨fun n h => ?_, ⟨?_, ?_⟩, fun n h => ?_, by decide +kernel, { block0 with tileBytes := 0 }, by decide +kernel⟩
  · fin_cases h <;> exact ⟨⟨by decide +kernel, by decide, fun x h _ => List.mem_singleton.1 h⟩, rfl, by decide⟩
  · exact ⟨_, _, rfl, right_of (by decide +kernel)⟩
  · obtain ⟨pages, u, h, hp⟩ := pages_of (P := fun pages u => !isRight (firstFailure ((List.range (96 * 2) ++
        (List.range 32).map (· + 768)).map fun o => sourceByte 0 (fillFrom 0 1) pages o u))) (s := engState 0 (fillFrom 0 1) [] 4)
      (c := fillFrom 0 1) (vas := recVas (engState 0 (fillFrom 0 1) [] 4) (fillFrom 0 1).srec (List.range (96 * 2) ++
        (List.range 32).map (· + 768))) (by decide +kernel)
    exact ⟨pages, u, h, left_of (by simpa using hp)⟩
  · fin_cases h <;> exact ⟨⟨by decide +kernel, by decide, fun x h _ => List.mem_singleton.1 h⟩, rfl, rfl⟩

/-- DEMOTE of page 0 to frame 2 of stack 8, and REQUANT to frame 2 of stack 0 (R99). -/
def demote0 (st : CmdSt) : Cmd := { cmdOf 0x40006 0 0 0 0 0 0 with st }
def requant0 : Cmd := cmdOf 0x200007 0 4 0 0 0 0
def roEntry : Pte := BitVec.ofNat 256 (7 * 2 ^ 48 + (2 ^ 32 - 1) * 2 ^ 64 + 5 * 2 ^ 136)

/-- The entry of frame 1 with its flags. -/
def frameEntry (f : Byte) : Pte := BitVec.ofNat 256 (7 * 2 ^ 48 + (2 ^ 32 - 1) * 2 ^ 64 + f.toNat * 2 ^ 136)

/-- With no bad sector, no read meets one. -/
theorem no_fault {s : State} (h : s.badSectors = []) (v pa n : Nat) : s.readFault v pa n = none := by
  unfold State.readFault
  split
  · rfl
  · exact List.findSome?_eq_none_iff.2 fun l _ => by unfold State.lineFault; split <;> simp [h]

theorem no_source_fault {c : Cmd} {st fr : Nat} {e : Pte} {s : State}
    (hl : bits64 c.w1 0 57 + 2 ^ 21 ≤ (s.gridAt c.gid).coveredTo false ((s.gridAt c.gid).ranges.length + 1) (bits64 c.w1 0 57))
    (hp : permOk (ptePerm st e) true false = true) (hb : s.badSectors = []) : sourceFault c st fr e s = none := by
  simp [sourceFault, hp, no_fault hb]
  exact hl

/-- The read-only page 0 may be moved by the command. -/
def MayMove (c : Cmd) : Prop :=
  ∃ u, commandPage 0 c (engState 0 c [] 5) = (.found 0 1 (frameEntry 5), u) ∧ SwapMayStart u c 0 (frameEntry 5) ∧ tableFault c (frameEntry 5) u = none ∧
    sourceFault c 0 1 (frameEntry 5) u = none ∧ ClearOf u (2 ^ 41 * (commandTarget c).1 + 2 ^ 21 * (commandTarget c).2) (2 ^ 21)

theorem witness_demote : Starts (engState 0 (demote0 .queued) [] 5) 6 (demote0 .queued) ∧
    Memory.wf (engState 0 (demote0 .queued) [] 5).mem = true ∧ MayMove (demote0 .queued) :=
  ⟨⟨by decide +kernel, by decide, fun x h _ => List.mem_singleton.1 h⟩, by decide, _, pair_of (by decide +kernel),
    by unfold SwapMayStart; decide +kernel, by decide +kernel, no_source_fault (by decide +kernel) (by decide +kernel) (by decide +kernel),
    clear_of (by decide +kernel) (by decide +kernel) (by decide +kernel)⟩

theorem witness_requant : Starts (engState 0 requant0 [] 5) 7 requant0 ∧ Memory.wf (engState 0 requant0 [] 5).mem = true ∧
    MayMove requant0 :=
  ⟨⟨by decide +kernel, by decide, fun x h _ => List.mem_singleton.1 h⟩, by decide, _, pair_of (by decide +kernel),
    by unfold SwapMayStart; decide +kernel, by decide +kernel, no_source_fault (by decide +kernel) (by decide +kernel) (by decide +kernel),
    clear_of (by decide +kernel) (by decide +kernel) (by decide +kernel)⟩

/-- The entry of the target frame lies in a sector that cannot be read. -/
def badTarget (f : Byte) : State :=
  let s := engState 0 (demote0 .swapping) [] f
  { s with badSectors := [s.pteAddr 8 2 / 32 * 32] }

/-- A writable page may not be moved; one that may not be read is a fault, and so is one whose target's entry cannot be read. -/
theorem witness_pages_stay :
    (∃ u, commandPage 0 requant0 (engState 0 requant0 [] 7) = (.found 0 1 (frameEntry 7), u) ∧
      tableFault requant0 (frameEntry 7) u = none ∧ ¬ SwapMayStart u requant0 0 (frameEntry 7)) ∧
    (∀ f ∈ ([5, 0xD] : List Byte), ∃ u b, commandPage 0 (demote0 .swapping) (badTarget f) = (.found 0 1 (frameEntry f), u) ∧
      tableFault (demote0 .swapping) (frameEntry f) u = some b) ∧
    ∃ u d, commandPage 0 requant0 (engState 0 requant0 [] 4) = (.found 0 1 (frameEntry 4), u) ∧
      tableFault requant0 (frameEntry 4) u = none ∧ SwapMayStart u requant0 0 (frameEntry 4) ∧ sourceFault requant0 0 1 (frameEntry 4) u = some d :=
  ⟨⟨_, pair_of (by decide +kernel), by decide +kernel, by unfold SwapMayStart; decide +kernel⟩,
    fun f h => ⟨_, _, pair_of (by fin_cases h <;> decide +kernel), Option.eq_some_of_isSome (by fin_cases h <;> decide +kernel)⟩,
    _, (0x10, 0), pair_of (by decide +kernel), by decide +kernel, by unfold SwapMayStart; decide +kernel, by decide +kernel⟩

/-- A page under way whose hold is free: its entry, its target's and the head of the chain stand apart. -/
theorem witness_page_swap :
    swapDue (engState 0 (demote0 .swapping) [] 0xD) 0 0 = some (demote0 .swapping) ∧
    (engState 0 (demote0 .swapping) [] 0xD).arg.flag = false ∧ ∃ u,
      commandPage 0 (demote0 .swapping) (engState 0 (demote0 .swapping) [] 0xD) = (.found 0 1 (frameEntry 0xD), u) ∧
      tableFault (demote0 .swapping) (frameEntry 0xD) u = none ∧ (frameEntry 0xD).toNat / 2 ^ 128 % 256 = 0 ∧ versionedIn u 0 1 = false ∧ ClearOf u (u.pteAddr 0 1) 32 ∧
      ClearOf u (u.pteAddr 8 2) 32 ∧ ClearOf u (u.anchorAddr 8 (xlHash 0 0)) 4 ∧ Apart (u.pteAddr 0 1) 32 (u.pteAddr 8 2) 32 ∧
      Apart (u.pteAddr 0 1) 32 (u.anchorAddr 8 (xlHash 0 0)) 4 ∧ Apart (u.pteAddr 8 2) 32 (u.anchorAddr 8 (xlHash 0 0)) 4 ∧
      commandTarget (demote0 .swapping) = (8, 2) ∧ pteVpn (frameEntry 0xD) = 0 := by
  refine ⟨by decide +kernel, rfl, _, pair_of (by decide +kernel), by decide +kernel, by decide, by decide +kernel, clear_of (by decide +kernel) (by decide +kernel) (by decide +kernel),
    clear_of (by decide +kernel) (by decide +kernel) (by decide +kernel), clear_of (by decide +kernel) (by decide +kernel) (by decide +kernel), ?_⟩
  unfold Apart; decide +kernel

/-- RCOPY of 4 bytes and CSHUF of 4 bytes to package 5; completed commands of the open batch, and of batch 2. -/
def rcopy4 : Cmd := cmdOf 0x400000004 0xFFE 0 1 0 3 4096
def cshuf4 : Cmd := cmdOf 0x400000005 0 1 1 0 3 4096
def done0 (batch : BitVec 16) (grp : Nat) : Cmd := { copy4 0 1 with st := .sent, batch, grp }

theorem witness_remote_commands :
    (∀ c ∈ [rcopy4, cshuf4], Starts (engState 2 c [] 7) (if c = rcopy4 then 4 else 5) c ∧ (engState 2 c [] 7).spaceOf c.drec = 3 ∧
      (∀ p, (engState 2 c [] 7).linkStd p = false) ∧ (engState 2 c [] 7).accepted 1 = true ∧ ∃ pages u l,
        Translated (engState 2 c [] 7) 0 2 c (pairVas c (copyPairs c 4) (engState 2 c [] 7)) pages u ∧
        moveBytes 0 c pages u (copyPairs c 4) = .ok l ∧ toPeers l = true) ∧
    rcopy4.len = 4 ∧ cshuf4.shufLen = 4 ∧
    ((engState 2 cshuf4 [] 7).id.lock = true ∧
      ({ engState 2 cshuf4 [] 7 with id := { (engState 2 cshuf4 [] 7).id with featacc := 4 } } : State).accepted 1 = false) := by
  refine ⟨fun c h => ?_, by decide, by decide, by decide⟩
  have hp : movesPass 2 c (copyPairs c 4) (fun _ _ l => toPeers l) (engState 2 c [] 7) = true := by fin_cases h <;> decide +kernel
  obtain ⟨pages, u, l, h1, h2, h3⟩ := moves_of hp
  refine ⟨⟨?_, ?_, fun x hx _ => List.mem_singleton.1 hx⟩, ?_, by fin_cases h <;> exact fun _ => rfl, ?_, pages, u, l, h1, h2, h3⟩ <;>
    fin_cases h <;> decide +kernel

theorem witness_completions :
    (∀ b g, completable (engState 0 (done0 b g) [] 7) 0 0 = some (done0 b g) ∧ (done0 b g).uncoded = false) ∧
    ((engState 0 (done0 1 0) [] 7).groupAt 0 0).blk = (done0 1 0).blk ∧ ((engState 0 (done0 1 0) [] 7).groupAt 0 0).gid = 1 ∧
    0 ∈ (engState 0 (done0 1 0) [] 7).core.groups.map (·.1) ∧ (1 : BitVec 16) = ((engState 0 (done0 1 0) [] 7).groupAt 0 0).lastClosed + 1 ∧
    (2 : BitVec 16) ≠ ((engState 0 (done0 2 0) [] 7).groupAt 0 0).lastClosed + 1 ∧
    9 ∉ (engState 0 (done0 1 9) [] 7).core.groups.map (·.1) :=
  ⟨fun _ _ => ⟨rfl, rfl⟩, by decide, by decide, by decide, by decide, by decide, by decide⟩

/-! ### Witnesses: the fabric -/

/-- The message of the step is `m`, page 0 is mapped with `flags`. -/
def arrives (m : Msg) (flags : Byte) (s : State) : State := tabled 7 0 flags { s with arg := { s.arg with msg := m } }
/-- A first message of die 10, the North die of package 5, for die 0. -/
def msg0 : Msg := { origin := 10, dest := 0, seq := 4, prev := 4, req := 1, srcGrp := 0 }

/-- It may be applied whatever else it carries and whatever else the machine holds, the fabric's clocks at reset. -/
theorem delivered0 (m : Msg) (flags : Byte) (s : State) (hm : m.origin = 10 ∧ m.dest = 0 ∧ m.seq = 4 ∧ m.prev = 4 ∧ m.deps = [] ∧ m.ord = 0)
    (hs : s.sel.idx = 0 ∧ s.id.pkg = 0 ∧ s.id.fail = 0 ∧ s.north.lastFrom = [] ∧ s.north.chanDeps = [] ∧ s.south.held = [] ∧ s.inputs = State.reset.inputs) :
    Delivered (arrives m flags s) 0 m := by
  obtain ⟨h1, h2, h3, h4, h5, h6⟩ := hm
  obtain ⟨i1, i2, i0, i3, i4, i5, i6⟩ := hs
  refine ⟨i0, i1, rfl, by simp [h2, arrives, tabled, i2], by decide, by simp [h6], .inr ⟨?_, ?_, fun x hx => ?_⟩⟩
  · simp [arrives, tabled, State.dieAt, i3, h3, h4, mapFind]
  · have hi : ∀ x ∈ State.reset.inputs, x.2.2.msg.origin ≠ 10 := by decide
    simp only [earlierAtSibling, Bool.or_eq_false_iff]
    refine ⟨by simp [arrives, tabled, State.dieAt, i5], List.any_eq_false.2 fun x hx => ?_⟩
    have hx : x ∈ State.reset.inputs := i6 ▸ hx
    simp [h1, hi x hx]
  · simp [arrives, tabled, State.dieAt, accumulated, i4, h5, mapGet, mergeClock] at hx

theorem witness_messages :
    (∃ s : State, s.id.fail ≠ 0) ∧ (∃ s : State, s.id.fail = 0 ∧ s.sel.idx = 0 ∧ s.arg.msg.ord ≠ 3 ∧ s.arg.msg.dest / 2 ≠ s.id.pkg.toNat) ∧
    (∃ s : State, s.id.fail = 0 ∧ s.sel.idx = 0 ∧ s.arg.msg.ord ≠ 3 ∧ s.arg.msg.dest / 2 = s.id.pkg.toNat ∧ ¬ Delivered s (s.arg.msg.dest % 2) s.arg.msg) ∧
    (Delivered (arrives msg0 7 State.reset) 0 msg0 ∧ stdMsg msg0 = false ∧ (∀ a ∈ (arrives msg0 7 State.reset).north.announces, a.1 ≠ 10)) ∧
    (∃ s : State, 64 ≤ ((s.dieAt s.sel.die).clk - (s.dieAt s.sel.die).lastAnnounce).toNat ∧ s.farDies ≠ []) ∧
    ∃ s : State, 8500 ≤ ((s.dieAt s.sel.die).clk - (s.dieAt s.sel.die).lastDecay).toNat := by
  refine ⟨⟨{ State.reset with id := { fail := 1 } }, by decide⟩, ⟨{ State.reset with arg := { msg := { dest := 4 } } }, by decide⟩,
    ⟨{ State.reset with arg := { msg := { msg0 with prev := 3 } } }, rfl, rfl, by decide, by decide, by unfold Delivered; decide⟩,
    ⟨delivered0 _ _ _ (by decide) (by decide), by decide, by decide⟩,
    ⟨{ State.reset with north := { clk := 64 }, id := { podmask := 3 } }, by decide⟩, { State.reset with north := { clk := 8500 } }, by decide⟩

/-- An announcement without a message, after one that has been applied, and after one that has not; one from outside the pod. -/
theorem witness_sequence_announcements : (∀ c ∈ ([(0, 0), (1, 4), (1, 5)] : List (Nat × Word)), ∃ s : State,
    s.arg.msg.dest / 2 = s.id.pkg.toNat ∧ s.id.podmask.getLsbD (s.arg.msg.origin / 2) = true ∧ s.arg.msg.count = c.1 ∧
    s.arg.msg.prev = c.2 ∧ (∀ a ∈ (s.dieAt (s.arg.msg.dest % 2)).announces, a.1 ≠ s.arg.msg.origin) ∧
    mapFind (s.dieAt (s.arg.msg.dest % 2)).lastFrom s.arg.msg.origin = some 4) ∧
    ∃ s : State, s.id.podmask.getLsbD (s.arg.msg.origin / 2) = false := by
  refine ⟨fun c h => ⟨{ State.reset with
      arg := { msg := { msg0 with count := c.1, prev := c.2 } }, north := { lastFrom := [(10, 4)] }, id := { podmask := 0x21 } }, ?_⟩,
    { State.reset with arg := { msg := msg0 } }, by decide⟩
  fin_cases h <;> decide

/-- A read of page 0, all of it; of a page without a row. -/
def pageHit (perm : BitVec 2) : TlbEntry := { asn := 0, vpn := 0, stack := 0, frame := 1, perm, gen := 7 }
theorem home_finds {s : State} {m : Msg} {vpns : List Nat} {p : Nat} {x : Xlated} (P : State → Bool)
    (h : (match homePages 0 m vpns s with
      | (.ok pages, u) => decide (mapFind pages p = some x) && P u
      | _ => false) = true) : ∃ u, HomeFinds s 0 m vpns p x u ∧ P u = true := by
  split at h
  · rename_i pages u hp
    obtain ⟨h1, h2⟩ := Bool.and_eq_true_iff.1 h
    exact ⟨u, ⟨pages, hp, of_decide_eq_true h1⟩, h2⟩
  · cases h

/-- Two bytes for one address. -/
def write0 : Msg := { msg0 with va := 5, bytes := [(5, 1), (5, 2)] }
def openAt (frame : Nat) (bs : List (Nat × Byte)) (u : State) : Bool :=
  Memory.wf u.mem && (bs.all fun b => (u.newestCommitted (lineOf (2 ^ 21 * frame + b.1 % 2 ^ 21))).isNone) &&
    decide (u.vers.vsbase = 0x200000000000) && u.copies.isEmpty && u.roomLines 0 0 (bs.map fun b => lineOf (2 ^ 21 * frame + b.1 % 2 ^ 21)).dedup

theorem frame_open {s : State} {bs : List (Nat × Byte)} {p frame : Nat} (hp : ∀ b ∈ bs, b.1 / 2 ^ 21 = p) (hf : frame < 2 ^ 23)
    (h : openAt frame bs s = true) : FrameOpen s bs p frame ∧
      s.roomLines 0 0 (bs.map fun b => lineOf (2 ^ 21 * frame + b.1 % 2 ^ 21)).dedup = true := by
  simp only [openAt, Bool.and_eq_true, List.all_eq_true, Option.isNone_iff_eq_none, decide_eq_true_eq, List.isEmpty_iff] at h
  obtain ⟨⟨⟨⟨h1, h2⟩, h3⟩, h4⟩, h5⟩ := h
  exact ⟨⟨hp, h1, fun b hb => ⟨h2 b hb, clear_of (n := 1) h3 h4 (by omega) _ (Nat.le_refl _) (by omega)⟩⟩, h5⟩

/-- A message for die 0 may be applied; its page is open, closed to writes, closed to reads, absent, its tables unreadable, on its
way to another frame. -/
theorem witness_served_messages :
    (∀ m : Msg, m.origin = 10 ∧ m.dest = 0 ∧ m.seq = 4 ∧ m.prev = 4 ∧ m.deps = [] ∧ m.ord = 0 → ∀ f bad,
      Delivered (arrives m f { State.reset with badSectors := bad }) 0 m) ∧
    (∀ f ∈ ([5, 7] : List Byte), ∃ u, HomeFinds (arrives write0 f State.reset) 0 write0 [0, 0] 0 (.ok (pageHit (BitVec.ofNat 2 f.toNat))) u ∧
      FrameOpen u write0.bytes 0 1 ∧ u.roomLines 0 0 (write0.bytes.map fun b => lineOf (2 ^ 21 * 1 + b.1 % 2 ^ 21)).dedup = true) ∧
    (∀ f ∈ ([4, 5, 6, 7] : List Byte), ∃ u, HomeFinds (arrives msg0 f State.reset) 0 msg0 [0] 0 (.ok (pageHit (BitVec.ofNat 2 f.toNat))) u ∧
      u.newestCommitted (lineOf (2 ^ 21 + 124)) = none ∧ PlainAt u (128 * lineOf (2 ^ 21)) 128) ∧
    (∃ u, HomeFinds (arrives msg0 3 State.reset) 0 msg0 [0] 0 .none u) ∧
    (∃ u, HomeFinds (arrives msg0 7 { State.reset with badSectors := [0x1000] }) 0 msg0 [0] 0 (.unreadable 0x1000) u) ∧
    (∃ n u, homePages 0 msg0 [0] (arrives msg0 7 { State.reset with north := { tlb := [{ pageHit 3 with gen := 6 }] } }) = (.again n, u)) ∧
    (frameNo (pageHit 3) = 1 ∧ ∀ a < 4, placeOf (pageHit 3) a = 2 ^ 21 * 1 + a % 2 ^ 21) ∧
    124 % 128 + 4 ≤ 128 ∧ (9, fun m x y => if m = x then y else m) ∈ atomicTable := by
  refine ⟨fun m h f bad => delivered0 m f _ h ⟨rfl, rfl, rfl, rfl, rfl, rfl, rfl⟩, fun f h => ?_, fun f h => ?_, ?_, ?_, ⟨_, _, rfl⟩, by decide, by decide,
    by simp [atomicTable]⟩
  · obtain ⟨u, h1, h2⟩ := home_finds (s := arrives write0 f State.reset) (m := write0) (vpns := [0, 0]) (p := 0)
      (x := .ok (pageHit (BitVec.ofNat 2 f.toNat))) (openAt 1 write0.bytes) (by fin_cases h <;> decide +kernel)
    exact ⟨u, h1, frame_open (by decide) (by decide) h2⟩
  · obtain ⟨u, h1, h2⟩ := home_finds (s := arrives msg0 f State.reset) (m := msg0) (vpns := [0]) (p := 0)
      (x := .ok (pageHit (BitVec.ofNat 2 f.toNat))) (openAt 1 [(124, 0)]) (by fin_cases h <;> decide +kernel)
    simp only [openAt, Bool.and_eq_true, List.all_eq_true, Option.isNone_iff_eq_none, decide_eq_true_eq, List.isEmpty_iff] at h2
    obtain ⟨⟨⟨⟨h3, h4⟩, h5⟩, h6⟩, -⟩ := h2
    exact ⟨u, h1, h4 (124, 0) (by decide), h3, by simp [h6], clear_of h5 h6 (by decide)⟩
  · obtain ⟨u, h, -⟩ := home_finds (s := arrives msg0 3 State.reset) (m := msg0) (vpns := [0]) (p := 0) (x := .none) (fun _ => true)
      (by decide +kernel)
    exact ⟨u, h⟩
  · obtain ⟨u, h, -⟩ := home_finds (s := arrives msg0 7 { State.reset with badSectors := [0x1000] }) (m := msg0) (vpns := [0]) (p := 0)
      (x := .unreadable 0x1000) (fun _ => true) (by decide +kernel)
    exact ⟨u, h⟩

/-- A write of version 3 of package 5, which has been squashed. -/
theorem witness_squashed_write : ∃ (s : State) (m : Msg), Delivered s 0 m ∧ m.vid ≠ 0 ∧ s.foreignOf (m.origin / 2) m.vid = some 9 ∧
    (s.ver 9).st = .squashed :=
  ⟨arrives { msg0 with vid := 3 } 7
      { State.reset with vers := { tab := [(9, { st := .squashed, foreign := true, origin := 5, ovid := 3 })] } },
    { msg0 with vid := 3 }, delivered0 _ _ _ (by decide) (by decide), by decide⟩

/-- A load of the group waits for the reply of package 5; a command does; a closed tag is owed one summary. -/
def replied : State :=
  { State.reset with
    cores := [(0, { core0 { plain with oplog := [(0, log0 2)], rtags := [(0, { closed := true, owed := [5] })] } with
      reqs := [{ req0 .load with id := 1, st := .remote, space := 3, peer := 5 }], eng := [(2, [{ rcopy4 with st := .sent, owed := 1 }])] })]
    grids := [(1, grid0)], sel := { gid := 1 }
    vers := { tab := [(9, { st := .live, foreign := true, origin := 5, ovid := 3 })], acks := [(1, 5)] } }

theorem witness_replies :
    (∀ role ∈ [0, 2, 3], Delivered (arrives { msg0 with role } 7 replied) 0 { msg0 with role }) ∧
    remoteReq (arrives msg0 7 replied) 0 1 = some { req0 .load with id := 1, st := .remote, space := 3, peer := 5 } ∧
    ((arrives msg0 7 replied).groupAt 0 0).live = true ∧ ((arrives msg0 7 replied).blockAt 0 0).live = true ∧
    mapFind ((arrives msg0 7 replied).groupAt 0 0).oplog 0 = some (log0 2) ∧ (log0 2).ser = (req0 .load).ser ∧
    ((req0 .load).lanes.map (·.lane)).Nodup ∧ ∀ x ∈ (req0 .load).lanes, x.lane < 48 := by
  refine ⟨fun role h => ?_, by decide, by decide, by decide, by decide, by decide, by decide, by decide⟩
  exact delivered0 _ _ _ ⟨rfl, rfl, rfl, rfl, rfl, rfl⟩ (by decide)

/-- A write over a standard-mode link has not been completed; the tag is open. -/
def owedWrite : State :=
  { State.reset with
    cores := [(0, core0 plain)], grids := [(1, grid0)], sel := { gid := 1 }
    north := { out := [{ core := 0, grp := 0, gid := 1, ack := 0, peer := 5, plane := 1, line := 0, path := {}, std := true }] } }

theorem witness_write_completion : ∃ o, Delivered (arrives { msg0 with role := 2 } 7 owedWrite) 0 { msg0 with role := 2 } ∧
    0 = dieOf ((msg0.srcGrp) / 256) ∧ o.std = true ∧ ((arrives { msg0 with role := 2 } 7 owedWrite).dieAt 0).waiting = [] ∧
    (∀ j, ∀ r ∈ ((arrives { msg0 with role := 2 } 7 owedWrite).coreAt j).reqs, r.kind = .store → r.after = []) ∧ ((arrives { msg0 with role := 2 } 7 owedWrite).dieAt 0).out.find?
      (fun o => o.core = 0 && o.ack = msg0.ack) = some o ∧ o.grp = 0 ∧
    0 ∈ ((arrives { msg0 with role := 2 } 7 owedWrite).coreAt 0).groups.map (·.1) ∧
    ((arrives { msg0 with role := 2 } 7 owedWrite).groupAt 0 0).live = true ∧
    (mapGet {} ((arrives { msg0 with role := 2 } 7 owedWrite).groupAt 0 0).rtags 0).closed = false :=
  ⟨{ core := 0, grp := 0, gid := 1, ack := 0, peer := 5, plane := 1, line := 0, path := {}, std := true },
    delivered0 _ _ _ (by decide) (by decide), by decide, rfl, by decide, fun j r h => by
      have h0 : ((arrives { msg0 with role := 2 } 7 owedWrite).coreAt j).reqs = [] := by
        by_cases hj : j = 0
        · subst hj; rfl
        · simp [arrives, tabled, owedWrite, State.coreAt, mapGet, Ne.symm hj]
      rw [h0] at h; exact (List.not_mem_nil h).elim, rfl, by decide, by decide, by decide, by decide⟩

/-- A close notice of the only plane of two used, and of both; a summary; a list of version 3 of package 5. -/
theorem witness_summaries_and_lists :
    ((rowOf (arrives msg0 7 replied) 5 0 0 1).closed ||| 2 ^ 1 = 2 ∧ (2 : Nat) ≠ 3) ∧
    (Delivered (arrives { msg0 with req := 0 } 7 replied) 0 { msg0 with req := 0 } ∧
      0 ∈ ((arrives { msg0 with req := 0 } 7 replied).coreAt 0).groups.map (·.1) ∧
      (mapGet {} ((arrives { msg0 with req := 0 } 7 replied).groupAt 0 0).rtags 0).owed = [10 / 2] ∧
      (mapGet {} ((arrives { msg0 with req := 0 } 7 replied).groupAt 0 0).rtags 0).closed = true ∧
      (mapGet {} ((arrives { msg0 with req := 0 } 7 replied).groupAt 0 0).rtags 0).std = 0) ∧
    (Delivered (arrives { msg0 with vids := [3] } 7 replied) 0 { msg0 with vids := [3] } ∧
      listedEntries { msg0 with vids := [3] } (arrives { msg0 with vids := [3] } 7 replied) = [9] ∧
      ((arrives { msg0 with vids := [3] } 7 replied).ver 9).open_ = true) :=
  ⟨by decide, ⟨delivered0 _ _ _ (by decide) (by decide), by decide⟩, delivered0 _ _ _ (by decide) (by decide), by decide +kernel, by decide⟩

/-- Two flows that pair (R221): package 5 to package 2 and back. -/
def flow (origin dest role : Nat) (b : Byte) : Msg := { origin, dest, asn := 0, pair := 6, role, size := 1, bytes := [(0, b)] }
def relay (w : List (Msg × DWord)) : State :=
  { State.reset with
    arg := { msg := flow 10 4 1 7 }, north := { clk := 850, windows := [(0, w)] }, id := { pkg := 3 } }

theorem witness_coding_windows :
    (∀ w, mapGet [] ((relay w).dieAt 0).windows ((relay w).arg.n % 4) = w ∧ (relay w).arg.msg = flow 10 4 1 7 ∧
      meetingPkg 5 2 = (relay w).id.pkg.toNat ∧ (relay w).arg.n % 4 = (relay w).planeOf 0) ∧
    2 ≤ hops 5 2 ∧ meetingPkg 5 2 ≠ State.reset.id.pkg.toNat ∧
    isPartner (flow 10 4 1 7) (flow 4 10 2 9) = true ∧ isPartner (flow 10 4 1 7) (flow 4 10 1 9) = false ∧
    (∀ y ∈ List.replicate 31 (flow 4 10 1 9, (0 : DWord)), isPartner (flow 10 4 1 7) y.1 = false) ∧
    (List.replicate 31 (flow 4 10 1 9, (0 : DWord))).length < 32 ∧ (List.replicate 32 (flow 4 10 1 9, (0 : DWord))).length = 32 ∧
    ((creditShare 0 4 = 0 ∨ creditShare 0 10 = 0) ∨ 1 ≤ creditShare 0 4 ∧ 1 ≤ creditShare 0 10) ∧
    mapGet 0 ((relay []).dieAt 0).creditsOut 4 = 0 ∧ mapGet 0 ((relay []).dieAt 0).creditsOut 10 = 0 ∧ (relay []).id.fail = 0 ∧
    850 ≤ (((relay []).dieAt 0).clk - 0).toNat :=
  ⟨fun _ => ⟨rfl, rfl, (by decide : meetingPkg 5 2 = 3), (by decide : 0 = State.reset.planeOf 0)⟩, by decide, by decide, by decide, by decide, fun y h => List.eq_of_mem_replicate h ▸ by decide, by decide, by decide, by omega, by decide⟩

/-- A resend request for the command of `engState`. -/
def resent : State := arrives { msg0 with req := 4 } 7 { engState 2 cshuf4 [] 7 with sel := {} }

/-- A coded copy whose partner is the 1-byte block 7 of page 0, which holds 0: it decodes. -/
def coded : Msg := { msg0 with size := 1, glen := 1, pblk := 7, bytes := [(0, 0x41)], crc := crc32c [0x41] }

theorem witness_decodes :
    (Delivered (arrives coded 7 { State.reset with sit := [sit0 7] }) 0 coded ∧
      ∃ z, decodeBytes 0 coded (arrives coded 7 { State.reset with sit := [sit0 7] }) = (some [0x41], z) ∧
        ∃ u, HomeFinds z 0 { coded with bytes := [(0, 0x41)] } [0] 0 (.ok (pageHit 3)) u ∧ FrameOpen u [(0, 0x41)] 0 1) ∧
    (Delivered (arrives coded 7 State.reset) 0 coded ∧ ∀ e ∈ (arrives coded 7 State.reset).sit, e.asn = coded.asn → e.blk ≠ coded.pblk) ∧
    ∃ m s c pages u l, Delivered s 0 m ∧ (s.engQueue (m.srcGrp / 256) 2).find? (fun c => c.id + 1 = m.req && c.kind = 5) = some c ∧
      (∀ p, s.linkStd p = false) ∧ Translated s (m.srcGrp / 256) 2 c (pairVas c (copyPairs c c.shufLen) s) pages u ∧
      moveBytes (m.srcGrp / 256) c pages u (copyPairs c c.shufLen) = .ok l ∧ LinesSettled u l := by
  refine ⟨⟨delivered0 _ _ _ (by decide) (by decide), _, pair_of (by decide +kernel), ?_⟩,
    ⟨delivered0 _ _ _ (by decide) (by decide), fun _ h => (List.not_mem_nil h).elim⟩, ?_⟩
  · obtain ⟨u, h1, h2⟩ := home_finds (s := (decodeBytes 0 coded (arrives coded 7 { State.reset with sit := [sit0 7] })).2)
      (m := { coded with bytes := [(0, 0x41)] }) (vpns := [0]) (p := 0) (x := .ok (pageHit 3)) (openAt 1 [(0, 0x41)]) (by decide +kernel)
    exact ⟨u, h1, (frame_open (by decide) (by decide) h2).1⟩
  · obtain ⟨pages, u, l, h1, h2, h3⟩ := moves_of (q := 2) (c := cshuf4) (pairs := copyPairs cshuf4 cshuf4.shufLen)
      (P := fun _ u l => settled u l) (s := resent) (by decide +kernel)
    exact ⟨{ msg0 with req := 4 }, resent, cshuf4, pages, u, l,
      delivered0 _ _ _ (by decide) (by decide), by decide, fun _ => rfl, h1, h2, settled_of h3⟩

/-- An RDMA request for the last two bytes of page 0. -/
def rdmaState (read : Bool) : State :=
  tabled 7 0 7 { State.reset with
    host := { ethUp := true }, arg := { off := 2 ^ 21 - 2, len := 2, data := [1, 2], flag := read } }

/-- A port of a live plane and of a dead one; a partner on the ring and one off it; an RDMA write of two bytes. -/
theorem witness_links :
    (∀ n dead, ∃ s : State, s.arg.off = n ∧ s.arg.msg.vids = [] ∧ s.host.dead = dead) ∧
    (∀ d, (owedWrite.dieAt d).stdQueue = []) ∧ (∃ o, (owedWrite.dieAt (dieOf (0 % 512))).out.find? (fun o => o.core = 0 && o.ack = 0) = some o ∧
      (∀ r ∈ (owedWrite.coreAt 0).reqs, r.id = 0 → r.gid = o.gid) ∧ (owedWrite.gridAt o.gid).st ≠ .ended ∧
      (owedWrite.gridAt o.gid).squashed = false ∧ (owedWrite.gridAt o.gid).fault = none) ∧
    ((0 : BitVec 4).getLsbD (5 % 4) = false ∧ (2 : BitVec 4).getLsbD (5 % 4) = true) ∧
    (∀ p ∈ [1, 9], ∃ s : State, s.id.fail = 0 ∧ s.arg.off = p ∧ s.arg.n = 0 ∧ s.id.pkg = 0 ∧ s.host.dead = 0) ∧ (∃ s : State, s.id.fail ≠ 0) ∧
    (∃ (s : State) (u : State), s.id.fail = 0 ∧ s.host.ethUp = true ∧ s.arg.data = [1, 2] ∧ s.arg.flag = false ∧
      PageOpen s s.sel.die (s.arg.n % 4096) ((List.range s.arg.data.length).map fun i => (s.arg.off + i, s.arg.data.getD i 0)) 0 1 u) ∧
    ∃ (s : State) (xs : List Byte) (u : State), s.id.fail = 0 ∧ s.host.ethUp = true ∧ s.arg.flag = true ∧
      readVa s.sel.die (s.arg.n % 4096) 0 s.arg.off s.arg.len s = (.ok xs, u) :=
  ⟨fun n dead => ⟨{ State.reset with arg := { off := n }, host := { dead } }, rfl, rfl, rfl⟩, fun d => by unfold State.dieAt; split <;> rfl, ⟨_, rfl, by decide⟩, by decide,
    fun p _ => ⟨{ State.reset with arg := { off := p } }, rfl, rfl, rfl, rfl, rfl⟩, ⟨{ State.reset with id := { fail := 1 } }, by decide⟩,
    ⟨rdmaState false, _, rfl, rfl, rfl, rfl, by decide, pair_of (by decide +kernel),
      (frame_open (by decide) (by decide) (by decide +kernel)).1⟩,
    rdmaState true, List.replicate 2 0, _, rfl, rfl, rfl, pair_of (by decide +kernel)⟩

/-! ### Witnesses: dispatch, swaps, the end of grids -/

/-- A grid of one stage of one group, whose lease is page 0. -/
def launched : Grid :=
  { nblk := 2, stages := [{ kind := 1, groups := 1, budget := 8, entry := 0 }], segmask := 1, todo := [1],
    ranges := [{ base := 0, len := 4096, rw := true }] }
/-- The grid stands as given; core 0 holds its block 0. -/
def engineState (g : Grid) : State :=
  tabled 7 0 7 { State.reset with cores := [(0, core0 plain)], grids := [(1, g)], sel := { gid := 1 } }

theorem witness_dispatch :
    (heldStart (engineState launched) 1 = none ∧ leaseDue (engineState launched) 1 = true ∧ ∀ p ∈ launched.leasePages, pageReady launched (engineState launched) p = .ready) ∧
    (∃ s : State, heldStart s 1 = none ∧ leaseDue s 1 = false ∧ nextGrid s (s.gridAt 1).die (s.gridAt 1).cls = some 1 ∧ (s.gridAt 1).coResident = false ∧
      (s.gridAt 1).todo = [1] ∧ bestCore s 1 = some 0 ∧ (s.coreAt 0).frozen = false ∧ mayStart s 0 = true ∧ (∃ x ∈ (s.coreAt 0).blocks, x.2.gid = 1) ∧
      (s.coreAt 0).blocks.length < 128 ∧ (s.coreAt 0).groups.length + ((s.gridAt 1).stages.map (·.groups)).sum ≤ 128) ∧
    (∀ v ∈ ([0, 1] : List DWord), ∃ (s : State) (bs : List Byte) (u : State), (s.gridAt 1).st = .waiting ∧ (s.gridAt 1).waitMet = false ∧
      (s.gridAt 1).waitaddr ≠ 0 ∧ (s.gridAt 1).fault = none ∧ (s.gridAt 1).squashed = false ∧
      readVa (s.gridAt 1).die (s.gridAt 1).asn 0 (s.gridAt 1).waitaddr 8 s = (.ok bs, u) ∧ leNat bs = 0 ∧ (s.gridAt 1).waitval = v) :=
  ⟨⟨by decide +kernel, by decide +kernel, by decide +kernel⟩,
    ⟨engineState { launched with leaseReady := true, st := .dispatching, todo := [1] }, by decide +kernel⟩,
    fun v h => ⟨engineState { launched with waitaddr := 8, waitval := v }, List.replicate 8 0, _, rfl, rfl,
      (by decide : (8 : Nat) ≠ 0), rfl, rfl, pair_of (by fin_cases h <;> decide +kernel), by decide, rfl⟩⟩

/-- A core with one group and block in place `p`, regions `o` to spill and `i` to fill. -/
def swapState (p : Residence) (o i : List Nat) : State :=
  { State.reset with
    cores := [(0, { core0 { plain with place := p } with blocks := [(0, { block0 with place := p })], toSpill := o, toFill := i })]
    grids := [(1, grid0)], sel := { gid := 1 } }

theorem witness_swaps :
    (fillDue (swapState .saved [] []) 0 = true ∧ (swapState .saved [] []).core.incoming = none) ∧
    (swapReady (swapState .shadow [] []) 0 = true ∧
      ∀ b ∈ (swapState .shadow [] []).core.blocks, b.2.place = .resident → b.2.idem = false) ∧
    (∃ r ∈ (swapState .saved [3] [9]).core.toSpill, spillable (swapState .saved [3] [9]) 0 r = true) ∧
    fillReady (swapState .resident [3] [9]) 0 = some 9 ∧ samePlace (swapState .resident [3] [9]).core 9 3 = false ∧
    ∃ s : State, swapReady s s.sel.core = true ∧ s.core.incoming ≠ none ∧ (∃ b ∈ s.core.blocks, b.2.place = .resident) ∧
      ∀ b ∈ s.core.blocks, b.2.place = .resident → b.2.idem = false := by
  refine ⟨by decide +kernel, by decide +kernel, by decide +kernel, by decide +kernel, by decide +kernel, { State.reset with
      cores := [(0, { core0 plain with
        groups := [(0, plain), (1, { plain with place := .shadow, blk := 1 })], incoming := some (1, 1)
        blocks := [(0, block0), (1, { block0 with groups := [1], place := .shadow })] })]
      grids := [(1, grid0)], sel := { gid := 1 } }, by decide +kernel⟩

theorem witness_grids_end :
    (∃ s : State, completeDue s s.sel.gid = true ∧ (s.gridAt 1).squashed = false ∧ (s.gridAt 1).vid = 0 ∧ (s.gridAt 1).holds = [] ∧
      (s.gridAt 1).pinned = [] ∧ (s.gridAt 1).stataddr = 0 ∧ (s.gridAt 1).doneaddr ≠ 0 ∧ (s.dieAt 0).evlog = 0 ∧
      (resolveVa 0 0 (s.gridAt 1).doneaddr true true s).1 = .at_ (2 ^ 21 + 8) ∧ (2 ^ 21 + 8) % 8 = 0 ∧
      s.newestCommitted (lineOf (2 ^ 21 + 8)) = none ∧ Memory.wf s.mem = true ∧ s.vers.vsbase = 0x200000000000 ∧ s.copies = []) ∧
    (∃ s : State, completeDue s 1 = true ∧ (s.gridAt 1).vid = 2 ∧ (s.ver 2).st = .live ∧ mapSortedFrom 0 s.grids = true) ∧
    (∃ s : State, (s.gridAt s.sel.gid).st = .faulting) ∧
    ∃ (s : State) (f : FaultRec), faultStatusDue s s.sel.gid = true ∧ (s.gridAt 1).fault = some f ∧ (s.gridAt 1).holds = [] ∧
      (s.gridAt 1).pinned = [] ∧ (s.gridAt 1).doneaddr = 0 ∧ (s.dieAt 0).evlog = 0 ∧ (s.gridAt 1).stataddr ≠ 0 ∧
      (resolveVa 0 0 (s.gridAt 1).stataddr false true s).1 = .at_ (2 ^ 21 + 64) ∧ (2 ^ 21 + 64) % 64 = 0 ∧
      s.newestCommitted (lineOf (2 ^ 21 + 64)) = none ∧ Memory.wf s.mem = true ∧ s.vers.vsbase = 0x200000000000 ∧ s.copies = [] ∧ f.code < 256 ∧ f.blk < 2 ^ 32 ∧ f.grpin < 256 ∧
      f.slot < 256 := by
  refine ⟨⟨engineState { launched with st := .running, todo := [], nblk := 1, doneBlks := 1, doneaddr := 8 }, by decide +kernel⟩,
    ⟨{ engineState { launched with st := .running, todo := [], nblk := 1, doneBlks := 1, vid := 2 } with
      vers := { tab := [(2, { st := .live })] } }, by decide⟩, ⟨engineState { launched with st := .faulting }, by decide⟩,
    { engineState { launched with st := .ending, fault := some { code := 0x10, detail := 7 }, stataddr := 64 } with cores := [] },
    { code := 0x10, detail := 7 }, by decide +kernel⟩

/-! ### Witnesses: host, debugger, bring-up, power -/

theorem witness_host :
    (∀ v off data, HostOpen (engineState launched) ∧ ∃ s : State, HostOpen s ∧ s.xl.busy = false ∧ s.arg.v = v ∧ s.arg.off = off ∧
      s.arg.data = data ∧ s.vers.vsen = false ∧ s.id.lock = false ∧ s.id.featoff = 0) ∧
    (∃ s : State, HostOpen s ∧ s.xl.busy = true ∧ s.xl.awaits = [] ∧ s.vers.vsen = true ∧ s.id.lock = true) ∧
    (∃ s : State, s.host.frozen = true ∧ s.arg.n = 0x8000) ∧ (30 : DWord).toNat = 30 ∧ (35 : DWord).toNat = 35 ∧
    (∀ n v, ∃ s : State, s.arg.flag = true ∧ s.arg.off = n ∧ s.arg.v = v ∧ s.host.msixPend = 4) ∧ (39 : DWord).toNat = 39 ∧
    2 ^ 25 < (2 ^ 25 - 7) + (List.replicate 8 (0 : Byte)).length ∧ (List.replicate 8 (0 : Byte)).length = 8 :=
  ⟨fun v off data => ⟨by unfold HostOpen; decide, { State.reset with arg := { v, off, data } }, ⟨rfl, rfl⟩, rfl, rfl, rfl, rfl, rfl, rfl, rfl⟩,
    ⟨{ State.reset with xl := { busy := true }, vers := { vsen := true }, id := { lock := true } }, by unfold HostOpen; decide⟩,
    ⟨{ State.reset with host := { frozen := true }, arg := { n := 0x8000 } }, by decide⟩, by decide, by decide,
    fun n v => ⟨{ State.reset with arg := { flag := true, off := n, v }, host := { msixPend := 4 } }, rfl, rfl, rfl, rfl⟩, by decide⟩

/-- The last two bytes of the window's first page, and of a page without permissions. -/
theorem witness_bar2 :
    (∃ (s : State) (u : State), HostOpen s ∧ s.arg.off + s.arg.data.length ≤ 2 ^ s.host.bar2log ∧ s.arg.data = [1, 2] ∧
      PageOpen s 0 (s.host.w2.toNat % 4096) ((List.range s.arg.data.length).map fun i => (0 + s.arg.off + i, s.arg.data.getD i 0)) 0 1 u ∧
      s.arg.flag = false ∧ ∃ bs w, readVa 0 0 0 (2 ^ 21 - 2) s.arg.len s = (.ok bs, w)) ∧
    ∃ (s : State) (u : State), HostOpen s ∧ s.arg.off = 2 ^ 21 - 1 ∧ s.arg.data = [1] ∧
      resolveVa 0 0 (0 * 2 ^ 21) false true s = (.refused, u) ∧ ∃ e w, readVa 0 0 0 (2 ^ 21 - 1) s.arg.len s = (.error e, w) := by
  refine ⟨⟨rdmaState false, _, ⟨rfl, rfl⟩, by decide, rfl, ⟨by decide, pair_of (by decide +kernel),
      (frame_open (by decide) (by decide) (by decide +kernel)).1⟩, rfl, List.replicate 2 0, _, pair_of (by decide +kernel)⟩,
    tabled 7 0 4 { State.reset with arg := { off := 2 ^ 21 - 1, len := 1, data := [1] } }, _, ⟨rfl, rfl⟩, rfl, rfl,
      pair_of (by decide +kernel), (0x10, 2 ^ 21 - 1), _, pair_of (by decide +kernel)⟩

/-- The debugger's target is the group of core 0; the group stands as given. -/
def debugState (g : Group) (reg : DWord) : State :=
  extended { State.reset with
    cores := [(0, core0 g)], grids := [(1, grid0)], sel := { gid := 1 }, north := { dbgctl := 0, dbgreg := reg } }
def pendingLoad : Group := { plain with oplog := [(0, { st := .pending, kind := 2 })], parked := [req0 .load] }

theorem witness_debugger :
    (∀ g ∈ [plain, pendingLoad], DebugTarget (debugState g 0) 0 0 0) ∧
    (∀ reg ∈ ([0, 1, 2, 3] : List DWord), DebugTarget (debugState { plain with stopped := true } reg)
      ((debugState { plain with stopped := true } reg).dieAt 0).dbgctl 0 0) ∧
    DebugTarget (debugState { plain with frz := true, stopped := true } 0) 0 0 0 ∧
    plain.live = true ∧ plain.stopped = false ∧ plain.frz = false ∧ plain.parked = [] ∧ plain.oplog = [] ∧
    mapFind pendingLoad.oplog 0 = some { st := .pending, kind := 2 } ∧ (47 : DWord).toNat < 48 ∧
    (∃ s : State, s.group.live = true ∧ s.group.stopReq = true ∧ (∀ e ∈ s.group.oplog, e.2.st ≠ .inFlight ∧ e.2.st ≠ .replaying) ∧
      (∃ r, s.split.search = some r) ∧ ∀ e ∈ s.group.splits, ∀ r, e.2.search = some r → r.word = 0) := by
  refine ⟨fun g h => ?_, fun reg h => ?_, ⟨⟨rfl, rfl⟩, by decide, by decide, by decide, by decide, by decide, by decide⟩,
    rfl, rfl, rfl, rfl, rfl, rfl, by decide,
    debugState { group0 { split0 5 1 with search := some { run0 1 with word := 0 } } with stopReq := true } 0, rfl, rfl,
    fun _ h => (List.not_mem_nil h).elim, ⟨_, rfl⟩, fun e he r hr => ?_⟩
  · fin_cases h <;> exact ⟨⟨rfl, rfl⟩, by decide, by decide, by decide, by decide, by decide, by decide⟩
  · fin_cases h <;> exact ⟨⟨rfl, rfl⟩, by decide, by decide, by decide, by decide, by decide, by decide⟩
  · obtain rfl := List.mem_singleton.1 he
    obtain rfl := Option.some.inj hr
    rfl

/-- Every stage of bring-up, and a failed one. -/
theorem witness_bring_up :
    (∀ g c, ∃ s : State, s.id.fail = 0 ∧ s.id.stage = g ∧ s.id.clusters = c) ∧ (∃ s : State, s.id.fail ≠ 0) :=
  ⟨fun g c => ⟨{ State.reset with id := { stage := g, clusters := c } }, rfl, rfl, rfl⟩, { State.reset with id := { fail := 3 } }, by decide⟩

/-- 100 µs after the last reading: 1 W below the cap, over it with versions out, over it with nothing left to shed; at 95 degrees. -/
theorem witness_power :
    (∀ pwr temp lim, ∃ s : State, s.arg.flag = false ∧ 85000 ≤ (s.north.clk - s.id.lastPower).toNat ∧ s.id.pwr = pwr ∧
      s.id.temp = temp ∧ s.id.capw = 500 ∧ (s.dieAt 0).limit = lim) ∧
    (500 < (501 : BitVec 16).toNat ∧ ¬ 500 < (499 : BitVec 16).toNat ∧ 95 ≤ (95 : BitVec 8).toNat ∧ ¬ 95 ≤ (94 : BitVec 8).toNat) ∧
    ∃ (s : State) (k : Nat) (b : Nat × Block), b ∈ (s.coreAt k).blocks ∧ b.2.live = true ∧ k ∈ s.cores.map (·.1) ∧
      (s.gridAt b.2.gid).st ≠ .ended ∧ (s.gridAt b.2.gid).squashed = false ∧ (s.gridAt b.2.gid).fault = none :=
  ⟨fun pwr temp lim => ⟨{ State.reset with id := { pwr, temp, capw := 500 }, north := { clk := 85000, limit := lim } }, rfl,
    (by decide : 85000 ≤ ((85000 : DWord) - 0).toNat), rfl, rfl, rfl, rfl⟩, by decide, mach plain, 0, (0, block0), by decide⟩

/-! ### Witnesses: the whole machine -/

def isNext {σ φ ρ : Type} : Host.Outcome σ φ ρ → Bool
  | .next _ => true
  | _ => false
theorem next_of {σ φ ρ : Type} {o : Host.Outcome σ φ ρ} (h : isNext o = true) : ∃ t, o = .next t := by
  cases o with
  | next t => exact ⟨t, rfl⟩
  | _ => cases h

theorem witness_canonical :
    (Memory.wf (State.reset.withFetchWord 32 0x8F000000).mem = true ∧ ∃ t, step (State.reset.withFetchWord 32 0x8F000000) = .next t) ∧
    Memory.wf (homed [] (req0 .store)).mem = true ∧ ∃ t, exec .l2Request (homed [] (req0 .store)) = .next t :=
  ⟨⟨by decide, next_of (by decide +kernel)⟩, by decide, next_of (by decide +kernel)⟩

/-! ### Ill-formed terms are refused (R24, R35, R39, R144, R168, R197, R240) -/

def lcode0 (c : BitVec 6) : LCode := { g := 0, d := 3, a := 1, c, w := 0 }

theorem test_codes_beyond_their_limits :
    (∀ k ∈ [Instr.cvtfi, .cvtif, .cvtnf, .cvtfn, .cvtbf, .cvtfb, .cvtef, .cvtfe],
      wellFormed (k (lcode0 3)) = true ∧ wellFormed (k (lcode0 4)) = false) ∧
    wellFormed (.bcast (lcode0 47)) = true ∧ wellFormed (.bcast (lcode0 48)) = false ∧
    wellFormed (.pset { g := 0, d := 1, a := 2, c := 5, w := 0 }) = true ∧
    wellFormed (.pset { g := 0, d := 1, a := 2, c := 6, w := 0 }) = false ∧
    wellFormed (.movs { g := 0, d := 1, c := 10, w := 0 }) = true ∧ wellFormed (.movs { g := 0, d := 1, c := 11, w := 0 }) = false := by
  decide

theorem test_orders :
    (∀ k ∈ [Instr.ldbOrdered, .ldhOrdered, .ldwOrdered, .lddOrdered, .ldqOrdered], wellFormed (k (ordw 1)) = true ∧
      wellFormed (k (ordw 3)) = true ∧ wellFormed (k (ordw 0)) = false ∧ wellFormed (k (ordw 2)) = false) ∧
    (∀ k ∈ [Instr.stbOrdered, .sthOrdered, .stwOrdered, .stdOrdered, .stqOrdered], wellFormed (k (ordw 2)) = true ∧
      wellFormed (k (ordw 3)) = true ∧ wellFormed (k (ordw 0)) = false ∧ wellFormed (k (ordw 1)) = false) ∧
    ∀ o, wellFormed (.atomAdd (ordw o)) = true := by decide

theorem test_other_fields :
    wellFormed (.inv inv0) = true ∧ wellFormed (.inv { inv0 with tol := 0 }) = false ∧
    wellFormed (.inv { inv0 with maxiter := 0 }) = false ∧ wellFormed (.inv { inv0 with yout := inv0.xin }) = false ∧
    wellFormed (.fence { kind := 2, scope := 7 }) = true ∧ wellFormed (.fence { kind := 3, scope := 0 }) = false ∧
    wellFormed (.movc { d := 0, c := 4, i := 0 }) = true ∧ wellFormed (.movc { d := 0, c := 5, i := 0 }) = false ∧
    wellFormed (.movcw { c := 3, a := 0, i := 0 }) = true ∧ wellFormed (.movcw { c := 2, a := 0, i := 0 }) = false ∧
    wellFormed (.movcw { c := 5, a := 0, i := 0 }) = false ∧ wellFormed (.reservedOpcode 0) = true ∧ wellFormed (.reservedOpcode 0x01000000) = false ∧ wellFormed .copy = false := by decide

/-- Words with a nonzero unused field, an order the word has not, a code beyond its limit, no second word. -/
theorem test_words_that_do_not_decode :
    decodeWords 0x8F000004 none = .error .zeroField ∧ decodeWords 0x5206010E none = .error .zeroField ∧
    decodeWords 0x72098506 none = .error .badOrder ∧ decodeWords 0x7702408D none = .error .badOrder ∧
    decodeWords 0x42006108 none = .error .badCode ∧ decodeWords 0x7702408E none = .error .noSecondWord ∧
    decodeWords 0x20020000 none = .error .noSecondWord := by decide

/-! ### Words of the spec decode to the instructions they stand for -/

theorem test_lane_words :
    decodeWords 0x24028418 none = .ok (.pmac2 { g := 0, d := 20, a := 8, b := 12, w := 0 }) ∧
    decodeWords 0x1302AA2C none = .ok (.shrr { g := 0, d := 21, a := 20, b := 22, w := 0 }) ∧
    decodeWords 0x2802EAB0 none = .ok (.pack2 { g := 0, d := 23, a := 21, b := 24, w := 0 }) ∧
    decodeWords 0x1B0040B0 none = .ok (.iaddi { g := 0, d := 2, a := 1, imm := 48 }) ∧
    decodeWords 0x42006102 none = .ok (.cvtfi { g := 0, d := 3, a := 2, c := 1, w := 0 }) ∧
    decodeWords 0x5C00480A none = .ok (.por { g := 0, d := 2, x := 1, a := 0, y := 0, b := 5 }) ∧
    decodeWords 0x6500A4DE none = .ok (.bcast { g := 0, d := 5, a := 9, c := 47, w := 0 }) ∧
    decodeWords 0x6601C680 none = .ok (.redsum { g := 0, d := 14, a := 13, w := 0 }) ∧
    decodeWords 0x6B002000 none = .ok (.movs { g := 0, d := 1, c := 0, w := 0 }) ∧
    decodeWords 0x4F078A5E none = .ok (.qnt { g := 0, d := 60, a := 20, b := 47, w := 0 }) := by decide

theorem test_inv_words :
    decodeWords 0x2C00028B (some 0x0C012200) = .ok (.inv
      { g := 0, n1 := 0, bracket := 0, xin := 10, yout := 11, target := 12, tol := 1, status := 2, maxiter := 8, flt := 0, dec := 0 }) := by
  decide

theorem test_memory_words :
    decodeWords 0x7200A38C none = .ok (.ldw { g := 0, d := 5, a := 7, r := 3 }) ∧
    decodeWords 0x7702408E (some 0xA0000000) =
      .ok (.stwOrdered { g := 0, d := 18, a := 1, r := 3, ord := 2, scope := 5, policy := 0, cbyp := 0 }) ∧
    decodeWords 0x72014311 (some 0xA0000000) =
      .ok (.ldwOrdered { g := 0, d := 10, a := 6, r := 4, ord := 1, scope := 5, policy := 0, cbyp := 0 }) ∧
    decodeWords 0x7A004019 (some 0x42400000) =
      .ok (.atomCas { g := 0, d := 2, a := 0, r := 6, ord := 1, scope := 2, policy := 0, cbyp := 0 }) ∧
    decodeWords 0x7B028091 (some 0xA0800000) =
      .ok (.dqopSteal { g := 0, d := 20, a := 1, r := 4, ord := 1, scope := 5, policy := 0, cbyp := 0 }) ∧
    decodeWords 0xB90208C0 none = .ok (.recset { d := 1, a := 2, b := 24, i := 0 }) ∧
    decodeWords 0xBA500C00 none = .ok (.ldrec { d := 40, a := 3, i := 0 }) := by decide

theorem test_control_words :
    decodeWords 0xA0000003 none = .ok (.bra { off := 3 }) ∧ decodeWords 0xA2280008 none = .ok (.brz { c := 5, off := 8 }) ∧
    decodeWords 0xA38FFFFB none = .ok (.brd { c := 17, off := -5 }) ∧ decodeWords 0xA5000014 none = .ok (.call { off := 20 }) ∧
    decodeWords 0xA601FC00 none = .ok (.ret { a := 127, i := 0 }) ∧ decodeWords 0xAA000004 none = .ok (.brez { off := 4 }) ∧
    decodeWords 0xA4003000 none = .ok (.brx { a := 12 }) ∧ decodeWords 0xA7000000 none = .ok .join ∧
    decodeWords 0xA90000C8 none = .ok (.setpri { p := 200 }) ∧ decodeWords 0xAB000C40 none = .ok (.jmpf { s := 3, off := 0x40 }) ∧
    decodeWords 0xFD000000 none = .ok (.rte { skip := 0 }) := by decide

theorem test_queue_and_barrier_words :
    decodeWords 0xCB82C000 none = .ok (.qw { q := 8, a := 22 }) ∧ decodeWords 0xCC810000 none = .ok (.qrd { q := 8, a := 8 }) ∧
    decodeWords 0xC8018000 none = .ok (.bclose { a := 12 }) ∧ decodeWords 0xC9018000 none = .ok (.waitb { a := 12 }) ∧
    decodeWords 0xCA00000B none = .ok (.qfence { w := 0, m := 1, q := 3 }) ∧ decodeWords 0xC3016001 none = .ok (.phbarr { k := 1, a := 11 }) ∧
    decodeWords 0xC4016001 none = .ok (.phbwait { p := 1, a := 11 }) ∧ decodeWords 0xC5018000 none = .ok (.cvbar { c := 0, a := 12 }) ∧
    decodeWords 0xC6018001 none = .ok (.cairnmin { c := 1, a := 12 }) ∧ decodeWords 0xC701A001 none = .ok (.cairnrd { c := 1, a := 13 }) ∧
    decodeWords 0xD0000008 none = .ok (.fence { kind := 0, scope := 1 }) ∧ decodeWords 0xD8003400 none = .ok (.cfetch { a := 13 }) ∧
    decodeWords 0xDA003800 none = .ok (.phase { a := 14 }) := by decide

theorem test_launch_and_walker_words :
    decodeWords 0xE1281028 none = .ok (.spawn { d := 20, a := 4, b := 5, i := 0 }) ∧
    decodeWords 0xE22C1838 none = .ok (.resolve { d := 22, a := 6, b := 7, i := 0 }) ∧
    decodeWords 0xE3301800 none = .ok (.vquery { d := 24, a := 6, i := 0 }) ∧
    decodeWords 0xF23C8008 none = .ok (.kvfork { d := 30, a := 32, k := 1, i := 0 }) ∧
    decodeWords 0xF4503000 none = .ok (.pin { d := 40, a := 12, i := 0 }) ∧
    decodeWords 0xF83C5000 none = .ok (.sitreg { d := 30, a := 20, i := 0 }) ∧
    decodeWords 0xF93E5800 none = .ok (.sitdrop { d := 31, a := 22, i := 0 }) ∧
    decodeWords 0x00000000 none = .ok (.reservedOpcode 0) := by decide

/-! ### One step on small states, results from the spec's examples -/

/-- The state after an instruction, reset if it has none. -/
def after (i : Instr) (s : State) : State :=
  match exec i s with
  | .next t => t
  | _ => State.reset
def lanesAt (v : Map (List Word)) : State := mach { group0 (split0 5 1) with v }
/-- Destination V3, operands V1 and V2. -/
def f3 : LR3 := { g := 0, d := 3, a := 1, b := 2, w := 0 }
def result (i : Instr) (x y z : Word) : Word := (after i (lanesAt [(1, [x]), (2, [y]), (3, [z])])).group.vAt 3 0

/-- R165: half rounds up. -/
theorem test_shrr : result (.shrr f3) 5 1 0 = 3 ∧ result (.shrr f3) (-5) 1 0 = -2 ∧ result (.shrr f3) 0x7FFFFFFF 15 0 = 65536 := by decide
/-- R166. -/
theorem test_bfe : result (.bfe f3) 0xABCD 0x804 0 = 0xBC ∧ result (.bfe f3) 0xABCD 0x10804 0 = 0xFFFFFFBC := by decide
/-- R169: the two products and the sum saturate once, and SAT is set. -/
theorem test_pmac2 : result (.pmac2 f3) 0x7FFF7FFF 0x7FFF7FFF 200000 = 0x7FFFFFFF ∧
    (after (.pmac2 f3) (lanesAt [(1, [0x7FFF7FFF]), (2, [0x7FFF7FFF]), (3, [200000])])).group.sat = 1 := by decide
theorem test_pack2 : result (.pack2 f3) 65536 0xFFFEEE90 0 = 0x80007FFF := by decide
/-- R183: counter and key of zeros. -/
theorem test_rng : ∀ p ∈ [(4, 0x6627E8D5), (5, 0xE169C58D), (6, 0xBC57AC4C), (7, (0x9B00DBD8 : Word))],
    (after (.rng { f3 with d := 4 }) (lanesAt [])).group.vAt p.1 0 = p.2 := by decide +kernel
/-- R180, R160: the tree keeps what the serial sums lose. -/
theorem test_redsum_and_scan :
    let s := mach { plain with v := [(1, [0x4B800000, 0x3F800000, 0x3F800000, 0x3F800000])] }
    (after (.redsum { g := 0, d := 3, a := 1, w := 0 }) s).group.vAt 3 47 = 0x4B800001 ∧
    (after (.scan { g := 0, d := 3, a := 1, w := 0 }) s).group.vAt 3 47 = 0x4B800000 := by decide +kernel

/-- The state when a search has ended, one issue after another, at most `n + 1` of them. -/
def afterSearch (i : Instr) : Nat → State → State
  | 0, s => after i s
  | n + 1, s => if (after i s).split.search.isNone then after i s else afterSearch i n (after i s)

/-- The integer square root of 50, 300 and 0 within 16 (R197): points, outputs, brackets, status, INVX. -/
theorem test_inv_example :
    let s : State := { State.reset with
      cores := [(0, { core0 { group0 (split0 5 7) with v := [(10, [0, 0, 0]), (11, [16, 16, 16]), (12, [50, 300, 0])] } with
        imem := [(codeKey 1 7, 0x03016514)] })]
      grids := [(1, grid0)], sel := { gid := 1 } }
    let t := (afterSearch (.inv { inv0 with bracket := 0, xin := 10, yout := 11, target := 12, maxiter := 8 }) 15 s).group
    ([0, 1, 2].map fun l => (t.vAt 10 l, t.vAt 11 l, t.bAt false 0 l, t.bAt true 0 l)) = [(8, 64, 7, 8), (16, 256, 0, 16), (0, 0, 0, 16)] ∧
      t.pAt 2 = 1 ∧ t.invx = 6 := by decide +kernel

/-- The hash of the worked walk (R53). -/
theorem test_hash : xlHash 0x02A 0x123456789 = 0x54E6 := by decide
/-- The physical address it gives (R48). -/
theorem test_physical_address : physOf 2 0x3A1F 0x2468ACF1215A40 = 0x40743E15A40 := by decide
/-- The check value of CRC-32C over the digits 1 to 9. -/
theorem test_crc : crc32c [0x31, 0x32, 0x33, 0x34, 0x35, 0x36, 0x37, 0x38, 0x39] = 0xE3069283 := by decide +kernel

/-- TRAP saves the PC after it, MASK and EXEC, and enters the handler with EXEC = MASK (R311, R314). -/
theorem test_trap : let t := after (.trap { n := 9 }) (mach { group0 { split0 5 1 with mask := 3 } with trapvec := 0x8020 })
    t.group.h = true ∧ t.group.frame = { pc := 6, mask := 3, exec := 1 } ∧ t.split.exec = 3 ∧ t.split.pc = 1 := by decide
/-- A branch goes from its own word (R12, R271). -/
theorem test_bra : (after (.bra { off := -5 }) (mach plain)).split.pc = 0 ∧ (after (.bra { off := 3 }) (mach plain)).split.pc = 8 := by
  decide
/-- A store of lane 0 lies in its block's shared space, lowest byte first. -/
theorem test_shared_store :
    (let s := homed [] { req0 .store with space := 1 }
     (after .l2Request s).blockAt 0 0).shared = [(0, 0xAB), (127, 0xCD)] := by decide

/-! ### Witnesses: words that act at issue, wait, or stop -/

/-- The lane 0 of an SC word whose record `d` names the block's own space. -/
theorem witness_sc_own_spaces : ∀ sp ∈ [(1, 0, 4096), (2, 64512, 1024)], ∀ k ∈ [ReqKind.load, .store],
    let s := memState (mkRec sp.2.1 sp.2.2 0 sp.1 0) 0 []
    let m := orderedAccess s (k, 4, 1, 0) (ordw 3)
    CanRun s 2 ((ordw 3).refs 1 s.group) ∧ wellFormed (.ldwOrdered (ordw 3)) = true ∧ wellFormed (.stwOrdered (ordw 3)) = true ∧
      m.SpaceFits s ∧ m.Room s ∧ (∀ l, m.Goes s l → m.Reaches s l) ∧ m.Released s ∧ m.Goes s 0 ∧ m.ord = 3 ∧ m.space s = sp.1 ∧
      s.core.reqs = [] ∧ Memory.wf s.block.shared = true ∧ Memory.wf s.block.tile = true := by
  intro sp hs k hk
  refine ⟨?_, by decide, by decide, ?_, .inr ⟨0, by decide, rfl⟩, fun l h => ?_,
    .inr (.inr (.inr ⟨(by decide : (5 : BitVec 3).toNat ≤ 5), .inr rfl⟩)), ?_, rfl, ?_, rfl, rfl, rfl⟩
  · fin_cases hs <;> unfold CanRun Fits <;> decide
  · fin_cases hs <;> fin_cases hk <;> refine ⟨?_, by decide⟩ <;>
      first | (change _ ∈ [0, 1, 2, 3, 4]; decide) | (change _ ∈ [0, 1, 2, 3]; decide)
  · have h : l = 0 := by fin_cases hs <;> fin_cases hk <;> exact goes_zero rfl h
    subst h
    fin_cases hs <;> fin_cases hk <;> first | (change 0 + 4 ≤ 4096; decide) | exact ⟨by decide, by decide⟩
  · fin_cases hs <;> fin_cases hk <;> exact ⟨by decide, by decide, by unfold Access.Clips; decide⟩
  · fin_cases hs <;> fin_cases hk <;> decide

/-- A privileged group past its release, its record on the device register window. -/
def windowState : State :=
  let s := memState (mkRec 0x1FFFFFFFE000000 4096 0 0 0) 8 []
  { s with cores := [(0, core0 { s.group with priv := true, splits := [(0, { split0 5 1 with phase := 1 })] })] }

theorem witness_window : ∀ k ∈ [ReqKind.load, .store],
    let m := relaxedAccess windowState (k, 4, 1) ldw
    CanRun windowState 1 (ldw.refs 1 windowState.group) ∧ m.space windowState = 0 ∧ m.SpaceFits windowState ∧ m.Room windowState ∧
      (∀ l, m.Goes windowState l → inWindow (m.addr windowState l) = true) ∧ m.Goes windowState 0 ∧ windowState.group.priv = true ∧
      windowState.group.vid = 0 ∧ windowState.split.phase = 1 ∧ windowState.tagsSettled 0 0 = true ∧ windowState.group.rwErrs = 0 ∧
      windowState.group.rwPeers = 0 := by
  intro k hk
  refine ⟨by unfold CanRun Fits; decide, ?_, ?_, .inr ⟨0, by decide, rfl⟩, fun l h => ?_, ?_, by decide⟩
  · fin_cases hk <;> decide
  · fin_cases hk <;> refine ⟨?_, by decide⟩ <;> first | (change _ ∈ [0, 1, 2, 3, 4]; decide) | (change _ ∈ [0, 1, 2, 3]; decide)
  · have h : l = 0 := by fin_cases hk <;> exact goes_zero rfl h
    subst h
    fin_cases hk <;> decide
  · fin_cases hk <;> exact ⟨by decide, by decide, by unfold Access.Clips; decide⟩

/-- A store of version 1 to a line that has no room, and stores to space 4 with lane 0 active and with none. -/
def fullSpill : State :=
  let s := memState (mkRec 0 4096 0 0 0) 0 []
  { s with
    cores := [(0, { s.coreAt 0 with groups := [(0, { s.group with vid := 1 })] })]
    vers := { tab := [(1, { st := .live })], vsbase := 0x200000000000, vslog := 12, vsres := 30 } }

theorem witness_stores_stop :
    (let m := relaxedAccess fullSpill (.store, 4, 1) ldw
     CanRun fullSpill 1 (ldw.refs 1 fullSpill.group) ∧ m.SpaceFits fullSpill ∧ m.space fullSpill = 0 ∧
       (∀ l, m.Goes fullSpill l → m.Reaches fullSpill l) ∧ ¬ m.HasRoom fullSpill) ∧
    (relaxedAccess (memState (mkRec 0 4096 0 4 0) 0 []) (.store, 4, 1) ldw).space (memState (mkRec 0 4096 0 4 0) 0 []) = 4 ∧
    laneIn (relaxedAccess (memState (mkRec 0 4096 0 4 0) 0 []) (.store, 4, 1) ldw).act 0 = true ∧
    ∃ s : State, CanRun s 1 (ldw.refs 1 s.group) ∧ (relaxedAccess s (.store, 4, 1) ldw).space s = 4 ∧
      ∀ l, l < 48 → laneIn (relaxedAccess s (.store, 4, 1) ldw).act l = false := by
  refine ⟨⟨by unfold CanRun Fits; decide, ⟨by change _ ∈ [0, 1, 2, 3]; decide, by decide⟩, by decide, fun l h => ?_, fun h => ?_⟩,
    by decide, by decide, mach { group0 (split0 5 0) with d := [(0, mkRec 0 4096 0 4 0)] }, by unfold CanRun Fits; decide, by decide, by decide⟩
  · obtain rfl := goes_zero rfl h
    refine ⟨by decide, ?_, fun _ => ⟨{ asn := 0, vpn := 0, stack := 0, frame := 1, perm := 3, gen := 0 }, by decide⟩⟩
    unfold Access.Leased; decide
  · rcases h rfl (by decide) with h | h
    · exact absurd h (by decide)
    · exact absurd (h 0 { asn := 0, vpn := 0, stack := 0, frame := 1, perm := 3, gen := 0 }
        ⟨by decide, by decide, by unfold Access.Clips; decide⟩ (by decide)) (by decide)

/-- ACCRD without an active lane, and with two that differ; a matrix word on an Oasis core. -/
theorem witness_accrd_lanes : ∃ g : LR2, CanRun (matState 0 0 0 [] []) 1 (g.refs (matState 0 0 0 [] []).group) ∧
    (matState 0 0 0 [] []).active g.g = 0 ∧ CanRun (matState 7 0 0x800000000001 [] []) 1 (g.refs (matState 7 0 0x800000000001 [] []).group) ∧
    HandlerReady (matState 7 0 0x800000000001 [] []) ∧ mapFind (matState 7 0 0x800000000001 [] []).group.oplog 0 = none ∧
    laneIn ((matState 7 0 0x800000000001 [] []).active g.g) 47 = true ∧
    (matState 7 0 0x800000000001 [] []).group.vAt 1 47 ≠ (matState 7 0 0x800000000001 [] []).group.vAt 1 0 ∧
    (oasis (group0 (split0 5 1))).canIssue = true ∧ isOasis (oasis (group0 (split0 5 1))).sel.core = true :=
  ⟨{ g := 0, d := 3, a := 1, w := 0 }, by unfold CanRun Fits HandlerReady; decide⟩

/-- QNT whose control lanes differ; whose record's space is 3; whose record lies in page 0 of memory. -/
def qntMemory : State :=
  let s := qntState 0 800
  { s with cores := [(0, { s.coreAt 0 with tlb := [{ asn := 0, vpn := 0, stack := 0, frame := 1, perm := 3, gen := 0 }] })] }

theorem witness_qnt_stops : ∃ f h : LR3, CanRun (matState 7 0 (allLanes 0) [] []) 1 (qntRefs f (matState 7 0 (allLanes 0) [] []).group) ∧
    (matState 7 0 (allLanes 0) [] []).active f.g = allLanes 0 ∧ HandlerReady (matState 7 0 (allLanes 0) [] []) ∧
    (matState 7 0 (allLanes 0) [] []).group.vAt ((matState 7 0 (allLanes 0) [] []).group.lane f.w f.b.toNat) 1 ≠
      (matState 7 0 (allLanes 0) [] []).group.vAt ((matState 7 0 (allLanes 0) [] []).group.lane f.w f.b.toNat) 0 ∧
    (∀ sp ∈ [0, 3], CanRun (qntState sp 800) 1 (qntRefs h (qntState sp 800).group) ∧ (qntState sp 800).active h.g = allLanes 0 ∧
      ControlWord (qntState sp 800) 2 (allLanes 0) 0 ∧ ControlWord (qntState sp 800) 1 (allLanes 0) 0 ∧
      (qntState sp 800).group.lane h.w h.b.toNat = 2 ∧ (qntState sp 800).group.lane h.w h.d.toNat = 1 ∧
      recSpace ((qntState sp 800).group.dAt 0) = sp) ∧ 2 < 3 ∧
    qntMemory.group = (qntState 0 800).group ∧ recBase (qntMemory.group.dAt 0) = 0 ∧ indexOffset (qntMemory.group.dAt 0) 0 = 0 ∧
    ∀ o, o < 800 → inWindow o = false ∧ o < 2 ^ 57 ∧ qntMemory.grid.permits true o = true ∧
      tlbFind qntMemory.core.tlb qntMemory.group.asn (vpnOf o) = some { asn := 0, vpn := 0, stack := 0, frame := 1, perm := 3, gen := 0 } := by
  refine ⟨{ g := 0, d := 1, a := 3, b := 1, w := 0 }, { g := 0, d := 1, a := 3, b := 2, w := 0 }, by unfold CanRun Fits; decide,
    by decide, by unfold HandlerReady; decide, by decide, fun sp h => ?_, by decide, rfl, by decide, by decide, by decide +kernel⟩
  fin_cases h <;> exact ⟨by unfold CanRun Fits; decide, by decide, ⟨⟨0, by decide⟩, by decide⟩, ⟨⟨0, by decide⟩, by decide⟩, by decide, by decide, by decide⟩

/-- A COPY that passes; a command of no kind, one on the wrong queue, a DEMOTE without privilege, a FIFOFILL on an Oasis core, a
COPY whose record is out of range; a QW of another split ahead. -/
def oasisQueue : State := oasis { asmGroup 0 [] with splits := [(0, split0 5 1)] }
def aheadState : State :=
  queueState { asmGroup 0 [] with asmOrder := [(0, 1, 9)], splits := [(0, split0 5 1), (1, split0 9 2)] } block0 []

theorem witness_commands :
    let s := queueState (asmGroup 0 [copyWord]) block0 []
    CommandPasses s 0 [copyWord, 0] ∧ NoQwWaits s 0 ∧ QwWaitsAhead aheadState 0 ∧
    (¬ KindInQueue [0x19, 0] 0 ∧ wholeCommand [0x19, 0] = true) ∧ ¬ KindInQueue [copyWord, 0] 2 ∧
    (KindInQueue [0x400031, 0, 0] 0 ∧ ¬ CommandFormed s [0x400031, 0, 0] ∧ wholeCommand [0x400031, 0, 0, 0] = true) ∧
    ¬ CoreRuns oasisQueue [0x23, 0, 0] ∧
    (KindInQueue [0x40016, 0] 0 ∧ CommandFormed s [0x40016, 0] ∧ CoreRuns s [0x40016, 0] ∧ ¬ GroupMaySend s [0x40016, 0] ∧
      wholeCommand [0x40016, 0] = true) := by
  refine ⟨⟨by unfold KindInQueue; decide, ⟨by decide, by decide, by change _ ∈ [0, 1, 2, 4] ∧ _ ≤ 2; decide⟩, by unfold CoreRuns; decide,
      by unfold GroupMaySend; decide⟩, fun _ h => (List.not_mem_nil h).elim, ⟨(0, 1, 9), [], rfl, rfl, by decide, by decide⟩,
    ⟨by unfold KindInQueue; decide, by decide⟩, by unfold KindInQueue; decide,
    ⟨by unfold KindInQueue; decide, fun h => absurd h.1 (by decide), by decide⟩, fun h => absurd (h (by decide)).1 (by decide),
    by unfold KindInQueue; decide, ⟨by decide, by decide, trivial⟩, by unfold CoreRuns; decide, by unfold GroupMaySend; decide, by decide⟩

/-- A pool at 0x400 whose nodes lie at 0x800 and whose page links at 0xC00: its first free node and page are 0 and 0. -/
def poolCells : List Host.Cell := [(2 ^ 21 + 0x401, 8), (2 ^ 21 + 0x419, 0xC)]
def extState (v : Nat) : State := kvState (twoNodes 0 0 0 ++ poolCells) 128 0x400 v
def ext0 : ExtTakes :=
  { base := 2048, i := 0, nextNode := 0, k := 0, links := 3072, nextPage := 0, count := 2, head := 0, now := 0 }

def sameNode (x y : KvNode) : Bool :=
  decide ((x.parent, x.start, x.run, x.count, x.page, x.vid, x.flags) = (y.parent, y.start, y.run, y.count, y.page, y.vid, y.flags))
theorem same_node {x y : KvNode} (h : sameNode x y = true) : x = y := by
  cases x
  cases y
  simpa [sameNode] using h

/-- The node is read, the accesses succeed, and so do those that `more` names afterwards. -/
def kvPass (w : Walker) (n v : Nat) (e : KvNode) (l : List KvAccess) (more : State → List KvAccess) (s : State) : Bool :=
  match (w.node v n).on s with
  | .ok (y, u) => sameNode y e && match kvDo w l u with
    | some z => (kvDo w (more z) z).isSome
    | none => false
  | .error _ => false
theorem kv_pass {w : Walker} {n v : Nat} {e : KvNode} {l : List KvAccess} {more : State → List KvAccess} {s : State}
    (h : kvPass w n v e l more s = true) : ∃ u z z', (w.node v n).on s = .ok (e, u) ∧ kvDo w l u = some z ∧ kvDo w (more z) z = some z' := by
  unfold kvPass at h
  split at h
  · rename_i y u hu
    obtain ⟨h1, h2⟩ := Bool.and_eq_true_iff.1 h
    obtain rfl := same_node h1
    split at h2
    · rename_i z hz
      obtain ⟨z', h3⟩ := Option.isSome_iff_exists.1 h2
      exact ⟨u, z, z', hu, hz, h3⟩
    · cases h2
  · cases h

theorem witness_kvext :
    (∃ u z z', NodeAt (Unmarked (extState 0)) (unitOf (Unmarked (extState 0)) 0x400) 128 (leaf 0 0) u ∧
      kvDo (unitOf (Unmarked (extState 0)) 0x400) (ext0.takes 0x400 ++ .rd 0 (128 + 14) 2 2 :: ext0.fills 0 128 (leaf 0 0)) u = some z ∧
      kvDo (unitOf (Unmarked (extState 0)) 0x400) (ext0.joins 128) z = some z') ∧
    (∃ u z z', NodeAt (Unmarked (extState 1)) (unitOf (Unmarked (extState 1)) 0x400) 128 (leaf 0 0) u ∧
      kvDo (unitOf (Unmarked (extState 1)) 0x400) (ext0.takes 0x400 ++ .rd 0 (128 + 14) 2 2 :: ext0.fills 1 128 (leaf 0 0)) u = some z ∧
      kvDo (unitOf (Unmarked (extState 1)) 0x400) (ext0.pends 128 (leaf 0 0) (z.ver 1).kvhead.toNat) z = some z') ∧
    (unitOf (Unmarked (extState 0)) 0x400).v = 0 ∧ (unitOf (Unmarked (extState 1)) 0x400).v = 1 ∧
    ((extState 1).ver 1).kvpool = 0 ∧ (leaf 0 0).count ≠ 65535 := by
  refine ⟨?_, ?_, rfl, rfl, rfl, by decide⟩
  · exact kv_pass (w := unitOf (Unmarked (extState 0)) 0x400) (n := 128) (v := 0) (more := fun _ => ext0.joins 128) (by decide +kernel)
  · exact kv_pass (w := unitOf (Unmarked (extState 1)) 0x400) (n := 128) (v := 1)
      (more := fun z => ext0.pends 128 (leaf 0 0) (z.ver 1).kvhead.toNat) (by decide +kernel)

/-- A record at 0x480 of the leaf at 0x80, with its flags and its pool at 0x400; a child at 0x580. -/
def recordCells : List Host.Cell := [(2 ^ 21 + 0x480, 128), (2 ^ 21 + 0x48C, 1), (2 ^ 21 + 0x499, 4)]
def forkState : State :=
  { kvState (twoNodes 0 0 0 ++ poolCells ++ recordCells) 0 0 0 with
    cores := [(0, core0 { plain with s := [(4, 0x480), (5, 0x580)] })] }
def fork0 : Forks := { leaf := 128, flags := 1, pool := 0x400, seq := 0, pos := 0, penalty := [] }

theorem witness_kvfork_copies : ∀ keep : Bool, ∃ u v z,
    let w := unitOf (Unmarked forkState) (forkPool forkState 0x480)
    kvDo w [.rd 0 0x480 8 128, .rd 0 (0x480 + 12) 4 1] (Unmarked forkState) = some u ∧ NodeAt u w 128 (leaf 0 0) v ∧
      kvDo w (fork0.copies 0x480 0x580 (leaf 0 0) keep) v = some z := by
  intro keep
  let w := unitOf (Unmarked forkState) (forkPool forkState 0x480)
  have h : (match kvDo w [.rd 0 0x480 8 128, .rd 0 (0x480 + 12) 4 1] (Unmarked forkState) with
    | some u => kvPass w 128 0 (leaf 0 0) (fork0.copies 0x480 0x580 (leaf 0 0) keep) (fun _ => []) u
    | none => false) = true := by cases keep <;> decide +kernel
  split at h
  · rename_i u hu
    obtain ⟨v, z, _, h1, h2, -⟩ := kv_pass h
    exact ⟨u, v, z, hu, h1, h2⟩
  · cases h

/-- The core's translation of page 0 is current and its entry's sector cannot be read. -/
def pinBad : State :=
  { pinState 0 [] 0 with
    badSectors := [0x2020]
    cores := [(0, { core0 { plain with s := [(4, 0)] } with
      tlb := [{ asn := 0, vpn := 0, stack := 0, frame := 1, perm := 3, gen := 7 }] })] }

theorem witness_pin_bad : ∃ u, PageIs pinBad 0 0 1 7 u ∧ u.staleGen (physOf 0 1 0) 7 = none ∧ u.pteBad 0 1 = some 0x2020 :=
  ⟨_, ⟨_, rfl, rfl, rfl, rfl⟩, by decide +kernel, by decide +kernel⟩

end Sys2Proof.Tests
end

section
/-!
Every format of 02_instruction_words.md decodes exactly the words its encoder writes: the arithmetic of the fields, said
once for each format.
-/

namespace Sys2Proof.Proofs

open Sys2Proof.Machine Sys2Proof.Statements

/-! ### Fields and rejections -/

@[simp] theorem fld_eq_iff {w lo n : Nat} {x : BitVec n} : fld w lo n = x ↔ w / 2 ^ lo % 2 ^ n = x.toNat := by
  rw [fld, BitVec.toNat_eq, BitVec.toNat_ofNat]

@[simp] theorem fld_toNat {w lo n : Nat} : (fld w lo n).toNat = w / 2 ^ lo % 2 ^ n := by
  rw [fld, BitVec.toNat_ofNat]

theorem ofNat_eq_word_iff {n : Nat} {w : Word} : BitVec.ofNat 32 n = w ↔ n % 2 ^ 32 = w.toNat := by
  rw [BitVec.toNat_eq, BitVec.toNat_ofNat]

@[simp] theorem whenZero_ok_iff {z : Bool} {i j : Instr} : whenZero z j = .ok i ↔ z = true ∧ j = i := by
  cases z <;> simp [whenZero]

@[simp] theorem ite_error_ok_iff {c : Prop} [Decidable c] {x : Except DecodeError Instr} {e : DecodeError} {i : Instr} :
    (if c then x else .error e) = .ok i ↔ c ∧ x = .ok i := by
  split <;> simp_all

@[simp] theorem error_ite_ok_iff {c : Prop} [Decidable c] {x : Except DecodeError Instr} {e : DecodeError} {i : Instr} :
    (if c then .error e else x) = .ok i ↔ ¬ c ∧ x = .ok i := by
  split <;> simp_all


/-! ### Formats of one word -/

/-- A format of one word: under every opcode, a word decodes to an instruction of the format exactly when it is what the
encoder writes for fields that pass the format's check. Both directions of O15 follow from it. -/
def OneWord {F : Type} (ok : F → Bool) (dec : (F → Instr) → Nat → Except DecodeError Instr) (enc : Nat → F → Word) :
    Prop :=
  ∀ op < 256, ∀ (k : F → Instr) (w : Word) (i : Instr),
    w.toNat / 2 ^ 24 = op ∧ dec k w.toNat = .ok i ↔ ∃ f, ok f = true ∧ k f = i ∧ enc op f = w

/-- A format whose decoder reads its fields from a legal word, and whose encoder writes a word exactly when it is legal
and has these fields. -/
theorem oneWord_of_fields {F : Type} {ok : F → Bool} {dec : (F → Instr) → Nat → Except DecodeError Instr}
    {enc : Nat → F → Word} {legal : Nat → Prop} {read : Nat → F}
    (hdec : ∀ k w i, dec k w = .ok i ↔ legal w ∧ k (read w) = i)
    (henc : ∀ op < 256, ∀ (w : Word) f,
      ok f = true ∧ enc op f = w ↔ w.toNat / 2 ^ 24 = op ∧ legal w.toNat ∧ read w.toNat = f) :
    OneWord ok dec enc := by
  intro op hop k w i
  simp only [hdec]
  constructor
  · rintro ⟨hw, hl, hk⟩
    obtain ⟨hok, he⟩ := (henc op hop w _).2 ⟨hw, hl, rfl⟩
    exact ⟨_, hok, hk, he⟩
  · rintro ⟨f, hok, hk, he⟩
    obtain ⟨hw, hl, hr⟩ := (henc op hop w f).1 ⟨hok, he⟩
    exact ⟨hw, hl, hr ▸ hk⟩

theorem lr3_format : OneWord (fun _ => true) lr3 encLR3 :=
  oneWord_of_fields (legal := fun _ => True) (fun _ _ _ => by simp [lr3]; rfl) fun op hop w f => by
    cases f
    simp [encLR3, ofNat_eq_word_iff]
    omega

theorem lr2_format : OneWord (fun _ => true) lr2 encLR2 :=
  oneWord_of_fields (fun _ _ _ => by simp [lr2]; rfl) fun op hop w f => by
    cases f
    simp [encLR2, ofNat_eq_word_iff]
    omega

theorem limm_format : OneWord (fun _ => true) limm encLImm :=
  oneWord_of_fields (legal := fun _ => True) (fun _ _ _ => by simp [limm]; rfl) fun op hop w f => by
    cases f
    simp [encLImm, ofNat_eq_word_iff]
    omega

theorem lshift_format : OneWord (fun _ => true) lshift encLShift :=
  oneWord_of_fields (fun _ _ _ => by simp [lshift]; rfl) fun op hop w f => by
    cases f
    simp [encLShift, ofNat_eq_word_iff]
    omega

theorem lctl_format : OneWord (fun _ => true) lctl encLCtl :=
  oneWord_of_fields (fun _ _ _ => by simp [lctl]; rfl) fun op hop w f => by
    cases f
    simp [encLCtl, ofNat_eq_word_iff]
    omega

theorem lctl2_format : OneWord (fun _ => true) lctl2 encLCtl2 :=
  oneWord_of_fields (fun _ _ _ => by simp [lctl2]; rfl) fun op hop w f => by
    cases f
    simp [encLCtl2, ofNat_eq_word_iff]
    omega

theorem lcmp_format : OneWord (fun _ => true) lcmp encLCmp :=
  oneWord_of_fields (fun _ _ _ => by simp [lcmp]; rfl) fun op hop w f => by
    cases f
    simp [encLCmp, ofNat_eq_word_iff]
    omega

theorem lpred_format : OneWord (fun _ => true) lpred encLPred :=
  oneWord_of_fields (fun _ _ _ => by simp [lpred]; rfl) fun op hop w f => by
    cases f
    simp [encLPred, ofNat_eq_word_iff]
    omega

theorem lpget_format : OneWord (fun _ => true) lpget encLPget :=
  oneWord_of_fields (fun _ _ _ => by simp [lpget]; rfl) fun op hop w f => by
    cases f
    simp [encLPget, ofNat_eq_word_iff]
    omega

theorem ur3_format : OneWord (fun _ => true) ur3 encUR3 :=
  oneWord_of_fields (fun _ _ _ => by simp [ur3]; rfl) fun op hop w f => by
    cases f
    simp [encUR3, ofNat_eq_word_iff]
    omega

theorem ur2_format : OneWord (fun _ => true) ur2 encUR2 :=
  oneWord_of_fields (fun _ _ _ => by simp [ur2]; rfl) fun op hop w f => by
    cases f
    simp [encUR2, ofNat_eq_word_iff]
    omega

theorem uimm_format : OneWord (fun _ => true) uimm encUImm :=
  oneWord_of_fields (legal := fun _ => True) (fun _ _ _ => by simp [uimm]; rfl) fun op hop w f => by
    cases f
    simp [encUImm, ofNat_eq_word_iff]
    omega

theorem ubr_format : OneWord (fun _ => true) ubr encUBr :=
  oneWord_of_fields (fun _ _ _ => by simp [ubr]; rfl) fun op hop w f => by
    cases f
    simp [encUBr, ofNat_eq_word_iff]
    omega

theorem ubrc_format : OneWord (fun _ => true) ubrc encUBrC :=
  oneWord_of_fields (legal := fun _ => True) (fun _ _ _ => by simp [ubrc]; rfl) fun op hop w f => by
    cases f
    simp [encUBrC, ofNat_eq_word_iff]
    omega

theorem laneSrc_format : OneWord (fun _ => true) laneSrc encLaneSrc :=
  oneWord_of_fields (fun _ _ _ => by simp [laneSrc]; rfl) fun op hop w f => by
    cases f
    simp [encLaneSrc, ofNat_eq_word_iff]
    omega

theorem usrc_format : OneWord (fun _ => true) usrc encUSrc :=
  oneWord_of_fields (fun _ _ _ => by simp [usrc]; rfl) fun op hop w f => by
    cases f
    simp [encUSrc, ofNat_eq_word_iff]
    omega

theorem ssrc_format : OneWord (fun _ => true) ssrc encSSrc :=
  oneWord_of_fields (fun _ _ _ => by simp [ssrc]; rfl) fun op hop w f => by
    cases f
    simp [encSSrc, ofNat_eq_word_iff]
    omega

theorem udst_format : OneWord (fun _ => true) udst encUDst :=
  oneWord_of_fields (fun _ _ _ => by simp [udst]; rfl) fun op hop w f => by
    cases f
    simp [encUDst, ofNat_eq_word_iff]
    omega

theorem upred_format : OneWord (fun _ => true) upred encUPred :=
  oneWord_of_fields (fun _ _ _ => by simp [upred]; rfl) fun op hop w f => by
    cases f
    simp [encUPred, ofNat_eq_word_iff]
    omega

theorem setx_format : OneWord (fun _ => true) setx encSetxForm :=
  oneWord_of_fields (fun _ _ _ => by simp [setx]; rfl) fun op hop w f => by
    cases f
    simp [encSetxForm, ofNat_eq_word_iff]
    omega

theorem recset_format : OneWord (fun _ => true) recset encRecsetForm :=
  oneWord_of_fields (fun _ _ _ => by simp [recset]; rfl) fun op hop w f => by
    cases f
    simp [encRecsetForm, ofNat_eq_word_iff]
    omega

theorem ldrec_format : OneWord (fun _ => true) ldrec encLdrecForm :=
  oneWord_of_fields (fun _ _ _ => by simp [ldrec]; rfl) fun op hop w f => by
    cases f
    simp [encLdrecForm, ofNat_eq_word_iff]
    omega

theorem qbar_format : OneWord (fun _ => true) qbar encQBar :=
  oneWord_of_fields (fun _ _ _ => by simp [qbar]; rfl) fun op hop w f => by
    cases f
    simp [encQBar, ofNat_eq_word_iff]
    omega

theorem qcount_format : OneWord (fun _ => true) qcount encQCount :=
  oneWord_of_fields (fun _ _ _ => by simp [qcount]; rfl) fun op hop w f => by
    cases f
    simp [encQCount, ofNat_eq_word_iff]
    omega

theorem qphase_format : OneWord (fun _ => true) qphase encQPhase :=
  oneWord_of_fields (fun _ _ _ => by simp [qphase]; rfl) fun op hop w f => by
    cases f
    simp [encQPhase, ofNat_eq_word_iff]
    omega

theorem qcaravan_format : OneWord (fun _ => true) qcaravan encQCaravan :=
  oneWord_of_fields (fun _ _ _ => by simp [qcaravan]; rfl) fun op hop w f => by
    cases f
    simp [encQCaravan, ofNat_eq_word_iff]
    omega

theorem qsrc_format : OneWord (fun _ => true) qsrc encQSrc :=
  oneWord_of_fields (fun _ _ _ => by simp [qsrc]; rfl) fun op hop w f => by
    cases f
    simp [encQSrc, ofNat_eq_word_iff]
    omega

theorem qfence_format : OneWord (fun _ => true) qfence encQFenceForm :=
  oneWord_of_fields (fun _ _ _ => by simp [qfence]; rfl) fun op hop w f => by
    cases f
    simp [encQFenceForm, ofNat_eq_word_iff]
    omega

theorem qreg_format : OneWord (fun _ => true) qreg encQReg :=
  oneWord_of_fields (fun _ _ _ => by simp [qreg]; rfl) fun op hop w f => by
    cases f
    simp [encQReg, ofNat_eq_word_iff]
    omega

theorem kvfork_format : OneWord (fun _ => true) kvfork encKvforkForm :=
  oneWord_of_fields (fun _ _ _ => by simp [kvfork]; rfl) fun op hop w f => by
    cases f
    simp [encKvforkForm, ofNat_eq_word_iff]
    omega

theorem codef_format : OneWord (fun _ => true) codef encCodeForm :=
  oneWord_of_fields (fun _ _ _ => by simp [codef]; rfl) fun op hop w f => by
    cases f
    simp [encCodeForm, ofNat_eq_word_iff]
    omega

theorem rte_format : OneWord (fun _ => true) rte encRteForm :=
  oneWord_of_fields (fun _ _ _ => by simp [rte]; rfl) fun op hop w f => by
    cases f
    simp [encRteForm, ofNat_eq_word_iff]
    omega

theorem pri_format : OneWord (fun _ => true) pri encPriForm :=
  oneWord_of_fields (fun _ _ _ => by simp [pri]; rfl) fun op hop w f => by
    cases f
    simp [encPriForm, ofNat_eq_word_iff]
    omega

theorem far_format : OneWord (fun _ => true) far encFarForm :=
  oneWord_of_fields (fun _ _ _ => by simp [far]; rfl) fun op hop w f => by
    cases f
    simp [encFarForm, ofNat_eq_word_iff]
    omega

theorem lpset_format : OneWord (fun f => decide (f.c.toNat < 6)) lpset encLPset :=
  oneWord_of_fields (fun _ _ _ => by simp [lpset, ← and_assoc]; rfl) fun op hop w f => by
    cases f
    simp [encLPset, ofNat_eq_word_iff]
    omega

theorem lspec_format : OneWord (fun f => decide (f.c.toNat < 11)) lspec encLSpec :=
  oneWord_of_fields (fun _ _ _ => by simp [lspec, ← and_assoc]; rfl) fun op hop w f => by
    cases f
    simp [encLSpec, ofNat_eq_word_iff]
    omega

theorem fence_format : OneWord (fun f => f.kind != 3) fence encFenceForm :=
  oneWord_of_fields (fun _ _ _ => by simp [fence, ← and_assoc]; rfl) fun op hop w f => by
    cases f
    simp [encFenceForm, BitVec.toNat_eq]
    omega

theorem movc_format : OneWord (fun f => decide (f.c.toNat < 5)) movc encMovcForm :=
  oneWord_of_fields (fun _ _ _ => by simp [movc, ← and_assoc]; rfl) fun op hop w f => by
    cases f
    simp [encMovcForm, ofNat_eq_word_iff]
    omega

theorem movcw_format : OneWord (fun f => decide (f.c.toNat < 5) && f.c != 2) movcw encMovcwForm :=
  oneWord_of_fields (fun _ _ _ => by simp [movcw, ← and_assoc]; rfl) fun op hop w f => by
    cases f
    simp [encMovcwForm, BitVec.toNat_eq]
    omega

theorem lcode_format (lim : Nat) : OneWord (fun f => decide (f.c.toNat < lim)) (lcode lim) encLCode :=
  oneWord_of_fields (fun _ _ _ => by simp [lcode]; rfl) fun op hop w f => by
    cases f
    simp [encLCode, ofNat_eq_word_iff]
    omega

theorem bare_format : OneWord (fun _ : Unit => true) (fun k => bare (k ())) (fun op _ => encUI op 0 0) :=
  oneWord_of_fields (legal := fun w => w % 2 ^ 24 = 0) (read := fun _ => ()) (fun _ _ _ => by simp [bare])
    fun op hop w f => by
      simp [encUI, ofNat_eq_word_iff]
      omega

/-! ### Formats of two words -/

/-- The orderings a load or a store takes with its extension word (R24). -/
def orderAllowed (load : Bool) (ord : BitVec 2) : Bool := if load then loadOrder ord else storeOrder ord

theorem orderAllowed_ne_zero {load : Bool} {ord : BitVec 2} (h : orderAllowed load ord = true) : ord.toNat ≠ 0 := by
  revert load ord; decide

/-- Both words of a memory form with its extension word (R23, R24), under an opcode and a function. -/
theorem encMemX_eq_iff {op fn : Nat} (hop : op < 256) (hfn : fn < 16) {w x : Word} {f : LMemX} :
    encMemX op fn f = [w, x] ↔ w.toNat / 2 ^ 24 = op ∧ x.toNat / 2 ^ 22 % 16 = fn ∧ fld x.toNat 0 22 = 0 ∧
      LMemX.mk (fld w.toNat 19 5) (fld w.toNat 13 6) (fld w.toNat 7 6) (fld w.toNat 2 5) (fld w.toNat 0 2)
        (fld x.toNat 29 3) (fld x.toNat 27 2) (fld x.toNat 26 1) = f := by
  cases f
  simp [encMemX, ofNat_eq_word_iff]
  omega

theorem encLMem_eq_iff {op : Nat} (hop : op < 256) {w : Word} {f : LMem} :
    encLMem op f = w ↔ w.toNat / 2 ^ 24 = op ∧ fld w.toNat 0 2 = 0 ∧
      LMem.mk (fld w.toNat 19 5) (fld w.toNat 13 6) (fld w.toNat 7 6) (fld w.toNat 2 5) = f := by
  cases f
  simp [encLMem, ofNat_eq_word_iff]
  omega

theorem encInv_eq_iff {w x : Word} {f : InvForm} :
    encInv f = [w, x] ↔ w.toNat / 2 ^ 24 = 0x2C ∧ fld x.toNat 0 4 = 0 ∧
      InvForm.mk (fld w.toNat 19 5) (fld w.toNat 15 4) (fld w.toNat 12 3) (fld w.toNat 6 6) (fld w.toNat 0 6)
        (fld x.toNat 24 8) (fld x.toNat 16 8) (fld x.toNat 12 4) (fld x.toNat 6 6) (fld x.toNat 5 1)
        (fld x.toNat 4 1) = f := by
  cases f
  simp [encInv, ofNat_eq_word_iff]
  omega

section
variable {F : Type} {ok : F → Bool} {op : Nat}

/-- A form of two words under its opcode: a word and the one after it decode to it exactly when they are what the encoder
writes for fields that pass the form's check. -/
def TwoWords (op : Nat) (ok : F → Bool) (dec : Nat → Option Nat → Except DecodeError Instr) (k : F → Instr)
    (enc : F → List Word) : Prop :=
  ∀ (w : Word) (after : Option Word) (i : Instr), w.toNat / 2 ^ 24 = op ∧ dec w.toNat (after.map BitVec.toNat) = .ok i ↔
    ∃ f x, ok f = true ∧ k f = i ∧ after = some x ∧ enc f = [w, x]

theorem twoWords_of_fields {dec : Nat → Option Nat → Except DecodeError Instr} {k : F → Instr} {enc : F → List Word}
    {legal : Nat → Nat → Prop} {read : Nat → Nat → F}
    (hnone : ∀ w i, dec w none ≠ .ok i)
    (hdec : ∀ w x i, dec w (some x) = .ok i ↔ legal w x ∧ k (read w x) = i)
    (henc : ∀ (w x : Word) f,
      ok f = true ∧ enc f = [w, x] ↔ w.toNat / 2 ^ 24 = op ∧ legal w.toNat x.toNat ∧ read w.toNat x.toNat = f) :
    TwoWords op ok dec k enc := by
  rintro w (_ | x) i
  · simp [hnone]
  · simp only [Option.map_some, hdec]
    constructor
    · rintro ⟨hw, hl, hk⟩
      obtain ⟨hok, he⟩ := (henc w x _).2 ⟨hw, hl, rfl⟩
      exact ⟨_, x, hok, hk, rfl, he⟩
    · rintro ⟨f, _, hok, hk, ⟨⟩, he⟩
      obtain ⟨hw, hl, hr⟩ := (henc w x f).1 ⟨hok, he⟩
      exact ⟨hw, hl, hr ▸ hk⟩

theorem movl_format : TwoWords 0x20 (fun _ => true) movlForm .movl (fun f => [encMovl f, f.lit]) :=
  twoWords_of_fields (fun _ _ => by simp [movlForm]) (fun _ _ _ => by simp [movlForm]; rfl) fun w x f => by
    cases f
    simp [encMovl, BitVec.toNat_eq]
    omega

theorem ulit_format : TwoWords 0x92 (fun _ => true) ulitForm .ulit (fun f => [encUI 0x92 f.d.toNat f.x.toNat, f.lit]) :=
  twoWords_of_fields (fun _ _ => by simp [ulitForm]) (fun _ _ _ => by simp [ulitForm]; rfl) fun w x f => by
    cases f
    simp [encUI, BitVec.toNat_eq]
    omega

theorem inv_format : TwoWords 0x2C invFields invForm .inv encInv :=
  twoWords_of_fields (fun _ _ => by simp [invForm])
    (fun _ _ _ => by simp only [invForm, ite_error_ok_iff, ← and_assoc, Except.ok.injEq]; rfl) fun w x f => by
      rw [encInv_eq_iff]
      constructor
      · rintro ⟨hok, hw, hz, rfl⟩
        exact ⟨hw, ⟨hz, hok⟩, rfl⟩
      · rintro ⟨hw, ⟨hz, hok⟩, rfl⟩
        exact ⟨hok, hw, hz, rfl⟩

/-- ATOM and DQOP (R24): the function field of the second word chooses the instruction. -/
theorem lext_ok_iff {of : Nat → Option (LMemX → Instr)} (hop : op < 256) {w : Word} {after : Option Word} {i : Instr} :
    w.toNat / 2 ^ 24 = op ∧ lext w.toNat (after.map BitVec.toNat) of = .ok i ↔
      ∃ fn k f x, fn < 16 ∧ of fn = some k ∧ k f = i ∧ after = some x ∧ encMemX op fn f = [w, x] := by
  constructor
  · rintro ⟨hw, h⟩
    cases after with
    | none => cases h
    | some x =>
      simp only [lext, Option.map_some, fld_toNat] at h
      split at h
      · cases h
      · rename_i k hk
        obtain ⟨hz, h⟩ := whenZero_ok_iff.1 h
        have hfn : x.toNat / 2 ^ 22 % 2 ^ 4 < 16 := Nat.mod_lt _ (by decide)
        exact ⟨_, k, _, x, hfn, hk, h, rfl, (encMemX_eq_iff hop hfn).2 ⟨hw, rfl, eq_of_beq hz, rfl⟩⟩
  · rintro ⟨fn, k, f, x, hfn, hk, rfl, rfl, he⟩
    obtain ⟨hw, hx, hz, hf⟩ := (encMemX_eq_iff hop hfn).1 he
    have hk' : of (x.toNat / 2 ^ 22 % 2 ^ 4) = some k := hx ▸ hk
    exact ⟨hw, by simp only [lext, Option.map_some, fld_toNat, hk', lmemExt, hz, hf, beq_self_eq_true, whenZero, if_true]⟩

/-- Loads and stores (R23, R24): one word when relaxed, else an extension word with function 0. -/
theorem lmem_ok_iff {load : Bool} {k : LMem → Instr} {kx : LMemX → Instr} (hop : op < 256)
    {w : Word} {after : Option Word} {i : Instr} :
    w.toNat / 2 ^ 24 = op ∧ lmem load k kx w.toNat (after.map BitVec.toNat) = .ok i ↔
      (∃ f, k f = i ∧ encLMem op f = w) ∨
      ∃ f x, orderAllowed load f.ord = true ∧ kx f = i ∧ after = some x ∧ encMemX op 0 f = [w, x] := by
  have horder : ∀ o, (if load = true then loadOrder o else storeOrder o) = orderAllowed load o := fun _ => rfl
  constructor
  · rintro ⟨hw, h⟩
    simp only [lmem, horder] at h
    split at h
    · rename_i h0
      exact .inl ⟨_, Except.ok.inj h, (encLMem_eq_iff hop).2 ⟨hw, h0, rfl⟩⟩
    · obtain ⟨ho, h⟩ := ite_error_ok_iff.1 h
      cases after with
      | none => cases h
      | some x =>
        obtain ⟨hfn, h⟩ := ite_error_ok_iff.1 h
        obtain ⟨hz, h⟩ := whenZero_ok_iff.1 h
        exact .inr ⟨_, x, ho, h, rfl, (encMemX_eq_iff hop (by decide)).2 ⟨hw, fld_eq_iff.1 hfn, eq_of_beq hz, rfl⟩⟩
  · rintro (⟨f, rfl, he⟩ | ⟨f, x, ho, rfl, rfl, he⟩)
    · obtain ⟨hw, h0, hf⟩ := (encLMem_eq_iff hop).1 he
      refine ⟨hw, ?_⟩
      simp only [lmem, h0, if_true, hf]
    · obtain ⟨hw, hx, hz, rfl⟩ := (encMemX_eq_iff hop (by decide)).1 he
      have hfn : fld x.toNat 22 4 = 0 := fld_eq_iff.2 hx
      have hne : fld w.toNat 0 2 ≠ 0 := fun h0 => orderAllowed_ne_zero ho (congrArg BitVec.toNat h0)
      refine ⟨hw, ?_⟩
      simp only at ho
      simp only [lmem, horder, hne, ho, if_false, if_true, Option.map_some, hfn, lmemExt, hz, beq_self_eq_true, whenZero]

end

end Sys2Proof.Proofs
end

section
/-!
What the decoder accepts under each opcode, and what it makes of the encoder's words (O15, O16).
-/

namespace Sys2Proof.Proofs

open Sys2Proof.Machine Sys2Proof.Statements

section
/-! ### Lengths -/

/-- Words of an instruction by its opcode and the low two bits of its first word (R315). -/
def wordsOf (op low : Nat) : Nat :=
  if op = 0x20 ∨ op = 0x2C ∨ op = 0x7A ∨ op = 0x7B ∨ op = 0x92 ∨ (0x70 ≤ op ∧ op ≤ 0x79 ∧ low ≠ 0) then 2 else 1

theorem wordLength_eq (w : Word) : wordLength w = wordsOf (w.toNat / 2 ^ 24) (w.toNat % 4) := by
  have hop : (w >>> 24).toNat = w.toNat / 2 ^ 24 := by rw [BitVec.toNat_ushiftRight, Nat.shiftRight_eq_div_pow]
  have hset : w.getLsbD 31 = decide (2 ^ 31 ≤ w.toNat) := BitVec.msb_eq_decide w
  have hw := w.isLt
  simp only [wordLength, wordsOf, hop, hset, decide_eq_true_eq]
  split_ifs <;> omega

/-! ### What a decoded word is -/

/-- The instruction is well-formed, the words are exactly its encoding, and the first alone decides how many they are. -/
def ReadFrom (w : Word) (after : Option Word) (i : Instr) : Prop :=
  wellFormed i = true ∧ (encode i = [w] ∧ wordLength w = 1 ∨ ∃ x, after = some x ∧ encode i = [w, x] ∧ wordLength w = 2)

/-- The words of the instruction decode to it, whatever stands after them. -/
def Decodes (i : Instr) (after : Option Word) : Prop :=
  (∃ w, encode i = [w] ∧ decodeWords w after = .ok i) ∨ ∃ w x, encode i = [w, x] ∧ decodeWords w (some x) = .ok i

variable {F : Type} {ok : F → Bool} {op : Nat} {w : Word} {after : Option Word} {i : Instr}

theorem decodeWords_eq (hw : w.toNat / 2 ^ 24 = op) :
    decodeWords w after = decodeOp op w.toNat (after.map BitVec.toNat) := by
  rw [← hw]
  rfl

theorem readFrom_one {e : Word} (hwf : wellFormed i = true) (henc : encode i = [e]) (he : e = w)
    (hw : w.toNat / 2 ^ 24 = op) (hlen : wordsOf op (w.toNat % 4) = 1) : ReadFrom w after i :=
  ⟨hwf, .inl ⟨he ▸ henc, by rw [wordLength_eq, hw, hlen]⟩⟩

theorem readFrom_two {x : Word} (hwf : wellFormed i = true) (henc : encode i = [w, x]) (hx : after = some x)
    (hw : w.toNat / 2 ^ 24 = op) (hlen : wordsOf op (w.toNat % 4) = 2) : ReadFrom w after i :=
  ⟨hwf, .inr ⟨x, hx, henc, by rw [wordLength_eq, hw, hlen]⟩⟩

theorem OneWord.ok_iff {dec : (F → Instr) → Nat → Except DecodeError Instr} {enc : Nat → F → Word}
    (h : OneWord ok dec enc) (hw : w.toNat / 2 ^ 24 = op) (hop : op < 256) {k : F → Instr} :
    dec k w.toNat = .ok i ↔ ∃ f, ok f = true ∧ k f = i ∧ enc op f = w := by
  rw [← h op hop, and_iff_right hw]

theorem OneWord.readFrom {dec : (F → Instr) → Nat → Except DecodeError Instr} {enc : Nat → F → Word}
    (h : OneWord ok dec enc) {k : F → Instr} (hk : ∀ f, wellFormed (k f) = ok f ∧ encode (k f) = [enc op f])
    (hw : w.toNat / 2 ^ 24 = op) (hop : op < 256) (hlen : wordsOf op (w.toNat % 4) = 1)
    (hd : dec k w.toNat = .ok i) : ReadFrom w after i := by
  obtain ⟨f, hf, rfl, he⟩ := (h.ok_iff hw hop).1 hd
  exact readFrom_one ((hk f).1.trans hf) (hk f).2 he hw hlen

theorem OneWord.decodes {dec : (F → Instr) → Nat → Except DecodeError Instr} {enc : Nat → F → Word}
    (h : OneWord ok dec enc) {k : F → Instr} {f : F} (hf : ok f = true) (henc : encode (k f) = [enc op f])
    (hop : op < 256) (hdec : ∀ w after, decodeOp op w after = dec k w) : Decodes (k f) after := by
  obtain ⟨hw, hd⟩ := (h op hop k (enc op f) (k f)).2 ⟨f, hf, rfl, rfl⟩
  exact .inl ⟨enc op f, henc, by rw [decodeWords_eq hw, hdec, hd]⟩

theorem TwoWords.readFrom {dec : Nat → Option Nat → Except DecodeError Instr} {k : F → Instr} {enc : F → List Word}
    (h : TwoWords op ok dec k enc) (hk : ∀ f, wellFormed (k f) = ok f ∧ encode (k f) = enc f)
    (hw : w.toNat / 2 ^ 24 = op) (hlen : wordsOf op (w.toNat % 4) = 2)
    (hd : dec w.toNat (after.map BitVec.toNat) = .ok i) : ReadFrom w after i := by
  obtain ⟨f, x, hf, rfl, hx, he⟩ := (h w after i).1 ⟨hw, hd⟩
  exact readFrom_two ((hk f).1.trans hf) ((hk f).2.trans he) hx hw hlen

theorem TwoWords.decodes {dec : Nat → Option Nat → Except DecodeError Instr} {k : F → Instr} {enc : F → List Word}
    (h : TwoWords op ok dec k enc) {f : F} {x : Word} (hf : ok f = true) (henc : encode (k f) = enc f)
    (he : enc f = [w, x]) (hdec : ∀ w after, decodeOp op w after = dec w after) : Decodes (k f) after := by
  obtain ⟨hw, hd⟩ := (h w (some x) (k f)).2 ⟨f, x, hf, rfl, rfl, he⟩
  exact .inr ⟨w, x, henc.trans he, by rw [decodeWords_eq hw, hdec, hd]⟩

/-! ### Reserved opcodes -/

theorem opcodeReserved_iff : opcodeReserved op = true ↔ op = 0x00 ∨ (0x2D ≤ op ∧ op ≤ 0x2F) ∨ (0x6E ≤ op ∧ op ≤ 0x6F) ∨
    (0x7C ≤ op ∧ op ≤ 0x7F) ∨ (0x94 ≤ op ∧ op ≤ 0x9F) ∨ (0xAC ≤ op ∧ op ≤ 0xAF) ∨ (0xB5 ≤ op ∧ op ≤ 0xB7) ∨
    (0xBB ≤ op ∧ op ≤ 0xBF) ∨ (0xCD ≤ op ∧ op ≤ 0xCF) ∨ (0xD4 ≤ op ∧ op ≤ 0xD7) ∨ (0xDB ≤ op ∧ op ≤ 0xDF) ∨
    (0xE9 ≤ op ∧ op ≤ 0xEF) ∨ (0xF6 ≤ op ∧ op ≤ 0xF7) := by
  simp only [opcodeReserved, Bool.or_eq_true, Bool.and_eq_true, beq_iff_eq, decide_eq_true_eq, or_assoc]

theorem decodeOp_reserved (h : opcodeReserved op = true) (w : Nat) (after : Option Nat) :
    decodeOp op w after = .ok (.reservedOpcode (BitVec.ofNat 32 w)) := by
  rcases opcodeReserved_iff.1 h with rfl | h | h | h | h | h | h | h | h | h | h | h | h
  · rfl
  all_goals
    obtain ⟨hl, hu⟩ := h
    interval_cases op <;> rfl

theorem decodeWords_reserved (h : opcodeReserved (w.toNat / 2 ^ 24) = true) :
    decodeWords w after = .ok (.reservedOpcode w) := by
  rw [decodeWords_eq rfl, decodeOp_reserved h, BitVec.ofNat_toNat, BitVec.setWidth_eq]

theorem wordsOf_reserved (h : opcodeReserved op = true) (low : Nat) : wordsOf op low = 1 :=
  if_neg (by rw [opcodeReserved_iff] at h; omega)

theorem reserved_readFrom (hw : w.toNat / 2 ^ 24 = op) (hr : opcodeReserved op = true)
    (h : .ok (.reservedOpcode (BitVec.ofNat 32 w.toNat)) = Except.ok (ε := DecodeError) i) : ReadFrom w after i := by
  obtain rfl := Except.ok.inj h
  rw [BitVec.ofNat_toNat, BitVec.setWidth_eq]
  subst hw
  exact readFrom_one (i := .reservedOpcode w) hr rfl rfl rfl (wordsOf_reserved hr _)

theorem bare_readFrom (hw : w.toNat / 2 ^ 24 = op) (hop : op < 256) {j : Instr} (hwf : wellFormed j = true)
    (henc : encode j = [encUI op 0 0]) (hlen : wordsOf op (w.toNat % 4) = 1) (h : bare j w.toNat = .ok i) :
    ReadFrom w after i := by
  obtain ⟨_, -, rfl, he⟩ := (bare_format op hop (fun _ => j) w i).1 ⟨hw, h⟩
  exact readFrom_one hwf henc he hw hlen

/-! ### Memory forms -/

theorem lmem_readFrom {load : Bool} {k : LMem → Instr} {kx : LMemX → Instr}
    (hk : ∀ f, wellFormed (k f) = true ∧ encode (k f) = [encLMem op f])
    (hkx : ∀ f, wellFormed (kx f) = orderAllowed load f.ord ∧ encode (kx f) = encMemX op 0 f)
    (hw : w.toNat / 2 ^ 24 = op) (hl : 0x70 ≤ op) (hu : op ≤ 0x79)
    (h : lmem load k kx w.toNat (after.map BitVec.toNat) = .ok i) : ReadFrom w after i := by
  have hop : op < 256 := by omega
  rcases (lmem_ok_iff hop).1 ⟨hw, h⟩ with ⟨f, rfl, he⟩ | ⟨f, x, ho, rfl, hx, he⟩
  · have h0 : w.toNat % 4 = 0 := by simpa using ((encLMem_eq_iff hop).1 he).2.1
    exact readFrom_one (hk f).1 (hk f).2 he hw (if_neg (by omega))
  · obtain ⟨-, -, -, hf⟩ := (encMemX_eq_iff hop (by decide)).1 he
    have hord : w.toNat % 4 = f.ord.toNat := by simpa using congrArg LMemX.ord hf
    have hne := orderAllowed_ne_zero ho
    exact readFrom_two ((hkx f).1.trans ho) ((hkx f).2.trans he) hx hw (if_pos (by omega))

theorem lmem_decodes {load : Bool} {k : LMem → Instr} {kx : LMemX → Instr} {f : LMem}
    (henc : encode (k f) = [encLMem op f]) (hop : op < 256)
    (hdec : ∀ w after, decodeOp op w after = lmem load k kx w after) : Decodes (k f) after := by
  obtain ⟨hw, hd⟩ := (lmem_ok_iff hop).2 (.inl ⟨f, rfl, rfl⟩)
  exact .inl ⟨_, henc, by rw [decodeWords_eq hw, hdec, hd]⟩

theorem lmem_ordered_decodes {load : Bool} {k : LMem → Instr} {kx : LMemX → Instr} {f : LMemX}
    (ho : orderAllowed load f.ord = true) (henc : encode (kx f) = encMemX op 0 f) (hop : op < 256)
    (hdec : ∀ w after, decodeOp op w after = lmem load k kx w after) : Decodes (kx f) after := by
  obtain ⟨hw, hd⟩ := (lmem_ok_iff hop).2 (.inr ⟨f, _, ho, rfl, rfl, rfl⟩)
  exact .inr ⟨_, _, henc, by rw [decodeWords_eq hw, hdec, hd]⟩

theorem lext_readFrom {of : Nat → Option (LMemX → Instr)}
    (hof : ∀ fn k, of fn = some k → ∀ f, wellFormed (k f) = true ∧ encode (k f) = encMemX op fn f)
    (hw : w.toNat / 2 ^ 24 = op) (hop : op < 256) (hlen : wordsOf op (w.toNat % 4) = 2)
    (h : lext w.toNat (after.map BitVec.toNat) of = .ok i) : ReadFrom w after i := by
  obtain ⟨fn, k, f, x, -, hk, rfl, hx, he⟩ := (lext_ok_iff hop).1 ⟨hw, h⟩
  obtain ⟨hwf, henc⟩ := hof fn k hk f
  exact readFrom_two hwf (henc.trans he) hx hw hlen

theorem lext_decodes {of : Nat → Option (LMemX → Instr)} {fn : Nat} {k : LMemX → Instr} {f : LMemX}
    (hk : of fn = some k) (henc : encode (k f) = encMemX op fn f) (hfn : fn < 16) (hop : op < 256)
    (hdec : ∀ w after, decodeOp op w after = lext w after of) : Decodes (k f) after := by
  obtain ⟨hw, hd⟩ := (lext_ok_iff hop).2 ⟨fn, k, f, _, hfn, hk, rfl, rfl, rfl⟩
  exact .inr ⟨_, _, henc, by rw [decodeWords_eq hw, hdec, hd]⟩

theorem atomOf_encode {fn : Nat} {k : LMemX → Instr} (hk : atomOf fn = some k) (f : LMemX) :
    wellFormed (k f) = true ∧ encode (k f) = encMemX 0x7A fn f := by
  unfold atomOf at hk
  split at hk <;> cases hk <;> exact ⟨rfl, rfl⟩

theorem dqopOf_encode {fn : Nat} {k : LMemX → Instr} (hk : dqopOf fn = some k) (f : LMemX) :
    wellFormed (k f) = true ∧ encode (k f) = encMemX 0x7B fn f := by
  unfold dqopOf at hk
  split at hk <;> cases hk <;> exact ⟨rfl, rfl⟩

end

/-! ### The opcode maps, read -/

section
variable {op : Nat} {w : Word} {after : Option Word} {i : Instr}

theorem laneInteger_readFrom (hw : w.toNat / 2 ^ 24 = op) (hu : op ≤ 0x20)
    (h : laneInteger op w.toNat (after.map BitVec.toNat) = .ok i) : ReadFrom w after i := by
  have hop : op < 256 := hu.trans_lt (by decide)
  unfold laneInteger at h
  split at h
  -- MOVL; then an opcode of no row
  case h_32 => exact movl_format.readFrom (fun _ => ⟨rfl, rfl⟩) hw rfl h
  case h_33 => exact reserved_readFrom hw (by rw [opcodeReserved_iff]; simp only [imp_false] at *; omega) h
  all_goals
    simp only [lr3_format.ok_iff hw hop, lr2_format.ok_iff hw hop, limm_format.ok_iff hw hop, lshift_format.ok_iff hw
      hop] at h
    obtain ⟨f, -, rfl, he⟩ := h
    exact readFrom_one rfl rfl he hw rfl

theorem lanePacked_readFrom (hw : w.toNat / 2 ^ 24 = op) (hl : 0x20 < op) (hu : op ≤ 0x2C)
    (h : lanePacked op w.toNat (after.map BitVec.toNat) = .ok i) : ReadFrom w after i := by
  have hop : op < 256 := hu.trans_lt (by decide)
  unfold lanePacked at h
  split at h
  -- INV; then an opcode of no row
  case h_12 => exact inv_format.readFrom (fun _ => ⟨rfl, rfl⟩) hw rfl h
  case h_13 => exact reserved_readFrom hw (by rw [opcodeReserved_iff]; simp only [imp_false] at *; omega) h
  all_goals
    simp only [lr3_format.ok_iff hw hop, lr2_format.ok_iff hw hop] at h
    obtain ⟨f, -, rfl, he⟩ := h
    exact readFrom_one rfl rfl he hw rfl

theorem laneFloat_readFrom (hw : w.toNat / 2 ^ 24 = op) (hl : 0x2C < op) (hu : op ≤ 0x49)
    (h : laneFloat op w.toNat = .ok i) : ReadFrom w after i := by
  have hop : op < 256 := hu.trans_lt (by decide)
  unfold laneFloat at h
  split at h
  -- the conversions; then an opcode of no row
  case h_19 | h_20 | h_21 | h_22 | h_23 | h_24 | h_25 | h_26 =>
    exact (lcode_format 4).readFrom (fun _ => ⟨rfl, rfl⟩) hw hop rfl h
  case h_27 => exact reserved_readFrom hw (by rw [opcodeReserved_iff]; simp only [imp_false] at *; omega) h
  all_goals
    simp only [lr3_format.ok_iff hw hop, lr2_format.ok_iff hw hop] at h
    obtain ⟨f, -, rfl, he⟩ := h
    exact readFrom_one rfl rfl he hw rfl

theorem laneMatrixPred_readFrom (hw : w.toNat / 2 ^ 24 = op) (hl : 0x49 < op) (hu : op ≤ 0x5F)
    (h : laneMatrixPred op w.toNat = .ok i) : ReadFrom w after i := by
  have hop : op < 256 := hu.trans_lt (by decide)
  unfold laneMatrixPred at h
  split at h
  -- PSET; then an opcode of no row
  case h_21 => exact lpset_format.readFrom (fun _ => ⟨rfl, rfl⟩) hw hop rfl h
  case h_23 => exact reserved_readFrom hw (by rw [opcodeReserved_iff]; simp only [imp_false] at *; omega) h
  all_goals
    simp only [lr3_format.ok_iff hw hop, lr2_format.ok_iff hw hop, lctl_format.ok_iff hw hop, lctl2_format.ok_iff hw
      hop, lcmp_format.ok_iff hw hop, lpred_format.ok_iff hw hop, lpget_format.ok_iff hw hop] at h
    obtain ⟨f, -, rfl, he⟩ := h
    exact readFrom_one rfl rfl he hw rfl

theorem laneCross_readFrom (hw : w.toNat / 2 ^ 24 = op) (hl : 0x5F < op) (hu : op ≤ 0x6D)
    (h : laneCross op w.toNat = .ok i) : ReadFrom w after i := by
  have hop : op < 256 := hu.trans_lt (by decide)
  unfold laneCross at h
  split at h
  -- BCAST and MOVS; then an opcode of no row
  case h_6 => exact (lcode_format 48).readFrom (fun _ => ⟨rfl, rfl⟩) hw hop rfl h
  case h_12 => exact lspec_format.readFrom (fun _ => ⟨rfl, rfl⟩) hw hop rfl h
  case h_15 => exact reserved_readFrom hw (by rw [opcodeReserved_iff]; simp only [imp_false] at *; omega) h
  all_goals
    simp only [lr3_format.ok_iff hw hop, lr2_format.ok_iff hw hop] at h
    obtain ⟨f, -, rfl, he⟩ := h
    exact readFrom_one rfl rfl he hw rfl

theorem uniformAlu_readFrom (hw : w.toNat / 2 ^ 24 = op) (hl : 0x7B < op) (hu : op ≤ 0x93)
    (h : uniformAlu op w.toNat (after.map BitVec.toNat) = .ok i) : ReadFrom w after i := by
  have hop : op < 256 := hu.trans_lt (by decide)
  unfold uniformAlu at h
  split at h
  -- NOP and ULIT; then an opcode of no row
  case h_16 => exact bare_readFrom hw hop rfl rfl rfl h
  case h_19 => exact ulit_format.readFrom (fun _ => ⟨rfl, rfl⟩) hw rfl h
  case h_21 => exact reserved_readFrom hw (by rw [opcodeReserved_iff]; simp only [imp_false] at *; omega) h
  all_goals
    simp only [ur3_format.ok_iff hw hop, ur2_format.ok_iff hw hop, uimm_format.ok_iff hw hop] at h
    obtain ⟨f, -, rfl, he⟩ := h
    exact readFrom_one rfl rfl he hw rfl

theorem uniformControl_readFrom (hw : w.toNat / 2 ^ 24 = op) (hl : 0x93 < op) (hu : op ≤ 0xBA)
    (h : uniformControl op w.toNat = .ok i) : ReadFrom w after i := by
  have hop : op < 256 := hu.trans_lt (by decide)
  unfold uniformControl at h
  split at h
  -- JOIN and YIELD; then an opcode of no row
  case h_8 => exact bare_readFrom hw hop rfl rfl rfl h
  case h_9 => exact bare_readFrom hw hop rfl rfl rfl h
  case h_21 => exact reserved_readFrom hw (by rw [opcodeReserved_iff]; simp only [imp_false] at *; omega) h
  all_goals
    simp only [ubr_format.ok_iff hw hop, ubrc_format.ok_iff hw hop, laneSrc_format.ok_iff hw hop, usrc_format.ok_iff
      hw hop, pri_format.ok_iff hw hop, far_format.ok_iff hw hop, udst_format.ok_iff hw hop, upred_format.ok_iff hw
      hop, setx_format.ok_iff hw hop, recset_format.ok_iff hw hop, ldrec_format.ok_iff hw hop] at h
    obtain ⟨f, -, rfl, he⟩ := h
    exact readFrom_one rfl rfl he hw rfl

theorem uniformQueue_readFrom (hw : w.toNat / 2 ^ 24 = op) (hl : 0xBA < op) (hu : op ≤ 0xCC)
    (h : uniformQueue op w.toNat = .ok i) : ReadFrom w after i := by
  have hop : op < 256 := hu.trans_lt (by decide)
  unfold uniformQueue at h
  split at h
  -- an opcode of no row
  case h_14 => exact reserved_readFrom hw (by rw [opcodeReserved_iff]; simp only [imp_false] at *; omega) h
  all_goals
    simp only [qbar_format.ok_iff hw hop, qcount_format.ok_iff hw hop, qphase_format.ok_iff hw hop,
      qcaravan_format.ok_iff hw hop, qsrc_format.ok_iff hw hop, qfence_format.ok_iff hw hop, qreg_format.ok_iff hw
      hop] at h
    obtain ⟨f, -, rfl, he⟩ := h
    exact readFrom_one rfl rfl he hw rfl

theorem uniformSystem_readFrom (hw : w.toNat / 2 ^ 24 = op) (hl : 0xCC < op) (hu : op ≤ 0xF5)
    (h : uniformSystem op w.toNat = .ok i) : ReadFrom w after i := by
  have hop : op < 256 := hu.trans_lt (by decide)
  unfold uniformSystem at h
  split at h
  -- FENCE and WCFLUSH; then an opcode of no row
  case h_1 => exact fence_format.readFrom (fun _ => ⟨rfl, rfl⟩) hw hop rfl h
  case h_2 => exact bare_readFrom hw hop rfl rfl rfl h
  case h_23 => exact reserved_readFrom hw (by rw [opcodeReserved_iff]; simp only [imp_false] at *; omega) h
  all_goals
    simp only [udst_format.ok_iff hw hop, ssrc_format.ok_iff hw hop, ur3_format.ok_iff hw hop, ur2_format.ok_iff hw
      hop, kvfork_format.ok_iff hw hop] at h
    obtain ⟨f, -, rfl, he⟩ := h
    exact readFrom_one rfl rfl he hw rfl

theorem uniformLast_readFrom (hw : w.toNat / 2 ^ 24 = op) (hl : 0xF5 < op) (hu : op ≤ 0xFF)
    (h : uniformLast op w.toNat = .ok i) : ReadFrom w after i := by
  have hop : op < 256 := hu.trans_lt (by decide)
  unfold uniformLast at h
  split at h
  -- MOVC, MOVCW and EXIT; then an opcode of no row
  case h_3 => exact movc_format.readFrom (fun _ => ⟨rfl, rfl⟩) hw hop rfl h
  case h_4 => exact movcw_format.readFrom (fun _ => ⟨rfl, rfl⟩) hw hop rfl h
  case h_8 => exact bare_readFrom hw hop rfl rfl rfl h
  case h_9 => exact reserved_readFrom hw (by rw [opcodeReserved_iff]; simp only [imp_false] at *; omega) h
  all_goals
    simp only [ur2_format.ok_iff hw hop, codef_format.ok_iff hw hop, rte_format.ok_iff hw hop] at h
    obtain ⟨f, -, rfl, he⟩ := h
    exact readFrom_one rfl rfl he hw rfl

theorem laneMem_readFrom (hw : w.toNat / 2 ^ 24 = op) (hl : 0x6D < op) (hu : op ≤ 0x7B)
    (h : laneMem op w.toNat (after.map BitVec.toNat) = .ok i) : ReadFrom w after i := by
  unfold laneMem at h
  split at h
  -- ATOM and DQOP; then an opcode of no row
  case h_11 => exact lext_readFrom (fun _ _ => atomOf_encode) hw (by decide) rfl h
  case h_12 => exact lext_readFrom (fun _ _ => dqopOf_encode) hw (by decide) rfl h
  case h_13 => exact reserved_readFrom hw (by rw [opcodeReserved_iff]; simp only [imp_false] at *; omega) h
  all_goals exact lmem_readFrom (fun _ => ⟨rfl, rfl⟩) (fun _ => ⟨rfl, rfl⟩) hw (by decide) (by decide) h

theorem decodeOp_readFrom (hw : w.toNat / 2 ^ 24 = op) (h : decodeOp op w.toNat (after.map BitVec.toNat) = .ok i) :
    ReadFrom w after i := by
  unfold decodeOp at h
  split at h
  case isTrue hu => exact laneInteger_readFrom hw hu h
  rename_i hl
  split at h
  case isTrue hu => exact lanePacked_readFrom hw (not_le.1 hl) hu h
  rename_i hl
  split at h
  case isTrue hu => exact laneFloat_readFrom hw (not_le.1 hl) hu h
  rename_i hl
  split at h
  case isTrue hu => exact laneMatrixPred_readFrom hw (not_le.1 hl) hu h
  rename_i hl
  split at h
  case isTrue hu => exact laneCross_readFrom hw (not_le.1 hl) hu h
  rename_i hl
  split at h
  case isTrue hu => exact laneMem_readFrom hw (not_le.1 hl) hu h
  rename_i hl
  split at h
  case isTrue hu => exact uniformAlu_readFrom hw (not_le.1 hl) hu h
  rename_i hl
  split at h
  case isTrue hu => exact uniformControl_readFrom hw (not_le.1 hl) hu h
  rename_i hl
  split at h
  case isTrue hu => exact uniformQueue_readFrom hw (not_le.1 hl) hu h
  rename_i hl
  split at h
  case isTrue hu => exact uniformSystem_readFrom hw (not_le.1 hl) hu h
  rename_i hl
  split at h
  case isTrue hu => exact uniformLast_readFrom hw (not_le.1 hl) hu h
  rename_i hl
  exact absurd w.isLt (by omega)

end

/-! ### The encoder's words, decoded -/

section
variable {op : Nat} {w : Word} {i : Instr}

theorem bare_decodes {j : Instr} (henc : encode j = [encUI op 0 0]) (hop : op < 256)
    (hdec : ∀ w after, decodeOp op w after = bare j w) : Decodes j after :=
  bare_format.decodes (k := fun _ => j) (f := ()) rfl henc hop hdec

theorem decodes_of_wellFormed (hi : wellFormed i = true) (after : Option Word) : Decodes i after := by
  cases i with
  | iadd f | isub f | imul f | imulh f | nmulh f | imad f | imin f | imax f | nmin f | nmax f | and f | or f
  | xor f | andn f | shl f | shr f | sar f | shrr f | bfe f | bfi f | sel f | padd2 f | psub2 f | pmul2 f | pmac2 f
  | pmacx2 f | sadd f | ssub f | pack2 f | pshrr2 f | fadd f | fsub f | fmul f | ffma f | fmin f | fmax f | bfma2 f
  | badd2 f | bmul2 f | qnt f | slide f | slideh f | sliden f | swap f | perm f | rng f =>
    exact lr3_format.decodes hi rfl (by decide) fun _ _ => rfl
  | iabs f | popc f | clz f | brev f | mov f | sxlo f | sxhi f | fneg f | fabs f | frcp f | frsq f | fsqrt f
  | fexp2 f | flog2 f | fsin f | fcos f | accrd f | redsum f | rediadd f | redmax f | redmin f | scan f | movu f =>
    exact lr2_format.decodes hi rfl (by decide) fun _ _ => rfl
  | iaddi f | andi f => exact limm_format.decodes hi rfl (by decide) fun _ _ => rfl
  | shli f | shri f | sari f => exact lshift_format.decodes hi rfl (by decide) fun _ _ => rfl
  | movl f => exact movl_format.decodes rfl rfl rfl fun _ _ => rfl
  | inv f => exact inv_format.decodes hi rfl rfl fun _ _ => rfl
  | cvtfi f | cvtif f | cvtnf f | cvtfn f | cvtbf f | cvtfb f | cvtef f | cvtfe f =>
    exact (lcode_format 4).decodes hi rfl (by decide) fun _ _ => rfl
  | mma f | accz f => exact lctl_format.decodes hi rfl (by decide) fun _ _ => rfl
  | accsc f | accwr f => exact lctl2_format.decodes hi rfl (by decide) fun _ _ => rfl
  | icmpeq f | icmpne f | icmplt f | icmple f | ncmplt f | ncmple f | fcmpeq f | fcmpne f | fcmplt f | fcmple f
  | fcmpun f =>
    exact lcmp_format.decodes hi rfl (by decide) fun _ _ => rfl
  | pand f | por f | pxor f => exact lpred_format.decodes hi rfl (by decide) fun _ _ => rfl
  | pset f => exact lpset_format.decodes hi rfl (by decide) fun _ _ => rfl
  | pget f => exact lpget_format.decodes hi rfl (by decide) fun _ _ => rfl
  | bcast f => exact (lcode_format 48).decodes hi rfl (by decide) fun _ _ => rfl
  | movs f => exact lspec_format.decodes hi rfl (by decide) fun _ _ => rfl
  | ldb f | ldh f | ldw f | ldd f | ldq f | stb f | sth f | stw f | std f | stq f =>
    exact lmem_decodes rfl (by decide) fun _ _ => rfl
  | ldbOrdered f | ldhOrdered f | ldwOrdered f | lddOrdered f | ldqOrdered f =>
    exact lmem_ordered_decodes (load := true) hi rfl (by decide) fun _ _ => rfl
  | stbOrdered f | sthOrdered f | stwOrdered f | stdOrdered f | stqOrdered f =>
    exact lmem_ordered_decodes (load := false) hi rfl (by decide) fun _ _ => rfl
  | atomAdd f | atomImin f | atomImax f | atomNmin f | atomNmax f | atomAnd f | atomOr f | atomXor f | atomXchg f
  | atomCas f | atomFadd f =>
    exact lext_decodes (of := atomOf) rfl rfl (by decide) (by decide) fun _ _ => rfl
  | dqopPush f | dqopPop f | dqopSteal f =>
    exact lext_decodes (of := dqopOf) rfl rfl (by decide) (by decide) fun _ _ => rfl
  | uadd f | usub f | umul f | uand f | uor f | uxor f | ushl f | ushr f | usar f | umin f | umax f | ucmpeq f
  | ucmplt f | ucmplo f | spawn f | resolve f | dtadd f | dtbud f | twait f | kvwalk f | kvext f | kvrel f =>
    exact ur3_format.decodes hi rfl (by decide) fun _ _ => rfl
  | umov f | launch f | vquery f | dttake f | trdy f | pin f | unpin f | sitreg f | sitdrop f =>
    exact ur2_format.decodes hi rfl (by decide) fun _ _ => rfl
  | nop | join | yield | wcflush | exit => exact bare_decodes rfl (by decide) fun _ _ => rfl
  | umovi f | uaddi f | ushli f => exact uimm_format.decodes hi rfl (by decide) fun _ _ => rfl
  | ulit f => exact ulit_format.decodes rfl rfl rfl fun _ _ => rfl
  | bra f | call f | brez f => exact ubr_format.decodes hi rfl (by decide) fun _ _ => rfl
  | brnz f | brz f | brd f => exact ubrc_format.decodes hi rfl (by decide) fun _ _ => rfl
  | brx f => exact laneSrc_format.decodes hi rfl (by decide) fun _ _ => rfl
  | ret f | exset f | exelse f => exact usrc_format.decodes hi rfl (by decide) fun _ _ => rfl
  | setpri f => exact pri_format.decodes hi rfl (by decide) fun _ _ => rfl
  | jmpf f => exact far_format.decodes hi rfl (by decide) fun _ _ => rfl
  | exget f | rbatch f | rwait f => exact udst_format.decodes hi rfl (by decide) fun _ _ => rfl
  | exand f | vote f => exact upred_format.decodes hi rfl (by decide) fun _ _ => rfl
  | setx f => exact setx_format.decodes hi rfl (by decide) fun _ _ => rfl
  | recset f => exact recset_format.decodes hi rfl (by decide) fun _ _ => rfl
  | ldrec f => exact ldrec_format.decodes hi rfl (by decide) fun _ _ => rfl
  | bararr f | barwait f | barsync f => exact qbar_format.decodes hi rfl (by decide) fun _ _ => rfl
  | phbarr f => exact qcount_format.decodes hi rfl (by decide) fun _ _ => rfl
  | phbwait f => exact qphase_format.decodes hi rfl (by decide) fun _ _ => rfl
  | cvbar f | cairnmin f | cairnrd f => exact qcaravan_format.decodes hi rfl (by decide) fun _ _ => rfl
  | bclose f | waitb f => exact qsrc_format.decodes hi rfl (by decide) fun _ _ => rfl
  | qfence f => exact qfence_format.decodes hi rfl (by decide) fun _ _ => rfl
  | qw f | qrd f => exact qreg_format.decodes hi rfl (by decide) fun _ _ => rfl
  | fence f => exact fence_format.decodes hi rfl (by decide) fun _ _ => rfl
  | cfetch f | cwait f | phase f => exact ssrc_format.decodes hi rfl (by decide) fun _ _ => rfl
  | kvfork f => exact kvfork_format.decodes hi rfl (by decide) fun _ _ => rfl
  | movc f => exact movc_format.decodes hi rfl (by decide) fun _ _ => rfl
  | movcw f => exact movcw_format.decodes hi rfl (by decide) fun _ _ => rfl
  | trap f | bkpt f => exact codef_format.decodes hi rfl (by decide) fun _ _ => rfl
  | rte f => exact rte_format.decodes hi rfl (by decide) fun _ _ => rfl
  | reservedOpcode w => exact .inl ⟨w, rfl, decodeWords_reserved hi⟩
  | _ => exact absurd hi Bool.false_ne_true

/-- Settles O15: the first half goes over the instructions, the second over the opcode maps, and both rest on the formats,
each of which decodes exactly the words its encoder writes. -/
theorem decodingInvertsEncoding : Obligations.DecodingInvertsEncoding := by
  unfold Obligations.DecodingInvertsEncoding
  exact ⟨fun _ hi after => decodes_of_wellFormed hi after, fun w after i h => decodeOp_readFrom rfl h⟩

end

/-- Settles O16: the decoder, run on the words. -/
theorem wordsOfTheSpecDecode : Obligations.WordsOfTheSpecDecode := by
  unfold Obligations.WordsOfTheSpecDecode
  exact ⟨rfl, rfl, rfl, rfl, rfl, rfl, rfl, rfl, rfl, rfl, rfl, rfl, rfl⟩

end Sys2Proof.Proofs
end

section
/-!
The functions of the uniform and integer words are those of the spec's tables (R43, R44, R164-R166), and O8.
-/

namespace Sys2Proof.Proofs

open Sys2Proof.Machine Sys2Proof.Statements

/-! ### Shifts, minima and maxima in exact arithmetic -/

theorem shiftLeft_eq_ofNat {n : Nat} (x : BitVec n) (c : Nat) : x <<< c = BitVec.ofNat n (x.toNat * 2 ^ c) := by
  apply BitVec.eq_of_toNat_eq
  rw [BitVec.toNat_shiftLeft, Nat.shiftLeft_eq, BitVec.toNat_ofNat]

theorem ushiftRight_eq_ofNat {n : Nat} (x : BitVec n) (c : Nat) : x >>> c = BitVec.ofNat n (x.toNat / 2 ^ c) := by
  apply BitVec.eq_of_toNat_eq
  rw [BitVec.toNat_ushiftRight, Nat.shiftRight_eq_div_pow, BitVec.toNat_ofNat, Nat.mod_eq_of_lt]
  exact (Nat.div_le_self _ _).trans_lt x.isLt

theorem sshiftRight_eq_ofInt {n : Nat} (x : BitVec n) (c : Nat) : x.sshiftRight c = BitVec.ofInt n (x.toInt / 2 ^ c) := by
  rw [BitVec.sshiftRight, Int.shiftRight_eq_div_pow]
  norm_cast

/-- An arithmetic shift by a count cut to the width: sign fill from the width on. -/
theorem sshiftRight_min {n : Nat} (x : BitVec n) (c : Nat) : x.sshiftRight (min n c) =
    if n ≤ c then (if x.toInt < 0 then BitVec.allOnes n else 0) else BitVec.ofInt n (x.toInt / 2 ^ c) := by
  have hpow : (2 : Int) ^ (n - 1) ≤ 2 ^ n := by gcongr <;> omega
  have hlo := x.le_toInt
  have hhi := x.toInt_lt
  rw [sshiftRight_eq_ofInt]
  split_ifs with hc hx
  · rw [min_eq_left hc, Int.ediv_eq_neg_one_of_neg_of_le hx (by omega)]
    exact (BitVec.ofInt_neg (n := 1)).trans BitVec.neg_one_eq_allOnes
  · rw [min_eq_left hc, Int.ediv_eq_zero_of_lt (by omega) (by omega)]
    rfl
  · rw [min_eq_right (by omega)]

theorem pick_min_toInt {n : Nat} (x y : BitVec n) :
    (if y.toInt < x.toInt then y else x) = BitVec.ofInt n (min x.toInt y.toInt) := by
  split_ifs with h
  · rw [min_eq_right h.le, BitVec.ofInt_toInt]
  · rw [min_eq_left (not_lt.1 h), BitVec.ofInt_toInt]

theorem pick_max_toInt {n : Nat} (x y : BitVec n) :
    (if x.toInt < y.toInt then y else x) = BitVec.ofInt n (max x.toInt y.toInt) := by
  split_ifs with h
  · rw [max_eq_right h.le, BitVec.ofInt_toInt]
  · rw [max_eq_left (not_lt.1 h), BitVec.ofInt_toInt]

theorem ofInt_toNat {n : Nat} (x : BitVec n) : BitVec.ofInt n x.toNat = x := by
  rw [BitVec.ofInt_natCast, BitVec.ofNat_toNat, BitVec.setWidth_eq]

theorem pick_min_toNat {n : Nat} (x y : BitVec n) :
    (if y.toNat < x.toNat then y else x) = BitVec.ofInt n (min x.toNat y.toNat : Nat) := by
  split_ifs with h
  · rw [min_eq_right h.le, ofInt_toNat]
  · rw [min_eq_left (not_lt.1 h), ofInt_toNat]

theorem pick_max_toNat {n : Nat} (x y : BitVec n) :
    (if x.toNat < y.toNat then y else x) = BitVec.ofInt n (max x.toNat y.toNat : Nat) := by
  split_ifs with h
  · rw [max_eq_right h.le, ofInt_toNat]
  · rw [max_eq_left (not_lt.1 h), ofInt_toNat]

theorem ofInt_sub {n : Nat} (x y : Int) : BitVec.ofInt n (x - y) = BitVec.ofInt n x - BitVec.ofInt n y := by
  rw [sub_eq_add_neg, BitVec.ofInt_add, BitVec.ofInt_neg, BitVec.sub_eq_add_neg]

theorem flag64_decide (p : Prop) [Decidable p] : flag64 (decide p) = if p then 1 else 0 := by
  by_cases h : p <;> simp [flag64, h]

/-! ### The uniform words -/

/-- The functions of the uniform ALU are those of the table of R43. -/
theorem uniformTable_eq : uniformTable = [(.uadd, uUadd), (.usub, uUsub), (.umul, uUmul), (.uand, uUand), (.uor, uUor),
    (.uxor, uUxor), (.ushl, uUshl), (.ushr, uUshr), (.usar, uUsar), (.umin, uUmin), (.umax, uUmax), (.ucmpeq, uUcmpeq),
    (.ucmplt, uUcmplt), (.ucmplo, uUcmplo)] := by
  have hadd (x y) : uUadd x y = BitVec.ofNat 64 (x.toNat + y.toNat) := BitVec.eq_of_toNat_eq (by simp [uUadd])
  have hsub (x y) : uUsub x y = BitVec.ofInt 64 (x.toInt - y.toInt) := by
    rw [ofInt_sub, BitVec.ofInt_toInt, BitVec.ofInt_toInt, uUsub]
  have hmul (x y) : uUmul x y = BitVec.ofNat 64 (x.toNat * y.toNat) := BitVec.eq_of_toNat_eq (by simp [uUmul])
  simp only [uniformTable, ← hadd, ← hsub, ← hmul, ← shiftLeft_eq_ofNat, ← ushiftRight_eq_ofNat, ← sshiftRight_min,
    ← pick_min_toInt, ← pick_max_toInt, ← flag64_decide]
  rfl

/-- Every row of the table is a word of the uniform ALU with the table's function. -/
theorem uniformTable_exec : ∀ e ∈ uniformTable, ∀ f s, exec (e.1 f) s = wordUni f e.2 s := by
  simp only [uniformTable_eq, List.forall_mem_cons, List.not_mem_nil, false_implies, implies_true, and_true]
  and_intros
  all_goals exact fun _ _ => rfl

/-- The UI words write their table's function of the immediate and the old destination (R44). -/
theorem immediateTable_exec : ∀ e ∈ immediateTable, ∀ f s,
    exec (e.1 f) s = plainWord [] 1 (uniImm f.d (e.2 f.imm)) s := by
  have hsext (i : BitVec 17) : imm17 i = BitVec.ofInt 64 i.toInt := rfl
  have hadd (i : BitVec 17) (x : DWord) : x + imm17 i = BitVec.ofInt 64 (x.toInt + i.toInt) := by
    rw [BitVec.ofInt_add, BitVec.ofInt_toInt, hsext]
  simp only [immediateTable, ← hsext, ← hadd, ← shiftLeft_eq_ofNat, List.forall_mem_cons, List.not_mem_nil, false_implies,
    implies_true, and_true]
  exact ⟨fun _ _ => rfl, fun _ _ => rfl, fun _ _ => rfl⟩

theorem ulitValue_eq (f : ULitForm) :
    ulitValue f = if f.x = 1 then BitVec.ofInt 64 f.lit.toInt else BitVec.ofNat 64 f.lit.toNat := by
  rw [ulitValue, BitVec.ofNat_toNat]
  rfl

theorem uniImm_result {s : State} {n : Nat} (d : BitVec 7) (op : DWord → DWord) (hc : CanRun s n []) :
    ∃ t, plainWord [] n (uniImm d op) s = .next t ∧ UniResult s t n d.toNat (op (s.group.sAt d.toNat)) :=
  ⟨_, run_group hc _ rfl rfl, uniResult _ _ _ _⟩

/-- Settles O8: each word updates one uniform register of the selected group and steps past itself. -/
theorem uniformWordsWriteTheTable : Obligations.UniformWordsWriteTheTable := by
  unfold Obligations.UniformWordsWriteTheTable
  refine ⟨⟨fun e he s f hc => ?_, fun s f hc => ?_, fun e he s f hc => ?_, fun s f hc => ?_, fun s hc => ?_⟩, rfl⟩
  · rw [uniformTable_exec e he]
    exact ⟨_, run_group hc _ rfl rfl, uniResult _ _ _ _⟩
  · exact ⟨_, run_group hc _ rfl rfl, uniResult _ _ _ _⟩
  · rw [immediateTable_exec e he]
    exact uniImm_result f.d (e.2 f.imm) hc
  · rw [← ulitValue_eq]
    exact uniImm_result f.d (fun _ => ulitValue f) hc
  · exact ⟨_, run_ok hc, passed hc.2.1⟩

/-! ### The integer words -/

theorem fShrr_eq (x y z : Word) : fShrr x y z = if y.toNat = 0 then x else if y.toNat ≥ 32 then 0
    else modWord ((x.toInt + 2 ^ (y.toNat - 1)) / 2 ^ y.toNat) := by
  unfold fShrr shrr
  split_ifs
  · exact BitVec.ofInt_toInt
  · rfl
  · rfl

theorem fBfe_eq (x y z : Word) : fBfe x y z = bitField x y z := by
  have hsign : y.getLsbD 16 = decide (y.toNat / 65536 % 2 = 1) := Nat.testBit_eq_decide_div_mod_eq
  have hfield : (x.toNat : Int) / 2 ^ (y.toNat % 32) % 2 ^ fieldLen y =
      ((x.toNat / 2 ^ (y.toNat % 32) % 2 ^ fieldLen y : Nat) : Int) := by norm_cast
  have hlt : x.toNat / 2 ^ (y.toNat % 32) % 2 ^ fieldLen y < 2 ^ fieldLen y := Nat.mod_lt _ (by positivity)
  simp only [fBfe, bitField, show fieldLength y = fieldLen y from rfl, show fieldPos y = y.toNat % 32 from rfl, hsign,
    hfield, modWord, BitVec.ofInt_natCast]
  generalize x.toNat / 2 ^ (y.toNat % 32) % 2 ^ fieldLen y = u at hlt ⊢
  generalize fieldLen y = e at hlt ⊢
  cases e with
  | zero =>
    obtain rfl := Nat.lt_one_iff.1 hlt
    simp
  | succ e =>
    have hhalf : (2 ^ e ≤ u) ↔ (2 : Int) ^ (e + 1) ≤ 2 * u := by
      rw [pow_succ]; norm_cast; omega
    simp [hhalf]

theorem fBfi_eq (x y z : Word) : fBfi x y z = bitInsert x y z := by
  simp only [fBfi, bitInsert, show fieldLength y = fieldLen y from rfl, show fieldPos y = y.toNat % 32 from rfl]
  generalize y.toNat % 32 = p
  generalize fieldLen y = e
  have hlow : z.toNat % 2 ^ p < 2 ^ p := Nat.mod_lt _ (by positivity)
  have hmid : x.toNat % 2 ^ e < 2 ^ e := Nat.mod_lt _ (by positivity)
  have hsum : z.toNat % 2 ^ p + 2 ^ p * (x.toNat % 2 ^ e) + 2 ^ p * 2 ^ e * (z.toNat / (2 ^ p * 2 ^ e)) =
      2 ^ p * (2 ^ e * (z.toNat / 2 ^ (p + e)) + x.toNat % 2 ^ e) + z.toNat % 2 ^ p := by
    rw [pow_add]
    ring
  apply BitVec.eq_of_getLsbD_eq
  intro j hj
  have hz : z.getLsbD j = z.toNat.testBit j := rfl
  simp only [BitVec.getLsbD_or, BitVec.getLsbD_and, BitVec.getLsbD_not, BitVec.getLsbD_ofNat, hsum, hz, hj,
    decide_true, Bool.true_and, Nat.testBit_two_pow_mul_add _ hlow, Nat.testBit_two_pow_mul_add _ hmid,
    Nat.testBit_mul_two_pow, Nat.testBit_two_pow_sub_one, Nat.testBit_mod_two_pow, Nat.testBit_div_two_pow]
  by_cases hp : p ≤ j
  · by_cases he : j - p < e
    · simp [hp, he]
    · have hback : j - p - e + (p + e) = j := by omega
      simp [hp, he, hback]
  · simp [hp, not_le.1 hp]

/-- The functions of the integer words are those of the table of R164-R166. -/
theorem integerTable_eq : integerTable = [(.iadd, fIadd), (.isub, fIsub), (.imul, fImul), (.imulh, fImulh),
    (.nmulh, fNmulh), (.imad, fImad), (.imin, fImin), (.imax, fImax), (.nmin, fNmin), (.nmax, fNmax), (.and, fAnd),
    (.or, fOr), (.xor, fXor), (.andn, fAndn), (.shl, fShl), (.shr, fShr), (.sar, fSar), (.shrr, fShrr), (.bfe, fBfe),
    (.bfi, fBfi)] := by
  have hadd (x y z : Word) : fIadd x y z = modWord (x.toInt + y.toInt) := by
    rw [modWord, BitVec.ofInt_add, BitVec.ofInt_toInt, BitVec.ofInt_toInt, fIadd]
  have hsub (x y z : Word) : fIsub x y z = modWord (x.toInt - y.toInt) := by
    rw [modWord, ofInt_sub, BitVec.ofInt_toInt, BitVec.ofInt_toInt, fIsub]
  have hmul (x y z : Word) : fImul x y z = modWord (x.toInt * y.toInt) := by
    rw [modWord, BitVec.ofInt_mul, BitVec.ofInt_toInt, BitVec.ofInt_toInt, fImul]
  have hmulh (x y z : Word) : fNmulh x y z = modWord ((x.toNat * y.toNat : Nat) / 2 ^ 32) := by
    rw [modWord, fNmulh, ← BitVec.ofInt_natCast, Int.natCast_ediv]
    rfl
  have hmad (x y z : Word) : fImad x y z = modWord (x.toInt * y.toInt + z.toInt) := by
    rw [modWord, BitVec.ofInt_add, BitVec.ofInt_mul, BitVec.ofInt_toInt, BitVec.ofInt_toInt, BitVec.ofInt_toInt, fImad]
  have hshl (x y z : Word) : fShl x y z = if y.toNat ≥ 32 then 0 else shiftLeft x.toNat y.toNat := by
    rw [fShl, shiftLeft_eq_ofNat, shiftLeft]
  have hshr (x y z : Word) : fShr x y z = if y.toNat ≥ 32 then 0 else shiftRight x.toNat y.toNat := by
    rw [fShr, ushiftRight_eq_ofNat, ← BitVec.ofInt_natCast, shiftRight, Int.natCast_ediv, Int.natCast_pow]
    rfl
  have hmin (x y z : Word) : fImin x y z = modWord (min x.toInt y.toInt) := pick_min_toInt x y
  have hmax (x y z : Word) : fImax x y z = modWord (max x.toInt y.toInt) := pick_max_toInt x y
  have hnmin (x y z : Word) : fNmin x y z = modWord (min x.toNat y.toNat : Nat) := pick_min_toNat x y
  have hnmax (x y z : Word) : fNmax x y z = modWord (max x.toNat y.toNat : Nat) := pick_max_toNat x y
  have hsar (x y z : Word) : fSar x y z =
      if y.toNat ≥ 32 then (if x.toInt < 0 then 0xFFFFFFFF else 0) else shiftRight x.toInt y.toNat :=
    sshiftRight_min x y.toNat
  rw [funext₃ hadd, funext₃ hsub, funext₃ hmul, funext₃ hmulh, funext₃ hmad, funext₃ hshl, funext₃ hshr, funext₃ fShrr_eq,
    funext₃ fBfe_eq, funext₃ fBfi_eq, funext₃ hmin, funext₃ hmax, funext₃ hnmin, funext₃ hnmax, funext₃ hsar]
  rfl

/-- Every row of the table is a lane word with the table's function. -/
theorem integerTable_exec : ∀ e ∈ integerTable, ∀ f s, exec (e.1 f) s = word3 f e.2 s := by
  simp only [integerTable_eq, List.forall_mem_cons, List.not_mem_nil, false_implies, implies_true, and_true]
  and_intros
  all_goals exact fun _ _ => rfl

end Sys2Proof.Proofs
end

section
/-!
The checks every word makes before it acts, and the step past the last word of a segment (O17).
-/

namespace Sys2Proof.Proofs

open Sys2Proof.Machine Sys2Proof.Statements

/-! ### The checks of R40 -/


/-- The words of R42 and R143 that need privilege. -/
def needsPrivilege (i : Instr) : Bool :=
  match i with
  | .movcw f => f.c.toNat == 4
  | i => wordCbyp i

theorem needsPrivilege_iff (i : Instr) : needsPrivilege i = true ↔ PrivilegedWord i := by
  unfold needsPrivilege PrivilegedWord
  split
  next f => simp [wordCbyp, BitVec.toNat_eq]
  next h => exact ⟨.inl, fun h' => h'.resolve_right fun ⟨f, hf, _⟩ => h f hf⟩

theorem wordAvail_eq_false_iff (i : Instr) (s : State) : wordAvail i s = false ↔ CoreLacks i s := by
  unfold wordAvail CoreLacks
  split
  case h_7 f => rw [decide_eq_false_iff_not, not_lt, State.width, widthOf]; simp
  case h_8 => simp_all
  all_goals simp

/-- Every word runs through the checks of R40 with its availability, its privilege and its registers, and an effect of its
own; only an INV whose search stands names no registers again. -/
theorem exec_eq_runWord {i : Instr} (hi : IsWord i) (s : State) : ∃ refs eff,
    exec i s = runWord (wordAvail i s) (!needsPrivilege i || s.group.priv) refs eff s ∧
      ((∀ f, i = .inv f → s.split.search = none) → refs = wordRefs i s.group) := by
  obtain ⟨hwf, hres⟩ := hi
  cases i with
  | inv f =>
    refine ⟨_, _, rfl, fun h => ?_⟩
    rw [h f rfl]
    rfl
  | reservedOpcode w => exact absurd rfl (hres w)
  | iadd f | isub f | imul f | imulh f | nmulh f | imad f | imin f | imax f | nmin f | nmax f | iabs f | and f | or f
  | xor f | andn f | shl f | shr f | sar f | shrr f | popc f | clz f | brev f | bfe f | bfi f | sel f | mov f
  | iaddi f | shli f | shri f | sari f | andi f | movl f | padd2 f | psub2 f | pmul2 f | pmac2 f | pmacx2 f | sadd f
  | ssub f | pack2 f | sxlo f | sxhi f | pshrr2 f | fadd f | fsub f | fmul f | ffma f | fmin f | fmax f | fneg f
  | fabs f | frcp f | frsq f | fsqrt f | fexp2 f | flog2 f | fsin f | fcos f | bfma2 f | badd2 f | bmul2 f | cvtfi f
  | cvtif f | cvtnf f | cvtfn f | cvtbf f | cvtfb f | cvtef f | cvtfe f | mma f | accz f | accrd f | accsc f
  | accwr f | qnt f | icmpeq f | icmpne f | icmplt f | icmple f | ncmplt f | ncmple f | fcmpeq f | fcmpne f
  | fcmplt f | fcmple f | fcmpun f | pand f | por f | pxor f | pset f | pget f | slide f | slideh f | sliden f
  | swap f | perm f | bcast f | redsum f | rediadd f | redmax f | redmin f | scan f | movs f | movu f | rng f | ldb f
  | ldh f | ldw f | ldd f | ldq f | ldbOrdered f | ldhOrdered f | ldwOrdered f | lddOrdered f | ldqOrdered f | stb f
  | sth f | stw f | std f | stq f | stbOrdered f | sthOrdered f | stwOrdered f | stdOrdered f | stqOrdered f
  | atomAdd f | atomImin f | atomImax f | atomNmin f | atomNmax f | atomAnd f | atomOr f | atomXor f | atomXchg f
  | atomCas f | atomFadd f | dqopPush f | dqopPop f | dqopSteal f | uadd f | usub f | umul f | uand f | uor f
  | uxor f | ushl f | ushr f | usar f | umin f | umax f | umov f | ucmpeq f | ucmplt f | ucmplo f | nop | umovi f
  | uaddi f | ulit f | ushli f | bra f | brnz f | brz f | brd f | brx f | call f | ret f | join | yield | setpri f
  | brez f | jmpf f | exget f | exset f | exand f | exelse f | vote f | setx f | recset f | ldrec f | bararr f
  | barwait f | barsync f | phbarr f | phbwait f | cvbar f | cairnmin f | cairnrd f | bclose f | waitb f | qfence f
  | qw f | qrd f | fence f | wcflush | rbatch f | rwait f | cfetch f | cwait f | phase f | launch f | spawn f
  | resolve f | vquery f | dtadd f | dttake f | dtbud f | trdy f | twait f | kvwalk f | kvext f | kvfork f | kvrel f
  | pin f | unpin f | sitreg f | sitdrop f | movc f | movcw f | trap f | rte f | bkpt f | exit =>
    exact ⟨_, _, rfl, fun _ => rfl⟩
  | _ => exact absurd hwf Bool.false_ne_true

/-- The bound check stops at the first register past its limit. -/
theorem boundFail_first {g : Group} {refs : List RegRef} {r : RegRef} (h : FirstPast g refs r) :
    boundFail g.budget refs = some (boundDetail g r) := by
  obtain ⟨before, rest, rfl, hfit, hpast⟩ := h
  induction before with
  | nil =>
    simp only [limitOf] at hpast
    simp only [List.nil_append, boundFail, boundDetail, limitOf]
    rw [if_pos hpast]
  | cons q qs ih =>
    obtain ⟨hq, hqs⟩ := List.forall_mem_cons.1 hfit
    rw [List.cons_append, boundFail, if_neg (not_lt.2 hq), ih hqs]

theorem checked_boundFail {refs : List RegRef} {s : State} {d : DWord} (eff : State → State)
    (h : boundFail s.group.budget refs = some d) : checked true true refs eff s = takeTrap 3 d s.split.pc s := by
  simp [checked, h]

/-- The first check that fails decides, and the word's own effect does not take place (R40-R42, R310). That an INV past
the register bound takes trap 3 before its segment rule is looked at is the model's choice (log entry 90). -/
theorem word_checks {i : Instr} {s : State} (hi : IsWord i) (hs : s.canIssue = true) : ∃ t, exec i s = .next t ∧
      (CoreLacks i s → Illegal s t) ∧
      (¬ CoreLacks i s → PrivilegedWord i → s.group.priv = false → Faulted s t 0x13 (wordsAtPc s)) ∧
      (¬ CoreLacks i s → (PrivilegedWord i → s.group.priv = true) → (∀ f, i = .inv f → s.split.search = none) →
        ∀ r, FirstPast s.group (wordRefs i s.group) r →
        HandlerReady s → TookTrap s t 3 (boundDetail s.group r) s.split.pc) := by
  obtain ⟨refs, eff, hexec, hrefs⟩ := exec_eq_runWord hi s
  simp only [← wordAvail_eq_false_iff, Bool.not_eq_false, ← needsPrivilege_iff]
  refine ⟨_, hexec.trans (runWord_next _ _ _ _ hs), fun ha => ?_, fun ha hp hg => ?_, fun ha hp hinv r hr hh => ?_⟩
  · rw [ha]
    exact ill s
  · rw [ha, hp, hg]
    exact faulted s _ _
  · have hpriv : (!needsPrivilege i || s.group.priv) = true := by
      cases h : needsPrivilege i
      · rfl
      · exact hp h
    rw [ha, hpriv, hrefs hinv, checked_boundFail _ (boundFail_first hr)]
    exact tookTrap s _ _ _ (by decide) hh

/-! ### The last word of a segment (R34) -/

theorem ranOff_of_illegal {s t : State} (h : Illegal s t) : RanOff s t :=
  ⟨h.rest, h.core, h.bytes, h.grid, h.split⟩

/-- The fault of a step past word 1,023, raised after an update of the group that keeps its place and its splits, stands
in the grid's record as one of the state before the update. -/
theorem ranOff_setGroup {s : State} {x : Group} (hsplits : x.splits = s.group.splits) (hgid : x.gid = s.group.gid)
    (hblk : x.blk = s.group.blk) (hgrpin : x.grpin = s.group.grpin) : RanOff s (illegal (s.setGroup x)) := by
  have h := ill (s.setGroup x)
  generalize illegal (s.setGroup x) = t at h
  have hsplit : (s.setGroup x).split = s.split := by
    rw [State.split_setGroup, Group.split, hsplits]
    rfl
  have himem : (s.setGroup x).core.imem = s.core.imem := (congrArg Core.imem (State.setGroup_core s x) :)
  have hcode (pc : Nat) : (s.setGroup x).codeAt s.sel.core s.group.gid pc = s.codeAt s.sel.core s.group.gid pc :=
    congrArg (fun m => mapGet 0 m (codeKey s.group.gid pc)) himem
  have hword0 : (s.setGroup x).word0 = s.word0 := by
    rw [State.word0, State.group_setGroup, hsplit, hgid, State.setGroup_sel, hcode, State.word0]
  have hword1 : (s.setGroup x).word1 = s.word1 := by
    rw [State.word1, State.group_setGroup, hsplit, hgid, State.setGroup_sel, hcode, State.word1]
  have hwords : wordsAtPc (s.setGroup x) = wordsAtPc s := by
    rw [wordsAtPc, hword0, hword1, wordsAtPc]
  refine ⟨?_, ?_, ?_, ?_, ?_⟩
  · exact congrArg (fun u : State => { u with cores := s.cores, grids := s.grids }) h.rest
  · exact (congrArg (fun c : Core => { c with groups := s.core.groups }) h.core).trans (State.setGroup_core s x)
  · exact fun v a => (h.bytes v a).trans (viewByte_setGroup s x v a)
  · have hg := h.grid
    rwa [State.group_setGroup, hgid, State.setGroup_block s x hblk, hgrpin, hsplit, hwords] at hg
  · obtain ⟨h1, h2⟩ := h.split
    rw [hsplit] at h1
    refine ⟨h1, fun j hj => (h2 j hj).trans ?_⟩
    rw [State.group_setGroup, Group.split, hsplits]
    rfl

section
variable {g x h : Group}

theorem eq_of_onlySplits (hs : OnlySplits x h) : { h with splits := x.splits } = x := hs

theorem vAt_of_onlySplits (hs : OnlySplits x h) (r l : Nat) : h.vAt r l = x.vAt r l :=
  (congrArg (fun y : Group => y.vAt r l) (eq_of_onlySplits hs) :)

theorem sAt_of_onlySplits (hs : OnlySplits x h) (r : Nat) : h.sAt r = x.sAt r :=
  (congrArg (fun y : Group => y.sAt r) (eq_of_onlySplits hs) :)

theorem onlyLanes_of_onlySplits (hs : OnlySplits x h) (hx : OnlyLanes g x) : OnlyLanes g h :=
  (congrArg (fun y : Group => { y with v := g.v, splits := g.splits }) (eq_of_onlySplits hs) :).trans hx

theorem onlyUni_of_onlySplits (hs : OnlySplits x h) (hx : OnlyUni g x) : OnlyUni g h :=
  (congrArg (fun y : Group => { y with s := g.s, splits := g.splits }) (eq_of_onlySplits hs) :).trans hx

end

/-- A plain word in word 1,023 that updates the selected group: the update stands, and the step past is fault 0x12. -/
theorem last_word_group {s : State} {refs : List RegRef} {eff : State → State} {x : Group} (hs : s.canIssue = true)
    (hpc : s.split.pc.toNat % 1024 = 1023) (hf : Fits s.group refs) (he : eff s = s.setGroup x)
    (hsplits : x.splits = s.group.splits) (hgid : x.gid = s.group.gid) (hblk : x.blk = s.group.blk)
    (hgrpin : x.grpin = s.group.grpin) :
    ∃ t, plainWord refs 1 eff s = .next t ∧ RanOff s t ∧ OnlySplits x t.group := by
  have hlast : (s.setGroup x).split.pc.toNat % 1024 + 1 > 1023 := by
    rw [State.split_setGroup, Group.split, hsplits]
    exact hpc.ge.trans_lt (Nat.lt_succ_self _)
  refine ⟨_, plainWord_next 1 eff hs (fits_none hf), ?_⟩
  rw [he, advance_past 1 hlast]
  refine ⟨ranOff_setGroup hsplits hgid hblk hgrpin, ?_⟩
  have h := (ill (s.setGroup x)).frame
  rwa [State.group_setGroup] at h

/-- Settles O17: the checks from the one frame of every word, the reserved opcodes from the decoder, and the last word of
a segment from the effect followed by the fault. -/
theorem wordsCheckBeforeTheyAct : Obligations.WordsCheckBeforeTheyAct := by
  unfold Obligations.WordsCheckBeforeTheyAct
  refine ⟨fun i s hi hs => word_checks hi hs, fun w hw => ⟨fun _ => decodeWords_reserved hw, fun s hs => ?_⟩,
    fun e he s f hs hpc hf => ?_, fun e he s f hs hpc hf => ?_, fun s hs hpc => ?_⟩
  · exact ⟨_, runWord_next _ _ _ _ hs, ill s⟩
  · rw [integerTable_exec e he]
    obtain ⟨t, ht, hoff, hsame⟩ := last_word_group (eff := lane3 f e.2) hs hpc hf rfl rfl rfl rfl rfl
    exact ⟨t, ht, hoff, onlyLanes_of_onlySplits hsame rfl,
      fun l hl => (vAt_of_onlySplits hsame _ l).trans (Group.vAt_setV_same _ _ _ _ hl),
      fun r l hr => (vAt_of_onlySplits hsame r l).trans (Group.vAt_setV_ne _ _ _ l hr)⟩
  · rw [uniformTable_exec e he]
    obtain ⟨t, ht, hoff, hsame⟩ := last_word_group (eff := uni3 f e.2) hs hpc hf rfl rfl rfl rfl rfl
    exact ⟨t, ht, hoff, onlyUni_of_onlySplits hsame rfl, (sAt_of_onlySplits hsame _).trans (Group.sAt_setS _ _ _),
      fun r hr => (sAt_of_onlySplits hsame r).trans (Group.sAt_setS_ne _ _ hr)⟩
  · have h := ill s
    refine ⟨_, plainWord_next 1 id hs rfl, ?_⟩
    rw [id, advance_past 1 (by omega)]
    exact ⟨ranOff_of_illegal h, h.frame⟩

end Sys2Proof.Proofs
end

section
/-!
What a core's L1 and the home slices change of the package: the L1s keep every register, block and byte, and the slices
move lines and copies without changing what a version sees outside the spill area (R72, R75, R79, R112).
-/

namespace Sys2Proof.Proofs

open Sys2Proof.Machine Sys2Proof.Statements

/-! ### The L1s -/

/-- Nothing changes but the L1s: their lines, the slices a core has read, and the marks of the stores they have taken. -/
structure OnlyL1 (s t : State) : Prop where
  rest : { t with cores := s.cores } = s
  core : ∀ k, { t.coreAt k with l1 := (s.coreAt k).l1, slicesRead := (s.coreAt k).slicesRead,
                                reqs := (s.coreAt k).reqs } = s.coreAt k
  reqs : ∀ k, ((t.coreAt k).reqs.map fun q => { q with inL1 := false }) =
    (s.coreAt k).reqs.map fun q => { q with inL1 := false }

section
variable {s t u : State}

theorem OnlyL1.refl (s : State) : OnlyL1 s s := ⟨rfl, fun _ => rfl, fun _ => rfl⟩

theorem OnlyL1.trans (h : OnlyL1 s t) (g : OnlyL1 t u) : OnlyL1 s u :=
  ⟨(congrArg (fun x : State => { x with cores := s.cores }) g.rest).trans h.rest,
   fun k => (congrArg (fun c : Core => { c with l1 := (s.coreAt k).l1, slicesRead := (s.coreAt k).slicesRead,
                                                 reqs := (s.coreAt k).reqs }) (g.core k)).trans (h.core k),
   fun k => (g.reqs k).trans (h.reqs k)⟩

theorem OnlyL1.groups (h : OnlyL1 s t) (k : Nat) : (t.coreAt k).groups = (s.coreAt k).groups :=
  (congrArg Core.groups (h.core k) :)
theorem OnlyL1.groupAt (h : OnlyL1 s t) (k g : Nat) : t.groupAt k g = s.groupAt k g := by
  rw [State.groupAt, h.groups, State.groupAt]
theorem OnlyL1.blockAt (h : OnlyL1 s t) (k b : Nat) : t.blockAt k b = s.blockAt k b := by
  have hb : (t.coreAt k).blocks = (s.coreAt k).blocks := (congrArg Core.blocks (h.core k) :)
  rw [State.blockAt, hb, State.blockAt]

/-- A core whose L1, slices read and marks have changed. -/
theorem onlyL1_setCore (s : State) (k : Nat) (c : Core)
    (hc : { c with l1 := (s.coreAt k).l1, slicesRead := (s.coreAt k).slicesRead, reqs := (s.coreAt k).reqs } = s.coreAt k)
    (hr : (c.reqs.map fun q => { q with inL1 := false }) = (s.coreAt k).reqs.map fun q => { q with inL1 := false }) :
    OnlyL1 s (s.setCore k c) := by
  refine ⟨rfl, fun j => ?_, fun j => ?_⟩
  · by_cases h : j = k
    · rw [h, State.coreAt_setCore, hc]
    · rw [State.coreAt_setCore_ne s c h]
  · by_cases h : j = k
    · rw [h, State.coreAt_setCore, hr]
    · rw [State.coreAt_setCore_ne s c h]

theorem onlyL1_modL1 (k : Nat) (f : List L1Line → List L1Line) (s : State) : OnlyL1 s (modL1 k f s) :=
  onlyL1_setCore s k _ rfl rfl

theorem onlyL1_noteSlice (k kc : Nat) (fused : Bool) (s : State) : OnlyL1 s (noteSlice k kc fused s) := by
  unfold noteSlice
  split
  · exact .refl s
  · exact onlyL1_setCore s k _ rfl rfl

theorem onlyL1_l1Fill (k : Nat) (fused : Bool) (l v : Nat) (sectors : BitVec 4) (bytes : Map Byte) (policy : BitVec 2)
    (s : State) : OnlyL1 s (l1Fill k fused l v sectors bytes policy s) := by
  unfold l1Fill
  dsimp only
  split
  · exact .refl s
  · split <;> exact (onlyL1_noteSlice _ _ _ _).trans (onlyL1_modL1 _ _ _)

theorem onlyL1_foldl {α : Type} {f : State → α → State} (hf : ∀ x a, OnlyL1 x (f x a)) (l : List α) (s : State) :
    OnlyL1 s (l.foldl f s) := by
  induction l generalizing s with
  | nil => exact .refl s
  | cons a l ih => exact (hf s a).trans (ih _)

theorem onlyL1_l1Catch (k : Nat) (fused : Bool) (l lim : Nat) (s : State) : OnlyL1 s (l1Catch k fused l lim s) := by
  unfold l1Catch
  dsimp only
  split
  · exact .refl s
  · refine onlyL1_foldl (fun t x => ?_) _ s
    refine (onlyL1_modL1 (l1Home k fused l) (l1Take l x.2.vid (x.2.data.map fun b => (b.1 % 128, b.2))) t).trans ?_
    refine onlyL1_setCore _ _ _ rfl ?_
    rw [List.map_map]
    refine List.map_congr_left fun q _ => ?_
    simp only [Function.comp_apply]
    split <;> rfl

theorem onlyL1_l1Acquire (k : Nat) (fused : Bool) (s : State) : OnlyL1 s (l1Acquire k fused s) := by
  unfold l1Acquire
  dsimp only
  split
  · exact .refl s
  · split
    · exact onlyL1_modL1 _ _ s
    · refine OnlyL1.trans ?_ (onlyL1_foldl (fun t kc => onlyL1_modL1 kc _ t) _ _)
      exact onlyL1_setCore s k _ rfl rfl

theorem onlyL1_acquireAt (scope : Nat) (s : State) : OnlyL1 s (acquireAt scope s) := by
  unfold acquireAt
  split
  · exact onlyL1_l1Acquire _ _ s
  · exact .refl s

end

/-! ### What the slices keep -/

/-- Nothing changes but what the home slices keep: bytes, copies, lines in the L2 and counters of corrected errors. -/
def OnlySlices (s t : State) : Prop :=
  { t with mem := s.mem, copies := s.copies, l2 := s.l2, corrected := s.corrected } = s

/-- A copy, wherever it is kept. -/
def unplaced (c : LineCopy) : LineCopy := { c with spilled := none }

/-- Lines have come into the L2 or left it: every copy stands as it was, in the L2 or spilled, and outside the spill area
no byte has changed. -/
structure Restowed (s t : State) : Prop where
  only : OnlySlices s t
  copies : t.copies.map unplaced = s.copies.map unplaced
  mem : ∀ a, ¬ InSpill s a → memGet t.mem a = memGet s.mem a
  spill : ∀ a, InSpill t a → InSpill s a

section
variable {s t u : State}

theorem OnlySlices.trans (h : OnlySlices s t) (g : OnlySlices t u) : OnlySlices s u :=
  Eq.trans (congrArg (fun x : State =>
    { x with mem := s.mem, copies := s.copies, l2 := s.l2, corrected := s.corrected }) g) h

theorem OnlySlices.vers (h : OnlySlices s t) : t.vers = s.vers := (congrArg State.vers h :)

theorem Restowed.trans (h : Restowed s t) (g : Restowed t u) : Restowed s u :=
  ⟨h.only.trans g.only, g.copies.trans h.copies, fun a ha => (g.mem a fun hb => ha (h.spill a hb)).trans (h.mem a ha),
   fun a ha => h.spill a (g.spill a ha)⟩

/-- The L2's lines and the counters of corrected errors may change. -/
theorem restowed_l2 (s : State) (es : List L2Line) (m : Map Nat) : Restowed s { s with l2 := es, corrected := m } :=
  ⟨rfl, rfl, fun _ _ => rfl, fun _ h => h⟩

theorem Restowed.refl (s : State) : Restowed s s := restowed_l2 s s.l2 s.corrected

/-! ### The slots of the spill area -/

theorem spillSlot_bucket {l v k : Nat} (h : s.spillSlot l v = some k) : k / 30 < s.spillBuckets := by
  unfold State.spillSlot at h
  dsimp only at h
  split at h
  · exact absurd h (by simp)
  · have hk := List.mem_of_find?_eq_some h
    simp only [List.mem_flatMap, List.mem_range, List.mem_map] at hk
    obtain ⟨i, -, j, hj, rfl⟩ := hk
    have hb : (s.spillHome l v + i) % s.spillBuckets < s.spillBuckets := Nat.mod_lt _ (Nat.two_pow_pos _)
    omega

theorem inSpill_slot {k a : Nat} (hk : k / 30 < s.spillBuckets)
    (ha : (s.spillTag k ≤ a ∧ a < s.spillTag k + 8) ∨ (s.spillLine k ≤ a ∧ a < s.spillLine k + 128)) : InSpill s a := by
  refine .inl ?_
  unfold State.spillTag State.spillLine at ha
  omega

theorem restowed_spillOut {c : LineCopy} {k : Nat} (hk : k / 30 < s.spillBuckets) : Restowed s (spillOut c k s) := by
  refine ⟨rfl, ?_, fun a ha => ?_, fun a ha => ?_⟩
  · simp only [spillOut, List.map_map]
    refine List.map_congr_left fun d _ => ?_
    simp only [Function.comp_apply]
    split <;> rfl
  · have hout := fun h => ha (inSpill_slot hk h)
    simp only [spillOut]
    rw [memGet_memSetAll_notin, memGet_memSetNat_outside]
    · by_contra hin
      exact hout (.inl (by omega))
    · intro e he heq
      have := atAddr_addresses he
      simp only [List.length_map, List.length_range] at this
      exact hout (.inr (by omega))
  · rcases ha with ha | ⟨d, hd, n, hn, ha⟩
    · exact .inl ha
    · simp only [spillOut, List.mem_map] at hd
      obtain ⟨e, he, rfl⟩ := hd
      split at hn
      · obtain rfl := Option.some.inj hn
        exact inSpill_slot hk (.inl ha)
      · exact .inr ⟨e, he, n, hn, ha⟩

/-- A copy's way back to the L2 frees its slot: the tag is cleared. -/
theorem restowed_unspill (l v : Nat) (s : State) : Restowed s (unspill l v s) := by
  unfold unspill
  split
  · exact .refl s
  next c hc =>
    have hsub : ∀ d ∈ s.copies.map (fun d => if d.line = l ∧ d.vid = v then { d with spilled := none } else d),
        ∀ n, d.spilled = some n → d ∈ s.copies := by
      intro d hd n hn
      obtain ⟨e, he, rfl⟩ := List.mem_map.1 hd
      split at hn
      · exact absurd hn (by simp)
      next h => rwa [if_neg h]
    have hdrop : Restowed s { s with copies := s.copies.map fun d =>
        if d.line = l ∧ d.vid = v then { d with spilled := none } else d } := by
      refine ⟨rfl, ?_, fun _ _ => rfl, fun a ha => ha.imp_right fun ⟨d, hd, n, hn, ha⟩ => ⟨d, hsub d hd n hn, n, hn, ha⟩⟩
      simp only [List.map_map]
      refine List.map_congr_left fun d _ => ?_
      simp only [Function.comp_apply]
      split <;> rfl
    cases hk : c.spilled with
    | none => exact hdrop
    | some k =>
      refine ⟨rfl, hdrop.copies, fun a ha => ?_, hdrop.spill⟩
      refine memGet_memSetNat_outside _ _ _ _ ?_
      by_contra hin
      exact ha (.inr ⟨c, List.mem_of_find?_eq_some hc, k, hk, by
        change ¬ (a < s.spillTag k ∨ s.spillTag k + 8 ≤ a) at hin
        omega⟩)

/-! ### Lines that come and go -/

theorem restowed_l2Leave (e : L2Line) (s : State) : Restowed s (l2Leave e s) := by
  unfold l2Leave
  dsimp only
  split
  · exact restowed_l2 s _ s.corrected
  · split
    next hk => exact (restowed_l2 s _ s.corrected).trans (restowed_spillOut (spillSlot_bucket hk))
    · exact restowed_l2 s _ s.corrected

theorem restowed_l2Take (e : L2Line) (s : State) : Restowed s (l2Take e s) := by
  have htop (t : State) (h : Restowed s t) : Restowed s
      { t with l2 := e :: t.l2.filter fun x => !(decide (x.line = e.line) && decide (x.vid = e.vid)) } :=
    h.trans (restowed_l2 t _ t.corrected)
  unfold l2Take
  dsimp only
  split
  · exact .refl s
  · refine htop _ ?_
    split
    · exact .refl s
    · split
      · exact .refl s
      · split
        · exact restowed_l2Leave _ s
        · split
          · exact restowed_l2Leave _ s
          · exact .refl s

theorem restowed_countCorrected (as : List Nat) (s : State) : Restowed s (countCorrected as s) := by
  unfold countCorrected
  generalize as.filter _ = l
  induction l generalizing s with
  | nil => exact .refl s
  | cons a l ih => exact (restowed_l2 s s.l2 _).trans (ih _)

theorem restowed_noteLine (v l : Nat) (need : BitVec 4) (cls : Nat) (s : State) :
    Restowed s (noteLine v l need cls s) := by
  unfold noteLine
  split
  · split
    · exact restowed_l2Take _ s
    · exact .refl s
  · exact (restowed_countCorrected _ s).trans (restowed_l2Take _ _)

/-! ### What a version sees -/

theorem viewByte_eq (s : State) (v a : Nat) : s.viewByte v a =
    ((s.seenCopy (lineOf a) v).map fun c => memGet c.bytes (a % 128)).getD (memGet s.mem a) := by
  unfold State.viewByte
  cases s.seenCopy (lineOf a) v <;> rfl

/-- What a version sees does not depend on the cores. -/
theorem viewByte_cores (h : { t with cores := s.cores, performs := s.performs } = s) (v a : Nat) :
    t.viewByte v a = s.viewByte v a := by
  have hm : t.mem = s.mem := (congrArg State.mem h :)
  have hc : t.copies = s.copies := (congrArg State.copies h :)
  have hv : t.vers = s.vers := (congrArg State.vers h :)
  exact viewByte_congr hm hc hv v a

theorem ancestors_congr (h : t.vers = s.vers) (l v : Nat) : (t.seenAt l).ancestors v = (s.seenAt l).ancestors v :=
  lineage_congr (seenAt_vers h l) _ _

theorem copyOf_unplaced (s : State) (l v : Nat) : (s.copyOf l v).map unplaced =
    (s.copies.map unplaced).find? fun c => decide (c.line = l) && decide (c.vid = v) := by
  rw [List.find?_map]
  rfl

theorem Restowed.copyOf (h : Restowed s t) (l v : Nat) : (t.copyOf l v).map unplaced = (s.copyOf l v).map unplaced := by
  rw [copyOf_unplaced, h.copies, copyOf_unplaced]

theorem Restowed.seenCopy (h : Restowed s t) (l v : Nat) :
    (t.seenCopy l v).map unplaced = (s.seenCopy l v).map unplaced := by
  simp only [State.seenCopy, List.map_findSome?, ancestors_congr h.only.vers, Function.comp_def, h.copyOf]

theorem Restowed.viewByte (h : Restowed s t) (v : Nat) {a : Nat} (ha : ¬ InSpill s a) :
    t.viewByte v a = s.viewByte v a := by
  have hbytes : (fun c : LineCopy => memGet c.bytes (a % 128)) =
    (fun c : LineCopy => memGet c.bytes (a % 128)) ∘ unplaced := rfl
  rw [viewByte_eq, viewByte_eq, h.mem a ha, hbytes, ← Option.map_map, h.seenCopy, Option.map_map]

end

end Sys2Proof.Proofs
end

section
/-!
What a home does with a plain request (R75-R77, R125-R129, R226), and O21: a store's bytes for its version alone, a load's
bytes into its log entry.
-/

namespace Sys2Proof.Proofs

open Sys2Proof.Machine Sys2Proof.Statements

/-! ### Bytes -/

/-- Of bytes stored at different addresses each one reads back. -/
theorem memGet_memSetAll_mem {m : List Host.Cell} {bs : List (Nat × Byte)} (hm : Memory.wf m = true)
    (hbs : (bs.map (·.1)).Nodup) {b : Nat × Byte} (hb : b ∈ bs) : memGet (memSetAll m bs) b.1 = b.2 := by
  induction bs generalizing m with
  | nil => exact absurd hb List.not_mem_nil
  | cons c bs ih =>
    obtain ⟨hc, hnd⟩ := List.nodup_cons.1 hbs
    rcases List.mem_cons.1 hb with rfl | hb
    · rw [memSetAll, memGet_memSetAll_notin]
      · exact memGet_memSet_same _ _ hm
      · exact fun e he heq => hc (List.mem_map.2 ⟨e, he, heq⟩)
    · exact ih (memSet_wf _ _ hm) hnd hb

theorem memBytes_getElem? (m : List Host.Cell) (a n i : Nat) :
    (memBytes m a n)[i]? = if i < n then some (memGet m (a + i)) else none := by
  induction n generalizing a i with
  | zero => simp [memBytes]
  | succ n ih =>
    cases i with
    | zero => simp [memBytes]
    | succ i => simp [memBytes, ih, Nat.add_assoc, Nat.add_comm 1 i]

theorem viewBytes_getElem? (s : State) (v a n i : Nat) :
    (s.viewBytes v a n)[i]? = if i < n then some (s.viewByte v (a + i)) else none := by
  induction n generalizing a i with
  | zero => simp [State.viewBytes]
  | succ n ih =>
    cases i with
    | zero => simp [State.viewBytes]
    | succ i => simp [State.viewBytes, ih, Nat.add_assoc, Nat.add_comm 1 i]

theorem leNat_lt (bs : List Byte) : leNat bs < 256 ^ bs.length := by
  induction bs with
  | nil => simp [leNat]
  | cons b bs ih =>
    have hb := b.isLt
    simp only [leNat, List.length_cons, pow_succ]
    omega

/-- Byte `j` of a little-endian number. -/
theorem leNat_byte (bs : List Byte) (j : Nat) : leNat bs / 256 ^ j % 256 = (bs[j]?.getD 0).toNat := by
  induction bs generalizing j with
  | nil => simp [leNat]
  | cons b bs ih =>
    have hb := b.isLt
    cases j with
    | zero =>
      simp only [leNat, pow_zero, Nat.div_one, List.getElem?_cons_zero, Option.getD_some]
      omega
    | succ j =>
      rw [pow_succ', ← Nat.div_div_eq_div_mul, leNat, show (b.toNat + 256 * leNat bs) / 256 = leNat bs by omega, ih]
      rfl

/-! ### The words a load puts into its log entry (R128) -/

theorem loadWords_length (n : Nat) (bs : List Byte) : (loadWords n bs).length = n := by
  induction n generalizing bs with
  | zero => rfl
  | succ n ih => simp [loadWords, ih]

theorem loadWords_getElem? {n i : Nat} (bs : List Byte) (h : i < n) :
    (loadWords n bs)[i]? = some (BitVec.ofNat 32 (leNat ((bs.drop (4 * i)).take 4))) := by
  induction n generalizing bs i with
  | zero => omega
  | succ n ih =>
    cases i with
    | zero => simp [loadWords]
    | succ i =>
      rw [loadWords, List.getElem?_cons_succ, ih _ (by omega), List.drop_drop]
      congr 5
      omega

/-- Byte `j` of word `i` of a load is its byte `4 * i + j`, and 0 past the last. -/
theorem loadWords_byte {n i j : Nat} (bs : List Byte) (hi : i < n) (hj : j < 4) :
    ((loadWords n bs)[i]?.getD 0).toNat / 256 ^ j % 256 = (bs[4 * i + j]?.getD 0).toNat := by
  have hlt : leNat ((bs.drop (4 * i)).take 4) < 2 ^ 32 :=
    (leNat_lt _).trans_le (Nat.pow_le_pow_right (by decide) (List.length_take_le 4 _))
  rw [loadWords_getElem? bs hi, Option.getD_some, BitVec.toNat_ofNat, Nat.mod_eq_of_lt hlt, leNat_byte,
    List.getElem?_take_of_lt hj, List.getElem?_drop]

/-- Words put under a lane's keys change no other key. -/
theorem mapGet_words_other (ws : List Word) (lane n : Nat) (d : Map Word) {k : Nat} (hk : ∀ i, n ≤ i → k ≠ 64 * i + lane) :
    mapGet 0 ((ws.zipIdx n).foldl (fun m w => mapSet m (64 * w.2 + lane) w.1) d) k = mapGet 0 d k := by
  induction ws generalizing n d with
  | nil => rfl
  | cons w ws ih =>
    rw [List.zipIdx_cons, List.foldl_cons, ih _ _ fun i hi => hk i (Nat.le_of_succ_le hi), mapGet_mapSet_ne]
    exact hk n le_rfl

theorem mapGet_words (ws : List Word) (lane n : Nat) (d : Map Word) {i : Nat} (hi : i < ws.length) :
    mapGet 0 ((ws.zipIdx n).foldl (fun m w => mapSet m (64 * w.2 + lane) w.1) d) (64 * (n + i) + lane) =
      ws[i]?.getD 0 := by
  induction ws generalizing n d i with
  | nil => exact absurd hi (Nat.not_lt_zero i)
  | cons w ws ih =>
    rw [List.zipIdx_cons, List.foldl_cons]
    cases i with
    | zero =>
      rw [mapGet_words_other ws lane (n + 1) _ fun j hj => by omega, Nat.add_zero, mapGet_mapSet_same]
      rfl
    | succ i =>
      rw [show n + (i + 1) = n + 1 + i by omega, ih _ _ (Nat.lt_of_succ_lt_succ hi)]
      rfl

/-- A log entry after lanes have landed, each with the bytes that `read` gives. -/
def landed (read : ReqLane → List Byte) (xs : List ReqLane) (e : LogEntry) : LogEntry :=
  xs.foldl (fun e x => e.land x.lane (loadWords ((x.size + 3) / 4) (read x))) e

section
variable {read : ReqLane → List Byte} {xs : List ReqLane}

theorem landed_frame (e : LogEntry) :
    { landed read xs e with data := e.data, lanes := e.lanes } = e := by
  induction xs generalizing e with
  | nil => rfl
  | cons x xs ih =>
    exact congrArg (fun y : LogEntry => { y with data := e.data, lanes := e.lanes }) (ih (e.land x.lane _))

theorem laneIn_landed (h : ∀ x ∈ xs, x.lane < 48) (e : LogEntry) {l : Nat} (hl : l < 48) :
    laneIn (landed read xs e).lanes l = (laneIn e.lanes l && !(xs.map (·.lane)).contains l) := by
  induction xs generalizing e with
  | nil => simp [landed]
  | cons x xs ih =>
    have hbit : (BitVec.ofNat 48 (2 ^ x.lane)).getLsbD l = decide (l = x.lane) := by
      rw [BitVec.getLsbD_ofNat, Nat.testBit_two_pow]
      simp [hl, eq_comm]
    refine (ih (fun y hy => h y (List.mem_cons_of_mem _ hy)) _).trans ?_
    simp only [laneIn, LogEntry.land, BitVec.getLsbD_and, BitVec.getLsbD_not, hl, decide_true, Bool.true_and, hbit,
      List.map_cons, List.contains_cons, Bool.and_assoc, Bool.not_or, beq_eq_decide]

/-- A lane's words are not among those of other lanes. -/
theorem landed_other (h : ∀ x ∈ xs, x.lane < 48) (e : LogEntry) {l : Nat} (hl : l < 48) (hn : l ∉ xs.map (·.lane)) (i : Nat) :
    mapGet 0 (landed read xs e).data (64 * i + l) = mapGet 0 e.data (64 * i + l) := by
  induction xs generalizing e with
  | nil => rfl
  | cons x xs ih =>
    rw [List.map_cons, List.mem_cons, not_or] at hn
    have hx := h x List.mem_cons_self
    refine (ih (fun y hy => h y (List.mem_cons_of_mem _ hy)) _ hn.2).trans ?_
    exact mapGet_words_other _ _ _ _ fun j _ hj => hn.1 (by omega)

theorem landed_returned (h : ∀ x ∈ xs, x.lane < 48) (hnd : (xs.map (·.lane)).Nodup) (e : LogEntry) {x : ReqLane}
    (hx : x ∈ xs) {byteAt : Nat → Byte}
    (hread : ∀ i, (read x)[i]? = if i < x.size then some (byteAt i) else none) :
    Returned (landed read xs e) x byteAt := by
  induction xs generalizing e with
  | nil => exact absurd hx List.not_mem_nil
  | cons y ys ih =>
    have hys : ∀ z ∈ ys, z.lane < 48 := fun z hz => h z (List.mem_cons_of_mem _ hz)
    obtain ⟨hy, hnd⟩ := List.nodup_cons.1 hnd
    rcases List.mem_cons.1 hx with rfl | hx
    · intro i j hi hj
      have hkey : mapGet 0 (landed read (x :: ys) e).data (64 * i + x.lane) =
          (loadWords ((x.size + 3) / 4) (read x))[i]?.getD 0 := by
        refine (landed_other hys _ (h x List.mem_cons_self) hy i).trans ?_
        exact (congrArg _ (by rw [Nat.zero_add])).trans
          (mapGet_words _ x.lane 0 e.data (hi.trans_eq (loadWords_length _ _).symm))
      rw [hkey, loadWords_byte _ hi hj, hread]
      split <;> rfl
    · exact ih hys hnd _ hx

end

/-! ### A log entry's lanes land -/

/-- Nothing changes but the groups' logs. -/
structure OnlyLogs (s t : State) : Prop where
  rest : { t with cores := s.cores } = s
  reqs : ∀ k, (t.coreAt k).reqs = (s.coreAt k).reqs
  blocks : ∀ k b, t.blockAt k b = s.blockAt k b
  groups : ∀ k g, { t.groupAt k g with oplog := (s.groupAt k g).oplog } = s.groupAt k g

/-- The log entry of a request of core `k`. -/
def LogAt (s : State) (k : Nat) (r : Req) (e : LogEntry) : Prop :=
  mapFind (s.groupAt k r.grp).oplog r.log = some e ∧ e.ser = r.ser

section
variable {s t u : State} {k : Nat} {r : Req} {e : LogEntry}

theorem OnlyLogs.refl (s : State) : OnlyLogs s s := ⟨rfl, fun _ => rfl, fun _ _ => rfl, fun _ _ => rfl⟩

theorem OnlyLogs.trans (h : OnlyLogs s t) (g : OnlyLogs t u) : OnlyLogs s u :=
  ⟨(congrArg (fun x : State => { x with cores := s.cores }) g.rest).trans h.rest, fun k => (g.reqs k).trans (h.reqs k),
   fun k b => (g.blocks k b).trans (h.blocks k b),
   fun k i => (congrArg (fun x : Group => { x with oplog := (s.groupAt k i).oplog }) (g.groups k i)).trans (h.groups k i)⟩

theorem OnlyLogs.viewByte (h : OnlyLogs s t) (v a : Nat) : t.viewByte v a = s.viewByte v a :=
  viewByte_cores (congrArg (fun x : State => { x with performs := s.performs }) h.rest) v a

theorem onlyLogs_setGroupAt (s : State) (k g : Nat) (m : Map LogEntry) :
    OnlyLogs s (s.setGroupAt k g { s.groupAt k g with oplog := m }) := by
  refine ⟨rfl, fun j => ?_, fun j b => ?_, fun j i => ?_⟩
  · by_cases h : j = k
    · rw [h, State.setGroupAt, State.coreAt_setCore]
    · rw [State.coreAt_setGroupAt_ne s g _ h]
  · by_cases h : j = k
    · rw [h, State.blockAt, State.setGroupAt, State.coreAt_setCore, State.blockAt]
    · rw [State.blockAt, State.coreAt_setGroupAt_ne s g _ h, State.blockAt]
  · by_cases h : j = k
    · rw [h]
      by_cases hi : i = g
      · rw [hi, State.groupAt_setGroupAt]
      · rw [State.groupAt_setGroupAt_ne s k _ hi]
    · rw [State.groupAt, State.coreAt_setGroupAt_ne s g _ h]
      rfl

theorem onlyLogs_modLog (k : Nat) (r : Req) (f : LogEntry → LogEntry) (s : State) : OnlyLogs s (modLog k r f s) := by
  unfold modLog
  dsimp only
  split
  · split
    · exact onlyLogs_setGroupAt s k _ _
    · exact .refl s
  · exact .refl s

theorem logAt_modLog (h : LogAt s k r e) {f : LogEntry → LogEntry} (hf : (f e).ser = e.ser) :
    LogAt (modLog k r f s) k r (f e) := by
  obtain ⟨hfind, hser⟩ := h
  have hmod : modLog k r f s =
      s.setGroupAt k r.grp { s.groupAt k r.grp with oplog := mapSet (s.groupAt k r.grp).oplog r.log (f e) } := by
    simp only [modLog, hfind, if_pos hser]
  rw [LogAt, hmod, State.groupAt_setGroupAt]
  exact ⟨mapFind_mapSet_same _ _ _, hf.trans hser⟩

theorem OnlyLogs.spaceRead (h : OnlyLogs s t) (hw : r.window = false) (k a n : Nat) :
    spaceRead k r a n t = spaceRead k r a n s := by
  have hview : t.viewBytes r.vid (r.physical a) n = s.viewBytes r.vid (r.physical a) n :=
    List.ext_getElem? fun i => by rw [viewBytes_getElem?, viewBytes_getElem?, h.viewByte]
  unfold Machine.spaceRead
  rw [hw, if_neg Bool.false_ne_true, if_neg Bool.false_ne_true, h.blocks, hview]

theorem loadLanes_lands (hw : r.window = false) (he : LogAt s k r e) :
    OnlyLogs s (loadLanes k r s) ∧
      LogAt (loadLanes k r s) k r (landed (fun x => spaceRead k r x.addr x.size s) r.lanes e) := by
  unfold loadLanes
  generalize r.lanes = xs
  suffices ∀ u, OnlyLogs s u → ∀ e, LogAt u k r e →
      OnlyLogs s (xs.foldl (fun t x => landLoad k r x (Machine.spaceRead k r x.addr x.size t) t) u) ∧
      LogAt (xs.foldl (fun t x => landLoad k r x (Machine.spaceRead k r x.addr x.size t) t) u) k r
        (landed (fun x => Machine.spaceRead k r x.addr x.size s) xs e) from this s (.refl s) e he
  induction xs with
  | nil => exact fun u hu e he => ⟨hu, he⟩
  | cons x xs ih =>
    intro u hu e he
    have hstep := ih _ (hu.trans (onlyLogs_modLog k r
      (fun e => e.land x.lane (loadWords ((x.size + 3) / 4) (Machine.spaceRead k r x.addr x.size u))) u)) _ (logAt_modLog he rfl)
    rw [hu.spaceRead hw] at hstep
    rw [List.foldl_cons, landLoad, hu.spaceRead hw]
    exact hstep

end
end Sys2Proof.Proofs
end

section
/-!
What a store leaves of a line: at VID 0 its bytes in place, in a version a copy of the version's own (R75, R77).
-/

namespace Sys2Proof.Proofs

open Sys2Proof.Machine Sys2Proof.Statements

/-! ### The bytes of a line -/

theorem mapSortedFrom_filter {α : Type} {m : Map α} {lo : Nat} (p : Nat × α → Bool) (h : mapSortedFrom lo m = true) :
    mapSortedFrom lo (m.filter p) = true := by
  induction m generalizing lo with
  | nil => rfl
  | cons e m ih =>
    simp only [mapSortedFrom, Bool.and_eq_true, decide_eq_true_eq] at h
    rw [List.filter_cons]
    split
    · simp only [mapSortedFrom, Bool.and_eq_true, decide_eq_true_eq]
      exact ⟨h.1, ih h.2⟩
    · exact mapSortedFrom_mono (ih h.2) (by omega)

theorem mapSortedFrom_atAddr (a : Nat) (bs : List Byte) : mapSortedFrom a (atAddr a bs) = true := by
  induction bs generalizing a with
  | nil => rfl
  | cons b bs ih => simpa [atAddr, mapSortedFrom] using ih (a + 1)

theorem memGet_atAddr_filter (a i : Nat) (bs : List Byte) :
    memGet ((atAddr a bs).filter fun c => c.2 != blankByte) (a + i) = bs[i]?.getD blankByte := by
  induction bs generalizing a i with
  | nil => rfl
  | cons b bs ih =>
    have hlow : memGet ((atAddr (a + 1) bs).filter fun c => c.2 != blankByte) a = blankByte :=
      mapGet_below (mapSortedFrom_filter _ (mapSortedFrom_atAddr (a + 1) bs)) (Nat.lt_succ_self a)
    rw [atAddr, List.filter_cons]
    cases i with
    | zero =>
      by_cases hb : b = blankByte
      · simpa [hb] using hlow
      · simp [hb, memGet, mapGet]
    | succ i =>
      have hi := ih (a + 1) i
      rw [Nat.add_right_comm, Nat.add_assoc] at hi
      by_cases hb : b = blankByte
      · simpa [hb] using hi
      · simpa [hb, memGet, mapGet] using hi

section
variable {s t u : State} {l v : Nat}

theorem memGet_rootLine (s : State) (l : Nat) {o : Nat} (ho : o < 128) :
    memGet (s.rootLine l) o = memGet s.mem (128 * l + o) := by
  have h := memGet_atAddr_filter 0 o (memBytes s.mem (128 * l) 128)
  rwa [Nat.zero_add, memBytes_getElem?, if_pos ho] at h

theorem rootLine_wf (s : State) (l : Nat) : Memory.wf (s.rootLine l) = true := by
  refine (Memory.wf_iff _).2 ⟨mapSortedFrom_filter _ (mapSortedFrom_atAddr 0 _), fun c hc => ?_⟩
  simpa using (List.mem_filter.1 hc).2

/-! ### A version's own copy -/

theorem settle_self (h : s.newestCommitted l = none) : settle l s = s := by simp [settle, h]

/-- An open version sees its own copy first. -/
theorem ancestors_of_open (hv : v ≠ 0) (ho : (s.ver v).open_ = true) : ∃ rest, s.ancestors v = v :: rest := by
  have hc : ¬ (v = 0 ∨ ((s.ver v).st == .committed) = true) := by
    rintro (h | h)
    · exact hv h
    · simp [Version.open_, eq_of_beq h] at ho
  exact ⟨_, if_neg hc⟩

theorem restowed_ownCopy (v l cls : Nat) (s : State) : Restowed s (ownCopy v l cls s).2 := by
  unfold ownCopy
  split
  · exact restowed_unspill l v s
  · exact restowed_noteLine v l 15 cls s

/-- The bytes a copy begins with are those the version sees. -/
theorem memGet_ownCopy (hself : ∃ rest, (s.seenAt l).ancestors v = v :: rest) (cls : Nat) {o : Nat} (ho : o < 128) :
    memGet (ownCopy v l cls s).1 o = s.viewByte v (128 * l + o) := by
  have hl : lineOf (128 * l + o) = l := by unfold lineOf; omega
  rw [viewByte_eq, hl, show (128 * l + o) % 128 = o by omega]
  obtain ⟨rest, hrest⟩ := hself
  unfold ownCopy
  split
  next c hc =>
    have hseen : s.seenCopy l v = some c := by rw [State.seenCopy, hrest, List.findSome?_cons, hc]
    rw [hseen]
    rfl
  · cases s.seenCopy l v with
    | some c => rfl
    | none => exact memGet_rootLine s l ho

theorem ownCopy_bytes_wf (h : ∀ c ∈ s.copies, Memory.wf c.bytes = true) (v l cls : Nat) :
    Memory.wf (ownCopy v l cls s).1 = true := by
  unfold ownCopy
  split
  next hc => exact h _ (List.mem_of_find?_eq_some hc)
  · dsimp only
    split
    next hc =>
      obtain ⟨u, -, hu⟩ := List.exists_of_findSome?_eq_some hc
      exact h _ (List.mem_of_find?_eq_some hu)
    · exact rootLine_wf s l

/-- The package with one copy put in place of the version's old one. -/
def withCopy (c : LineCopy) (s : State) : State :=
  { s with copies := c :: s.copies.filter fun d => !(decide (d.line = c.line) && decide (d.vid = c.vid)) }

/-- A store in a version makes the version's own copy, of the bytes it saw and its own. -/
theorem writeLine_version (hv : v ≠ 0) (hc : s.newestCommitted l = none) (bs : List (Nat × Byte)) (cls : Nat) :
    ∃ u, Restowed s u ∧ writeLine v l bs cls s =
      withCopy { line := l, vid := v, bytes := memSetAll (ownCopy v l cls s).1 (bs.map fun c => (c.1 % 128, c.2)) } u := by
  let line : L2Line := { line := l, vid := v, valid := 15, dirty := BitVec.allOnes 128, cls }
  refine ⟨l2Take line (ownCopy v l cls s).2, (restowed_ownCopy v l cls s).trans (restowed_l2Take _ _), ?_⟩
  rw [writeLine, settle_self hc, if_neg hv]
  rfl

theorem copyOf_withCopy (c : LineCopy) (s : State) (l v : Nat) :
    (withCopy c s).copyOf l v = if l = c.line ∧ v = c.vid then some c else s.copyOf l v := by
  rw [State.copyOf, withCopy, List.find?_cons]
  by_cases h : l = c.line ∧ v = c.vid
  · simp [h]
  · rw [if_neg h]
    have hne : (decide (c.line = l) && decide (c.vid = v)) = false := by
      rw [Bool.and_eq_false_iff, decide_eq_false_iff_not, decide_eq_false_iff_not]
      by_contra hcon
      rw [not_or, not_not, not_not] at hcon
      exact h ⟨hcon.1.symm, hcon.2.symm⟩
    rw [hne, List.find?_filter]
    refine List.find?_congr fun d _ => ?_
    by_cases hd : d.line = l ∧ d.vid = v
    · obtain ⟨rfl, rfl⟩ := hd
      simpa using not_and_or.1 h
    · have hq : (decide (d.line = l) && decide (d.vid = v)) = false := by simpa using hd
      simp [hq]

theorem ancestors_withCopy (c : LineCopy) (s : State) (l v : Nat) :
    ((withCopy c s).seenAt l).ancestors v = (s.seenAt l).ancestors v :=
  ancestors_congr (s := s) (t := withCopy c s) rfl l v

theorem seenCopy_withCopy_self {c : LineCopy} (hself : ∃ rest, (s.seenAt c.line).ancestors c.vid = c.vid :: rest) :
    (withCopy c s).seenCopy c.line c.vid = some c := by
  obtain ⟨rest, hrest⟩ := hself
  rw [State.seenCopy, ancestors_withCopy, hrest, List.findSome?_cons, copyOf_withCopy, if_pos ⟨rfl, rfl⟩]

theorem seenCopy_withCopy_other {c : LineCopy} (h : l ≠ c.line ∨ c.vid ∉ (s.seenAt l).ancestors v) :
    (withCopy c s).seenCopy l v = s.seenCopy l v := by
  rw [State.seenCopy, ancestors_withCopy, State.seenCopy]
  have hcopy : ∀ x ∈ (s.seenAt l).ancestors v, (withCopy c s).copyOf l x = s.copyOf l x := by
    intro x hx
    rw [copyOf_withCopy, if_neg]
    rintro ⟨rfl, rfl⟩
    exact h.elim (fun h => h rfl) fun h => h hx
  generalize (s.seenAt l).ancestors v = xs at hcopy
  induction xs with
  | nil => rfl
  | cons x xs ih =>
    rw [List.findSome?_cons, List.findSome?_cons, hcopy x List.mem_cons_self,
      ih fun y hy => hcopy y (List.mem_cons_of_mem _ hy)]

theorem viewByte_withCopy_other {c : LineCopy} {a : Nat}
    (h : lineOf a ≠ c.line ∨ c.vid ∉ (s.seenAt (lineOf a)).ancestors v) : (withCopy c s).viewByte v a = s.viewByte v a := by
  rw [viewByte_eq, viewByte_eq, seenCopy_withCopy_other h]
  rfl

theorem viewByte_withCopy_self {c : LineCopy} (hself : ∃ rest, (s.seenAt c.line).ancestors c.vid = c.vid :: rest)
    {a : Nat} (ha : lineOf a = c.line) : (withCopy c s).viewByte c.vid a = memGet c.bytes (a % 128) := by
  rw [viewByte_eq, ha, seenCopy_withCopy_self hself]
  rfl

/-! ### What settling and storing leave -/

theorem onlySlices_foldl {α : Type} {f : State → α → State} (hf : ∀ x a, OnlySlices x (f x a)) (l : List α) (s : State) :
    OnlySlices s (l.foldl f s) := by
  induction l generalizing s with
  | nil => rfl
  | cons a l ih => exact (hf s a).trans (ih _)

theorem onlySlices_dropCopies (p : LineCopy → Bool) (s : State) : OnlySlices s (dropCopies p s) := by
  have hfree (t : State) (c : LineCopy) : OnlySlices t (freeSlot c.spilled t) := by cases c.spilled <;> rfl
  exact (onlySlices_foldl hfree (s.copies.filter p) s).trans rfl

theorem onlySlices_settle (l : Nat) (s : State) : OnlySlices s (settle l s) := by
  unfold settle
  split
  · rfl
  next c _ =>
    have hmem : OnlySlices s { s with
        mem := memSetAll s.mem (atAddr (128 * l) ((List.range 128).map fun i => memGet c.bytes i)) } := rfl
    exact (hmem.trans (onlySlices_dropCopies _ _)).trans (restowed_l2Take _ _).only

theorem onlySlices_writeLine (v l : Nat) (bs : List (Nat × Byte)) (cls : Nat) (s : State) :
    OnlySlices s (writeLine v l bs cls s) := by
  refine (onlySlices_settle l s).trans ?_
  unfold writeLine
  dsimp only
  split
  · exact OnlySlices.trans (t := { settle l s with mem := memSetAll (settle l s).mem bs }) rfl (restowed_l2Take _ _).only
  · exact ((restowed_ownCopy v l cls (settle l s)).only.trans (restowed_l2Take _ _).only).trans rfl

end
end Sys2Proof.Proofs
end

section
/-!
How a home serves the requests of O21 (R75-R77, R125-R129, R226): stores and loads that nothing stops.
-/

namespace Sys2Proof.Proofs

open Sys2Proof.Machine Sys2Proof.Statements

/-! ### A request is performed -/

/-- Of core `k` nothing changes but its requests, and the package counts what it has performed. -/
structure OnlyReqs (k : Nat) (s t : State) : Prop where
  rest : { t with cores := s.cores, performs := s.performs } = s
  cores : ∀ j, j ≠ k → t.coreAt j = s.coreAt j
  core : { t.coreAt k with reqs := (s.coreAt k).reqs } = s.coreAt k

section
variable {s t u : State} {k : Nat} {r : Req}

theorem OnlyReqs.groupAt (h : OnlyReqs k s t) (j g : Nat) : t.groupAt j g = s.groupAt j g := by
  by_cases hj : j = k
  · have hg : (t.coreAt k).groups = (s.coreAt k).groups := (congrArg Core.groups h.core :)
    rw [hj, State.groupAt, hg, State.groupAt]
  · rw [State.groupAt, h.cores j hj, State.groupAt]

theorem OnlyReqs.viewByte (h : OnlyReqs k s t) (v a : Nat) : t.viewByte v a = s.viewByte v a := viewByte_cores h.rest v a
theorem OnlyReqs.mem (h : OnlyReqs k s t) : t.mem = s.mem := (congrArg State.mem h.rest :)

/-! Each of these changes leaves what `OnlyHomes` keeps. -/

theorem onlyHomes_trans (h : OnlyHomes s t) (g : OnlyHomes t u) : OnlyHomes s u :=
  Eq.trans (congrArg (fun x : State => { x with
    cores := s.cores, mem := s.mem, copies := s.copies, l2 := s.l2, corrected := s.corrected, performs := s.performs }) g) h

theorem OnlySlices.onlyHomes (h : OnlySlices s t) : OnlyHomes s t :=
  (congrArg (fun x : State => { x with cores := s.cores, performs := s.performs }) h :)
theorem OnlyL1.onlyHomes (h : OnlyL1 s t) : OnlyHomes s t :=
  (congrArg (fun x : State => { x with
    mem := s.mem, copies := s.copies, l2 := s.l2, corrected := s.corrected, performs := s.performs }) h.rest :)
theorem OnlyLogs.onlyHomes (h : OnlyLogs s t) : OnlyHomes s t :=
  (congrArg (fun x : State => { x with
    mem := s.mem, copies := s.copies, l2 := s.l2, corrected := s.corrected, performs := s.performs }) h.rest :)
theorem OnlyReqs.onlyHomes (h : OnlyReqs k s t) : OnlyHomes s t :=
  (congrArg (fun x : State => { x with mem := s.mem, copies := s.copies, l2 := s.l2, corrected := s.corrected }) h.rest :)

theorem onlyReqs_performed (h : orphan s k r = false) : OnlyReqs k s (performed k r s) := by
  rw [performed, if_neg (ne_true_of_eq_false h), modReq]
  exact ⟨rfl, fun j hj => State.coreAt_setCore_ne _ _ hj, by rw [State.coreAt_setCore]; rfl⟩

/-- A request performed in a state that has the core's requests as before has been performed, whatever the L1 does then. -/
theorem nowPerformed (hsel : u.sel = s.sel) (hreqs : (u.coreAt s.sel.core).reqs = (s.coreAt s.sel.core).reqs)
    (hperf : u.performs = s.performs) (h : orphan u s.sel.core r = false)
    (hl1 : OnlyL1 (performed s.sel.core r u) t) : NowPerformed s t r := by
  have hmod : performed s.sel.core r u = modReq s.sel.core r.id
      (fun q => { q with st := .performed, stalled := false, at_ := s.performs, inL1 := false })
      { u with performs := s.performs + 1 } := by
    rw [performed, if_neg (ne_true_of_eq_false h), hperf]
  rw [hmod] at hl1
  have hsel' : t.sel = s.sel := (congrArg State.sel hl1.rest :).trans hsel
  refine ⟨(congrArg State.performs hl1.rest :), ?_⟩
  rw [State.core, hsel', hl1.reqs, modReq, State.coreAt_setCore, List.map_map]
  change (u.coreAt s.sel.core).reqs.map _ = _
  rw [hreqs]
  refine List.map_congr_left fun q _ => ?_
  simp only [Function.comp_apply]
  split <;> rfl

theorem orphan_store (hk : r.kind = .store) (s : State) (k : Nat) : orphan s k r = false := by
  rw [orphan, hk]
  rfl

/-- The request of a log entry that stands is no orphan. -/
theorem orphan_of_logAt {e : LogEntry} (h : LogAt s k r e) : orphan s k r = false := by
  obtain ⟨hfind, hser⟩ := h
  have hmem : (r.log, e) ∈ (s.groupAt k r.grp).oplog := by
    generalize (s.groupAt k r.grp).oplog = m at hfind
    induction m with
    | nil => exact absurd hfind (by simp [mapFind])
    | cons x m ih =>
      rw [mapFind] at hfind
      split at hfind
      next hx => exact List.mem_cons.2 (.inl (Prod.ext hx.symm (Option.some.inj hfind).symm))
      · exact List.mem_cons_of_mem _ (ih hfind)
  have hany : ((s.groupAt k r.grp).oplog.any fun e => decide (e.2.ser = r.ser)) = true :=
    List.any_eq_true.2 ⟨_, hmem, decide_eq_true hser⟩
  rw [orphan, hany, Bool.not_true, Bool.and_false]

/-! ### Where a request goes -/

theorem exec_of_served {i : Instr} (h : Served i s r) : exec i s = .next (serveReq s.sel.core r s) := by
  obtain ⟨hreq, ⟨rfl, hdue⟩ | ⟨rfl, hdue⟩⟩ := h
  · change execL2Request s = _
    rw [execL2Request, agentStep, hreq]
    simp only [hdue, if_true]
  · change execScPerform s = _
    rw [execScPerform, agentStep, hreq]
    simp only [hdue, if_true]

/-- A request to its block's own bytes is performed there. -/
theorem serveReq_block (hw : r.window = false) (hs : r.space = 1 ∨ r.space = 2) (k : Nat) (s : State) :
    serveReq k r s = performed k r ((serveBytes k r s).getD s) := by
  rw [serveReq, hw, if_neg Bool.false_ne_true, if_pos hs]

/-- A request whose home is ready is performed there. -/
theorem serveReq_home (h : HomeReady s r) (hd : s.deadVid r.vid = false) (k : Nat) :
    serveReq k r s = serveSlice k r s := by
  obtain ⟨hw, h1, h2, -, hgen, hbad, hroom⟩ := h
  have hstall : ¬ ((r.kind != .load && s.storeRoom r.pa r.vid (classOf r.policy) != .ready) = true) := by
    rw [Bool.and_eq_true, bne_iff_ne, bne_iff_ne]
    exact fun h => h.2 (hroom h.1)
  rw [serveReq, hw, if_neg Bool.false_ne_true, if_neg (not_or.2 ⟨h1, h2⟩), serveHome, hd, if_neg Bool.false_ne_true, hgen,
    hbad]
  exact if_neg hstall

theorem spaceWrite_home (h1 : r.space ≠ 1) (h2 : r.space ≠ 2) (bs : List (Nat × Byte)) (k : Nat) (s : State) :
    spaceWrite k r bs s = writeLine r.vid r.pa (bs.map fun c => (r.physical c.1, c.2)) (classOf r.policy) s := by
  unfold spaceWrite
  split
  · exact absurd ‹_› h1
  · exact absurd ‹_› h2
  · rfl

theorem serveSlice_store (hk : r.kind = .store) (h : HomeReady s r) (k : Nat) : serveSlice k r s =
    performed k r (writeLine r.vid r.pa (r.data.map fun c => (r.physical c.1, c.2)) (classOf r.policy) s) := by
  obtain ⟨-, h1, h2, hc, -, -, -⟩ := h
  have hslice : atSlice k r s = s := by
    rw [atSlice, hk]
    exact settle_self hc
  rw [serveSlice, hslice, serveBytes, hk]
  simp only [afterServe, hk]
  rw [spaceWrite_home h1 h2]
  rfl

/-! ### Stores -/

theorem nodup_addresses (h : (r.data.map fun b => b.1 % 128).Nodup) : (r.data.map (·.1)).Nodup := by
  refine List.Nodup.of_map (· % 128) ?_
  rwa [List.map_map]

theorem bytesOf_memSetAll {m : Map Byte} (hm : Memory.wf m = true) (h : (r.data.map fun b => b.1 % 128).Nodup) :
    BytesOf r m (memSetAll m r.data) :=
  ⟨fun _ hb => memGet_memSetAll_mem hm (nodup_addresses h) hb,
   fun _ ha => memGet_memSetAll_notin _ _ fun c hc he => ha (List.mem_map.2 ⟨c, hc, he⟩)⟩

/-- A store to a block's own bytes changes that block alone. -/
theorem stored_block (hk : r.kind = .store) (s : State) (x : Block) :
    let t := performed s.sel.core r (s.setBlockAt s.sel.core r.blk x)
    NowPerformed s t r ∧ OnlyCore s { t with performs := s.performs } s.sel.core ∧
      { t.core with blocks := s.core.blocks, reqs := s.core.reqs } = s.core ∧
      (∀ b, b ≠ r.blk → t.blockAt s.sel.core b = s.blockAt s.sel.core b) ∧ t.blockAt s.sel.core r.blk = x := by
  intro t
  have ho : orphan (s.setBlockAt s.sel.core r.blk x) s.sel.core r = false := orphan_store hk _ _
  have h : OnlyReqs s.sel.core (s.setBlockAt s.sel.core r.blk x) t := onlyReqs_performed ho
  have hcore : (s.setBlockAt s.sel.core r.blk x).coreAt s.sel.core =
      { s.core with blocks := mapSet s.core.blocks r.blk x } := State.coreAt_setCore _ _ _
  have hsel : t.sel = s.sel := (congrArg State.sel h.rest :)
  have hblock (b : Nat) : t.blockAt s.sel.core b = (s.setBlockAt s.sel.core r.blk x).blockAt s.sel.core b := by
    have hb : (t.coreAt s.sel.core).blocks = ((s.setBlockAt s.sel.core r.blk x).coreAt s.sel.core).blocks :=
      (congrArg Core.blocks h.core :)
    rw [State.blockAt, hb, State.blockAt]
  refine ⟨nowPerformed (u := s.setBlockAt s.sel.core r.blk x) rfl ?_ rfl ho (.refl t), ⟨?_, fun j hj => ?_⟩, ?_, fun b hb => ?_, ?_⟩
  · rw [hcore]
    rfl
  · exact (congrArg (fun y : State => { y with cores := s.cores }) h.rest :)
  · exact (h.cores j hj).trans (State.coreAt_setCore_ne s _ hj)
  · have hc := congrArg (fun c : Core => { c with blocks := s.core.blocks, reqs := s.core.reqs }) h.core
    rw [hcore] at hc
    rw [State.core, hsel]
    exact hc
  · rw [hblock, State.blockAt_setBlockAt_ne s _ x hb]
  · rw [hblock, State.blockAt_setBlockAt]

/-- A store at its home changes the slices and the core's requests. -/
theorem stored_home {i : Instr} (h : Served i s r) (hk : r.kind = .store) (hready : HomeReady s r)
    (hd : s.deadVid r.vid = false) {u : State}
    (hu : u = writeLine r.vid r.pa (r.data.map fun c => (r.physical c.1, c.2)) (classOf r.policy) s) :
    ∃ t, exec i s = .next t ∧ NowPerformed s t r ∧ OnlyHomes s t ∧ t.mem = u.mem ∧ ∀ v a, t.viewByte v a = u.viewByte v a := by
  have hslice : OnlySlices s u := by
    rw [hu]
    exact onlySlices_writeLine _ _ _ _ _
  have hcores : u.cores = s.cores := (congrArg State.cores hslice :)
  have ho : orphan u s.sel.core r = false := orphan_store hk _ _
  have hreqs := onlyReqs_performed ho
  refine ⟨performed s.sel.core r u, ?_, nowPerformed (u := u) (congrArg State.sel hslice :) ?_ (congrArg State.performs hslice :) ho
    (.refl _), ?_, hreqs.mem, hreqs.viewByte⟩
  · rw [exec_of_served h, serveReq_home hready hd, serveSlice_store hk hready, hu]
  · rw [State.coreAt, hcores, State.coreAt]
  · exact onlyHomes_trans hslice.onlyHomes hreqs.onlyHomes

/-- A byte's place in its home line. -/
theorem lineOf_place (l a : Nat) : lineOf (128 * l + a % 128) = l := by unfold lineOf; omega
theorem place_mod (l a : Nat) : (128 * l + a % 128) % 128 = a % 128 := by omega
theorem place_of_lineOf {l a : Nat} (h : lineOf a = l) : 128 * l + a % 128 = a := by unfold lineOf at h; omega

section
variable (hnd : (r.data.map fun b => b.1 % 128).Nodup)
include hnd

/-- A store's bytes lie in place at VID 0, and outside the spill area no other byte changes. -/
theorem bytes_writeLine_root (hm : Memory.wf s.mem = true) (hc : s.newestCommitted r.pa = none) (cls : Nat) :
    let t := writeLine 0 r.pa (r.data.map fun c => (r.physical c.1, c.2)) cls s
    (∀ b ∈ r.data, ¬ InSpill s (128 * r.pa + b.1 % 128) → memGet t.mem (128 * r.pa + b.1 % 128) = b.2) ∧
      ∀ a, a ∉ r.data.map (fun b => 128 * r.pa + b.1 % 128) → ¬ InSpill s a → memGet t.mem a = memGet s.mem a := by
  intro t
  have ht : Restowed { s with mem := memSetAll s.mem (r.data.map fun c => (r.physical c.1, c.2)) } t := by
    simp only [t]
    rw [writeLine_root _ _ _ hc]
    exact restowed_l2Take _ _
  have hkeys : ((r.data.map fun c => (r.physical c.1, c.2)).map (·.1)).Nodup := by
    refine List.Nodup.of_map (· % 128) ?_
    rw [List.map_map, List.map_map]
    simpa only [Function.comp_def, Req.physical, place_mod] using hnd
  refine ⟨fun b hb ha => ?_, fun a hout ha => ?_⟩
  · rw [ht.mem _ ha]
    exact memGet_memSetAll_mem hm hkeys (List.mem_map.2 ⟨b, hb, rfl⟩)
  · rw [ht.mem _ ha]
    refine memGet_memSetAll_notin _ _ fun c hc he => hout ?_
    obtain ⟨b, hb, rfl⟩ := List.mem_map.1 hc
    exact List.mem_map.2 ⟨b, hb, he⟩

/-- A store's bytes are seen in its version, every other byte outside the spill area is seen as before, and so is every
byte in a version that does not descend from it. -/
theorem bytes_writeLine_version (hv : r.vid ≠ 0) (ho : ((s.seenAt r.pa).ver r.vid).open_ = true)
    (hw : ∀ c ∈ s.copies, Memory.wf c.bytes = true) (hc : s.newestCommitted r.pa = none) (cls : Nat) :
    let t := writeLine r.vid r.pa (r.data.map fun c => (r.physical c.1, c.2)) cls s
    (∀ b ∈ r.data, t.viewByte r.vid (128 * r.pa + b.1 % 128) = b.2) ∧
      (∀ a, a ∉ r.data.map (fun b => 128 * r.pa + b.1 % 128) → ¬ InSpill s a → t.viewByte r.vid a = s.viewByte r.vid a) ∧
      ∀ v, r.vid ∉ (s.seenAt r.pa).ancestors v → ∀ a, ¬ InSpill s a → t.viewByte v a = s.viewByte v a := by
  intro t
  obtain ⟨u, hu, ht⟩ := writeLine_version hv hc (r.data.map fun c => (r.physical c.1, c.2)) cls
  have hself := ancestors_of_open hv ho
  have hself' : ∃ rest, (u.seenAt r.pa).ancestors r.vid = r.vid :: rest := by
    rw [ancestors_congr hu.only.vers]
    exact hself
  have hnew {a : Nat} (ha : lineOf a = r.pa) : t.viewByte r.vid a =
      memGet (memSetAll (ownCopy r.vid r.pa cls s).1 (r.data.map fun c => (c.1 % 128, c.2))) (a % 128) := by
    refine (congrArg (fun x : State => x.viewByte r.vid a) ht).trans ?_
    rw [viewByte_withCopy_self hself' ha, List.map_map]
    simp only [Function.comp_def, Req.physical, place_mod]
  have hold {v a : Nat} (h : lineOf a ≠ r.pa ∨ r.vid ∉ (s.seenAt r.pa).ancestors v) (ha : ¬ InSpill s a) :
      t.viewByte v a = s.viewByte v a := by
    refine (congrArg (fun x : State => x.viewByte v a) ht).trans ?_
    rw [viewByte_withCopy_other, hu.viewByte v ha]
    by_cases hl : lineOf a = r.pa
    · rw [hl, ancestors_congr hu.only.vers]
      exact h.imp_left fun h => absurd hl h
    · exact .inl hl
  refine ⟨fun b hb => ?_, fun a hout ha => ?_, fun v hv a ha => hold (.inr hv) ha⟩
  · rw [hnew (lineOf_place r.pa b.1), place_mod]
    refine memGet_memSetAll_mem (ownCopy_bytes_wf hw _ _ _) ?_ (b := (b.1 % 128, b.2)) (List.mem_map.2 ⟨b, hb, rfl⟩)
    rw [List.map_map]
    exact hnd
  · by_cases hl : lineOf a = r.pa
    · rw [hnew hl, memGet_memSetAll_notin, memGet_ownCopy hself cls (Nat.mod_lt _ (by decide)), place_of_lineOf hl]
      intro c hc he
      obtain ⟨b, hb, rfl⟩ := List.mem_map.1 hc
      have he : b.1 % 128 = a % 128 := he
      exact hout (List.mem_map.2 ⟨b, hb, by rw [he, place_of_lineOf hl]⟩)
    · exact hold (.inl hl) ha

end
end

end Sys2Proof.Proofs
end

section
/-!
Loads at their home, and O21.
-/

namespace Sys2Proof.Proofs

open Sys2Proof.Machine Sys2Proof.Statements

section
variable {s s1 t : State} {r : Req} {e : LogEntry}

/-- Byte `n` from address `a` on in the space of a request, as its version sees it. -/
def spaceByte (s : State) (k : Nat) (r : Req) (a n : Nat) : Byte :=
  if r.space = 1 then memGet (s.blockAt k r.blk).shared (a + n)
  else if r.space = 2 then memGet (s.blockAt k r.blk).tile (a + n)
  else s.viewByte r.vid (128 * r.pa + a % 128 + n)

theorem spaceRead_getElem? (hw : r.window = false) (s : State) (k a n i : Nat) :
    (spaceRead k r a n s)[i]? = if i < n then some (spaceByte s k r a i) else none := by
  unfold spaceRead spaceByte
  rw [hw, if_neg Bool.false_ne_true]
  split
  next h => rw [if_pos h, memBytes_getElem?]
  next h =>
    have h1 : r.space ≠ 1 := h.trans_ne (by decide)
    rw [if_neg h1, if_pos h, memBytes_getElem?]
  next h1 h2 => rw [if_neg h1, if_neg h2, viewBytes_getElem?, Req.physical]

theorem onlyL1_afterServe (hk : r.kind = .load) (k : Nat) (s : State) : OnlyL1 s (afterServe k r s) := by
  simp only [afterServe, hk]
  split
  · exact .refl s
  · exact onlyL1_l1Fill _ _ _ _ _ _ _ s

/-- A home serves a load of a settled line: its lanes land as the version sees the bytes, and its core's L1 takes them. -/
theorem serveSlice_load (hk : r.kind = .load) (hc : s.newestCommitted r.pa = none) (k : Nat) :
    OnlyL1 (performed k r (loadLanes k r (noteLine r.vid r.pa r.sectors (classOf r.policy) s))) (serveSlice k r s) := by
  have hslice : atSlice k r s = noteLine r.vid r.pa r.sectors (classOf r.policy) s := by
    rw [atSlice, hk]
    simp [settle_self hc]
  rw [serveSlice, hslice, serveBytes, hk]
  exact (onlyL1_l1Catch _ _ _ _ _).trans (onlyL1_afterServe hk _ _)

/-- What a load that has been performed leaves, where the slices have only moved lines for it. -/
theorem loaded (hw : r.window = false) (he : LogOf s r e) (hs : Restowed s s1)
    (ht : OnlyL1 (performed s.sel.core r (loadLanes s.sel.core r s1)) t) :
    NowPerformed s t r ∧ OnlyHomes s t ∧ SameView s t ∧
      LogOf t r (landed (fun x => spaceRead s.sel.core r x.addr x.size s1) r.lanes e) ∧
      ∀ k g, SameRegs (s.groupAt k g) (t.groupAt k g) := by
  have hcores : s1.cores = s.cores := (congrArg State.cores hs.only :)
  have hgroup (k g : Nat) : s1.groupAt k g = s.groupAt k g := by rw [State.groupAt, State.coreAt, hcores]; rfl
  have he1 : LogAt s1 s.sel.core r e := by
    rw [LogAt, hgroup]
    exact he
  obtain ⟨hlogs, hlog⟩ := loadLanes_lands hw he1
  have horphan := orphan_of_logAt hlog
  have hreqs := onlyReqs_performed horphan
  have hgroups (k g : Nat) : t.groupAt k g = (loadLanes s.sel.core r s1).groupAt k g :=
    (ht.groupAt k g).trans (hreqs.groupAt k g)
  have hsel1 : (loadLanes s.sel.core r s1).sel = s.sel :=
    (congrArg State.sel hlogs.rest :).trans (congrArg State.sel hs.only :)
  have hsel : t.sel = s.sel := ((congrArg State.sel ht.rest :).trans (congrArg State.sel hreqs.rest :)).trans hsel1
  refine ⟨nowPerformed hsel1 ?_ ((congrArg State.performs hlogs.rest :).trans (congrArg State.performs hs.only :)) horphan ht,
    ?_, fun v a ha => ?_, ?_, fun k g => ?_⟩
  · rw [hlogs.reqs, State.coreAt, hcores, State.coreAt]
  · exact onlyHomes_trans (onlyHomes_trans hs.only.onlyHomes hlogs.onlyHomes)
      (onlyHomes_trans hreqs.onlyHomes ht.onlyHomes)
  · have h1 : t.viewByte v a = (performed s.sel.core r (loadLanes s.sel.core r s1)).viewByte v a :=
      viewByte_cores (congrArg (fun x : State =>
        { x with performs := (performed s.sel.core r (loadLanes s.sel.core r s1)).performs }) ht.rest) v a
    rw [h1, hreqs.viewByte, hlogs.viewByte, hs.viewByte v ha]
  · rw [LogOf, hsel, hgroups]
    exact hlog
  · rw [hgroups, ← hgroup]
    have h := hlogs.groups k g
    exact ⟨(congrArg Group.v h :), (congrArg Group.s h :), (congrArg Group.p h :), (congrArg Group.x h :),
      (congrArg Group.blo h :), (congrArg Group.bhi h :), (congrArg Group.d h :)⟩

/-- A load in its block or at its ready home is performed, and its lanes return the bytes that its version sees. -/
theorem load_performs {i : Instr} (h : Served i s r) (hk : r.kind = .load) (hw : r.window = false) :
    (r.space = 1 ∨ r.space = 2 ∨ (HomeReady s r ∧ s.deadVid r.vid = false)) →
    ∃ t s1, exec i s = .next t ∧ Restowed s s1 ∧ OnlyL1 (performed s.sel.core r (loadLanes s.sel.core r s1)) t := by
  have hblock (hs : r.space = 1 ∨ r.space = 2) :
      ∃ t s1, exec i s = .next t ∧ Restowed s s1 ∧ OnlyL1 (performed s.sel.core r (loadLanes s.sel.core r s1)) t := by
    refine ⟨_, s, exec_of_served h, .refl s, ?_⟩
    rw [serveReq_block hw hs, serveBytes, hk]
    exact .refl _
  rintro (hs | hs | ⟨hready, hd⟩)
  · exact hblock (.inl hs)
  · exact hblock (.inr hs)
  · have hserve := serveReq_home hready hd s.sel.core
    obtain ⟨-, -, -, hc, -, -, -⟩ := hready
    refine ⟨_, _, exec_of_served h, restowed_noteLine r.vid r.pa r.sectors (classOf r.policy) s, ?_⟩
    rw [hserve]
    exact serveSlice_load hk hc _

theorem spaceByte_restowed (hs : Restowed s s1) {k a n : Nat} (ha : a % 128 + n < 128)
    (hclear : r.space ≠ 1 → r.space ≠ 2 → ∀ n, n < 128 → ¬ InSpill s (128 * r.pa + n)) :
    spaceByte s1 k r a n = spaceByte s k r a n := by
  have hcores : s1.cores = s.cores := (congrArg State.cores hs.only :)
  have hblock : s1.blockAt k r.blk = s.blockAt k r.blk := by
    rw [State.blockAt, State.coreAt, hcores]
    rfl
  unfold spaceByte
  rw [hblock]
  split_ifs with h1 h2
  · rfl
  · rfl
  · refine hs.viewByte _ ?_
    rw [Nat.add_assoc]
    exact hclear h1 h2 _ ha

end

/-- Settles O21: a store in its block, at VID 0 and in a version, and a load in any space, each from what its home writes. -/
theorem homesPerformAccesses : Obligations.HomesPerformAccesses := by
  unfold Obligations.HomesPerformAccesses
  refine ⟨fun i s r h hk hnd => ⟨fun hw hs hm => ?_, fun hw hs hm => ?_, fun hready hv hm => ?_,
    fun hready ho hseen hv hcopies => ?_⟩, fun i s r e h hk he hw hnd hlanes hplace => ?_⟩
  · obtain ⟨hdone, hcore, hrest, hothers, hblock⟩ := stored_block hk s
      { s.blockAt s.sel.core r.blk with shared := memSetAll (s.blockAt s.sel.core r.blk).shared r.data }
    refine ⟨_, (exec_of_served h).trans (congrArg _ (serveReq_block hw (.inl hs) _ _)), ?_⟩
    rw [serveBytes, hk]
    simp only [spaceWrite, hs, Option.getD_some]
    refine ⟨hdone, hcore, hrest, hothers, ?_⟩
    rw [hblock]
    exact ⟨rfl, bytesOf_memSetAll hm hnd⟩
  · obtain ⟨hdone, hcore, hrest, hothers, hblock⟩ := stored_block hk s
      { s.blockAt s.sel.core r.blk with tile := memSetAll (s.blockAt s.sel.core r.blk).tile r.data }
    refine ⟨_, (exec_of_served h).trans (congrArg _ (serveReq_block hw (.inr hs) _ _)), ?_⟩
    rw [serveBytes, hk]
    simp only [spaceWrite, hs, Option.getD_some]
    refine ⟨hdone, hcore, hrest, hothers, ?_⟩
    rw [hblock]
    exact ⟨rfl, bytesOf_memSetAll hm hnd⟩
  · have hd : s.deadVid r.vid = false := by simp [State.deadVid, hv]
    obtain ⟨t, hexec, hdone, honly, hmem, -⟩ := stored_home h hk hready hd rfl
    obtain ⟨-, -, -, hc, -, -, -⟩ := hready
    rw [hv] at hmem
    refine ⟨t, hexec, hdone, honly, ?_⟩
    rw [hmem]
    exact bytes_writeLine_root hnd hm hc _
  · have hd : s.deadVid r.vid = false := by
      rw [Version.open_, Bool.or_eq_true, beq_iff_eq, beq_iff_eq] at ho
      rcases ho with ho | ho <;> simp [State.deadVid, ho]
    obtain ⟨t, hexec, hdone, honly, -, hview⟩ := stored_home h hk hready hd rfl
    obtain ⟨-, -, -, hc, -, -, -⟩ := hready
    refine ⟨t, hexec, hdone, honly, ?_⟩
    simp only [hview]
    exact bytes_writeLine_version hnd hv hseen hcopies hc _
  · obtain ⟨t, s1, hexec, hs1, ht⟩ := load_performs h hk hw hplace
    obtain ⟨hdone, honly, hview, hlog, hregs⟩ := loaded hw he hs1 ht
    have hlane : ∀ x ∈ r.lanes, x.lane < 48 := fun x hx => (hlanes x hx).1
    refine ⟨t, _, hexec, hdone, honly, hview, hlog, fun l hl => laneIn_landed hlane e hl, landed_frame e,
      fun hclear x hx => ?_, hregs⟩
    obtain ⟨-, -, hend⟩ := hlanes x hx
    refine landed_returned hlane hnd e hx fun n => ?_
    rw [spaceRead_getElem? hw]
    split
    next hn => exact congrArg some (spaceByte_restowed hs1 (by omega) hclear)
    · rfl

end Sys2Proof.Proofs
end

section
/-!
What the accesses of a walker unit leave: its walks, reads and writes change what the home slices and the event rings keep,
and nothing else (R54, R63, R72, R326-R328).
-/

namespace Sys2Proof.Proofs

open Sys2Proof.Machine Sys2Proof.Statements

/-! ### The slices -/

section
variable {s t u : State}

theorem onlySlices_writeView (v : Nat) (bs : List (Nat × Byte)) (s : State) : OnlySlices s (writeView v bs s) :=
  onlySlices_foldl (fun t l => onlySlices_writeLine v l _ 0 t) _ s

theorem onlySlices_noteReads (v pa n : Nat) (s : State) : OnlySlices s (noteReads v pa n s) := by
  unfold noteReads
  split
  · rfl
  · exact onlySlices_foldl (fun t l => (onlySlices_settle l t).trans (restowed_noteLine v l _ 0 _).only) _ s

theorem onlySlices_mirrorBytes (pa : Nat) (bs : List Byte) (s : State) : OnlySlices s (mirrorBytes pa bs s) := rfl

/-! ### Walks -/

theorem OnlySlices.onlyReads (h : OnlySlices s t) : OnlyReads s t :=
  ⟨(congrArg (fun x : State => { x with host := s.host, north := s.north, south := s.south }) h :),
   (congrArg (fun x : State => { x.host with msix := s.host.msix, msixPend := s.host.msixPend }) h :),
   (congrArg (fun x : State => { x.north with srcSeq := s.north.srcSeq, evtail := s.north.evtail }) h :),
   (congrArg (fun x : State => { x.south with srcSeq := s.south.srcSeq, evtail := s.south.evtail }) h :)⟩

theorem onlyReads_refl (s : State) : OnlyReads s s := ⟨rfl, rfl, rfl, rfl⟩

theorem onlyReads_trans (h : OnlyReads s t) (g : OnlyReads t u) : OnlyReads s u := by
  obtain ⟨h1, h2, h3, h4⟩ := h
  obtain ⟨g1, g2, g3, g4⟩ := g
  exact ⟨Eq.trans (congrArg (fun x : State => { x with
      mem := s.mem, copies := s.copies, l2 := s.l2, corrected := s.corrected, host := s.host, north := s.north,
      south := s.south }) g1) h1,
    Eq.trans (congrArg (fun x : HostBlock => { x with msix := s.host.msix, msixPend := s.host.msixPend }) g2) h2,
    Eq.trans (congrArg (fun x : Die => { x with srcSeq := s.north.srcSeq, evtail := s.north.evtail }) g3) h3,
    Eq.trans (congrArg (fun x : Die => { x with srcSeq := s.south.srcSeq, evtail := s.south.evtail }) g4) h4⟩

/-- A die's sequence numbers and event tail may change. -/
theorem onlyReads_setDie (s : State) (d : Nat) (seq : Map Word) (tail : DWord) :
    OnlyReads s (s.setDie d { s.dieAt d with srcSeq := seq, evtail := tail }) := by
  unfold State.setDie State.dieAt
  split <;> exact ⟨rfl, rfl, rfl, rfl⟩

theorem onlyReads_raiseMsix (v : Nat) (s : State) : OnlyReads s (raiseMsix v s) := by
  unfold raiseMsix
  split <;> exact ⟨rfl, rfl, rfl, rfl⟩

/-- A record written to a die's ring, with its interrupt. -/
theorem onlyReads_record (d : Nat) (bs : List (Nat × Byte)) (tail : DWord) (s : State) : OnlyReads s
    (raiseMsix d ((writeView 0 bs s).setDie d { (writeView 0 bs s).dieAt d with evtail := tail })) :=
  onlyReads_trans (onlyReads_trans (onlySlices_writeView 0 bs s).onlyReads
    (onlyReads_setDie _ d ((writeView 0 bs s).dieAt d).srcSeq tail)) (onlyReads_raiseMsix d _)

theorem onlyReads_raiseEvent (d src type : Nat) (payload : List Byte) (s : State) :
    OnlyReads s (raiseEvent d src type payload s) := by
  have hseq : OnlyReads s (bumpSeq d src s).2 := onlyReads_setDie s d _ (s.dieAt d).evtail
  unfold raiseEvent
  dsimp only
  split
  · exact hseq
  · exact onlyReads_trans hseq (onlyReads_record d _ _ _)

theorem onlyReads_walk (d asn vpn : Nat) (expect : Option (BitVec 16)) (s : State) :
    OnlyReads s (walk d asn vpn expect s).2 := by
  have hcount := (restowed_countCorrected (s.walkOf asn vpn expect).reads s).only.onlyReads
  unfold walk
  dsimp only
  generalize (s.walkOf asn vpn expect).long = ks
  generalize countCorrected (s.walkOf asn vpn expect).reads s = t at hcount
  induction ks generalizing t with
  | nil => exact hcount
  | cons k ks ih => exact ih _ (onlyReads_trans hcount (onlyReads_raiseEvent _ _ _ _ _))

theorem onlyReads_resolveVa (d asn va : Nat) (read write : Bool) (s : State) :
    OnlyReads s (resolveVa d asn va read write s).2 := by
  unfold resolveVa
  dsimp only
  split
  · exact onlyReads_refl s
  · exact onlyReads_walk _ _ _ _ s

/-- A page that is found gives an address with the place of the virtual one. -/
theorem pageOf_place {asn va pa : Nat} {read write : Bool} (h : s.pageOf asn va read write = .at_ pa) :
    pa % 2 ^ 21 = va % 2 ^ 21 := by
  unfold State.pageOf at h
  split at h
  · exact absurd h PageAnswer.noConfusion
  · split at h
    · split at h
      · rw [← PageAnswer.at_.inj h, physOf]
        omega
      · exact absurd h PageAnswer.noConfusion
    · exact absurd h PageAnswer.noConfusion
    · exact absurd h PageAnswer.noConfusion

theorem clk_of_onlyReads (h : OnlyReads s t) (d : Nat) : (t.dieAt d).clk = (s.dieAt d).clk := by
  obtain ⟨-, -, hn, hs⟩ := h
  unfold State.dieAt
  split
  · exact (congrArg Die.clk hn :)
  · exact (congrArg Die.clk hs :)

theorem vers_of_onlyReads (h : OnlyReads s t) : t.vers = s.vers := (congrArg State.vers h.1 :)

/-- What reads leave they leave whatever the cores are. -/
theorem onlyReads_withCores (h : OnlyReads s t) (c : Map Core) : OnlyReads { s with cores := c } { t with cores := c } := by
  obtain ⟨h1, h2, h3, h4⟩ := h
  exact ⟨congrArg (fun x : State => { x with cores := c }) h1, h2, h3, h4⟩

end
end Sys2Proof.Proofs
end

section
/-!
A walker unit's operations (R86, R91): what a sequence of accesses runs to, and what every operation leaves alone.
-/

namespace Sys2Proof.Proofs

open Sys2Proof.Machine Sys2Proof.Statements

/-! ### Runs of a walk -/

/-- A walk from a state and the addresses translated so far. -/
abbrev Walk.run2 {α : Type} (m : Walk α) (x : State × List Nat) : Except (Nat × Nat) α × (State × List Nat) := m.run.run x

section
variable {α β : Type}

theorem run2_bind (m : Walk α) (f : α → Walk β) (x : State × List Nat) : Walk.run2 (m >>= f) x =
    match Walk.run2 m x with
    | (.ok a, y) => Walk.run2 (f a) y
    | (.error e, y) => (.error e, y) := by
  simp only [Walk.run2, ExceptT.run_bind, StateT.run_bind]
  generalize (StateT.run (ExceptT.run m) x : Id _) = r
  obtain ⟨_ | _, _⟩ := r <;> rfl

theorem error_ne_ok {ε : Type} {e : ε} {a : α} : (Except.error e : Except ε α) ≠ .ok a := nofun

theorem on_eq (m : Walk α) (s : State) : m.on s = match Walk.run2 m (s, []) with
    | (.ok a, u) => .ok (a, u.1)
    | (.error e, _) => .error e := rfl

theorem run2_here (f : State → Walk α) (x : State × List Nat) : Walk.run2 (Walk.here >>= f) x = Walk.run2 (f x.1) x := by
  rw [run2_bind]
  rfl
theorem run2_put (s : State) (x : State × List Nat) : Walk.run2 (Walk.put s) x = (.ok (), (s, x.2)) := rfl
theorem run2_modify (f : State × List Nat → State × List Nat) (x : State × List Nat) :
    Walk.run2 (modify f) x = (.ok (), f x) := rfl
end

/-! ### The parts of an access -/

/-- What a walk answers to a unit. -/
def paAnswer (va : Nat) : PageAnswer → Except (Nat × Nat) Nat
  | .at_ pa => .ok pa
  | .refused => .error (0x10, va)
  | .unreadable b => .error (0x14, b)

/-- The first byte of an access that a unit's lease refuses. -/
def leaseRefusal (w : Walker) (s : State) (write : Bool) (va n : Nat) : Option Nat :=
  w.gid.bind fun g => (s.gridAt g).firstRefused write va n

theorem pa_run (w : Walker) (write : Bool) (va n : Nat) (s : State) (l : List Nat) :
    Walk.run2 (w.pa write va n) (s, l) = match leaseRefusal w s write va n with
      | some a => (.error (0x10, a), (s, l))
      | none => (paAnswer va (resolveVa w.die w.asn va (!write) write s).1,
          ((resolveVa w.die w.asn va (!write) write s).2, l ++ [va])) := by
  unfold leaseRefusal
  rw [Walker.pa, run2_here]
  cases w.gid.bind fun g => (s.gridAt g).firstRefused write va n with
  | some a => rfl
  | none =>
    dsimp only
    rw [run2_bind, run2_modify]
    dsimp only
    cases (resolveVa w.die w.asn va (!write) write s).1 <;> rfl

/-- The second part of a read, of a write in a version, and of a write of a field that R84 keeps at VID 0. -/
def readAt (v n pa : Nat) : Walk Nat := do
  let s ← Walk.here
  match s.readFault v pa n with
  | some b => walkFault 0x14 b
  | none => do
    Walk.put (readView v pa n s).2
    pure (leNat (readView v pa n s).1)
def writeAt (w : Walker) (v n x pa : Nat) : Walk Unit := do
  let s ← Walk.here
  match s.storeFault v (lineOf pa) with
  | some b => walkFault 0x14 b
  | none =>
    if w.gid.isSome ∧ s.storeRoom (lineOf pa) v 0 != .ready then walkFault 0 0
    else Walk.put (writeNat v pa n x s)
def writeAllAt (n x pa : Nat) : Walk Unit :=
  Walk.change fun s => mirrorBytes pa (leBytes n x) (writeNat 0 pa n x s)

theorem wr_eq (w : Walker) (v va n x : Nat) : w.wr v va n x = w.pa true va n >>= writeAt w v n x := rfl
theorem wr0_eq (w : Walker) (va n x : Nat) : w.wr0 va n x = w.pa true va n >>= writeAllAt n x := rfl
theorem rd_eq (w : Walker) (v va n : Nat) : w.rd v va n = w.pa false va n >>= readAt v n := rfl

theorem readAt_run (v n pa : Nat) (s : State) (l : List Nat) : Walk.run2 (readAt v n pa) (s, l) =
    match s.readFault v pa n with
    | some b => (.error (0x14, b), (s, l))
    | none => (.ok (leNat (readView v pa n s).1), ((readView v pa n s).2, l)) := by
  rw [readAt, run2_here]
  cases s.readFault v pa n with
  | some b => rfl
  | none =>
    dsimp only
    rw [run2_bind, run2_put]
    rfl

theorem writeAt_run (w : Walker) (v n x pa : Nat) (s : State) (l : List Nat) : Walk.run2 (writeAt w v n x pa) (s, l) =
    match s.storeFault v (lineOf pa) with
    | some b => (.error (0x14, b), (s, l))
    | none => if w.gid.isSome ∧ s.storeRoom (lineOf pa) v 0 != .ready then (.error (0, 0), (s, l))
      else (.ok (), (writeNat v pa n x s, l)) := by
  rw [writeAt, run2_here]
  cases s.storeFault v (lineOf pa) with
  | some b => rfl
  | none =>
    dsimp only
    split <;> rfl

/-! ### The addresses translated before do not matter -/

/-- From a state, whatever has been translated before, the operation answers `r` and leaves `u`. -/
def Runs {α : Type} (m : Walk α) (s : State) (r : Except (Nat × Nat) α) (u : State) : Prop :=
  ∀ l, ∃ l', Walk.run2 m (s, l) = (r, (u, l'))

/-- The operation runs alike, whatever has been translated before. -/
def Walk.Steady {α : Type} (m : Walk α) : Prop := ∀ s, ∃ r u, Runs m s r u

section
variable {α β : Type} {m : Walk α} {f : α → Walk β} {s u z : State} {w : Walker}

theorem Runs.bind {a : α} {r : Except (Nat × Nat) β} (h : Runs m s (.ok a) u) (g : Runs (f a) u r z) :
    Runs (m >>= f) s r z := by
  intro l
  obtain ⟨l1, h1⟩ := h l
  obtain ⟨l2, h2⟩ := g l1
  refine ⟨l2, ?_⟩
  rw [run2_bind, h1]
  exact h2

theorem Runs.pure (a : α) (s : State) : Runs (pure a) s (.ok a) s := fun l => ⟨l, rfl⟩
theorem Runs.here {f : State → Walk β} {r : Except (Nat × Nat) β} (h : Runs (f s) s r u) :
    Runs (Walk.here >>= f) s r u := by
  intro l
  obtain ⟨l', h'⟩ := h l
  exact ⟨l', (run2_here f _).trans h'⟩

theorem Runs.on {a : α} (h : Runs m s (.ok a) u) : m.on s = .ok (a, u) := by
  obtain ⟨l, hl⟩ := h []
  rw [on_eq, hl]

theorem Walk.Steady.runs (h : Walk.Steady m) {a : α} (ho : m.on s = .ok (a, u)) : Runs m s (.ok a) u := by
  obtain ⟨r, z, hr⟩ := h s
  obtain ⟨l, hl⟩ := hr []
  rw [on_eq, hl] at ho
  cases r with
  | error e => exact absurd ho error_ne_ok
  | ok b =>
    obtain ⟨rfl, rfl⟩ := Prod.mk.inj (Except.ok.inj ho)
    exact hr

theorem Walk.Steady.pure (a : α) : Walk.Steady (pure a : Walk α) := fun s => ⟨_, s, .pure a s⟩

theorem Walk.Steady.bind (h : Walk.Steady m) (g : ∀ a, Walk.Steady (f a)) : Walk.Steady (m >>= f) := by
  intro s
  obtain ⟨r, u, hr⟩ := h s
  cases r with
  | error e =>
    refine ⟨.error e, u, fun l => ?_⟩
    obtain ⟨l', hl⟩ := hr l
    exact ⟨l', by rw [run2_bind, hl]⟩
  | ok a =>
    obtain ⟨r, z, hz⟩ := g a u
    exact ⟨r, z, hr.bind hz⟩

theorem steady_pa (w : Walker) (write : Bool) (va n : Nat) : Walk.Steady (w.pa write va n) := by
  intro s
  cases h : leaseRefusal w s write va n with
  | some a => exact ⟨.error (0x10, a), s, fun l => ⟨l, by rw [pa_run, h]⟩⟩
  | none => exact ⟨_, _, fun l => ⟨l ++ [va], by rw [pa_run, h]⟩⟩

theorem steady_rd (w : Walker) (v va n : Nat) : Walk.Steady (w.rd v va n) := by
  rw [rd_eq]
  refine (steady_pa w false va n).bind fun pa s => ?_
  cases h : s.readFault v pa n with
  | some b => exact ⟨.error (0x14, b), s, fun l => ⟨l, by rw [readAt_run, h]⟩⟩
  | none => exact ⟨_, _, fun l => ⟨l, by rw [readAt_run, h]⟩⟩

theorem steady_wr (w : Walker) (v va n x : Nat) : Walk.Steady (w.wr v va n x) := by
  rw [wr_eq]
  refine (steady_pa w true va n).bind fun pa s => ?_
  cases h : s.storeFault v (lineOf pa) with
  | some b => exact ⟨.error (0x14, b), s, fun l => ⟨l, by rw [writeAt_run, h]⟩⟩
  | none =>
    by_cases hroom : w.gid.isSome ∧ s.storeRoom (lineOf pa) v 0 != .ready
    · exact ⟨.error (0, 0), s, fun l => ⟨l, by rw [writeAt_run, h]; exact if_pos hroom⟩⟩
    · exact ⟨.ok (), _, fun l => ⟨l, by rw [writeAt_run, h]; exact if_neg hroom⟩⟩

theorem steady_wr0 (w : Walker) (va n x : Nat) : Walk.Steady (w.wr0 va n x) :=
  (steady_pa w true va n).bind fun pa s =>
    ⟨.ok (), mirrorBytes pa (leBytes n x) (writeNat 0 pa n x s), fun l => ⟨l, rfl⟩⟩

theorem steady_node (w : Walker) (v n : Nat) : Walk.Steady (w.node v n) :=
  (steady_rd _ _ _ _).bind fun _ => (steady_rd _ _ _ _).bind fun _ => (steady_rd _ _ _ _).bind fun _ => (steady_rd _ _ _ _).bind fun _ =>
    (steady_rd _ _ _ _).bind fun _ => (steady_rd _ _ _ _).bind fun _ => (steady_rd _ _ _ _).bind fun _ => .pure _

/-! ### What an operation answers -/

/-- Every answer of the operation is as `P` says. -/
def Walk.Answers (m : Walk α) (P : α → Prop) : Prop := ∀ x a y, Walk.run2 m x = (.ok a, y) → P a

theorem Walk.Answers.bind {P : α → Prop} {Q : β → Prop} (h : Walk.Answers m P) (g : ∀ a, P a → Walk.Answers (f a) Q) :
    Walk.Answers (m >>= f) Q := by
  intro x b z hz
  rw [run2_bind] at hz
  cases hm : Walk.run2 m x with
  | mk r y =>
    rw [hm] at hz
    cases r with
    | error e => exact absurd (congrArg Prod.fst hz) error_ne_ok
    | ok a => exact g a (h x a y hm) y b z hz

theorem Walk.Answers.pure {P : α → Prop} {a : α} (h : P a) : Walk.Answers (pure a : Walk α) P := by
  intro x b y hb
  obtain rfl : a = b := Except.ok.inj (congrArg Prod.fst hb)
  exact h

theorem Walk.Answers.of_on {P : α → Prop} (h : Walk.Answers m P) {a : α} (ho : m.on s = .ok (a, u)) : P a := by
  rw [on_eq] at ho
  cases hm : Walk.run2 m (s, []) with
  | mk r y =>
    rw [hm] at ho
    cases r with
    | error e => exact absurd ho error_ne_ok
    | ok b =>
      obtain ⟨rfl, -⟩ := Prod.mk.inj (Except.ok.inj ho)
      exact h _ _ _ hm

/-- A translated address has the place of the virtual one in its page. -/
theorem answers_pa (w : Walker) (write : Bool) (va n : Nat) :
    Walk.Answers (w.pa write va n) fun pa => pa % 2 ^ 21 = va % 2 ^ 21 := by
  rintro ⟨s, l⟩ pa y h
  rw [pa_run] at h
  split at h
  · exact absurd (congrArg Prod.fst h) error_ne_ok
  · have ha := congrArg Prod.fst h
    dsimp only at ha
    rw [resolveVa] at ha
    cases hp : s.pageOf w.asn va (!write) write with
    | at_ q =>
      rw [hp] at ha
      obtain rfl : q = pa := Except.ok.inj ha
      exact pageOf_place hp
    | refused => rw [hp] at ha; exact absurd ha error_ne_ok
    | unreadable b => rw [hp] at ha; exact absurd ha error_ne_ok

theorem viewBytes_length (s : State) (v a n : Nat) : (s.viewBytes v a n).length = n := by
  induction n generalizing a with
  | zero => rfl
  | succ n ih => rw [State.viewBytes, List.length_cons, ih]

theorem answers_rd (w : Walker) (v va n : Nat) : Walk.Answers (w.rd v va n) fun x => x < 256 ^ n := by
  rw [rd_eq]
  refine (answers_pa w false va n).bind fun pa _ => ?_
  rintro ⟨s, l⟩ x y h
  rw [readAt_run] at h
  split at h
  · exact absurd (congrArg Prod.fst h) error_ne_ok
  · obtain rfl : _ = x := Except.ok.inj (congrArg Prod.fst h)
    exact (leNat_lt _).trans_eq (congrArg _ (viewBytes_length _ _ _ _))

/-- A node's count has two bytes. -/
theorem answers_node (w : Walker) (v n : Nat) : Walk.Answers (w.node v n) fun e => e.count < 256 ^ 2 :=
  (answers_rd _ _ _ _).bind fun _ _ => (answers_rd _ _ _ _).bind fun _ _ => (answers_rd _ _ _ _).bind fun _ _ =>
    (answers_rd _ _ _ _).bind fun _ hcount => (answers_rd _ _ _ _).bind fun _ _ => (answers_rd _ _ _ _).bind fun _ _ =>
      (answers_rd _ _ _ _).bind fun _ _ => .pure hcount

end

end Sys2Proof.Proofs
end

section
/-!
What every operation of a walker unit leaves alone: the cores, the grids and all else that its accesses do not reach.
-/

namespace Sys2Proof.Proofs

open Sys2Proof.Machine Sys2Proof.Statements

/-! ### What an operation keeps -/

/-- A relation of states that composes and that what reads leave satisfies. -/
structure Kept where
  rel : State → State → Prop
  trans : ∀ {s t u}, rel s t → rel t u → rel s u
  reads : ∀ {s t}, OnlyReads s t → rel s t

/-- Nothing changes but what reads leave. -/
def keptReads : Kept := ⟨OnlyReads, onlyReads_trans, fun h => h⟩

/-- Nothing changes but what a walker unit's operations reach: bytes, copies, the versions' table, events. -/
def OnlyUnit (s t : State) : Prop :=
  { t with mem := s.mem, copies := s.copies, l2 := s.l2, corrected := s.corrected, vers := s.vers, host := s.host,
           north := s.north, south := s.south } = s

theorem OnlyUnit.trans {s t u : State} (h : OnlyUnit s t) (g : OnlyUnit t u) : OnlyUnit s u :=
  Eq.trans (congrArg (fun x : State => { x with
    mem := s.mem, copies := s.copies, l2 := s.l2, corrected := s.corrected, vers := s.vers, host := s.host,
    north := s.north, south := s.south }) g) h

theorem onlyUnit_of_onlyReads {s t : State} (h : OnlyReads s t) : OnlyUnit s t :=
  (congrArg (fun x : State => { x with vers := s.vers }) h.1 :)

def keptUnit : Kept := ⟨OnlyUnit, .trans, onlyUnit_of_onlyReads⟩

/-- The operation's states, from any to the one it leaves, are as `R` says. -/
structure Keeps (R : Kept) {α : Type} (m : Walk α) : Prop where
  rel : ∀ x, R.rel x.1 (Walk.run2 m x).2.1

section
variable {R : Kept} {α β : Type} {m n : Walk α} {f : α → Walk β}

theorem Kept.refl (R : Kept) (s : State) : R.rel s s := R.reads (onlyReads_refl s)

theorem Keeps.pure (a : α) : Keeps R (pure a : Walk α) := ⟨fun x => R.refl x.1⟩
theorem Keeps.here : Keeps R Walk.here := ⟨fun x => R.refl x.1⟩

theorem Keeps.bind (h : Keeps R m) (g : ∀ a, Keeps R (f a)) : Keeps R (m >>= f) := by
  refine ⟨fun x => ?_⟩
  have hx := h.rel x
  rw [run2_bind]
  cases hm : Walk.run2 m x with
  | mk r y =>
    rw [hm] at hx
    cases r with
    | error e => exact hx
    | ok a => exact R.trans hx ((g a).rel y)

theorem Keeps.ite {c : Prop} [Decidable c] (h : Keeps R m) (g : Keeps R n) : Keeps R (if c then m else n) := by
  split
  · exact h
  · exact g

theorem Keeps.forM {f : α → Walk Unit} (h : ∀ a, Keeps R (f a)) (l : List α) : Keeps R (l.forM f) := by
  induction l with
  | nil => exact .pure _
  | cons a l ih => exact (h a).bind fun _ => ih

theorem Keeps.on {s u : State} {a : α} (h : Keeps R m) (ho : m.on s = .ok (a, u)) : R.rel s u := by
  have hs := h.rel (s, [])
  rw [on_eq] at ho
  cases hm : Walk.run2 m (s, []) with
  | mk r y =>
    rw [hm] at ho hs
    cases r with
    | error e => exact absurd ho error_ne_ok
    | ok b =>
      obtain ⟨-, rfl⟩ := Prod.mk.inj (Except.ok.inj ho)
      exact hs

/-! ### The accesses -/

theorem Keeps.pa (w : Walker) (write : Bool) (va k : Nat) : Keeps R (w.pa write va k) := by
  refine ⟨fun ⟨s, l⟩ => ?_⟩
  rw [pa_run]
  split
  · exact R.refl s
  · exact R.reads (onlyReads_resolveVa _ _ _ (!write) write s)

theorem Keeps.rd (w : Walker) (v va k : Nat) : Keeps R (w.rd v va k) := by
  rw [rd_eq]
  refine (Keeps.pa w false va k).bind fun pa => ?_
  refine ⟨fun ⟨s, l⟩ => ?_⟩
  rw [readAt_run]
  split
  · exact R.refl s
  · exact R.reads (onlySlices_noteReads v pa k s).onlyReads

theorem Keeps.wr (w : Walker) (v va k x : Nat) : Keeps R (w.wr v va k x) := by
  rw [wr_eq]
  refine (Keeps.pa w true va k).bind fun pa => ?_
  refine ⟨fun ⟨s, l⟩ => ?_⟩
  rw [writeAt_run]
  split
  · exact R.refl s
  · split
    · exact R.refl s
    · exact R.reads (onlySlices_writeView _ _ s).onlyReads

theorem Keeps.wr0 (w : Walker) (va k x : Nat) : Keeps R (w.wr0 va k x) := by
  rw [wr0_eq]
  refine (Keeps.pa w true va k).bind fun pa => ?_
  refine ⟨fun ⟨s, l⟩ => ?_⟩
  exact R.reads ((onlySlices_writeView 0 _ s).trans (onlySlices_mirrorBytes pa _ _)).onlyReads

/-! ### The operations built from them -/

theorem Keeps.node (w : Walker) (v k : Nat) : Keeps R (w.node v k) :=
  .bind (.rd ..) fun _ => .bind (.rd ..) fun _ => .bind (.rd ..) fun _ => .bind (.rd ..) fun _ =>
    .bind (.rd ..) fun _ => .bind (.rd ..) fun _ => .bind (.rd ..) fun _ => .pure _

theorem Keeps.setCount (w : Walker) (k c : Nat) : Keeps R (w.setCount k c) := .wr0 ..
theorem Keeps.setFlags (w : Walker) (k c : Nat) : Keeps R (w.setFlags k c) := .wr0 ..
theorem Keeps.stamp (w : Walker) (k : Nat) : Keeps R (w.stamp k) :=
  .bind .here fun _ => .bind (.wr0 ..) fun _ => .pure _
theorem Keeps.addrOf (w : Walker) (pd i : Nat) : Keeps R (w.addrOf pd i) := .bind (.rd ..) fun _ => .pure _
theorem Keeps.indexOf (w : Walker) (pd i : Nat) : Keeps R (w.indexOf pd i) := .bind (.rd ..) fun _ => .pure _

theorem Keeps.ringPush (w : Walker) (pd j t : Nat) : Keeps R (w.ringPush pd j t) :=
  .bind (.rd ..) fun _ => .bind (.rd ..) fun _ => .bind (.rd ..) fun _ => .bind (.rd ..) fun _ => .bind (.wr ..) fun _ =>
    .wr ..

theorem Keeps.dropRef (w : Walker) (pd k : Nat) : Keeps R (w.dropRef pd k) :=
  .bind (.node ..) fun _ => .ite (.pure _) (.bind (.setCount ..) fun _ => .ite
    (.bind (.stamp ..) fun _ => .bind (.setFlags ..) fun _ => .bind (.indexOf ..) fun _ => .bind (.ringPush ..) fun _ =>
      .pure _) (.pure _))

theorem Keeps.freeNode (w : Walker) (pd j k page : Nat) : Keeps R (w.freeNode pd j k page) :=
  .bind (.setFlags ..) fun _ => .bind (.rd ..) fun _ => .bind (.wr0 ..) fun _ => .bind (.wr ..) fun _ =>
    .bind (.rd ..) fun _ => .bind (.rd ..) fun _ => .bind (.wr ..) fun _ => .wr ..

theorem Keeps.giveNode (w : Walker) (pd i : Nat) : Keeps R (w.giveNode pd i) :=
  .bind (.addrOf ..) fun _ => .bind (.rd ..) fun _ => .bind (.wr0 ..) fun _ => .wr ..

theorem Keeps.takeNode (w : Walker) (pd : Nat) : Keeps R (w.takeNode pd) :=
  .bind (.rd ..) fun _ => .ite (.pure _) (.bind (.addrOf ..) fun _ => .bind (.rd ..) fun _ => .bind (.wr ..) fun _ => .pure _)

theorem Keeps.takePage (w : Walker) (pd : Nat) : Keeps R (w.takePage pd) :=
  .bind (.rd ..) fun _ => .ite (.pure _) (.bind (.rd ..) fun _ => .bind (.rd ..) fun _ => .bind (.wr ..) fun _ => .pure _)

theorem Keeps.unlinkFrom (w : Walker) (k fuel at_ : Nat) : Keeps R (w.unlinkFrom k fuel at_) := by
  induction fuel generalizing at_ with
  | zero => exact .pure _
  | succ fuel ih =>
    exact .bind (.rd ..) fun _ => .ite (.pure _) (.ite (.bind (.rd ..) fun _ => .wr0 ..) (ih _))

theorem Keeps.lineHeld (w : Walker) (k : Nat) : Keeps R (w.lineHeld k) :=
  .bind (.pa ..) fun _ => .bind .here fun _ => .pure _

theorem Keeps.evictOne (w : Walker) (pd j t : Nat) : Keeps R (w.evictOne pd j t) :=
  .bind (.addrOf ..) fun _ => .bind (.node ..) fun _ => .bind (.setFlags ..) fun _ => .ite (.pure _)
    (.bind (.rd ..) fun _ => .bind (.lineHeld ..) fun _ => .ite
      (.bind (.setFlags ..) fun _ => .bind (.ringPush ..) fun _ => .pure _)
      (.ite (.bind (.unlinkFrom ..) fun _ => .bind (.dropRef ..) fun _ => .bind (.freeNode ..) fun _ => .pure _)
        (.bind (.freeNode ..) fun _ => .pure _)))

theorem Keeps.evict (w : Walker) (pd fuel : Nat) : Keeps R (w.evict pd fuel) := by
  induction fuel with
  | zero => exact .pure _
  | succ fuel ih =>
    exact .bind (.rd ..) fun _ => .ite (.pure _) (.bind (.rd ..) fun _ => .bind (.rd ..) fun _ => .bind (.rd ..) fun _ =>
      .bind (.rd ..) fun _ => .bind (.wr ..) fun _ => .bind (.wr ..) fun _ => .bind (.evictOne ..) fun _ => .ite (.pure _) ih)

theorem Keeps.takeOr (w : Walker) (pd : Nat) {take : Walk (Option Nat)} (h : Keeps R take) : Keeps R (w.takeOr pd take) := by
  refine .bind h fun o => ?_
  cases o with
  | some x => exact .pure _
  | none => exact .bind (.evict ..) fun _ => h

theorem Keeps.climb (w : Walker) (p fuel : Nat) (e : KvNode) : Keeps R (w.climb p fuel e) := by
  induction fuel generalizing e with
  | zero => exact .ite (.pure _) (.ite (.pure _) (.pure _))
  | succ fuel ih =>
    exact .ite (.ite (.pure _) (.bind (.node ..) fun _ => .ite (.pure _) (.ite (.pure _) (.ite (.pure _) (ih _)))))
      (.ite (.pure _) (.pure _))

theorem Keeps.initNode (w : Walker) (k parent start page : Nat) : Keeps R (w.initNode k parent start page) :=
  .bind (.wr ..) fun _ => .bind (.wr ..) fun _ => .bind (.wr ..) fun _ => .bind (.setCount ..) fun _ =>
    .bind (.forM (fun _ => .wr ..) _) fun _ => .bind (.wr0 ..) fun _ => .bind (.wr0 ..) fun _ => .bind (.wr ..) fun _ =>
      .bind .here fun _ => .bind (.wr ..) fun _ => .wr ..

/-- The one write of a unit that is no access: the head of its version's chain. -/
theorem Keeps.setVer (f : State → State) (hf : ∀ s, OnlyUnit s (f s)) : Keeps keptUnit (Walk.change f) := ⟨fun x => hf x.1⟩

theorem Keeps.hang (w : Walker) (pd i c k : Nat) (e : KvNode) : Keeps keptUnit (w.hang pd i c k e) := by
  have hchain : Keeps keptUnit (do
      let s ← Walk.here
      w.wr0 (c + 116) 4 (s.ver w.v).kvhead.toNat
      Walk.change fun t => t.setVer w.v { s.ver w.v with kvhead := BitVec.ofNat 32 i, kvpool := pd }) :=
    .bind .here fun _ => .bind (.wr0 ..) fun _ => .setVer _ fun _ => rfl
  exact .ite (.bind (.setFlags ..) fun _ => .bind (.rd ..) fun _ => .bind (.wr0 ..) fun _ => .bind (.wr0 ..) fun _ =>
    .setCount ..) (.bind (.setFlags ..) fun _ => .ite (.bind (.setCount ..) fun _ => hchain) hchain)

/-! ### The four words -/

theorem Keeps.kvwalk (w : Walker) (k p : Nat) : Keeps R (kvwalk w k p) := by
  refine .ite (.pure _) (.bind (.node ..) fun e => .ite (.pure _) (.ite (.pure _) (.ite (.pure _)
    (.bind (.climb ..) fun r => ?_))))
  cases r with
  | ok a => exact .ite (.bind (.stamp ..) fun _ => .pure _) (.pure _)
  | error st => exact .pure _

theorem Keeps.kvext (w : Walker) (k pd : Nat) : Keeps keptUnit (kvext w k pd) := by
  refine .ite (.pure _) (.bind (.node ..) fun e => .bind .here fun s => .ite (.pure _) (.ite (.pure _) (.ite (.pure _)
    (.ite (.pure _) (.bind (.takeOr w pd (.takeNode ..)) fun o => ?_)))))
  cases o with
  | none => exact .pure _
  | some i =>
    refine .bind (.takeOr w pd (.takePage ..)) fun o => ?_
    cases o with
    | none => exact .bind (.giveNode ..) fun _ => .pure _
    | some p =>
      exact .bind (.addrOf ..) fun _ => .bind (.rd ..) fun _ => .bind (.initNode ..) fun _ => .bind (.hang ..) fun _ =>
        .pure _

/-- The record of the new sequence that KVFORK writes (R83, R89). -/
def forkRecord (w : Walker) (p c leaf pd seq : Nat) : Walk KvAnswer := do
  w.wr 0 c 8 leaf
  w.wr 0 (c + 8) 4 (← w.rd 0 (p + 8) 4)
  w.wr 0 (c + 12) 4 1
  w.wr 0 (c + 16) 8 seq
  w.wr 0 (c + 24) 8 pd
  (List.range 4).forM fun i => w.wr 0 (c + 32 + 8 * i) 8 0
  w.copyWords (p + 64) (c + 64) 8
  pure (.ok (0, 0))

theorem Keeps.forkRecord (w : Walker) (p c leaf pd seq : Nat) : Keeps R (forkRecord w p c leaf pd seq) :=
  .bind (.wr ..) fun _ => .bind (.rd ..) fun _ => .bind (.wr ..) fun _ => .bind (.wr ..) fun _ => .bind (.wr ..) fun _ =>
    .bind (.wr ..) fun _ => .bind (.forM (fun _ => .wr ..) _) fun _ =>
      .bind (.forM (fun _ => .bind (.rd ..) fun _ => .wr ..) _) fun _ => .pure _

theorem Keeps.kvfork (w : Walker) (p c : Nat) (keep : Bool) : Keeps R (Machine.kvfork w p c keep) :=
  .ite (.pure _) (.ite (.pure _) (.bind (.rd ..) fun _ => .bind (.rd ..) fun _ => .ite (.pure _) (.ite (.pure _)
    (.bind (.node ..) fun _ => .ite (.pure _) (.ite (.pure _) (.bind (.setCount ..) fun _ => .bind (.rd ..) fun _ => .ite
      (.bind (.rd ..) fun _ => .forkRecord ..)
      (.bind (.rd ..) fun _ => .bind (.wr ..) fun _ => .bind (.pure _) fun _ => .forkRecord ..)))))))

theorem Keeps.kvrel (w : Walker) (k pd : Nat) : Keeps R (kvrel w k pd) :=
  .ite (.pure _) (.bind (.node ..) fun _ => .ite (.pure _) (.ite (.pure _) (.ite (.pure _)
    (.bind (.dropRef ..) fun _ => .pure _))))

end

end Sys2Proof.Proofs
end

section
/-!
A walker word of the selected group (R86, R91): it answers, ends in a fault, or waits, as its unit's operation does.
-/

namespace Sys2Proof.Proofs

open Sys2Proof.Machine Sys2Proof.Statements

section
variable {s u t z : State} {g h : Group} {d : Nat} {r : KvAnswer}

/-! ### The selected group -/

theorem group_congr (hc : t.cores = s.cores) (hs : t.sel = s.sel) : t.group = s.group := by
  rw [State.group, State.groupAt, State.coreAt, hc, hs]
  rfl

theorem OnlyUnit.group (h : OnlyUnit s t) : t.group = s.group :=
  group_congr (congrArg State.cores h :) (congrArg State.sel h :)

theorem group_of_onlyReads (h : OnlyReads s t) : t.group = s.group := (onlyUnit_of_onlyReads h).group

theorem OnlyL1.group (h : OnlyL1 s t) : t.group = s.group := by
  have hs : t.sel = s.sel := (congrArg State.sel h.rest :)
  rw [State.group, h.groupAt, hs]
  rfl

/-! ### What a unit's operation leaves -/

theorem Keeps.runs {R : Kept} {α : Type} {m : Walk α} {a : α} (h : Keeps R m) (hr : Runs m s (.ok a) u) : R.rel s u :=
  h.on hr.on

/-- The walks of an operation that fails leave only what reads leave. -/
theorem onlyReads_walked {α : Type} (m : Walk α) (w : Walker) (s : State) : OnlyReads s (m.walked w s) := by
  unfold Walk.walked
  generalize (StateT.run (ExceptT.run m) (s, []) : Id _).2.2 = vas
  induction vas generalizing s with
  | nil => exact onlyReads_refl s
  | cons va vas ih => exact onlyReads_trans (onlyReads_resolveVa w.die w.asn va true false s) (ih _)

/-! ### The word's results -/

/-- The word has been stepped past with its group as `g`, from what its unit left in `u`. -/
structure Returned (s u t : State) (g : Group) : Prop where
  unit : OnlyUnit s u
  rest : { t with cores := u.cores } = u
  group : t.group = g.setSplit s.sel.slot (SplitPast s 1)

theorem Returned.splitIs (ht : Returned s u t g) (hg : g.splits = s.group.splits) : SplitIs s t (SplitPast s 1) := by
  obtain ⟨hunit, hrest, hgroup⟩ := ht
  have hsel : t.sel = s.sel := (congrArg State.sel hrest :).trans (congrArg State.sel hunit :)
  refine ⟨?_, fun i hi => ?_⟩
  · rw [State.split, hsel, hgroup, Group.split_setSplit]
  · rw [hgroup, Group.split_setSplit_ne _ _ hi, Group.split, hg]
    rfl

theorem Returned.onlyUni (ht : Returned s u t g) (hg : OnlyUni s.group g) : OnlyUni s.group t.group := by
  rw [ht.group]
  exact hg

theorem Returned.sAt (ht : Returned s u t g) (k : Nat) : t.group.sAt k = g.sAt k := by
  rw [ht.group, Group.sAt_setSplit]

/-- What the unit's operation left stands but for the cores. -/
theorem Returned.eq (ht : Returned s u t g) : { u with cores := t.cores } = t :=
  (congrArg (fun x : State => { x with cores := t.cores }) ht.rest :).symm

theorem pairResult_eq (d : Nat) (r : KvAnswer) (g : Group) :
    pairResult d r g = (g.setS d (pairOf r).1).setS (d + 1) (pairOf r).2 := by
  cases r <;> rfl

theorem oneResult_eq (d : Nat) (r : KvAnswer) (g : Group) : oneResult d r g = g.setS d (oneOf r) := by
  cases r <;> rfl

theorem Returned.pair (ht : Returned s u t (pairResult d r s.group)) : Pair s t d (pairOf r).1 (pairOf r).2 := by
  rw [pairResult_eq] at ht
  refine ⟨ht.splitIs rfl, ht.onlyUni rfl, ?_, ?_, fun k h0 h1 => ?_⟩
  · rw [ht.sAt, Group.sAt_setS_ne _ _ (by omega), Group.sAt_setS]
  · rw [ht.sAt, Group.sAt_setS]
  · rw [ht.sAt, Group.sAt_setS_ne _ _ h1, Group.sAt_setS_ne _ _ h0]

theorem Returned.answered (ht : Returned s u t (oneResult d r s.group)) : Answered s t d (oneOf r) := by
  rw [oneResult_eq] at ht
  refine ⟨⟨?_, fun k hk => ?_⟩, ht.onlyUni rfl, ht.splitIs rfl⟩
  · rw [ht.sAt, Group.sAt_setS]
  · rw [ht.sAt, Group.sAt_setS_ne _ _ hk]

/-! ### The word -/

/-- What a walker word acts on: its split's accesses are done, it has not been issued before, and it is not the last word of
its segment. -/
structure Issues (s : State) : Prop where
  drained : s.drained = true
  phase : s.split.phase = 0
  pc : s.split.pc.toNat % 1024 + 1 ≤ 1023

section
variable {i : Instr} {home : Nat} {body : Walker → Walk KvAnswer} {res : KvAnswer → Group → Group}

theorem walkerWord_eq (hs : Issues s) : walkerWord i home body res s =
    match (body (unitOf s home)).on s with
    | .ok (r, t) => advance 1 (acquireAt 5 (t.setGroup (res r t.group)))
    | .error (0, _) => blockIn i 0 0 s
    | .error (code, detail) => accessFault code detail ((body (unitOf s home)).walked (unitOf s home) s) := by
  obtain ⟨hd, hp, -⟩ := hs
  simp only [walkerWord, releaseThen, hd, hp]
  rfl

/-- The group after an acquire and the step past the word. -/
theorem returned_advance (hs : Issues s) (hu : OnlyUnit s u) (hg : g.splits = s.group.splits) :
    Returned s u (advance 1 (acquireAt 5 (u.setGroup g))) g := by
  have hl1 := onlyL1_acquireAt 5 (u.setGroup g)
  have hsel : u.sel = s.sel := (congrArg State.sel hu :)
  have hsel' : (acquireAt 5 (u.setGroup g)).sel = s.sel := (congrArg State.sel hl1.rest :).trans hsel
  have hgroup : (acquireAt 5 (u.setGroup g)).group = g := hl1.group.trans (State.group_setGroup u g)
  have hsplit : (acquireAt 5 (u.setGroup g)).split = s.split := by
    rw [State.split, hgroup, hsel', Group.split, hg]
    rfl
  rw [nextSplit hs.pc _ hsplit]
  refine ⟨hu, ?_, ?_⟩
  · exact (congrArg (fun x : State => { x with cores := u.cores }) hl1.rest :)
  · rw [State.group_setSplit, hgroup, hsel']
    rfl

theorem walkerWord_answers (hs : Issues s) (hkeep : Keeps keptUnit (body (unitOf s home)))
    (hres : ∀ r g, (res r g).splits = g.splits) (ho : (body (unitOf s home)).on s = .ok (r, u)) :
    Returned s u (walkerWord i home body res s) (res r s.group) := by
  have hu : OnlyUnit s u := hkeep.on ho
  rw [walkerWord_eq hs, ho]
  dsimp only
  rw [hu.group]
  exact returned_advance hs hu (hres r s.group)

theorem walkerWord_faults (hs : Issues s) {c x : Nat} (hc : c ≠ 0) (ho : (body (unitOf s home)).on s = .error (c, x))
    (hz : (body (unitOf s home)).walked (unitOf s home) s = z) :
    FaultedAt (z.leaseFor s.group.asn c x) z (walkerWord i home body res s) c (BitVec.ofNat 64 x) := by
  have hreads : OnlyReads s z := hz ▸ onlyReads_walked _ _ s
  have hgroup : z.group = s.group := group_of_onlyReads hreads
  rw [walkerWord_eq hs, ho, hz]
  cases c with
  | zero => exact absurd rfl hc
  | succ c =>
    rw [← hgroup]
    exact faultedAt z _ _ _

theorem walkerWord_waits (hs : Issues s) {x : Nat} (ho : (body (unitOf s home)).on s = .error (0, x)) :
    Waits s (walkerWord i home body res s) i := by
  rw [walkerWord_eq hs, ho, blockIn, State.setSplit]
  obtain ⟨hp, hi⟩ := splitIs_setGroup s s.group { s.split with st := .blocked, wait := some i, phase := 0, wdata := 0 } rfl
  refine ⟨onlyGroup_setGroup _ _, by simp [OnlySplits, Group.setSplit], hi, ?_⟩
  exact ⟨(congrArg Split.st hp :), (congrArg Split.wait hp :), (congrArg Split.pc hp :), (congrArg Split.mask hp :),
    (congrArg Split.exec hp :)⟩

/-- A walker word answers, faults or waits as its unit's operation does. -/
theorem unitWord {k : Instr} {s0 : State} {writes : State → KvAnswer → Prop} (hs : Issues s)
    (hexec : exec k s0 = .next (walkerWord i home body res s)) (hkeep : Keeps keptUnit (body (unitOf s home)))
    (hres : ∀ r g, (res r g).splits = g.splits) (hw : ∀ r u t, Returned s u t (res r s.group) → writes t r) :
    UnitWord k s0 s (unitOf s home) (body (unitOf s home)) writes := by
  refine ⟨fun r u ho => ?_, fun c x hc ho => ?_, fun x ho => ⟨_, i, hexec, walkerWord_waits hs ho⟩⟩
  · have ht := walkerWord_answers (i := i) hs hkeep hres ho
    have hgrids : u.grids = s.grids := (congrArg State.grids ht.unit :)
    exact ⟨_, hexec, hw _ _ _ ht, (congrArg State.mem ht.rest :), (congrArg State.copies ht.rest :),
      (congrArg State.vers ht.rest :), (congrArg State.grids ht.rest :).trans hgrids⟩
  · exact ⟨_, hexec, walkerWord_faults hs hc ho rfl⟩

theorem pairResult_splits (d : Nat) (r : KvAnswer) (g : Group) : (pairResult d r g).splits = g.splits := by
  cases r <;> rfl
theorem oneResult_splits (d : Nat) (r : KvAnswer) (g : Group) : (oneResult d r g).splits = g.splits := by
  cases r <;> rfl

end

/-! ### A word as it is issued -/

theorem issues_of_canRun {refs : List RegRef} (hc : CanRun s 1 refs) (hd : s.drained = true) (hp : s.split.phase = 0) :
    Issues s := by
  obtain ⟨-, hpc, -⟩ := hc
  exact ⟨hd, hp, hpc⟩

theorem reqs_setBlock (s : State) (b : Block) : (s.setBlock b).core.reqs = s.core.reqs :=
  (congrArg Core.reqs (State.coreAt_setCore s s.sel.core _)).trans rfl

theorem drained_unmarked (s : State) : (Unmarked s).drained = s.drained := by
  simp [State.drained, State.loadsBack, Unmarked, endIdem, reqs_setBlock]

/-- The block's idempotent mark is nothing that a walker word looks at. -/
theorem Issues.unmarked (hs : Issues s) : Issues (Unmarked s) := by
  obtain ⟨hd, hp, hpc⟩ := hs
  have hsplit : (Unmarked s).split = s.split := State.split_setBlock s _
  exact ⟨(drained_unmarked s).trans hd, by rw [hsplit, hp], by rw [hsplit]; exact hpc⟩

end
end Sys2Proof.Proofs
end

section
/-!
The accesses of a walker unit in their order (R88, R89), and what a write of a field that R84 keeps at VID 0 leaves.
-/

namespace Sys2Proof.Proofs

open Sys2Proof.Machine Sys2Proof.Statements

/-! ### Accesses in their order -/

section
variable {w : Walker} {s z : State} {l : List KvAccess} {α β : Type} {m : Walk α} {a : α} {b : β}

theorem kvDo_append (w : Walker) (l r : List KvAccess) (s : State) :
    kvDo w (l ++ r) s = (kvDo w l s).bind (kvDo w r) := by
  induction l generalizing s with
  | nil => rfl
  | cons x l ih =>
    cases x with
    | rd v va n x =>
      simp only [List.cons_append, kvDo]
      split
      · split
        · exact ih _
        · rfl
      · rfl
    | wr v va n x =>
      simp only [List.cons_append, kvDo]
      split
      · exact ih _
      · rfl
    | all va n x =>
      simp only [List.cons_append, kvDo]
      split
      · exact ih _
      · rfl
    | clk x =>
      simp only [List.cons_append, kvDo]
      split
      · exact ih _
      · rfl

theorem kvDo_append_some {r : List KvAccess} : kvDo w (l ++ r) s = some z ↔ ∃ u, kvDo w l s = some u ∧ kvDo w r u = some z := by
  rw [kvDo_append, Option.bind_eq_some_iff]

/-- The operation makes the accesses of the list, in their order, and answers `a`. -/
structure Performs (w : Walker) (m : Walk α) (l : List KvAccess) (a : α) : Prop where
  runs : ∀ s z, kvDo w l s = some z → Runs m s (.ok a) z

theorem Performs.pure (a : α) : Performs w (pure a) [] a :=
  ⟨fun s _ h => Option.some.inj h ▸ Runs.pure a s⟩

theorem performs_rd (v va n x : Nat) : Performs w (w.rd v va n) [.rd v va n x] x := by
  refine ⟨fun s z h => ?_⟩
  unfold kvDo at h
  split at h
  next y u ho =>
    split at h
    next hy =>
      obtain rfl : u = z := Option.some.inj h
      exact hy ▸ (steady_rd w v va n).runs ho
    · exact absurd h nofun
  · exact absurd h nofun

theorem performs_wr (v va n x : Nat) : Performs w (w.wr v va n x) [.wr v va n x] () := by
  refine ⟨fun s z h => ?_⟩
  unfold kvDo at h
  split at h
  next u ho =>
    obtain rfl : u = z := Option.some.inj h
    exact (steady_wr w v va n x).runs ho
  · exact absurd h nofun

theorem performs_wr0 (va n x : Nat) : Performs w (w.wr0 va n x) [.all va n x] () := by
  refine ⟨fun s z h => ?_⟩
  unfold kvDo at h
  split at h
  next u ho =>
    obtain rfl : u = z := Option.some.inj h
    exact (steady_wr0 w va n x).runs ho
  · exact absurd h nofun

theorem Performs.bind {f : α → Walk β} {r : List KvAccess} (h : Performs w m l a) (g : Performs w (f a) r b) :
    Performs w (m >>= f) (l ++ r) b := by
  refine ⟨fun s z hz => ?_⟩
  obtain ⟨u, hu, hz⟩ := kvDo_append_some.1 hz
  exact (h.runs s u hu).bind (g.runs u z hz)

theorem Performs.rd {v va n x : Nat} {f : Nat → Walk β} (g : Performs w (f x) l b) :
    Performs w (w.rd v va n >>= f) (.rd v va n x :: l) b := (performs_rd v va n x).bind g
theorem Performs.wr {v va n x : Nat} {f : Unit → Walk β} (g : Performs w (f ()) l b) :
    Performs w (w.wr v va n x >>= f) (.wr v va n x :: l) b := (performs_wr v va n x).bind g
theorem Performs.wr0 {va n x : Nat} {f : Unit → Walk β} (g : Performs w (f ()) l b) :
    Performs w (w.wr0 va n x >>= f) (.all va n x :: l) b := (performs_wr0 va n x).bind g

/-- The unit reads its die's cycle counter. -/
theorem Performs.clk {x : Nat} (f : Nat → Walk β) (g : Performs w (f x) l b) :
    Performs w (Walk.here >>= fun s => f (s.dieAt w.die).clk.toNat) (.clk x :: l) b := by
  refine ⟨fun s z h => ?_⟩
  unfold kvDo at h
  split at h
  next hx =>
    refine Runs.here ?_
    rw [hx]
    exact g.runs s z h
  · exact absurd h nofun

theorem Performs.forM {f : α → Walk Unit} {g : α → List KvAccess} (h : ∀ a, Performs w (f a) (g a) ()) (xs : List α) :
    Performs w (xs.forM f) (xs.flatMap g) () := by
  induction xs with
  | nil => exact .pure ()
  | cons x xs ih => exact (h x).bind ih

end

/-! ### A write at VID 0 of a line without copies -/

section
variable {s t : State} {pa n x : Nat}

theorem newestCommitted_none (h : ∀ c ∈ s.copies, c.line ≠ lineOf pa) : s.newestCommitted (lineOf pa) = none := by
  have hnil : (s.copies.filter fun c => c.line = lineOf pa && ((s.seenAt (lineOf pa)).ver c.vid).st == .committed) = [] := by
    refine List.filter_eq_nil_iff.2 fun c hc => ?_
    simp [h c hc]
  rw [State.newestCommitted, hnil]
  rfl

theorem atAddr_length (a : Nat) (bs : List Byte) : (atAddr a bs).length = bs.length := by
  induction bs generalizing a with
  | nil => rfl
  | cons b bs ih => rw [atAddr, List.length_cons, ih, List.length_cons]

theorem lineOf_atAddr (h : pa % 128 + n ≤ 128) {c : Nat × Byte} (hc : c ∈ atAddr pa (leBytes n x)) :
    lineOf c.1 = lineOf pa := by
  have ha := atAddr_addresses hc
  rw [leBytes_length] at ha
  unfold lineOf
  omega

/-- A number within a line that has no copy is written in place. -/
theorem restowed_writeNat (hplain : PlainAt s pa n) (hn : 0 < n) (hfit : pa % 128 + n ≤ 128) :
    Restowed { s with mem := memSetNat s.mem pa n x } (writeNat 0 pa n x s) := by
  obtain ⟨-, hcopies, -⟩ := hplain
  have hlines : ((atAddr pa (leBytes n x)).map fun c => lineOf c.1).dedup = [lineOf pa] := by
    have hrep : ((atAddr pa (leBytes n x)).map fun c => lineOf c.1) = List.replicate n (lineOf pa) := by
      refine List.eq_replicate_iff.2 ⟨?_, fun y hy => ?_⟩
      · rw [List.length_map, atAddr_length, leBytes_length]
      · obtain ⟨c, hc, rfl⟩ := List.mem_map.1 hy
        exact lineOf_atAddr hfit hc
    rw [hrep, List.replicate_dedup hn.ne']
  have hmine : (atAddr pa (leBytes n x)).filter (fun c => lineOf c.1 = lineOf pa) = atAddr pa (leBytes n x) :=
    List.filter_eq_self.2 fun c hc => decide_eq_true (lineOf_atAddr hfit hc)
  rw [writeNat, writeView, hlines, List.foldl_cons, List.foldl_nil, hmine, writeLine_root _ _ _ (newestCommitted_none hcopies)]
  exact restowed_l2Take _ _

/-- Where no copy of the line is kept, there is none to mirror a write into. -/
theorem mirrorBytes_self (h : ∀ c ∈ t.copies, c.line ≠ lineOf pa) (bs : List Byte) : mirrorBytes pa bs t = t := by
  have hmine : t.copies.filter (fun c => c.line = lineOf pa) = [] := by
    refine List.filter_eq_nil_iff.2 fun c hc => ?_
    simp [h c hc]
  have hmap : (t.copies.map fun c => if c.line = lineOf pa then { c with bytes := memSetAll c.bytes (atAddr (pa % 128) bs) }
      else c) = t.copies :=
    (List.map_congr_left fun c hc => if_neg (h c hc)).trans (List.map_id' _)
  rw [mirrorBytes, hmine, hmap]
  rfl

theorem seenCopy_congr (hc : t.copies = s.copies) (hv : t.vers = s.vers) (l v : Nat) : t.seenCopy l v = s.seenCopy l v := by
  simp only [State.seenCopy, State.copyOf, ancestors_congr hv, hc]

theorem Restowed.lines {l : Nat} (h : Restowed s t) (hs : ∀ c ∈ s.copies, c.line ≠ l) : ∀ c ∈ t.copies, c.line ≠ l := by
  intro c hc
  have hu : unplaced c ∈ s.copies.map unplaced := h.copies ▸ List.mem_map_of_mem hc
  obtain ⟨d, hd, hdc⟩ := List.mem_map.1 hu
  have hline : d.line = c.line := (congrArg LineCopy.line hdc :)
  exact hline ▸ hs d hd

/-- A field of R84 in a line that has no copy is written in place, and every other byte is seen as before. -/
theorem wroteAt_writeNat (hplain : PlainAt s pa n) (hn : 0 < n) (hfit : pa % 128 + n ≤ 128) (hx : x < 256 ^ n) :
    WroteAt s (mirrorBytes pa (leBytes n x) (writeNat 0 pa n x s)) pa n x := by
  have hr := restowed_writeNat (x := x) hplain hn hfit
  obtain ⟨hwf, hcopies, hclear⟩ := hplain
  rw [mirrorBytes_self (hr.lines hcopies)]
  refine ⟨?_, fun v a ha hspill => ?_⟩
  · have hbytes : memBytes (writeNat 0 pa n x s).mem pa n = memBytes (memSetNat s.mem pa n x) pa n := by
      refine List.ext_getElem? fun i => ?_
      rw [memBytes_getElem?, memBytes_getElem?]
      split
      next hi => rw [hr.mem _ (hclear _ (by omega) (by omega))]
      · rfl
    rw [memNat, hbytes, ← memNat, memNat_memSetNat _ _ _ _ hwf, Nat.mod_eq_of_lt hx]
  · have hseen : { s with mem := memSetNat s.mem pa n x }.seenCopy (lineOf a) v = s.seenCopy (lineOf a) v :=
      seenCopy_congr (s := s) (t := { s with mem := memSetNat s.mem pa n x }) rfl rfl (lineOf a) v
    rw [hr.viewByte v hspill, viewByte_eq, viewByte_eq, hseen]
    exact congrArg _ (memGet_memSetNat_outside _ _ _ _ ha)

end

end Sys2Proof.Proofs
end

section
/-!
KVWALK (R87) and KVREL (R90) at their unit, and O41.
-/

namespace Sys2Proof.Proofs

open Sys2Proof.Machine Sys2Proof.Statements

section
variable {w : Walker} {s u z t y : State} {e : KvNode} {n p pa : Nat}

/-! ### Fields at VID 0 -/

theorem runs_wr0 {va x : Nat} (h : (w.pa true va n).on s = .ok (pa, y)) :
    Runs (w.wr0 va n x) s (.ok ()) (mirrorBytes pa (leBytes n x) (writeNat 0 pa n x y)) :=
  ((steady_pa w true va n).runs h).bind fun l => ⟨l, rfl⟩

/-- A field that the unit may write in place is written, and its walk leaves only what reads leave. -/
theorem runs_writable {va x : Nat} (hw : Writable s w va n pa y) (hn : 0 < n) (hfit : va % 128 + n ≤ 128) (hx : x < 256 ^ n) :
    OnlyReads s y ∧ ∃ t, Runs (w.wr0 va n x) s (.ok ()) t ∧ WroteAt y t pa n x := by
  obtain ⟨ho, hplain⟩ := hw
  have hplace := (answers_pa w true va n).of_on ho
  exact ⟨(Keeps.pa (R := keptReads) w true va n).on ho, _, runs_wr0 ho, wroteAt_writeNat hplain hn (by omega) hx⟩

theorem wroteAt_congr {x : Nat} (h : WroteAt y u pa n x) (hm : t.mem = u.mem) (hc : t.copies = u.copies)
    (hv : t.vers = u.vers) : WroteAt y t pa n x := by
  obtain ⟨hnat, hview⟩ := h
  refine ⟨by rw [hm, hnat], fun v a ha hs => ?_⟩
  rw [viewByte_congr hm hc hv, hview v a ha hs]

/-! ### The climb -/

/-- What a climb that ends at a node answers: the position lies in its page, beyond it, or before a root (R87). -/
def climbEnd (p : Nat) (e : KvNode) : KvAnswer :=
  if p < e.start then .error 1 else if e.run ≤ p - e.start then .error 7 else .ok (e.page, p - e.start)

/-- A node from its parent on, where the position lies before it and the parent stands. -/
theorem climb_up {x : KvNode} {fuel : Nat} (he : p < e.start) (hparent : e.parent ≠ 0) (hnode : NodeAt s w e.parent x u)
    (hx : x.free = false ∧ x.run ≤ 16) (hfuel : fuel ≠ 0) {r : Except (Nat × Nat) KvAnswer}
    (h : Runs (w.climb p fuel x) u r z) : Runs (w.climb p (fuel + 1) e) s r z := by
  obtain ⟨hfree, hrun⟩ := hx
  rw [Walker.climb, if_pos he, if_neg hparent]
  refine ((steady_node w w.v e.parent).runs hnode).bind ?_
  rwa [hfree, if_neg Bool.false_ne_true, if_neg (Nat.not_lt.2 hrun), if_neg hfuel]

theorem climb_end {fuel : Nat} (hfuel : 0 < fuel) (hroot : p < e.start → e.parent = 0) (s : State) :
    Runs (w.climb p fuel e) s (.ok (climbEnd p e)) s := by
  obtain ⟨fuel, rfl⟩ := Nat.exists_eq_succ_of_ne_zero hfuel.ne'
  rw [Walker.climb, climbEnd]
  by_cases h : p < e.start
  · rw [if_pos h, if_pos h, if_pos (hroot h)]
    exact .pure _ s
  · rw [if_neg h, if_neg h]
    split
    · exact .pure _ s
    · exact .pure _ s

theorem runs_climb {path : List KvNode} {fuel : Nat} (hpath : Climb w s e path z) (hfuel : path.length < fuel)
    (hok : ∀ x ∈ path, x.free = false ∧ x.run ≤ 16) (hup : ∀ x ∈ (e :: path).dropLast, p < x.start)
    (hroot : p < (path.getLastD e).start → (path.getLastD e).parent = 0) :
    Runs (w.climb p fuel e) s (.ok (climbEnd p (path.getLastD e))) z := by
  induction path generalizing s e fuel with
  | nil =>
    obtain rfl : s = z := hpath
    exact climb_end hfuel hroot s
  | cons x path ih =>
    obtain ⟨hparent, u, hnode, hpath⟩ := hpath
    rw [List.getLastD_cons] at hroot ⊢
    rw [List.dropLast_cons_cons, List.forall_mem_cons] at hup
    rw [List.forall_mem_cons] at hok
    rw [List.length_cons] at hfuel
    obtain ⟨fuel, rfl⟩ := Nat.exists_eq_succ_of_ne_zero (Nat.ne_of_gt (Nat.zero_lt_of_lt hfuel))
    exact climb_up hup.1 hparent hnode hok.1 (by omega) (ih hpath (by omega) hok.2 hup.2 hroot)

/-! ### The walk of a leaf -/

theorem runs_kvwalk_unaligned (hn : n % 128 ≠ 0) (s : State) : Runs (kvwalk w n p) s (.ok (.error 2)) s := by
  rw [kvwalk, if_pos hn]
  exact .pure _ s

/-- What follows a climb from a leaf: a committed leaf is stamped where the position was found (R87). -/
def afterClimb (w : Walker) (n : Nat) (e : KvNode) (a : KvAnswer) : Walk KvAnswer :=
  match a with
  | .ok _ => if e.vid = 0 then w.stamp n >>= fun _ => pure a else pure a
  | .error _ => pure a

theorem runs_afterClimb_keeps {a : KvAnswer} (h : ∀ x, a = .ok x → e.vid ≠ 0) (s : State) :
    Runs (afterClimb w n e a) s (.ok a) s := by
  cases a with
  | ok x =>
    rw [afterClimb, if_neg (h x rfl)]
    exact .pure _ s
  | error st => exact .pure _ s

theorem runs_stamp (hw : Runs (w.wr0 (n + 104) 8 (s.dieAt w.die).clk.toNat) s (.ok ()) t) :
    Runs (w.stamp n) s (.ok ((s.dieAt w.die).clk.toNat % 2 ^ 32)) t :=
  Runs.here (hw.bind (.pure ((s.dieAt w.die).clk.toNat % 2 ^ 32) t))

theorem runs_afterClimb_stamps {x : Nat × Nat} (h : e.vid = 0)
    (hw : Runs (w.wr0 (n + 104) 8 (s.dieAt w.die).clk.toNat) s (.ok ()) t) :
    Runs (afterClimb w n e (.ok x)) s (.ok (.ok x)) t := by
  rw [afterClimb, if_pos h]
  exact (runs_stamp hw).bind (.pure _ t)

section
variable (hn : n % 128 = 0) (hnode : NodeAt s w n e u)
include hn hnode

theorem runs_kvwalk_free (he : e.free = true) : Runs (kvwalk w n p) s (.ok (.error 2)) u := by
  rw [kvwalk, if_neg (not_not.2 hn)]
  refine ((steady_node w w.v n).runs hnode).bind ?_
  rw [if_pos he]
  exact .pure _ u

variable (he : e.free = false ∧ e.run ≤ 16)
include he

theorem runs_kvwalk_past (hp : e.start + e.run ≤ p) : Runs (kvwalk w n p) s (.ok (.error 1)) u := by
  obtain ⟨hfree, hrun⟩ := he
  rw [kvwalk, if_neg (not_not.2 hn)]
  refine ((steady_node w w.v n).runs hnode).bind ?_
  rw [hfree, if_neg Bool.false_ne_true, if_neg (Nat.not_lt.2 hrun), if_pos hp]
  exact .pure _ u

/-- The walk of a leaf that holds more than the position: the climb, and what follows it. -/
theorem runs_kvwalk_climb {r : Except (Nat × Nat) KvAnswer} {a : KvAnswer} (hp : p < e.start + e.run)
    (hclimb : Runs (w.climb p (2 ^ 20) e) u (.ok a) z)
    (hrest : Runs (afterClimb w n e a) z r t) : Runs (kvwalk w n p) s r t := by
  obtain ⟨hfree, hrun⟩ := he
  rw [kvwalk, if_neg (not_not.2 hn)]
  refine ((steady_node w w.v n).runs hnode).bind ?_
  rw [hfree, if_neg Bool.false_ne_true, if_neg (Nat.not_lt.2 hrun), if_neg (Nat.not_le.2 hp)]
  refine hclimb.bind ?_
  cases a with
  | ok a => exact hrest
  | error st => exact hrest

end

/-! ### KVWALK as a word -/

theorem uni_lt {g : Group} {refs : List RegRef} {i : BitVec 1} {x k : Nat} (h : Fits g refs) (hr : uniRef g i x k ∈ refs)
    (hk : 0 < k) : g.uni i x < 128 := by
  have hfit := h _ hr
  rw [if_pos (show (uniRef g i x k).uni = true from rfl)] at hfit
  change g.uni i x + k ≤ 128 at hfit
  omega

theorem toNat_ofNat_uni {x : Nat} (h : x < 128) : (BitVec.ofNat 7 x).toNat = x := by
  rw [BitVec.toNat_ofNat, Nat.mod_eq_of_lt h]

/-- The registers of a word whose windows have been applied are those it named (R262). -/
theorem absUr3_regs {g : Group} {f : UR3} {k : Nat} (hk : 0 < k)
    (h : Fits g [uniRef g f.i f.d.toNat k, uniRef g f.i f.a.toNat, uniRef g f.i f.b.toNat]) :
    (absUr3 g f).d.toNat = g.uni f.i f.d.toNat ∧ (absUr3 g f).a.toNat = g.uni f.i f.a.toNat ∧
      (absUr3 g f).b.toNat = g.uni f.i f.b.toNat :=
  ⟨toNat_ofNat_uni (uni_lt h (.head _) hk), toNat_ofNat_uni (uni_lt h (.tail _ (.head _)) Nat.one_pos),
    toNat_ofNat_uni (uni_lt h (.tail _ (.tail _ (.head _))) Nat.one_pos)⟩

theorem exec_kvwalk {f : UR3} (hc : CanRun s 1 (f.refsPair s.group)) : exec (.kvwalk f) s =
    .next (walkerWord (.kvwalk (absUr3 s.group f)) (s.group.sAt (s.group.uni f.i f.a.toNat)).toNat
      (fun w => kvwalk w (s.group.sAt (s.group.uni f.i f.a.toNat)).toNat (s.group.sAt (s.group.uni f.i f.b.toNat)).toNat)
      (pairResult (s.group.uni f.i f.d.toNat)) s) := by
  obtain ⟨hd, ha, hb⟩ := absUr3_regs Nat.two_pos hc.2.2
  refine (run_ok hc).trans (congrArg Host.Outcome.next ?_)
  rw [effKvwalk, hd, ha, hb]

/-- What a word leaves whose unit only reads, but for the cores. -/
theorem Returned.onlyReads {g : Group} (ht : Returned s u t g) (h : OnlyReads s u) :
    OnlyReads { s with cores := t.cores } t := by
  have hc := onlyReads_withCores h t.cores
  rwa [ht.eq] at hc

theorem climbEnd_before (h : p < e.start) : climbEnd p e = .error 1 := if_pos h
theorem climbEnd_beyond (h : e.start + e.run ≤ p) : climbEnd p e = .error 7 := by
  rw [climbEnd, if_neg (by omega), if_pos (by omega)]
theorem climbEnd_found (h : e.start ≤ p) (hp : p < e.start + e.run) : climbEnd p e = .ok (e.page, p - e.start) := by
  rw [climbEnd, if_neg (by omega), if_neg (by omega)]

/-- Settles O41: KVWALK's status or page, by the climb, and its word's answer, fault or wait. -/
theorem kvwalkClimbsToThePosition : Obligations.KvwalkClimbsToThePosition := by
  unfold Obligations.KvwalkClimbsToThePosition
  refine ⟨?_, ?_⟩
  · intro s u z f e path hc hdr hph n p d w last reads fails hn hnode hpath hlen hok hup
    have hs := issues_of_canRun hc hdr hph
    obtain ⟨he, hok⟩ := List.forall_mem_cons.1 hok
    have hanswers {r : KvAnswer} {v : State} (h : Runs (kvwalk w n p) s (.ok r) v) :
        ∃ t, exec (.kvwalk f) s = .next t ∧ Returned s v t (pairResult d r s.group) :=
      ⟨_, exec_kvwalk hc, walkerWord_answers hs (Keeps.kvwalk w n p) (pairResult_splits d) h.on⟩
    have hkeeps {r : KvAnswer} {v : State} (h : Runs (kvwalk w n p) s (.ok r) v) :
        ∃ t, exec (.kvwalk f) s = .next t ∧ reads t ∧ Pair s t d (pairOf r).1 (pairOf r).2 := by
      obtain ⟨t, ht, hret⟩ := hanswers h
      exact ⟨t, ht, hret.onlyReads ((Keeps.kvwalk (R := keptReads) w n p).runs h), hret.pair⟩
    have hclimb (hroot : p < last.start → last.parent = 0) :
        Runs (w.climb p (2 ^ 20) e) u (.ok (climbEnd p last)) z := runs_climb hpath hlen hok hup hroot
    refine ⟨fun hp => ?_, fun hp hlast hroot => ?_, fun hp hlast => ?_, fun hlow hhigh hp => ?_⟩
    · obtain ⟨t, ht, hreads, hpair⟩ := hkeeps (runs_kvwalk_past hn hnode he hp)
      exact ⟨t, ht, hpair, hreads⟩
    · have hrun := hclimb fun _ => hroot
      rw [climbEnd_before hlast] at hrun
      obtain ⟨t, ht, hreads, hpair⟩ := hkeeps
        (runs_kvwalk_climb hn hnode he hp hrun (runs_afterClimb_keeps (by simp) z))
      exact ⟨t, ht, hpair, hreads⟩
    · have hrun := hclimb fun h => absurd h (by omega)
      rw [climbEnd_beyond hlast] at hrun
      obtain ⟨t, ht, hreads, hpair⟩ := hkeeps
        (runs_kvwalk_climb hn hnode he hp hrun (runs_afterClimb_keeps (by simp) z))
      exact ⟨t, ht, hpair, hreads⟩
    · have hrun := hclimb fun h => absurd h (by omega)
      rw [climbEnd_found hlow hhigh] at hrun
      refine ⟨fun hv => hkeeps (runs_kvwalk_climb hn hnode he hp hrun (runs_afterClimb_keeps (fun _ _ => hv) z)),
        fun pa y hv hw => ?_⟩
      have hz : OnlyReads s z := onlyReads_trans ((Keeps.node (R := keptReads) w w.v n).on hnode)
        ((Keeps.climb (R := keptReads) w p (2 ^ 20) e).runs hrun)
      rw [← clk_of_onlyReads hz w.die]
      obtain ⟨hy, v, hv', hwrote⟩ := runs_writable hw (by decide) (by omega) (z.dieAt w.die).clk.isLt
      obtain ⟨t, ht, hret⟩ := hanswers (runs_kvwalk_climb hn hnode he hp hrun (runs_afterClimb_stamps hv hv'))
      have hwrote' : WroteAt y t pa 8 (z.dieAt w.die).clk.toNat := wroteAt_congr hwrote (congrArg State.mem hret.rest :)
        (congrArg State.copies hret.rest :) (congrArg State.vers hret.rest :)
      exact ⟨t, ht, onlyReads_trans hz hy, hwrote', hret.pair⟩
  · intro s f hc hdr hph n d
    have hs := issues_of_canRun hc hdr hph
    have hword := unitWord hs (exec_kvwalk hc) (Keeps.kvwalk _ _ _) (pairResult_splits _) fun r u t ht => ht.pair
    refine ⟨fun hn => ?_, fun e u hn hnode he => ?_, hword⟩
    · obtain ⟨t, ht, hpair, -⟩ := hword.1 _ _ (runs_kvwalk_unaligned hn s).on
      exact ⟨t, ht, hpair⟩
    · obtain ⟨t, ht, hpair, -⟩ := hword.1 _ _ (runs_kvwalk_free hn hnode he).on
      exact ⟨t, ht, hpair⟩

end
end Sys2Proof.Proofs
end

section
/-!
KVEXT (R88): the accesses of the unit in their order, and what the new node joins.
-/

namespace Sys2Proof.Proofs

open Sys2Proof.Machine Sys2Proof.Statements

section
variable {w : Walker} {s u z t z' : State} {e : KvNode} {n pd : Nat} {x : ExtTakes}

/-! ### A free node and a free page -/

theorem performs_addrOf (pd i base : Nat) : Performs w (w.addrOf pd i) [.rd 0 pd 8 base] (base + 128 * i) := .rd (.pure _)

/-- The first part of KVEXT's accesses: a node leaves its list. -/
def nodeTakes (x : ExtTakes) (pd : Nat) : List KvAccess :=
  [.rd 0 (pd + 12) 4 x.i, .rd 0 pd 8 x.base, .rd 0 (x.base + 128 * x.i + 80) 4 x.nextNode, .wr 0 (pd + 12) 4 x.nextNode]

/-- The second: a page leaves its list. -/
def pageTakes (x : ExtTakes) (pd : Nat) : List KvAccess :=
  [.rd 0 (pd + 20) 4 x.k, .rd 0 (pd + 24) 8 x.links, .rd 0 (x.links + 4 * x.k) 4 x.nextPage, .wr 0 (pd + 20) 4 x.nextPage]

theorem takes_eq (x : ExtTakes) (pd : Nat) : x.takes pd = nodeTakes x pd ++ (pageTakes x pd ++ [.rd 0 pd 8 x.base]) := rfl

theorem performs_takeNode (h : x.i ≠ kvEnd) : Performs w (w.takeNode pd) (nodeTakes x pd) (some x.i) := by
  refine .rd ?_
  rw [if_neg h]
  exact (performs_addrOf pd x.i x.base).bind (.rd (.wr (.pure _)))

theorem performs_takePage (h : x.k ≠ kvEnd) : Performs w (w.takePage pd) (pageTakes x pd) (some x.k) := by
  refine .rd ?_
  rw [if_neg h]
  exact .rd (.rd (.wr (.pure _)))

/-- A list that is not empty needs no eviction. -/
theorem performs_takeOr {take : Walk (Option Nat)} {l : List KvAccess} {i : Nat} (h : Performs w take l (some i)) :
    Performs w (w.takeOr pd take) l (some i) := by
  have hb := h.bind (f := fun o => match o with
    | some x => pure (some x)
    | none => w.evict pd 64 >>= fun _ => take) (.pure (some i))
  rwa [List.append_nil] at hb

/-! ### The new node -/

/-- The first words of a new node, and its last ones. -/
theorem performs_zeros (v va k : Nat) : Performs w ((List.range k).forM fun i => w.wr v (va + 8 * i) 8 0)
    ((List.range k).map fun j => .wr v (va + 8 * j) 8 0) () := by
  rw [List.map_eq_flatMap]
  exact .forM (fun i => performs_wr v (va + 8 * i) 8 0) _

theorem performs_initNode (x : ExtTakes) (n : Nat) (e : KvNode) :
    Performs w (w.initNode (x.base + 128 * x.i) n (e.start + e.run) x.k) (x.fills w.v n e) () := by
  rw [Walker.initNode, ExtTakes.fills, List.append_assoc]
  refine .wr (.wr (.wr ((performs_wr0 _ _ _).bind ((performs_zeros _ _ _).bind (.wr0 (.wr0 (.wr ?_)))))))
  exact .clk (fun now => w.wr w.v (x.base + 128 * x.i + 104) 8 now >>= fun _ => w.wr w.v (x.base + 128 * x.i + 112) 1 w.v)
    (.wr (performs_wr _ _ _ _))

theorem performs_hang (hv : w.v = 0) (x : ExtTakes) (pd n : Nat) (e : KvNode) (he : e.count = x.count) :
    Performs w (w.hang pd x.i (x.base + 128 * x.i) n e) (x.joins n) () := by
  rw [Walker.hang, if_pos hv, he]
  exact (performs_wr0 _ _ _).bind (.rd (.wr0 (.wr0 (performs_wr0 _ _ _))))

/-- A pending node's flags, and the count of a leaf at VID 0 (R88). -/
def pendMarks (x : ExtTakes) (n : Nat) (e : KvNode) : List KvAccess :=
  if e.vid = 0 then [.all (x.base + 128 * x.i + 113) 1 12, .all (n + 14) 2 (x.count + 1)]
  else [.all (x.base + 128 * x.i + 113) 1 4]

theorem pends_eq (x : ExtTakes) (n : Nat) (e : KvNode) (head : Nat) :
    x.pends n e head = pendMarks x n e ++ [.all (x.base + 128 * x.i + 116) 4 head] := rfl

/-- The node goes onto its version's chain. -/
def chainNode (w : Walker) (pd i c : Nat) : Walk Unit := do
  let s ← Walk.here
  w.wr0 (c + 116) 4 (s.ver w.v).kvhead.toNat
  Walk.change fun t => t.setVer w.v { s.ver w.v with kvhead := BitVec.ofNat 32 i, kvpool := pd }

theorem runs_chainNode {i c : Nat} (h : kvDo w [.all (c + 116) 4 (s.ver w.v).kvhead.toNat] s = some t) :
    Runs (chainNode w pd i c) s (.ok ())
      (t.setVer w.v { s.ver w.v with kvhead := BitVec.ofNat 32 i, kvpool := pd }) :=
  .here (((performs_wr0 _ _ _).runs s t h).bind fun l => ⟨l, rfl⟩)

/-- In a version the node pends, and goes onto the chain of the version. -/
theorem runs_hang (hv : w.v ≠ 0) (he : e.count = x.count) (hmarks : kvDo w (pendMarks x n e) s = some u)
    (h : kvDo w [.all (x.base + 128 * x.i + 116) 4 (u.ver w.v).kvhead.toNat] u = some t) :
    Runs (w.hang pd x.i (x.base + 128 * x.i) n e) s (.ok ())
      (t.setVer w.v { u.ver w.v with kvhead := BitVec.ofNat 32 x.i, kvpool := pd }) := by
  have hchain := runs_chainNode (pd := pd) (i := x.i) h
  rw [Walker.hang, if_neg hv, he]
  by_cases hvid : e.vid = 0
  · rw [pendMarks, if_pos hvid] at hmarks
    rw [if_pos hvid, if_pos hvid]
    obtain ⟨v, hflags, hcount⟩ := (kvDo_append_some (l := [_])).1 hmarks
    exact ((performs_wr0 _ _ _).runs s v hflags).bind (((performs_wr0 _ _ _).runs v u hcount).bind hchain)
  · rw [pendMarks, if_neg hvid] at hmarks
    rw [if_neg hvid, if_neg hvid]
    exact ((performs_wr0 _ _ _).runs s u hmarks).bind hchain

/-! ### The word -/

theorem runs_kvext_unaligned (hn : n % 128 ≠ 0) (s : State) : Runs (kvext w n pd) s (.ok (.error 2)) s := by
  rw [kvext, if_pos hn]
  exact .pure _ s

section
variable (hn : n % 128 = 0) (hnode : NodeAt s w n e u)
include hn hnode

theorem runs_kvext_free (he : e.free = true) : Runs (kvext w n pd) s (.ok (.error 2)) u := by
  rw [kvext, if_neg (not_not.2 hn)]
  refine ((steady_node w w.v n).runs hnode).bind (.here ?_)
  rw [if_pos he]
  exact .pure _ u

theorem runs_kvext_run (he : e.free = false) (hrun : e.run = 0 ∨ 16 < e.run) :
    Runs (kvext w n pd) s (.ok (.error 7)) u := by
  rw [kvext, if_neg (not_not.2 hn)]
  refine ((steady_node w w.v n).runs hnode).bind (.here ?_)
  rw [he, if_neg Bool.false_ne_true, if_pos hrun]
  exact .pure _ u

/-- KVEXT on a node that takes another: the accesses up to the new node's fields, and then its place. -/
theorem runs_kvext (he : e.free = false) (hrun : 1 ≤ e.run ∧ e.run ≤ 16)
    (hpool : w.v ≠ 0 → (u.ver w.v).kvpool = 0 ∨ (u.ver w.v).kvpool = pd) (hcount : w.v = 0 ∨ e.vid = 0 → e.count ≠ 65535)
    (hi : x.i ≠ kvEnd) (hk : x.k ≠ kvEnd)
    (h : kvDo w (x.takes pd ++ .rd 0 (n + 14) 2 x.count :: x.fills w.v n e) u = some z)
    (hhang : Runs (w.hang pd x.i (x.base + 128 * x.i) n { e with count := x.count }) z (.ok ()) t) :
    Runs (kvext w n pd) s (.ok (.ok (x.base + 128 * x.i, x.k))) t := by
  rw [takes_eq, List.append_assoc, List.append_assoc] at h
  obtain ⟨u1, hnodes, h⟩ := kvDo_append_some.1 h
  obtain ⟨u2, hpages, h⟩ := kvDo_append_some.1 h
  obtain ⟨u3, hbase, h⟩ := kvDo_append_some.1 h
  obtain ⟨u4, hread, hfills⟩ := (kvDo_append_some (l := [_])).1 h
  rw [kvext, if_neg (not_not.2 hn)]
  refine ((steady_node w w.v n).runs hnode).bind (.here ?_)
  rw [he, if_neg Bool.false_ne_true, if_neg (by omega), if_neg (by tauto), if_neg (by tauto)]
  refine ((performs_takeOr (performs_takeNode hi)).runs u u1 hnodes).bind ?_
  refine ((performs_takeOr (performs_takePage hk)).runs u1 u2 hpages).bind ?_
  refine ((performs_addrOf pd x.i x.base).runs u2 u3 hbase).bind ?_
  refine ((performs_rd 0 (n + 14) 2 x.count).runs u3 u4 hread).bind ?_
  refine ((performs_initNode x n e).runs u4 z hfills).bind ?_
  exact hhang.bind (.pure _ t)

end

/-- Accesses of a unit leave only what reads leave, but for bytes and copies. -/
theorem onlyReads_kvDo {l : List KvAccess} (h : kvDo w l s = some z) : OnlyReads s z := by
  induction l generalizing s with
  | nil => exact Option.some.inj h ▸ onlyReads_refl s
  | cons a l ih =>
    obtain ⟨u, ha, hl⟩ := (kvDo_append_some (l := [a])).1 h
    refine onlyReads_trans ?_ (ih hl)
    cases a with
    | rd v va k y => exact (Keeps.rd (R := keptReads) w v va k).runs ((performs_rd v va k y).runs s u ha)
    | wr v va k y => exact (Keeps.wr (R := keptReads) w v va k y).runs ((performs_wr v va k y).runs s u ha)
    | all va k y => exact (Keeps.wr0 (R := keptReads) w va k y).runs ((performs_wr0 va k y).runs s u ha)
    | clk y =>
      rw [kvDo] at ha
      split at ha
      · exact Option.some.inj ha ▸ onlyReads_refl s
      · exact absurd ha nofun

end
end Sys2Proof.Proofs
end

section
/-!
KVFORK (R89) and KVREL (R90) at their unit, and O42.
-/

namespace Sys2Proof.Proofs

open Sys2Proof.Machine Sys2Proof.Statements

section
variable {w : Walker} {s u v z t y : State} {e : KvNode} {n p c pd : Nat}

/-! ### KVFORK -/

/-- The accesses that write the child's record (R89). -/
def recordWrites (x : Forks) (p c : Nat) : List KvAccess :=
  [.wr 0 c 8 x.leaf, .rd 0 (p + 8) 4 x.pos, .wr 0 (c + 8) 4 x.pos, .wr 0 (c + 12) 4 1, .wr 0 (c + 16) 8 x.seq,
    .wr 0 (c + 24) 8 x.pool] ++ (((List.range 4).map fun j => .wr 0 (c + 32 + 8 * j) 8 0) ++
    (List.range 8).flatMap fun j => [.rd 0 (p + 64 + 8 * j) 8 (x.penalty.getD j 0), .wr 0 (c + 64 + 8 * j) 8 (x.penalty.getD j 0)])

theorem copies_eq (x : Forks) (p c : Nat) (e : KvNode) (keep : Bool) : x.copies p c e keep =
    [.all (x.leaf + 14) 2 (e.count + 1), .rd 0 (p + 24) 8 x.pool] ++
      ((if keep then [.rd 0 (p + 16) 8 x.seq] else [.rd 0 (x.pool + 48) 8 x.seq, .wr 0 (x.pool + 48) 8 (x.seq + 1)]) ++
        recordWrites x p c) := by
  simp only [Forks.copies, recordWrites, List.append_assoc]

theorem performs_forkRecord (x : Forks) (p c : Nat) :
    Performs w (forkRecord w p c x.leaf x.pool x.seq) (recordWrites x p c) (.ok (0, 0)) := by
  have hwords : Performs w (w.copyWords (p + 64) (c + 64) 8) ((List.range 8).flatMap fun j =>
      [.rd 0 (p + 64 + 8 * j) 8 (x.penalty.getD j 0), .wr 0 (c + 64 + 8 * j) 8 (x.penalty.getD j 0)]) () :=
    .forM (fun j => .rd (performs_wr 0 (c + 64 + 8 * j) 8 _)) _
  have htail := hwords.bind (f := fun _ => (pure (.ok (0, 0)) : Walk KvAnswer)) (.pure _)
  rw [List.append_nil] at htail
  exact .wr (.rd (.wr (.wr (.wr (.wr ((performs_zeros 0 (c + 32) 4).bind htail))))))

theorem runs_kvfork_version {keep : Bool} (hv : w.v ≠ 0) (s : State) :
    Runs (Machine.kvfork w p c keep) s (.ok (.error 5)) s := by
  rw [Machine.kvfork, if_pos hv]
  exact .pure _ s

theorem runs_kvfork_unaligned {keep : Bool} (hv : w.v = 0) (h : p % 128 ≠ 0 ∨ c % 128 ≠ 0) (s : State) :
    Runs (Machine.kvfork w p c keep) s (.ok (.error 2)) s := by
  rw [Machine.kvfork, if_neg (not_not.2 hv), if_pos h]
  exact .pure _ s

/-- KVFORK of a record whose leaf can take another reference. -/
theorem runs_kvfork {x : Forks} {keep : Bool} (hv : w.v = 0) (hp : p % 128 = 0 ∧ c % 128 = 0)
    (hreads : kvDo w [.rd 0 p 8 x.leaf, .rd 0 (p + 12) 4 x.flags] s = some u) (hflags : x.flags % 2 = 1)
    (hleaf : x.leaf % 128 = 0) (hnode : NodeAt u w x.leaf e v) (hfree : e.free = false) (hcount : e.count ≠ 65535)
    (hcopies : kvDo w (x.copies p c e keep) v = some z) : Runs (Machine.kvfork w p c keep) s (.ok (.ok (0, 0))) z := by
  obtain ⟨s1, hread, hreads⟩ := (kvDo_append_some (l := [_])).1 hreads
  rw [NodeAt, hv] at hnode
  have htail : Performs w (w.setCount x.leaf (e.count + 1) >>= fun _ => w.rd 0 (p + 24) 8 >>= fun pd =>
      if keep then w.rd 0 (p + 16) 8 >>= fun seq => forkRecord w p c x.leaf pd seq
      else w.rd 0 (pd + 48) 8 >>= fun seq => w.wr 0 (pd + 48) 8 (seq + 1) >>= fun _ => pure seq >>= fun seq =>
        forkRecord w p c x.leaf pd seq) (x.copies p c e keep) (.ok (0, 0)) := by
    rw [copies_eq]
    refine (performs_wr0 _ _ _).bind (.rd ?_)
    cases keep
    · exact .rd (.wr (performs_forkRecord x p c))
    · exact .rd (performs_forkRecord x p c)
  rw [Machine.kvfork, if_neg (not_not.2 hv), if_neg (by omega)]
  refine ((performs_rd 0 p 8 x.leaf).runs s s1 hread).bind ?_
  refine ((performs_rd 0 (p + 12) 4 x.flags).runs s1 u hreads).bind ?_
  rw [if_neg (by omega), if_neg (not_not.2 hleaf)]
  refine ((steady_node w 0 x.leaf).runs hnode).bind ?_
  rw [hfree, if_neg Bool.false_ne_true, if_neg hcount]
  exact htail.runs v z hcopies

/-! ### KVREL -/

section
variable (hn : n % 128 = 0) (hnode : (w.node 0 n).on s = .ok (e, u)) (hfree : e.free = false)
include hn hnode hfree

theorem runs_kvrel_held (h : e.vid ≠ 0 ∨ e.pend = true) : Runs (kvrel w n pd) s (.ok (.error 5)) u := by
  rw [kvrel, if_neg (not_not.2 hn)]
  refine ((steady_node w 0 n).runs hnode).bind ?_
  rw [hfree, if_neg Bool.false_ne_true, if_pos h]
  exact .pure _ u

variable (hv : e.vid = 0) (hp : e.pend = false)
include hv hp

theorem runs_kvrel_unreferenced (h : e.count = 0) : Runs (kvrel w n pd) s (.ok (.error 4)) u := by
  rw [kvrel, if_neg (not_not.2 hn)]
  refine ((steady_node w 0 n).runs hnode).bind ?_
  rw [hfree, if_neg Bool.false_ne_true, hv, hp, if_neg (by decide), if_pos h]
  exact .pure _ u

/-- A count above 1 is lowered, and the zero ring takes nothing. -/
theorem runs_kvrel (h : 2 ≤ e.count) (hnode' : (w.node 0 n).on u = .ok (e, z))
    (hw : Runs (w.wr0 (n + 14) 2 (e.count - 1)) z (.ok ()) t) : Runs (kvrel w n pd) s (.ok (.ok (e.count - 1, 0))) t := by
  have hdrop : Runs (w.dropRef pd n) u (.ok (e.count - 1)) t := by
    refine ((steady_node w 0 n).runs hnode').bind ?_
    rw [if_neg (by omega)]
    refine Runs.bind hw ?_
    rw [if_neg (by omega)]
    exact .pure _ t
  rw [kvrel, if_neg (not_not.2 hn)]
  refine ((steady_node w 0 n).runs hnode).bind ?_
  rw [hfree, if_neg Bool.false_ne_true, hv, hp, if_neg (by decide), if_neg (by omega)]
  exact hdrop.bind (.pure _ t)

end

/-! ### The words -/

theorem pair_unmarked {d : Nat} {a b : DWord} (h : Pair (Unmarked s) t d a b) : Pair s t d a b := by
  have hg : (Unmarked s).group = s.group := State.group_setBlock s _
  have hp : (Unmarked s).split = s.split := State.split_setBlock s _
  rwa [Pair, SplitIs, SplitPast, hg, hp] at h

theorem answered_unmarked {d : Nat} {a : DWord} (h : Answered (Unmarked s) t d a) : Answered s t d a := by
  have hg : (Unmarked s).group = s.group := State.group_setBlock s _
  have hp : (Unmarked s).split = s.split := State.split_setBlock s _
  rwa [Answered, SplitIs, SplitPast, hg, hp] at h

theorem exec_kvext {f : UR3} (hc : CanRun s 1 (f.refsPair s.group)) : exec (.kvext f) s =
    .next (walkerWord (.kvext (absUr3 s.group f)) (s.group.sAt (s.group.uni f.i f.b.toNat)).toNat
      (fun w => kvext w (s.group.sAt (s.group.uni f.i f.a.toNat)).toNat (s.group.sAt (s.group.uni f.i f.b.toNat)).toNat)
      (pairResult (s.group.uni f.i f.d.toNat)) (Unmarked s)) := by
  obtain ⟨hd, ha, hb⟩ := absUr3_regs Nat.two_pos hc.2.2
  refine (run_ok hc).trans (congrArg Host.Outcome.next ?_)
  rw [effKvext, hd, ha, hb]
  rfl

theorem exec_kvrel {f : UR3} (hc : CanRun s 1 (f.refs s.group)) : exec (.kvrel f) s =
    .next (walkerWord (.kvrel (absUr3 s.group f)) (s.group.sAt (s.group.uni f.i f.b.toNat)).toNat
      (fun w => kvrel w (s.group.sAt (s.group.uni f.i f.a.toNat)).toNat (s.group.sAt (s.group.uni f.i f.b.toNat)).toNat)
      (oneResult (s.group.uni f.i f.d.toNat)) (Unmarked s)) := by
  obtain ⟨hd, ha, hb⟩ := absUr3_regs Nat.one_pos hc.2.2
  refine (run_ok hc).trans (congrArg Host.Outcome.next ?_)
  rw [effKvrel, hd, ha, hb]
  rfl

theorem exec_kvfork {f : KvforkForm} (hc : CanRun s 1 (f.refs s.group)) : exec (.kvfork f) s =
    .next (walkerWord (.kvfork { d := BitVec.ofNat 7 (s.group.uni f.i f.d.toNat),
                                 a := BitVec.ofNat 7 (s.group.uni f.i f.a.toNat), k := f.k, i := 0 })
      (forkPool s (s.group.sAt (s.group.uni f.i f.a.toNat)).toNat)
      (fun w => Machine.kvfork w (s.group.sAt (s.group.uni f.i f.a.toNat)).toNat
        (s.group.sAt (s.group.uni f.i f.a.toNat + 1)).toNat (decide (f.k = 1)))
      (oneResult (s.group.uni f.i f.d.toNat)) (Unmarked s)) :=
  run_ok hc

/-- Settles O42: for each word its unit's answer, fault or wait, and the runs of the unit that the statement names. -/
theorem kvPoolWordsActAtTheirUnit : Obligations.KvPoolWordsActAtTheirUnit := by
  unfold Obligations.KvPoolWordsActAtTheirUnit
  refine ⟨?_, ?_, ?_⟩
  · intro s f hc hdr hph n pd d w
    have hs := (issues_of_canRun hc hdr hph).unmarked
    have hword : UnitWord (.kvext f) s (Unmarked s) w (kvext w n pd) fun t r => Pair s t d (pairOf r).1 (pairOf r).2 :=
      unitWord hs (exec_kvext hc) (Keeps.kvext w n pd) (pairResult_splits d) fun r u t ht => pair_unmarked ht.pair
    have hanswers {r : KvAnswer} {u : State} (h : Runs (kvext w n pd) (Unmarked s) (.ok r) u) :
        ∃ t, exec (.kvext f) s = .next t ∧ Pair s t d (pairOf r).1 (pairOf r).2 ∧ t.mem = u.mem ∧ t.copies = u.copies ∧
          t.vers = u.vers := by
      obtain ⟨t, ht, hpair, hmem, hcopies, hvers, -⟩ := hword.1 _ _ h.on
      exact ⟨t, ht, hpair, hmem, hcopies, hvers⟩
    have hfails {st : Nat} {u : State} (h : Runs (kvext w n pd) (Unmarked s) (.ok (.error st)) u) :
        ∃ t, exec (.kvext f) s = .next t ∧ Pair s t d (BitVec.allOnes 64) (BitVec.ofNat 64 st) := by
      obtain ⟨t, ht, hpair, -⟩ := hanswers h
      exact ⟨t, ht, hpair⟩
    refine ⟨hword, fun hn => hfails (runs_kvext_unaligned hn _), fun e u hn hnode =>
      ⟨fun he => hfails (runs_kvext_free hn hnode he), fun he hrun => hfails (runs_kvext_run hn hnode he hrun), ?_⟩⟩
    intro x z he hrun1 hrun2 hi hk htakes
    refine ⟨fun hv hcount z' hjoins => ?_, fun hv hcount hpool z' hpends => ?_⟩
    · have hhang := (performs_hang hv x pd n { e with count := x.count } rfl).runs z z' hjoins
      exact hanswers (runs_kvext hn hnode he ⟨hrun1, hrun2⟩ (fun h => absurd hv h) (fun _ => hcount) hi hk htakes hhang)
    · rw [pends_eq] at hpends
      obtain ⟨v, hmarks, hhead⟩ := kvDo_append_some.1 hpends
      have hver : v.ver w.v = z.ver w.v := by
        rw [State.ver, vers_of_onlyReads (onlyReads_kvDo hmarks)]
        rfl
      rw [← hver] at hhead ⊢
      have hhang := runs_hang (pd := pd) (e := { e with count := x.count }) hv rfl hmarks hhead
      exact hanswers (runs_kvext hn hnode he ⟨hrun1, hrun2⟩ (fun _ => hpool) (fun h => hcount (h.resolve_left hv)) hi hk htakes
        hhang)
  · intro s f hc hdr hph a d p c w
    have hs := (issues_of_canRun hc hdr hph).unmarked
    have hvid : w.v = s.group.vid := congrArg Group.vid (State.group_setBlock s _)
    have hword : UnitWord (.kvfork f) s (Unmarked s) w (Machine.kvfork w p c (decide (f.k = 1)))
        fun t r => Answered s t d (oneOf r) :=
      unitWord hs (exec_kvfork hc) (Keeps.kvfork w p c _) (oneResult_splits d) fun r u t ht => answered_unmarked ht.answered
    refine ⟨hword, fun hv => ?_, fun hv hp => ?_, fun x e u v z hv hp hpc hreads hflags hleaf hnode he hcount hcopies => ?_⟩
    · obtain ⟨t, ht, hans, -⟩ := hword.1 _ _ (runs_kvfork_version (hvid.trans_ne hv) _).on
      exact ⟨t, ht, hans⟩
    · obtain ⟨t, ht, hans, -⟩ := hword.1 _ _ (runs_kvfork_unaligned (hvid.trans hv) hp _).on
      exact ⟨t, ht, hans⟩
    · obtain ⟨t, ht, hans, hmem, hcps, hvers, -⟩ := hword.1 _ _
        (runs_kvfork (hvid.trans hv) ⟨hp, hpc⟩ hreads hflags hleaf hnode he hcount hcopies).on
      exact ⟨t, ht, hans, hmem, hcps, hvers⟩
  · intro s f hc hdr hph n pd d w
    have hs := (issues_of_canRun hc hdr hph).unmarked
    have hword : UnitWord (.kvrel f) s (Unmarked s) w (kvrel w n pd) fun t r => Answered s t d (oneOf r) :=
      unitWord hs (exec_kvrel hc) (Keeps.kvrel w n pd) (oneResult_splits d) fun r u t ht => answered_unmarked ht.answered
    refine ⟨hword, fun e u hn hnode he => ⟨fun h => ?_, fun hv hp h => ?_, fun pa z y hv hp h hnode' hw => ?_⟩⟩
    · obtain ⟨t, ht, hans, -⟩ := hword.1 _ _ (runs_kvrel_held hn hnode he h).on
      exact ⟨t, ht, hans⟩
    · obtain ⟨t, ht, hans, -⟩ := hword.1 _ _ (runs_kvrel_unreferenced hn hnode he hv hp h).on
      exact ⟨t, ht, hans⟩
    · have hcount : e.count < 256 ^ 2 := (answers_node w 0 n).of_on hnode
      obtain ⟨hy, v, hv', hwrote⟩ := runs_writable (x := e.count - 1) hw (by decide) (by omega) (by omega)
      obtain ⟨t, ht, hans, hmem, hcopies, hvers, -⟩ := hword.1 _ _ (runs_kvrel hn hnode he hv hp h hnode' hv').on
      have hu : OnlyReads (Unmarked s) u := (Keeps.node (R := keptReads) w 0 n).on hnode
      have hz : OnlyReads u z := (Keeps.node (R := keptReads) w 0 n).on hnode'
      exact ⟨t, ht, hans, onlyReads_trans (onlyReads_trans hu hz) hy, wroteAt_congr hwrote hmem hcopies hvers⟩

end
end Sys2Proof.Proofs
end

section
/-!
A word that ends or waits, whatever it has done before: what the step past it and its wait change is its split alone.
-/

namespace Sys2Proof.Proofs

open Sys2Proof.Machine Sys2Proof.Statements

section
variable {s t u : State} {i : Instr} {n : Nat} {w : DWord}

/-! ### The selected split alone -/

/-- Nothing changes but the splits of the selected group. -/
structure Resplit (s t : State) : Prop where
  outside : OnlyGroup s t
  group : OnlySplits s.group t.group

theorem resplit_setSplit (s : State) (p : Split) : Resplit s (s.setSplit p) :=
  ⟨onlyGroup_setGroup s _, by rw [State.group_setSplit]; rfl⟩

theorem resplit_advance (hpc : s.split.pc.toNat % 1024 + 1 ≤ 1023) : Resplit s (advance 1 s) := by
  rw [advance_ok 1 hpc]
  exact resplit_setSplit s _

theorem resplit_blockIn (i : Instr) (n : Nat) (w : DWord) (s : State) : Resplit s (blockIn i n w s) := resplit_setSplit s _

theorem sel_of_onlyGroup (h : OnlyGroup s t) : t.sel = s.sel := (congrArg State.sel h.rest :)

theorem onlyCore_of_onlyGroup (h : OnlyGroup s t) : OnlyCore s t s.sel.core := ⟨h.rest, h.cores⟩

/-- Every core keeps all but its groups. -/
theorem coreAt_of_onlyGroup (h : OnlyGroup s t) (k : Nat) :
    { t.coreAt k with groups := (s.coreAt k).groups } = s.coreAt k := by
  by_cases hk : k = s.sel.core
  · have hcore := h.core
    rw [State.core, sel_of_onlyGroup h] at hcore
    rw [hk]
    exact hcore
  · rw [h.cores k hk]

theorem engQueue_of_onlyGroup (h : OnlyGroup s t) (k q : Nat) : t.engQueue k q = s.engQueue k q :=
  (congrArg (fun c : Core => mapGet [] c.eng q) (coreAt_of_onlyGroup h k) :)

theorem entering_of_onlyGroup (h : OnlyGroup s t) (k q : Nat) : t.entering k q = s.entering k q :=
  (congrArg (fun c : Core => mapGet [] c.entering q) (coreAt_of_onlyGroup h k) :)

theorem blockAt_of_onlyGroup (h : OnlyGroup s t) (k b : Nat) : t.blockAt k b = s.blockAt k b :=
  (congrArg (fun c : Core => mapGet {} c.blocks b) (coreAt_of_onlyGroup h k) :)

theorem onlyGroup_trans (h : OnlyGroup s t) (g : OnlyGroup t u) : OnlyGroup s u := by
  have hsel := sel_of_onlyGroup h
  obtain ⟨h1, h2, h3, h4, h5⟩ := h
  obtain ⟨g1, g2, g3, g4, g5⟩ := g
  rw [hsel] at g2 g4
  refine ⟨?_, fun k hk => (g2 k hk).trans (h2 k hk), ?_, fun g hg => ?_, fun v a => (g5 v a).trans (h5 v a)⟩
  · exact (congrArg (fun x : State => { x with cores := s.cores }) g1).trans h1
  · exact (congrArg (fun c : Core => { c with groups := s.core.groups }) g3).trans h3
  · exact (g4 g hg).trans (h4 g hg)

theorem Resplit.eq (h : Resplit s t) : { t.group with splits := s.group.splits } = s.group := h.group

theorem Resplit.block (h : Resplit s t) : t.block = s.block := by
  have hb : t.group.blk = s.group.blk := (congrArg Group.blk h.eq :)
  rw [State.block, sel_of_onlyGroup h.outside, hb, blockAt_of_onlyGroup h.outside, State.block]

theorem Resplit.sameRegs (h : Resplit s t) : SameRegs s.group t.group :=
  ⟨(congrArg Group.v h.eq :), (congrArg Group.s h.eq :), (congrArg Group.p h.eq :), (congrArg Group.x h.eq :),
    (congrArg Group.blo h.eq :), (congrArg Group.bhi h.eq :), (congrArg Group.d h.eq :)⟩

/-! ### The step past a word, and a wait in it -/

theorem split_congr (hsel : u.sel = s.sel) (hsplits : u.group.splits = s.group.splits) : u.split = s.split := by
  rw [State.split, Group.split, hsel, hsplits]
  rfl

/-- A state whose selected group still has its splits steps past the word. -/
theorem splitIs_advance (hsel : u.sel = s.sel) (hsplits : u.group.splits = s.group.splits)
    (hpc : s.split.pc.toNat % 1024 + 1 ≤ 1023) : SplitIs s (advance 1 u) (SplitPast s 1) := by
  rw [nextSplit hpc u (split_congr hsel hsplits)]
  refine ⟨State.split_setSplit u _, fun i hi => ?_⟩
  rw [State.group_setSplit, Group.split_setSplit_ne _ _ (hsel ▸ hi), Group.split, hsplits]
  rfl

theorem stillAt_blockIn (i : Instr) (n : Nat) (w : DWord) (hsel : u.sel = s.sel) (hsplits : u.group.splits = s.group.splits) :
    StillAt s (blockIn i n w u) i := by
  have hp : (blockIn i n w u).split = { s.split with st := .blocked, wait := some i, phase := n, wdata := w } := by
    rw [blockIn, State.split_setSplit, split_congr hsel hsplits]
  rw [StillAt, hp]
  refine ⟨rfl, rfl, rfl, rfl, rfl, fun j hj => ?_⟩
  rw [blockIn, State.group_setSplit, Group.split_setSplit_ne _ _ (hsel ▸ hj), Group.split, hsplits]
  rfl

theorem waits_blockIn (i : Instr) (n : Nat) (w : DWord) (s : State) : Waits s (blockIn i n w s) i := by
  obtain ⟨houtside, hgroup⟩ := resplit_blockIn i n w s
  obtain ⟨hst, hwait, hpc, hmask, hexec, hothers⟩ := stillAt_blockIn (s := s) i n w rfl rfl
  exact ⟨houtside, hgroup, hothers, hst, hwait, hpc, hmask, hexec⟩

/-- The group is updated, but for its splits, and the word is stepped past. -/
theorem advance_setGroup {x : Group} (hx : x.splits = s.group.splits) (hpc : s.split.pc.toNat % 1024 + 1 ≤ 1023) :
    ∃ t, advance 1 (s.setGroup x) = t ∧ SteppedPast s t 1 ∧ OnlySplits x t.group := by
  have hsplits : (s.setGroup x).group.splits = s.group.splits := by rw [State.group_setGroup, hx]
  have hpc' : (s.setGroup x).split.pc.toNat % 1024 + 1 ≤ 1023 := by
    rw [split_congr (s := s) (u := s.setGroup x) rfl hsplits]
    exact hpc
  have hr := resplit_advance hpc'
  refine ⟨_, rfl, ⟨onlyGroup_trans (onlyGroup_setGroup s x) hr.outside, splitIs_advance rfl hsplits hpc⟩, ?_⟩
  have h := hr.group
  rwa [State.group_setGroup] at h

/-- The group is updated, but for its splits, and the word waits. -/
theorem blockIn_setGroup (i : Instr) (n : Nat) (w : DWord) {x : Group} (hx : x.splits = s.group.splits) :
    ∃ t, blockIn i n w (s.setGroup x) = t ∧ OnlyGroup s t ∧ OnlySplits x t.group ∧ StillAt s t i := by
  have hr := resplit_blockIn i n w (s.setGroup x)
  have h := hr.group
  rw [State.group_setGroup] at h
  exact ⟨_, rfl, onlyGroup_trans (onlyGroup_setGroup s x) hr.outside, h,
    stillAt_blockIn i n w rfl (by rw [State.group_setGroup, hx])⟩

end
end Sys2Proof.Proofs
end

section
/-!
Batches and queue fences (R105-R107): BCLOSE, WAITB and QFENCE.
-/

namespace Sys2Proof.Proofs

open Sys2Proof.Machine Sys2Proof.Statements

section
variable {s t : State}

/-! ### BCLOSE -/

section
variable {f : QSrc} (hc : CanRun s 1 [])
include hc

theorem bclose_waits (h : 8 ≤ s.group.batches.length) : ∃ t, exec (.bclose f) s = .next t ∧ Waits s t (.bclose f) := by
  have heff : effBclose f s = blockIn (.bclose f) 0 0 s := if_pos h
  exact ⟨_, (run_ok hc).trans (congrArg _ heff), waits_blockIn _ _ _ s⟩

/-- The open batch, numbered, as BCLOSE closes it. -/
def closedBatch (g : Group) : Batch := { g.openBatch with num := g.lastClosed + 1 }

theorem bclose_closes (h : s.group.batches.length < 8) : ∃ t, exec (.bclose f) s = .next t ∧ SteppedPast s t 1 ∧
    UniWrite s.group t.group f.a.toNat ((s.group.lastClosed + 1).setWidth 64) ∧
    t.group.lastClosed = s.group.lastClosed + 1 ∧ t.group.openBatch = { num := 0, open_ := 0 } ∧
    ((closedBatch s.group).open_ ≠ 0 →
      t.group.batches = s.group.batches ++ [closedBatch s.group] ∧ t.group.doneMarks = s.group.doneMarks) ∧
    ((closedBatch s.group).open_ = 0 →
      t.group.batches = s.group.batches ∧ t.group.doneMarks = s.group.doneMarks ++ [closedBatch s.group]) := by
  obtain ⟨-, hpc, -⟩ := id hc
  let b := closedBatch s.group
  let x : Group := { s.group with
    lastClosed := s.group.lastClosed + 1, openBatch := { num := 0, open_ := 0 },
    batches := if b.open_ = 0 then s.group.batches else s.group.batches ++ [b],
    doneMarks := if b.open_ = 0 then s.group.doneMarks ++ [b] else s.group.doneMarks,
    s := mapSet s.group.s f.a.toNat ((s.group.lastClosed + 1).setWidth 64) }
  have heff : effBclose f s = advance 1 (s.setGroup x) := if_neg (not_le.2 h)
  obtain ⟨t, ht, hpast, hsame⟩ := advance_setGroup (s := s) (x := x) rfl hpc
  have hregs (r : Nat) := sAt_of_onlySplits hsame r
  have heq := eq_of_onlySplits hsame
  have hbatches : t.group.batches = x.batches := (congrArg Group.batches heq :)
  have hmarks : t.group.doneMarks = x.doneMarks := (congrArg Group.doneMarks heq :)
  refine ⟨t, (run_ok hc).trans (congrArg _ (heff.trans ht)), hpast,
    ⟨(hregs _).trans (mapGet_mapSet_same _ _ _), fun r hr => (hregs r).trans (mapGet_mapSet_ne _ _ hr)⟩,
    (congrArg Group.lastClosed heq :), (congrArg Group.openBatch heq :), fun hb => ?_, fun hb => ?_⟩
  · exact ⟨hbatches.trans (if_neg hb), hmarks.trans (if_neg hb)⟩
  · exact ⟨hbatches.trans (if_pos hb), hmarks.trans (if_pos hb)⟩

end

/-! ### WAITB -/

/-- The number WAITB waits for, and whether it lies ahead of the last closed batch. -/
def waitAhead (g : Group) (m : BitVec 16) : Bool :=
  decide (0 < (m - g.lastClosed).toNat ∧ (m - g.lastClosed).toNat < 32768)
def waitNumber (g : Group) (m : BitVec 16) : BitVec 16 := if waitAhead g m then g.lastClosed else m
/-- What the word keeps of it. -/
def waitWord (g : Group) (m : BitVec 16) : DWord :=
  if later16 m g.lastClosed then g.lastClosed.setWidth 64 ||| 0x10000 else m.setWidth 64

theorem later16_eq (g : Group) (m : BitVec 16) : later16 m g.lastClosed = waitAhead g m := by
  rw [later16, waitAhead, Bool.decide_and]

theorem waitWord_number (g : Group) (m : BitVec 16) : (waitWord g m).setWidth 16 = waitNumber g m := by
  rw [waitWord, waitNumber, later16_eq]
  split
  · ext i hi
    simp
  · simp

theorem waitWord_ahead (g : Group) (m : BitVec 16) : (waitWord g m).getLsbD 16 = waitAhead g m := by
  rw [waitWord, later16_eq]
  split
  next h => simp [h]
  next h => simp [h]

theorem upTo_iff (n m : BitVec 16) : upTo n m = true ↔ AtOrBefore m n := by
  rw [upTo, atOrAfter, decide_eq_true_eq]
  rfl

theorem firstMiss_none {g : Group} {n : BitVec 16} (h : ∀ x ∈ g.misses, x.reported = true ∨ ¬ AtOrBefore x.batch n) :
    firstMiss g n = none := by
  have hnil : (g.misses.filter fun m => !m.reported && upTo n m.batch) = [] := by
    refine List.filter_eq_nil_iff.2 fun x hx => ?_
    rw [Bool.and_eq_true, upTo_iff, Bool.not_eq_true']
    rintro ⟨hr, hn⟩
    rcases h x hx with h | h
    · rw [hr] at h
      exact Bool.false_ne_true h
    · exact h hn
  rw [firstMiss, hnil]
  rfl

theorem firstMiss_one {g : Group} {n : BitVec 16} {x : Miss} (h : g.misses = [x]) (hr : x.reported = false)
    (hx : AtOrBefore x.batch n) : firstMiss g n = some x := by
  rw [firstMiss, h, List.filter_cons, hr, (upTo_iff n x.batch).2 hx]
  rfl

/-- Every batch up to the number WAITB waits for has finished. -/
def BatchesDone (g : Group) (n : BitVec 16) : Prop := ∀ b ∈ g.batches, ¬ AtOrBefore b.num n

theorem batchesDone_any {g : Group} {n : BitVec 16} (h : BatchesDone g n) : (g.batches.any fun b => upTo n b.num) = false :=
  List.any_eq_false.2 fun b hb hn => h b hb ((upTo_iff _ _).1 hn)

/-- The group with a miss that WAITB reports, and with the marks it has given (R106). -/
def missTaken (n : BitVec 16) (g : Group) : Group :=
  { g with misses := (g.misses.map fun m => if upTo n m.batch then { m with reported := true } else m).filter fun m =>
      !m.reported }
def marksGiven (n : BitVec 16) (g : Group) : Group := { g with doneMarks := g.doneMarks.filter fun b => !upTo n b.num }

theorem marksGiven_frame (n : BitVec 16) (d : Nat) (y : DWord) (g : Group) :
    { (marksGiven n g).setS d y with s := g.s, doneMarks := g.doneMarks, splits := g.splits } = g := rfl

section
variable {f : QSrc} (hp : s.split.phase = 0)
include hp

theorem effWaitb_miss {n : BitVec 16} {m : Miss} (hn : waitNumber s.group ((s.group.sAt f.a.toNat).setWidth 16) = n)
    (h : BatchesDone s.group n) (hm : firstMiss s.group n = some m) : effWaitb f s =
      takeTrap 7 (BitVec.ofNat 64 (m.batch.toNat + 65536 * m.pair.toNat + 2 ^ 32 * m.pblk.toNat)) s.split.pc
        (s.setGroup (missTaken n s.group)) := by
  simp only [effWaitb, hp, if_neg (show ¬ (0 = 2) by decide)]
  rw [← waitWord, waitWord_number, hn, batchesDone_any h, if_neg Bool.false_ne_true, hm]
  rfl

theorem effWaitb_marks {n : BitVec 16} (hn : waitNumber s.group ((s.group.sAt f.a.toNat).setWidth 16) = n)
    (h : BatchesDone s.group n) (hm : firstMiss s.group n = none) : effWaitb f s =
      advance 1 (s.setGroup ((marksGiven n s.group).setS f.a.toNat (BitVec.ofNat 64 (waitbWord s.group n
        (waitAhead s.group ((s.group.sAt f.a.toNat).setWidth 16)))))) := by
  have hbit (p : Batch → Bool) : ((s.group.doneMarks.filter fun b => upTo n b.num).any p) =
      s.group.doneMarks.any fun b => decide ((n - b.num).toNat < 32768) && p b := List.any_filter
  simp only [effWaitb, hp, if_neg (show ¬ (0 = 2) by decide)]
  rw [← waitWord, waitWord_number, waitWord_ahead, hn, batchesDone_any h, if_neg Bool.false_ne_true, hm]
  simp only [hbit]
  rfl

variable (hc : CanRun s 1 [])
include hc

theorem waitb_waits (h : ∃ b ∈ s.group.batches, AtOrBefore b.num (waitNumber s.group ((s.group.sAt f.a.toNat).setWidth 16))) :
    ∃ t, exec (.waitb f) s = .next t ∧ Waits s t (.waitb f) := by
  have hany : (s.group.batches.any fun b =>
      upTo ((waitWord s.group ((s.group.sAt f.a.toNat).setWidth 16)).setWidth 16) b.num) = true := by
    obtain ⟨b, hb, hn⟩ := h
    rw [waitWord_number]
    exact List.any_eq_true.2 ⟨b, hb, (upTo_iff _ _).2 hn⟩
  have heff : effWaitb f s = blockIn (.waitb f) 2 (waitWord s.group ((s.group.sAt f.a.toNat).setWidth 16)) s := by
    simp only [effWaitb, hp, if_neg (show ¬ (0 = 2) by decide)]
    exact if_pos hany
  exact ⟨_, (run_ok hc).trans (congrArg _ heff), waits_blockIn _ _ _ s⟩

theorem waitb_gives {n : BitVec 16} (hn : waitNumber s.group ((s.group.sAt f.a.toNat).setWidth 16) = n)
    (h : BatchesDone s.group n) (hm : ∀ x ∈ s.group.misses, x.reported = true ∨ ¬ AtOrBefore x.batch n) :
    ∃ t, exec (.waitb f) s = .next t ∧ SteppedPast s t 1 ∧
      UniWrite s.group t.group f.a.toNat (BitVec.ofNat 64 (waitbWord s.group n
        (waitAhead s.group ((s.group.sAt f.a.toNat).setWidth 16)))) ∧
      (∀ b, b ∈ t.group.doneMarks ↔ b ∈ s.group.doneMarks ∧ ¬ AtOrBefore b.num n) ∧
      { t.group with s := s.group.s, doneMarks := s.group.doneMarks, splits := s.group.splits } = s.group := by
  obtain ⟨-, hpc, -⟩ := id hc
  have heff := effWaitb_marks hp hn h (firstMiss_none hm)
  generalize BitVec.ofNat 64 (waitbWord s.group n _) = y at heff ⊢
  obtain ⟨t, ht, hpast, hsame⟩ := advance_setGroup (s := s) (x := (marksGiven n s.group).setS f.a.toNat y) rfl hpc
  refine ⟨t, (run_ok hc).trans (congrArg _ (heff.trans ht)), hpast, ⟨?_, fun r hr => ?_⟩, fun b => ?_, ?_⟩
  · rw [sAt_of_onlySplits hsame, Group.sAt_setS]
  · rw [sAt_of_onlySplits hsame, Group.sAt_setS_ne _ _ hr]
    rfl
  · rw [(congrArg Group.doneMarks (eq_of_onlySplits hsame) :)]
    simp [marksGiven, List.mem_filter, ← upTo_iff, Group.setS]
  · exact (congrArg (fun g : Group => { g with s := s.group.s, doneMarks := s.group.doneMarks, splits := s.group.splits })
      (eq_of_onlySplits hsame)).trans (marksGiven_frame n f.a.toNat y s.group)

theorem waitb_traps {n : BitVec 16} {x : Miss} (hn : waitNumber s.group ((s.group.sAt f.a.toNat).setWidth 16) = n)
    (h : BatchesDone s.group n) (hm : s.group.misses = [x]) (hr : x.reported = false) (hx : AtOrBefore x.batch n)
    (hh : HandlerReady s) : ∃ t, exec (.waitb f) s = .next t ∧ t.group.h = true ∧ t.group.misses = [] ∧
      t.group.frame.pc = s.split.pc ∧ ∃ rest, t.group.q7.tail = BitVec.ofNat 64 (x.batch.toNat + 65536 * x.pair.toNat +
        2 ^ 32 * x.pblk.toNat) :: rest := by
  have hready : HandlerReady (s.setGroup (missTaken n s.group)) := by
    obtain ⟨h1, h2, h3⟩ := hh
    rw [HandlerReady, State.group_setGroup]
    exact ⟨h1, h2, (congrArg (fun c : Core => (mapGet 0 c.landed s.group.gid).getLsbD (s.group.trapvec.toNat % 32))
      (State.core_setGroup s _) :).trans h3⟩
  have htrap := tookTrap (s.setGroup (missTaken n s.group)) 7
    (BitVec.ofNat 64 (x.batch.toNat + 65536 * x.pair.toNat + 2 ^ 32 * x.pblk.toNat)) s.split.pc (by decide) hready
  have hothers := htrap.others
  rw [State.group_setGroup] at hothers
  refine ⟨_, (run_ok hc).trans (congrArg _ (effWaitb_miss hp hn h (firstMiss_one hm hr hx))), htrap.handler, ?_, ?_, ?_⟩
  · rw [(congrArg Group.misses hothers :), missTaken, hm, List.map_cons, (upTo_iff n x.batch).2 hx]
    rfl
  · rw [htrap.frame]
  · obtain ⟨ovf, rest, hq, -⟩ := htrap.record
    exact ⟨rest, by rw [hq, List.tail_cons]⟩

end

/-! ### QFENCE -/

section
variable {f : QFenceForm}

theorem qfence_illegal (hc : CanRun s 1 []) (h : f.q = 0) : ∃ t, exec (.qfence f) s = .next t ∧ Illegal s t :=
  ⟨_, (run_ok hc).trans (congrArg _ (if_pos h)), ill s⟩

/-- A command of the selected group in a queue that the fence names. -/
def FenceNames (s : State) (q : BitVec 3) (i : Nat) (c : Cmd) : Prop :=
  i < 3 ∧ q.getLsbD i = true ∧ c ∈ s.engQueue s.sel.core i ∧ c.grp = s.sel.grp

theorem mem_fencedCmds {q : BitVec 3} {lim : Nat} (h : ∀ i c, FenceNames s q i c → c.id < lim) (n : Nat) :
    n ∈ fencedCmds s q lim ↔ ∃ i c, FenceNames s q i c ∧ c.id = n := by
  simp only [fencedCmds, List.mem_flatMap, List.mem_filter, List.mem_range, List.mem_map, Bool.and_eq_true,
    decide_eq_true_eq]
  constructor
  · rintro ⟨i, ⟨hi, hq⟩, c, ⟨hc, hg, -⟩, hn⟩
    exact ⟨i, c, ⟨hi, hq, hc, hg⟩, hn⟩
  · rintro ⟨i, c, hown, hn⟩
    have hlim := h i c hown
    obtain ⟨hi, hq, hc, hg⟩ := hown
    exact ⟨i, ⟨hi, hq⟩, c, ⟨hc, hg, hlim⟩, hn⟩

/-- The fence that a QFENCE records (R107). -/
def recordedFence (f : QFenceForm) (s : State) : Fence :=
  if f.m = 1 then { q := f.q, cmds := fencedCmds s f.q s.core.nextCmd, sers := fencedSers s, acks := fencedAcks s }
  else { q := f.q, cmds := fencedCmds s f.q s.core.nextCmd }

theorem recordedFence_q (f : QFenceForm) (s : State) : (recordedFence f s).q = f.q := by
  unfold recordedFence
  split <;> rfl

theorem recordedFence_cmds (f : QFenceForm) (s : State) : (recordedFence f s).cmds = fencedCmds s f.q s.core.nextCmd := by
  unfold recordedFence
  split <;> rfl

theorem effQfence_eq (hp : s.split.phase = 0) (h : f.q ≠ 0) : effQfence f s =
    let t := s.setGroup { s.group with fences := s.group.fences ++ [recordedFence f s] }
    if f.w = 1 ∧ fencedCmds s f.q s.core.nextCmd ≠ [] then blockIn (.qfence f) 2 (BitVec.ofNat 64 s.core.nextCmd) t
    else advance 1 t := by
  have hempty (l : List Nat) : (!l.isEmpty) = true ↔ l ≠ [] := by cases l <;> simp
  simp only [effQfence, if_neg h, hp, if_neg (show ¬ (0 = 2) by decide), hempty]
  rfl

/-- With M the fence names the split's own accesses (log entry 32). -/
theorem recordedFence_m (hm : f.m = 1) :
    (∀ r ∈ s.core.reqs, r.grp = s.sel.grp → r.mask &&& s.split.mask ≠ 0 → r.ser ∈ (recordedFence f s).sers) ∧
    (∀ e ∈ s.group.oplog, e.2.st ≠ .free → e.2.mask &&& s.split.mask ≠ 0 → e.2.ser ∈ (recordedFence f s).sers) ∧
    ∀ w ∈ s.core.wc, w.grp = s.sel.grp → w.ack ∈ (recordedFence f s).acks := by
  rw [recordedFence, if_pos hm]
  refine ⟨fun r hr hg hmask => ?_, fun e he hst hmask => ?_, fun w hw hg => ?_⟩
  · refine List.mem_dedup.2 (List.mem_append_left _ (List.mem_map.2 ⟨r, List.mem_filter.2 ⟨hr, ?_⟩, rfl⟩))
    rw [Bool.and_eq_true, decide_eq_true_eq, bne_iff_ne]
    exact ⟨hg, hmask⟩
  · refine List.mem_dedup.2 (List.mem_append_right _ (List.mem_map.2 ⟨e, List.mem_filter.2 ⟨he, ?_⟩, rfl⟩))
    rw [Bool.and_eq_true, bne_iff_ne, bne_iff_ne]
    exact ⟨hst, hmask⟩
  · refine List.mem_append_left _ (List.mem_append_left _ (List.mem_map.2 ⟨w, List.mem_filter.2 ⟨hw, ?_⟩, rfl⟩))
    exact decide_eq_true hg

/-- QFENCE records its fence in the group and steps past itself, or waits with W for the commands it names. -/
theorem qfence_records (hc : CanRun s 1 []) (hp : s.split.phase = 0) (h : f.q ≠ 0) : ∃ t, exec (.qfence f) s = .next t ∧ OnlyGroup s t ∧
    OnlySplits { s.group with fences := s.group.fences ++ [recordedFence f s] } t.group ∧
    (f.w = 0 ∨ (recordedFence f s).cmds = [] → SplitIs s t (SplitPast s 1)) ∧
    (f.w = 1 → (recordedFence f s).cmds ≠ [] → StillAt s t (.qfence f)) := by
  obtain ⟨-, hpc, -⟩ := id hc
  rw [recordedFence_cmds]
  let x : Group := { s.group with fences := s.group.fences ++ [recordedFence f s] }
  have hexec : exec (.qfence f) s = .next (effQfence f s) := run_ok hc
  rw [effQfence_eq hp h] at hexec
  by_cases hw : f.w = 1 ∧ fencedCmds s f.q s.core.nextCmd ≠ []
  · obtain ⟨t, ht, houtside, hsame, hstill⟩ :=
      blockIn_setGroup (s := s) (x := x) (.qfence f) 2 (BitVec.ofNat 64 s.core.nextCmd) rfl
    refine ⟨t, hexec.trans (congrArg _ ((if_pos hw).trans ht)), houtside, hsame, fun hend => ?_, fun _ _ => hstill⟩
    rcases hend with h0 | h0
    · exact absurd (h0.symm.trans hw.1) (by decide)
    · exact absurd h0 hw.2
  · obtain ⟨t, ht, hpast, hsame⟩ := advance_setGroup (s := s) (x := x) rfl hpc
    exact ⟨t, hexec.trans (congrArg _ ((if_neg hw).trans ht)), hpast.outside, hsame, fun _ => hpast.split,
      fun h1 h2 => absurd ⟨h1, h2⟩ hw⟩

end
end
end Sys2Proof.Proofs
end

section
/-!
The checks of a whole command (R101), in the words of the statements: its kind, its form, its core, its privilege.
-/

namespace Sys2Proof.Proofs

open Sys2Proof.Machine Sys2Proof.Statements

section
variable {s : State} {q : Nat} {ws : List DWord}

theorem kindQueue_iff : kindQueue (ws.getD 0 0) q = true ↔ KindInQueue ws q := by
  unfold kindQueue KindInQueue kindOf
  split
  all_goals simp_all

theorem kindOf_mem (h : KindInQueue ws q) : kindOf ws ∈ [1, 2, 3, 4, 5, 6, 7] := by
  rcases h with ⟨h, -⟩ | ⟨h, -⟩ <;> simp at h ⊢ <;> omega

/-- A command of one of the queue's kinds has its form exactly when the model's checks of length, fields and spaces pass. -/
theorem commandFormed_iff (h : KindInQueue ws q) : CommandFormed s ws ↔
    ws.length = kindWords (ws.getD 0 0) ∧
      commandFieldsOk (ws.getD 0 0) (ws.getD 1 0) (ws.getD 2 0) = true ∧
      kindSpaces (kindOf ws) (srcSpace s ws) (dstSpace s ws) = true := by
  have hk := kindOf_mem h
  unfold CommandFormed kindWords kindSpaces
  rw [← kindOf]
  generalize kindOf ws = k at hk ⊢
  simp only [List.mem_cons, List.not_mem_nil, or_false] at hk
  rcases hk with rfl | rfl | rfl | rfl | rfl | rfl | rfl
  · simp; omega
  · simp; omega
  · cases (ws.getD 0 0).getLsbD 24 <;> simp <;> omega
  · simp
  · simp
  · simp
  · simp

/-- The spaces of the records that a command names. -/
def namedSpaces (s : State) (ws : List DWord) : List Nat :=
  if kindOf ws ≤ 2 ∨ kindOf ws = 4 ∨ kindOf ws = 5 then [srcSpace s ws, dstSpace s ws]
  else if kindOf ws = 3 then [srcSpace s ws] else []

theorem coreRuns_iff (h : KindInQueue ws q) : CoreRuns s ws ↔
    (isOasis s.sel.core && (decide (kindOf ws = 3) || (namedSpaces s ws).contains 2)) = false := by
  have hk := kindOf_mem h
  unfold CoreRuns namedSpaces
  generalize kindOf ws = k at hk ⊢
  simp only [List.mem_cons, List.not_mem_nil, or_false] at hk
  cases isOasis s.sel.core with
  | false => simp
  | true => rcases hk with rfl | rfl | rfl | rfl | rfl | rfl | rfl <;> simp [eq_comm (a := 2)]

theorem commandFault_eq (s : State) (q : Nat) (ws : List DWord) : commandFault s q ws =
    if !kindQueue (ws.getD 0 0) q then some illegal
    else if ws.length ≠ kindWords (ws.getD 0 0) then some illegal
    else if !commandFieldsOk (ws.getD 0 0) (ws.getD 1 0) (ws.getD 2 0) ||
      !kindSpaces (kindOf ws) (srcSpace s ws) (dstSpace s ws) then some illegal
    else if isOasis s.sel.core && (decide (kindOf ws = 3) || (namedSpaces s ws).contains 2) then some illegal
    else if (kindOf ws = 6 ∨ kindOf ws = 7) ∧ !s.group.priv then some privilegeViolation
    else none := rfl

/-- A command that is not its queue's, not well formed or not for its core is illegal. -/
theorem commandFault_illegal (h : ¬ (KindInQueue ws q ∧ CommandFormed s ws ∧ CoreRuns s ws)) :
    commandFault s q ws = some illegal := by
  rw [commandFault_eq]
  by_cases hk : KindInQueue ws q
  · rw [commandFormed_iff hk, coreRuns_iff hk] at h
    rw [kindQueue_iff.2 hk]
    split_ifs with h1 h2 h3 h4 h5
    · rfl
    · rfl
    · rfl
    · rfl
    · simp_all
    · simp_all
  · rw [← kindQueue_iff, Bool.not_eq_true] at hk
    rw [hk]
    rfl

/-- Once these checks pass, its privilege alone decides (R101 check 4). -/
theorem commandFault_of_runs (hk : KindInQueue ws q) (hf : CommandFormed s ws) (hr : CoreRuns s ws) :
    commandFault s q ws = if (kindOf ws = 6 ∨ kindOf ws = 7) ∧ !s.group.priv then some privilegeViolation else none := by
  obtain ⟨hlen, hfields, hspaces⟩ := (commandFormed_iff hk).1 hf
  rw [commandFault_eq, kindQueue_iff.2 hk, hfields, hspaces, (coreRuns_iff hk).1 hr, if_neg (not_not.2 hlen)]
  rfl

theorem commandFault_privilege (hk : KindInQueue ws q) (hf : CommandFormed s ws) (hr : CoreRuns s ws)
    (hp : ¬ GroupMaySend s ws) : commandFault s q ws = some privilegeViolation := by
  rw [GroupMaySend, Classical.not_imp, Bool.not_eq_true] at hp
  obtain ⟨hkind, hpriv⟩ := hp
  rw [commandFault_of_runs hk hf hr, if_pos ⟨hkind, by rw [hpriv]; rfl⟩]

theorem commandFault_none (h : CommandPasses s q ws) : commandFault s q ws = none := by
  obtain ⟨hk, hf, hr, hp⟩ := h
  rw [commandFault_of_runs hk hf hr, if_neg]
  rintro ⟨hkind, hpriv⟩
  rw [hp hkind] at hpriv
  exact Bool.false_ne_true hpriv

end
end Sys2Proof.Proofs
end

section
/-!
QW to an engine queue (R93, R95, R101): a word of a command, and a whole command that enters or waits.
-/

namespace Sys2Proof.Proofs

open Sys2Proof.Machine Sys2Proof.Statements

section
variable {s t u : State} {f : QReg} {q : Nat} {ws : List DWord}

/-! ### The order of issue -/

theorem qwAhead_false (h : NoQwWaits s q) : qwAhead q s = false := by
  have hnil : (s.group.asmOrder.filter fun x => x.1 = q && s.group.standing x) = [] := by
    refine List.filter_eq_nil_iff.2 fun x hx => ?_
    rw [Bool.and_eq_true, decide_eq_true_eq]
    rintro ⟨hq, hst⟩
    rw [h x hx hq] at hst
    exact Bool.false_ne_true hst
  rw [qwAhead, hnil]
  rfl

theorem qwAhead_true (h : QwWaitsAhead s q) : qwAhead q s = true := by
  obtain ⟨x, l, hl, hq, hslot, hst⟩ := h
  rw [qwAhead, hl, List.filter_cons, if_pos (by rw [hst, Bool.and_true]; exact decide_eq_true hq), List.takeWhile_cons,
    if_pos (bne_iff_ne.2 hslot)]
  rfl

/-- A QW that has issued stands in the order while its split is alive. -/
theorem standing_qwPlace (h : s.canIssue = true) (q : Nat) : s.group.standing (qwPlace q s) = true := by
  have hst : (s.split.st != .free) = true := by
    simp only [State.canIssue, Bool.and_eq_true, Bool.or_eq_true, beq_iff_eq] at h
    obtain ⟨-, h | ⟨h, -⟩⟩ := h <;> rw [h] <;> rfl
  rw [Group.standing, Bool.and_eq_true, Bool.or_eq_true]
  exact ⟨hst, .inl (beq_self_eq_true s.split.pc)⟩

theorem leavePlace_setGroup {x : Group} (hx : x.splits = s.group.splits) : leavePlace q (s.setGroup x) =
    s.setGroup { x with asmOrder := x.asmOrder.filter (· != qwPlace q s) } := by
  have hplace : qwPlace q (s.setGroup x) = qwPlace q s := by
    rw [qwPlace, split_congr (s := s) (u := s.setGroup x) rfl (by rw [State.group_setGroup, hx])]
    rfl
  rw [leavePlace, hplace, State.group_setGroup, State.setGroup_setGroup]

theorem asmOrder_filter (h : NoQwWaits s q) (hs : s.canIssue = true) :
    s.group.asmOrder.filter (· != qwPlace q s) = s.group.asmOrder := by
  refine List.filter_eq_self.2 fun x hx => bne_iff_ne.2 ?_
  rintro rfl
  have hno := h _ hx rfl
  rw [standing_qwPlace hs] at hno
  exact Bool.false_ne_true hno.symm

/-- A QW with no other QW of its group to the queue has no place to leave. -/
theorem leavePlace_none {x : Group} (h : NoQwWaits s q) (hs : s.canIssue = true) (hx : x.splits = s.group.splits)
    (horder : x.asmOrder = s.group.asmOrder) : leavePlace q (s.setGroup x) = s.setGroup x := by
  have hself : x.asmOrder.filter (· != qwPlace q s) = x.asmOrder := by rw [horder, asmOrder_filter h hs]
  rw [leavePlace_setGroup hx, hself]

/-- Taking or leaving a place changes the order of issue alone. -/
theorem takePlace_group (q : Nat) (s : State) :
    OnlyGroup s (takePlace q s) ∧ { (takePlace q s).group with asmOrder := s.group.asmOrder } = s.group := by
  unfold takePlace
  dsimp only
  split
  · exact ⟨⟨rfl, fun _ _ => rfl, rfl, fun _ _ => rfl, fun _ _ => rfl⟩, rfl⟩
  · exact ⟨onlyGroup_setGroup s _, by rw [State.group_setGroup]⟩

theorem leavePlace_group (q : Nat) (s : State) :
    OnlyGroup s (leavePlace q s) ∧ { (leavePlace q s).group with asmOrder := s.group.asmOrder } = s.group :=
  ⟨onlyGroup_setGroup s _, by rw [leavePlace, State.group_setGroup]⟩

/-! ### A word of a command -/

/-- The group with the words of a command so far. -/
def withWords (q : Nat) (ws : List DWord) (g : Group) : Group := { g with asm_ := mapSet g.asm_ q ws }

section
variable (hq : f.q.toNat ≤ 2) (hp : s.split.phase = 0)
include hq

theorem effQw_engine : effQw f s = qwEngine f s := by rw [effQw, if_neg (by omega), if_pos hq]

include hp

theorem qwEngine_waits (h : wholeCommand (mapGet [] s.group.asm_ f.q.toNat) = true ∨ QwWaitsAhead s f.q.toNat) :
    effQw f s = blockIn (.qw f) 3 (s.group.sAt f.a.toNat) (takePlace f.q.toNat s) := by
  have hw : (wholeCommand (mapGet [] s.group.asm_ f.q.toNat) || qwAhead f.q.toNat s) = true := by
    rcases h with h | h
    · rw [h, Bool.true_or]
    · rw [qwAhead_true h, Bool.or_true]
  simp only [effQw_engine hq, qwEngine, hp, if_neg (show ¬ (0 = 2) by decide), if_neg (show ¬ (0 = 3) by decide), hw,
    if_true]

variable (hb : wholeCommand (mapGet [] s.group.asm_ f.q.toNat) = false) (ha : NoQwWaits s f.q.toNat)
  (hws : mapGet [] s.group.asm_ f.q.toNat ++ [s.group.sAt f.a.toNat] = ws)
include hb ha hws

theorem qwEngine_part (hw : wholeCommand ws = false) : effQw f s =
    advance 1 (leavePlace f.q.toNat (s.setGroup (withWords f.q.toNat ws s.group))) := by
  simp only [effQw_engine hq, qwEngine, hp, if_neg (show ¬ (0 = 2) by decide), if_neg (show ¬ (0 = 3) by decide), hb,
    qwAhead_false ha, hws, hw, Bool.or_false, if_neg Bool.false_ne_true]
  rfl

/-- The package once a QW has made its command whole: the word is in the buffer, the mark is ended if the command ends it,
and the command is the last that waits to enter. -/
def qwCompleted (q : Nat) (ws : List DWord) (s : State) : State :=
  let t := s.setGroup (withWords q ws s.group)
  let t := if keepsIdem s (ws.getD 0 0) then t else endIdem t
  takePlace q (t.setEntering s.sel.core q (t.entering s.sel.core q ++ [wholeCmd ws s]))

theorem qwEngine_whole (hw : wholeCommand ws = true) : effQw f s =
    match commandFault s f.q.toNat ws with
    | some fault => fault s
    | none => enterFirst f (qwCompleted f.q.toNat ws s) := by
  simp only [effQw_engine hq, qwEngine, hp, if_neg (show ¬ (0 = 2) by decide), if_neg (show ¬ (0 = 3) by decide), hb,
    qwAhead_false ha, hws, hw, Bool.or_false, if_neg Bool.false_ne_true, if_true]
  rfl

end

/-! ### A whole command -/

theorem onlyCore_trans {k : Nat} (h : OnlyCore s t k) (g : OnlyCore t u k) : OnlyCore s u k :=
  ⟨(congrArg (fun x : State => { x with cores := s.cores }) g.1).trans h.1, fun j hj => (g.2 j hj).trans (h.2 j hj)⟩

theorem sameBytes_of_onlyCore {k : Nat} (h : OnlyCore s t k) : SameBytes s t := fun v a =>
  viewByte_cores (congrArg (fun x : State => { x with performs := s.performs }) h.1) v a

theorem onlyCore_setCore (s : State) (k : Nat) (c : Core) : OnlyCore s (s.setCore k c) k :=
  ⟨rfl, fun _ hj => State.coreAt_setCore_ne s _ hj⟩

/-- Of the package nothing changes but the selected core, and of it nothing but its groups, its blocks and the commands that
wait to enter a queue. -/
structure InCore (s t : State) : Prop where
  only : OnlyCore s t s.sel.core
  core : { t.core with groups := s.core.groups, blocks := s.core.blocks, entering := s.core.entering } = s.core

theorem sel_of_onlyCore {k : Nat} (h : OnlyCore s t k) : t.sel = s.sel := (congrArg State.sel h.1 :)

theorem InCore.trans (h : InCore s t) (g : InCore t u) : InCore s u := by
  have hsel := sel_of_onlyCore h.only
  refine ⟨onlyCore_trans h.only (hsel ▸ g.only), ?_⟩
  exact (congrArg (fun c : Core => { c with groups := s.core.groups, blocks := s.core.blocks, entering := s.core.entering })
    g.core).trans h.core

theorem InCore.engQueue (h : InCore s t) (k p : Nat) : t.engQueue k p = s.engQueue k p := by
  by_cases hk : k = s.sel.core
  · have hcore := h.core
    rw [State.core, sel_of_onlyCore h.only] at hcore
    rw [hk]
    exact (congrArg (fun c : Core => mapGet [] c.eng p) hcore :)
  · rw [State.engQueue, h.only.2 k hk, State.engQueue]

theorem InCore.engFree (h : InCore s t) (k p : Nat) : t.engFree k p = s.engFree k p := by
  rw [State.engFree, h.engQueue, State.engFree]

theorem inCore_of_onlyGroup (h : OnlyGroup s t) : InCore s t :=
  ⟨onlyCore_of_onlyGroup h, (congrArg (fun c : Core => { c with blocks := s.core.blocks, entering := s.core.entering }) h.core :)⟩

theorem inCore_setBlock (s : State) (b : Block) : InCore s (s.setBlock b) := by
  refine ⟨onlyCore_setCore s _ _, ?_⟩
  rw [State.core, State.setBlock_sel, State.setBlock, State.setBlockAt, State.coreAt_setCore]
  rfl

theorem inCore_setEntering (s : State) (q : Nat) (l : List Cmd) : InCore s (s.setEntering s.sel.core q l) := by
  refine ⟨onlyCore_setCore s _ _, ?_⟩
  rw [State.core, State.setEntering, State.setCore_sel, State.coreAt_setCore]
  rfl

theorem setEntering_group (s : State) (q : Nat) (l : List Cmd) : (s.setEntering s.sel.core q l).group = s.group := by
  rw [State.group, State.groupAt, State.setEntering, State.setCore_sel, State.coreAt_setCore]
  rfl

theorem setEntering_entering (s : State) (k q : Nat) (l : List Cmd) : (s.setEntering k q l).entering k q = l := by
  rw [State.entering, State.setEntering, State.coreAt_setCore, mapGet_mapSet_same]

theorem setBlock_entering (s : State) (b : Block) (q : Nat) :
    (s.setBlock b).entering s.sel.core q = s.entering s.sel.core q := by
  rw [State.entering, State.setBlock, State.setBlockAt, State.coreAt_setCore]
  rfl

theorem qwCompleted_spec (q : Nat) (ws : List DWord) (s : State) :
    InCore s (qwCompleted q ws s) ∧
      { (qwCompleted q ws s).group with asmOrder := s.group.asmOrder } = withWords q ws s.group ∧
      (qwCompleted q ws s).entering s.sel.core q = s.entering s.sel.core q ++ [wholeCmd ws s] := by
  let x : Group := withWords q ws s.group
  let t : State := if keepsIdem s (ws.getD 0 0) then s.setGroup x else endIdem (s.setGroup x)
  have hx := onlyGroup_setGroup s x
  have ht : InCore s t ∧ t.group = x ∧ t.entering s.sel.core q = s.entering s.sel.core q := by
    unfold t
    split
    · exact ⟨inCore_of_onlyGroup hx, State.group_setGroup s x, entering_of_onlyGroup hx _ _⟩
    · exact ⟨(inCore_of_onlyGroup hx).trans (inCore_setBlock _ _), (State.group_setBlock _ _).trans (State.group_setGroup s x),
        (setBlock_entering _ _ _).trans (entering_of_onlyGroup hx _ _)⟩
  obtain ⟨hin, hgroup, hentering⟩ := ht
  have hsel : s.sel.core = t.sel.core := congrArg Sel.core (sel_of_onlyCore hin.only).symm
  have hu : qwCompleted q ws s = takePlace q (t.setEntering t.sel.core q (t.entering s.sel.core q ++ [wholeCmd ws s])) := by
    rw [← hsel]
    rfl
  obtain ⟨hplace, horder⟩ := takePlace_group q (t.setEntering t.sel.core q (t.entering s.sel.core q ++ [wholeCmd ws s]))
  rw [setEntering_group, hgroup] at horder
  rw [hu]
  refine ⟨(hin.trans (inCore_setEntering t q _)).trans (inCore_of_onlyGroup hplace), horder, ?_⟩
  rw [entering_of_onlyGroup hplace, hsel, setEntering_entering, ← hsel, hentering]

/-! ### Entering the queue -/

/-- The command as it stands in the queue (R93, R105). -/
def entered (q : Nat) (c : Cmd) (s : State) : Cmd :=
  { c with id := s.core.nextCmd, batch := s.group.lastClosed + 1, after := (fenceAfter s.group q).cmds,
           afterSers := (fenceAfter s.group q).sers, afterAcks := (fenceAfter s.group q).acks }

theorem enterCommand_spec (q : Nat) (c : Cmd) (s : State) :
    OnlyCore s (enterCommand q c s) s.sel.core ∧
      (enterCommand q c s).group = { s.group with
        asm_ := mapSet s.group.asm_ q [], openBatch := { s.group.openBatch with open_ := s.group.openBatch.open_ + 1 } } ∧
      (∀ p, (enterCommand q c s).engQueue s.sel.core p =
        if p = q then s.engQueue s.sel.core q ++ [entered q c s] else s.engQueue s.sel.core p) ∧
      ∀ p, (enterCommand q c s).entering s.sel.core p = s.entering s.sel.core p := by
  let x : Group := { s.group with
    asm_ := mapSet s.group.asm_ q [], openBatch := { s.group.openBatch with open_ := s.group.openBatch.open_ + 1 } }
  let d : Core := { s.core with
    eng := mapSet s.core.eng q (s.engQueue s.sel.core q ++ [entered q c s]), nextCmd := s.core.nextCmd + 1 }
  have hstate : ∃ u : State, OnlyCore s u s.sel.core ∧ u.core = d ∧ enterCommand q c s = u.setGroup x := by
    refine ⟨_, onlyCore_trans (onlyCore_setCore s _ _) (onlyCore_setCore _ _ _), ?_, rfl⟩
    rw [State.core, State.setCore_sel, State.setEngQueue, State.setCore_sel, State.coreAt_setCore, State.core,
      State.setCore_sel, State.coreAt_setCore]
    rfl
  obtain ⟨u, hu, hd, heq⟩ := hstate
  have hsel := sel_of_onlyCore hu
  have hgroup := onlyGroup_setGroup u x
  rw [heq, ← hsel]
  rw [State.core] at hd
  refine ⟨onlyCore_trans (hsel ▸ hu) (onlyCore_of_onlyGroup hgroup), State.group_setGroup u x, fun p => ?_, fun p => ?_⟩
  · rw [engQueue_of_onlyGroup hgroup, State.engQueue, hd, mapGet_mapSet, hsel]
    rfl
  · rw [entering_of_onlyGroup hgroup, State.entering, hd, hsel]
    rfl

end
end Sys2Proof.Proofs
end

section
/-!
What QW to an engine queue leaves (R93, R95, R101): a part of a command, a fault, a command that enters or waits.
-/

namespace Sys2Proof.Proofs

open Sys2Proof.Machine Sys2Proof.Statements

section
variable {s t u : State} {f : QReg} {ws : List DWord}

theorem enterFirst_one {c : Cmd} (h : u.entering u.sel.core f.q.toNat = [c]) (hg : c.grp = u.sel.grp)
    (hr : c.words ≤ u.engFree u.sel.core f.q.toNat) : enterFirst f u =
      advance 1 (leavePlace f.q.toNat (enterCommand f.q.toNat c (u.setEntering u.sel.core f.q.toNat []))) := by
  simp only [enterFirst, h, hg, hr, and_self, if_true]

theorem enterFirst_behind {c : Cmd} {l : List Cmd} (h : u.entering u.sel.core f.q.toNat = c :: l)
    (hc : ¬ (c.grp = u.sel.grp ∧ c.words ≤ u.engFree u.sel.core f.q.toNat)) : enterFirst f u = blockIn (.qw f) 2 0 u := by
  simp only [enterFirst, h, hc, if_false]

section
variable (hc : CanRun s 1 []) (hp : s.split.phase = 0) (hq : f.q.toNat ≤ 2)
include hc hp hq

theorem qw_waits_behind (h : wholeCommand (mapGet [] s.group.asm_ f.q.toNat) = true ∨ QwWaitsAhead s f.q.toNat) :
    ∃ t, exec (.qw f) s = .next t ∧ StillAt s t (.qw f) ∧ OnlyGroup s t ∧
      { t.group with asmOrder := s.group.asmOrder, splits := s.group.splits } = s.group := by
  obtain ⟨hplace, horder⟩ := takePlace_group f.q.toNat s
  have hr := resplit_blockIn (.qw f) 3 (s.group.sAt f.a.toNat) (takePlace f.q.toNat s)
  have hexec : exec (.qw f) s = .next (effQw f s) := run_ok hc
  rw [qwEngine_waits hq hp h] at hexec
  refine ⟨_, hexec, stillAt_blockIn _ _ _ (sel_of_onlyGroup hplace) (congrArg Group.splits horder :),
    onlyGroup_trans hplace hr.outside, ?_⟩
  exact (congrArg (fun g : Group => { g with asmOrder := s.group.asmOrder, splits := s.group.splits }) hr.eq).trans
    (congrArg (fun g : Group => { g with splits := s.group.splits }) horder)

variable (hb : wholeCommand (mapGet [] s.group.asm_ f.q.toNat) = false) (ha : NoQwWaits s f.q.toNat)
  (hws : mapGet [] s.group.asm_ f.q.toNat ++ [s.group.sAt f.a.toNat] = ws)
include hb ha hws

theorem qw_gathers (hw : wholeCommand ws = false) : ∃ t, exec (.qw f) s = .next t ∧ SteppedPast s t 1 ∧
    mapGet [] t.group.asm_ f.q.toNat = ws ∧
    { t.group with asm_ := s.group.asm_, splits := s.group.splits } = s.group := by
  obtain ⟨hs, hpc, -⟩ := id hc
  have hexec : exec (.qw f) s = .next (effQw f s) := run_ok hc
  rw [qwEngine_part hq hp hb ha hws hw, leavePlace_none (x := withWords f.q.toNat ws s.group) ha hs rfl rfl] at hexec
  obtain ⟨t, ht, hpast, hsame⟩ :=
    advance_setGroup (s := s) (x := withWords f.q.toNat ws s.group) rfl hpc
  have heq := eq_of_onlySplits hsame
  refine ⟨t, hexec.trans (congrArg _ ht), hpast, ?_, ?_⟩
  · rw [(congrArg Group.asm_ heq :), withWords, mapGet_mapSet_same]
  · exact (congrArg (fun g : Group => { g with asm_ := s.group.asm_ }) heq :)

section
variable (hw : wholeCommand ws = true)
include hw

theorem qw_illegal (h : ¬ (KindInQueue ws f.q.toNat ∧ CommandFormed s ws ∧ CoreRuns s ws)) :
    ∃ t, exec (.qw f) s = .next t ∧ Illegal s t := by
  have hexec : exec (.qw f) s = .next (effQw f s) := run_ok hc
  rw [qwEngine_whole hq hp hb ha hws hw, commandFault_illegal h] at hexec
  exact ⟨_, hexec, ill s⟩

theorem qw_unprivileged (hk : KindInQueue ws f.q.toNat) (hf : CommandFormed s ws) (hr : CoreRuns s ws)
    (hpriv : ¬ GroupMaySend s ws) : ∃ t, exec (.qw f) s = .next t ∧ Faulted s t 0x13 (wordsAtPc s) := by
  have hexec : exec (.qw f) s = .next (effQw f s) := run_ok hc
  rw [qwEngine_whole hq hp hb ha hws hw, commandFault_privilege hk hf hr hpriv] at hexec
  exact ⟨_, hexec, faulted s _ _⟩

variable (hpass : CommandPasses s f.q.toNat ws)
include hpass

theorem exec_qw_completed : exec (.qw f) s = .next (enterFirst f (qwCompleted f.q.toNat ws s)) := by
  have hexec : exec (.qw f) s = .next (effQw f s) := run_ok hc
  rw [qwEngine_whole hq hp hb ha hws hw, commandFault_none hpass] at hexec
  exact hexec

theorem qw_waits_for_room (hmine : ∀ c ∈ s.entering s.sel.core f.q.toNat, c.grp ≠ s.sel.grp)
    (h : s.entering s.sel.core f.q.toNat ≠ [] ∨ ¬ RoomFor s f.q.toNat ws.length) :
    ∃ t, exec (.qw f) s = .next t ∧ StillAt s t (.qw f) ∧ mapGet [] t.group.asm_ f.q.toNat = ws ∧
      OnlyCore s t s.sel.core ∧ SameBytes s t ∧ SameRegs s.group t.group ∧ t.core.eng = s.core.eng ∧
      t.entering s.sel.core f.q.toNat = s.entering s.sel.core f.q.toNat ++ [wholeCmd ws s] := by
  obtain ⟨hin, hgroup, hentering⟩ := qwCompleted_spec f.q.toNat ws s
  have hexec := exec_qw_completed hc hp hq hb ha hws hw hpass
  generalize qwCompleted f.q.toNat ws s = u at hin hgroup hentering hexec
  have hsel := sel_of_onlyCore hin.only
  have heff : enterFirst f u = blockIn (.qw f) 2 0 u := by
    cases hold : s.entering s.sel.core f.q.toNat with
    | nil =>
      rw [hold, List.nil_append, ← hsel] at hentering
      refine enterFirst_behind hentering fun hroom => ?_
      have hfree := hroom.2
      rw [hin.engFree, hsel] at hfree
      exact h.elim (fun h => h hold) fun h => h hfree
    | cons c l =>
      rw [hold, List.cons_append, ← hsel] at hentering
      exact enterFirst_behind hentering fun hroom => hmine c (by rw [hold]; exact List.mem_cons_self) (hsel ▸ hroom.1)
  have hr := resplit_blockIn (.qw f) 2 0 u
  have hin' := hin.trans (inCore_of_onlyGroup hr.outside)
  have hsame : { (blockIn (.qw f) 2 0 u).group with splits := s.group.splits, asmOrder := s.group.asmOrder } =
      withWords f.q.toNat ws s.group :=
    (congrArg (fun g : Group => { g with splits := s.group.splits, asmOrder := s.group.asmOrder }) hr.eq).trans
      (congrArg (fun g : Group => { g with splits := s.group.splits }) hgroup)
  refine ⟨_, hexec.trans (congrArg _ heff), stillAt_blockIn _ _ _ hsel (congrArg Group.splits hgroup :), ?_, hin'.only,
    sameBytes_of_onlyCore hin'.only, ?_, (congrArg Core.eng hin'.core :), ?_⟩
  · rw [(congrArg Group.asm_ hsame :), withWords, mapGet_mapSet_same]
  · exact ⟨(congrArg Group.v hsame :), (congrArg Group.s hsame :), (congrArg Group.p hsame :), (congrArg Group.x hsame :),
      (congrArg Group.blo hsame :), (congrArg Group.bhi hsame :), (congrArg Group.d hsame :)⟩
  · rw [entering_of_onlyGroup hr.outside, hentering]

/-- A whole command enters its queue in the open batch, and its QW ends. -/
theorem qw_enters (hempty : s.entering s.sel.core f.q.toNat = []) (hroom : RoomFor s f.q.toNat ws.length) :
    ∃ t c, exec (.qw f) s = .next t ∧ SameBytes s t ∧ SplitIs s t (SplitPast s 1) ∧ NewCommand s ws c ∧
      s.sel.core = t.sel.core ∧ t.engQueue s.sel.core f.q.toNat = s.engQueue s.sel.core f.q.toNat ++ [c] ∧
      (∀ p, p ≠ f.q.toNat → t.engQueue s.sel.core p = s.engQueue s.sel.core p) ∧
      mapGet [] t.group.asm_ f.q.toNat = [] ∧ t.entering s.sel.core f.q.toNat = [] ∧
      t.group.openBatch.open_ = s.group.openBatch.open_ + 1 ∧ SameRegs s.group t.group := by
  obtain ⟨-, hpc, -⟩ := id hc
  obtain ⟨hin, hgroup, hentering⟩ := qwCompleted_spec f.q.toNat ws s
  have hexec := exec_qw_completed hc hp hq hb ha hws hw hpass
  generalize qwCompleted f.q.toNat ws s = u at hin hgroup hentering hexec
  have hsel := sel_of_onlyCore hin.only
  rw [hempty, List.nil_append, ← hsel] at hentering
  have hfree : (wholeCmd ws s).words ≤ u.engFree u.sel.core f.q.toNat := by
    rw [hin.engFree, hsel]
    exact hroom
  rw [enterFirst_one hentering (congrArg Sel.grp hsel).symm hfree] at hexec
  have hinv := hin.trans (inCore_setEntering u f.q.toNat [])
  have hgroupv := setEntering_group u f.q.toNat []
  have henteringv := setEntering_entering u u.sel.core f.q.toNat []
  generalize u.setEntering u.sel.core f.q.toNat [] = v at hexec hinv hgroupv henteringv
  have hselv := sel_of_onlyCore hinv.only
  obtain ⟨honly, hgroupw, heng, henteringw⟩ := enterCommand_spec f.q.toNat (wholeCmd ws s) v
  generalize enterCommand f.q.toNat (wholeCmd ws s) v = w at hexec honly hgroupw heng henteringw
  obtain ⟨hplace, horder⟩ := leavePlace_group f.q.toNat w
  generalize leavePlace f.q.toNat w = z at hexec hplace horder
  have hselz : z.sel = s.sel := (sel_of_onlyGroup hplace).trans ((sel_of_onlyCore honly).trans hselv)
  -- the group but for what the QW has changed of it
  have hu : { u.group with asm_ := s.group.asm_, asmOrder := s.group.asmOrder } = s.group :=
    (congrArg (fun g : Group => { g with asm_ := s.group.asm_ }) hgroup :)
  have hz : { z.group with asm_ := s.group.asm_, asmOrder := s.group.asmOrder, openBatch := s.group.openBatch } = s.group := by
    have h1 := congrArg (fun g : Group =>
      { g with asm_ := s.group.asm_, asmOrder := s.group.asmOrder, openBatch := s.group.openBatch }) horder
    rw [hgroupw, hgroupv] at h1
    exact h1.trans (congrArg (fun g : Group => { g with openBatch := s.group.openBatch }) hu)
  have hsplits : z.group.splits = s.group.splits := (congrArg Group.splits hz :)
  have hr := resplit_advance (s := z) (by rw [split_congr hselz hsplits]; exact hpc)
  have hsplit := splitIs_advance hselz hsplits hpc
  generalize advance 1 z = t at hexec hr hsplit
  have ht : { t.group with splits := s.group.splits, asm_ := s.group.asm_, asmOrder := s.group.asmOrder,
                           openBatch := s.group.openBatch } = s.group :=
    (congrArg (fun g : Group => { g with splits := s.group.splits, asm_ := s.group.asm_, asmOrder := s.group.asmOrder,
                                         openBatch := s.group.openBatch }) hr.eq).trans
      (congrArg (fun g : Group => { g with splits := s.group.splits }) hz)
  have hbatch : t.group.openBatch = { u.group.openBatch with open_ := u.group.openBatch.open_ + 1 } := by
    rw [(congrArg Group.openBatch hr.eq :), (congrArg Group.openBatch horder :), hgroupw, hgroupv]
  have hasm : t.group.asm_ = mapSet v.group.asm_ f.q.toNat [] := by
    rw [(congrArg Group.asm_ hr.eq :), (congrArg Group.asm_ horder :), hgroupw]
  have hnext := inCore_of_onlyGroup (onlyGroup_trans hplace hr.outside)
  refine ⟨t, entered f.q.toNat (wholeCmd ws s) v, hexec, ?_, hsplit, ?_, ?_, ?_, fun p hne => ?_, ?_, ?_, ?_, ?_⟩
  · intro a b
    rw [sameBytes_of_onlyCore hnext.only, sameBytes_of_onlyCore honly, sameBytes_of_onlyCore hinv.only]
  · have hid : v.core.nextCmd = s.core.nextCmd := (congrArg Core.nextCmd hinv.core :)
    have hclosed : v.group.lastClosed = s.group.lastClosed := by rw [hgroupv, (congrArg Group.lastClosed hu :)]
    exact ⟨hid, rfl, rfl, rfl, rfl, rfl, rfl, rfl, rfl, rfl, rfl, congrArg (· + 1) hclosed, rfl, rfl, rfl⟩
  · rw [sel_of_onlyCore hnext.only, sel_of_onlyCore honly, hselv]
  · rw [hnext.engQueue, ← hselv, heng, if_pos rfl, hinv.engQueue, hselv]
  · rw [hnext.engQueue, ← hselv, heng, if_neg hne, hinv.engQueue, hselv]
  · rw [hasm, mapGet_mapSet_same]
  · rw [entering_of_onlyGroup (onlyGroup_trans hplace hr.outside), ← hselv, henteringw, hselv, ← hsel, henteringv]
  · rw [hbatch, (congrArg Group.openBatch hu :)]
  · exact ⟨(congrArg Group.v ht :), (congrArg Group.s ht :), (congrArg Group.p ht :), (congrArg Group.x ht :),
      (congrArg Group.blo ht :), (congrArg Group.bhi ht :), (congrArg Group.d ht :)⟩

end
end
end
end Sys2Proof.Proofs
end

section
/-!
The queues of a block (R94) and QRD (R95): a word is pushed or popped, or the split waits; a queue without that use is illegal.
-/

namespace Sys2Proof.Proofs

open Sys2Proof.Machine Sys2Proof.Statements

section
variable {s t u : State} {f : QReg}

/-! ### The selected block alone -/

theorem onlyBlock_of_onlyGroup (h : OnlyGroup s t) : OnlyBlock s t :=
  ⟨onlyCore_of_onlyGroup h, (congrArg (fun c : Core => { c with blocks := s.core.blocks }) h.core :),
    fun _ _ => blockAt_of_onlyGroup h _ _, h.groups, h.bytes⟩

theorem onlyBlock_setBlock (s : State) (b : Block) : OnlyBlock s (s.setBlock b) := by
  have honly := onlyCore_setCore s s.sel.core { s.core with blocks := mapSet s.core.blocks s.group.blk b }
  refine ⟨honly, ?_, fun c hc => State.blockAt_setBlockAt_ne s _ b hc, fun g _ => State.groupAt_setBlockAt s _ _ _ _ _,
    sameBytes_of_onlyCore honly⟩
  rw [State.core, State.setBlock_sel, State.setBlock, State.setBlockAt, State.coreAt_setCore]
  rfl

theorem onlyBlock_trans (h : OnlyBlock s t) (g : OnlyBlock t u) (hblk : t.group.blk = s.group.blk) : OnlyBlock s u := by
  obtain ⟨h1, h2, h3, h4, h5⟩ := h
  obtain ⟨g1, g2, g3, g4, g5⟩ := g
  have hsel := sel_of_onlyCore h1
  rw [hsel] at g1 g3 g4
  rw [hblk] at g3
  refine ⟨onlyCore_trans h1 g1, ?_, fun b hb => (g3 b hb).trans (h3 b hb), fun k hk => (g4 k hk).trans (h4 k hk),
    fun v a => (g5 v a).trans (h5 v a)⟩
  exact (congrArg (fun c : Core => { c with blocks := s.core.blocks, groups := s.core.groups }) g2).trans h2

theorem block_setBlock (s : State) (b : Block) : (s.setBlock b).block = b := by
  rw [State.block, State.group_setBlock]
  exact State.blockAt_setBlockAt s _ _ b

theorem block_endIdem (s : State) : (endIdem s).block = { s.block with idem := false } := block_setBlock s _

theorem queue_endIdem (s : State) (q : Nat) : (endIdem s).block.queue q = s.block.queue q :=
  (congrArg (Block.queue · q) (block_endIdem s) :)

/-- The block with its queue `q` as `x`. -/
def withQueue (q : Nat) (x : BQueue) (b : Block) : Block := { b with queues := mapSet b.queues q x }

theorem queue_withQueue (q : Nat) (x : BQueue) (b : Block) : (withQueue q x b).queue q = x := mapGet_mapSet_same _ _ _

/-- The block is updated and the word is stepped past. -/
theorem advance_setBlock (b : Block) (hpc : s.split.pc.toNat % 1024 + 1 ≤ 1023) :
    ∃ t, advance 1 (s.setBlock b) = t ∧ OnlyBlock s t ∧ SplitIs s t (SplitPast s 1) ∧ t.block = b ∧
      OnlySplits s.group t.group := by
  have hpc' : (s.setBlock b).split.pc.toNat % 1024 + 1 ≤ 1023 := by rwa [State.split_setBlock]
  have hr := resplit_advance hpc'
  have hblk : (s.setBlock b).group.blk = s.group.blk := congrArg Group.blk (State.group_setBlock s b)
  have hgroup := hr.group
  rw [State.group_setBlock] at hgroup
  exact ⟨_, rfl, onlyBlock_trans (onlyBlock_setBlock s b) (onlyBlock_of_onlyGroup hr.outside) hblk,
    splitIs_advance rfl (congrArg Group.splits (State.group_setBlock s b)) hpc, hr.block.trans (block_setBlock s b), hgroup⟩

theorem uniWrite_of_onlySplits {g x h : Group} {d : Nat} {y : DWord} (hsame : OnlySplits (x.setS d y) h) (hs : x.s = g.s) :
    UniWrite g h d y := by
  refine ⟨?_, fun r hr => ?_⟩
  · rw [sAt_of_onlySplits hsame, Group.sAt_setS]
  · rw [sAt_of_onlySplits hsame, Group.sAt_setS_ne _ _ hr, Group.sAt, hs, Group.sAt]

/-- The block and a uniform register are updated and the word is stepped past. -/
theorem advance_setBlock_setS (b : Block) (d : Nat) (y : DWord) (hpc : s.split.pc.toNat % 1024 + 1 ≤ 1023) :
    ∃ t, advance 1 ((s.setBlock b).setGroup (s.group.setS d y)) = t ∧ OnlyBlock s t ∧ SplitIs s t (SplitPast s 1) ∧
      t.block = b ∧ UniWrite s.group t.group d y ∧ OnlyUni s.group t.group := by
  have hsame : (s.setBlock b).group = s.group := State.group_setBlock s b
  have hpc' : (s.setBlock b).split.pc.toNat % 1024 + 1 ≤ 1023 := by rwa [State.split_setBlock]
  obtain ⟨t, ht, ⟨houtside, hsplit⟩, hgroup⟩ := advance_setGroup (s := s.setBlock b) (x := s.group.setS d y)
    (congrArg Group.splits hsame).symm hpc'
  have hsplitIs : SplitIs s t (SplitPast s 1) := by
    obtain ⟨hp, hothers⟩ := hsplit
    rw [hsame] at hothers
    rw [SplitPast, State.split_setBlock] at hp
    exact ⟨hp, hothers⟩
  have hblk : t.group.blk = s.group.blk := (congrArg Group.blk (eq_of_onlySplits hgroup) :)
  have hblock : t.block = b := by
    rw [State.block, hblk, blockAt_of_onlyGroup houtside, sel_of_onlyGroup houtside]
    exact State.blockAt_setBlockAt s _ _ b
  refine ⟨t, ht, onlyBlock_trans (onlyBlock_setBlock s b) (onlyBlock_of_onlyGroup houtside) (congrArg Group.blk hsame),
    hsplitIs, hblock, uniWrite_of_onlySplits hgroup rfl, onlyUni_of_onlySplits hgroup rfl⟩

/-! ### QW to a queue of the block -/

theorem declared_iff (b : Block) (q : Nat) : b.declared q = true ↔ 0 < (b.queue q).cap := decide_eq_true_iff

theorem undeclared {b : Block} {q : Nat} (h : (b.queue q).cap = 0) : b.declared q = false := by
  rw [Block.declared, h]
  rfl

section
variable (hc : CanRun s 1 [])
include hc

theorem qw_illegal_queue (h : (3 ≤ f.q.toNat ∧ f.q.toNat ≤ 7) ∨ (8 ≤ f.q.toNat ∧ (s.block.queue f.q.toNat).cap = 0)) :
    ∃ t, exec (.qw f) s = .next t ∧ Illegal s t := by
  have hexec : exec (.qw f) s = .next (effQw f s) := run_ok hc
  refine ⟨_, hexec, ?_⟩
  rcases h with h | ⟨hq, hcap⟩
  · rw [effQw, if_pos h]
    exact ill s
  · rw [effQw, if_neg (by omega), if_neg (by omega), qwBlock, undeclared hcap]
    exact ill s

section
variable (hp : s.split.phase = 0) (hq : 8 ≤ f.q.toNat) (hdrained : s.drained = true)
  (hcap : 0 < (s.block.queue f.q.toNat).cap)
include hp hq hdrained hcap

/-- QW to a declared queue of a drained split ends the mark, then pushes its word or waits. -/
theorem exec_qw_block : exec (.qw f) s = .next (
    if (s.block.queue f.q.toNat).q.length < (s.block.queue f.q.toNat).cap then
      advance 1 ((endIdem s).setBlock (withQueue f.q.toNat { s.block.queue f.q.toNat with
        q := (s.block.queue f.q.toNat).q ++ [s.group.sAt f.a.toNat] } (endIdem s).block))
    else blockIn (.qw f) 2 (s.group.sAt f.a.toNat) (endIdem s)) := by
  have hexec : exec (.qw f) s = .next (effQw f s) := run_ok hc
  have hphase : (endIdem s).split.phase = 0 := (congrArg Split.phase (State.split_setBlock s _)).trans hp
  have hqueue := queue_endIdem s f.q.toNat
  rw [hexec, effQw, if_neg (by omega), if_neg (by omega)]
  have hd : (endIdem s).drained = true := (drained_unmarked s).trans hdrained
  rw [qwBlock, (declared_iff _ _).2 hcap]
  simp only [hp, Bool.not_true, if_neg (show ¬ (0 = 2) by decide), releaseThen, hd, hqueue,
    if_neg (show ¬ (2 = 0) by decide), Bool.false_eq_true,
    and_false, if_false, if_pos (show 2 ≤ 5 by decide)]
  rfl

theorem qw_pushes (h : (s.block.queue f.q.toNat).q.length < (s.block.queue f.q.toNat).cap) :
    ∃ t, exec (.qw f) s = .next t ∧ OnlyBlock s t ∧ SplitIs s t (SplitPast s 1) ∧
      t.block.queue f.q.toNat = { s.block.queue f.q.toNat with
        q := (s.block.queue f.q.toNat).q ++ [s.group.sAt f.a.toNat] } ∧
      OnlySplits s.group t.group ∧ { t.block with queues := s.block.queues, idem := s.block.idem } = s.block := by
  obtain ⟨-, hpc, -⟩ := id hc
  have hexec := exec_qw_block hc hp hq hdrained hcap
  rw [if_pos h] at hexec
  generalize ({ s.block.queue f.q.toNat with
    q := (s.block.queue f.q.toNat).q ++ [s.group.sAt f.a.toNat] } : BQueue) = x at hexec ⊢
  have hgroup : (endIdem s).group = s.group := State.group_setBlock s _
  have hsplit : (endIdem s).split = s.split := State.split_setBlock s _
  obtain ⟨t, ht, honly, hpast, hblock, hsame⟩ :=
    advance_setBlock (s := endIdem s) (withQueue f.q.toNat x (endIdem s).block) (hsplit ▸ hpc)
  refine ⟨t, hexec.trans (congrArg _ ht), onlyBlock_trans (onlyBlock_setBlock s _) honly (congrArg Group.blk hgroup), ?_,
    ?_, hgroup ▸ hsame, ?_⟩
  · obtain ⟨hp', hothers⟩ := hpast
    rw [SplitPast, hsplit] at hp'
    rw [hgroup] at hothers
    exact ⟨hp', hothers⟩
  · rw [hblock, queue_withQueue]
  · rw [hblock, block_endIdem]
    rfl

theorem qw_waits_full (h : (s.block.queue f.q.toNat).cap ≤ (s.block.queue f.q.toNat).q.length) :
    ∃ t, exec (.qw f) s = .next t ∧ StillAt s t (.qw f) ∧ t.block.queue f.q.toNat = s.block.queue f.q.toNat := by
  have hexec := exec_qw_block hc hp hq hdrained hcap
  rw [if_neg (not_lt.2 h)] at hexec
  refine ⟨_, hexec, stillAt_blockIn _ _ _ rfl (congrArg Group.splits (State.group_setBlock s _)), ?_⟩
  rw [(resplit_blockIn _ _ _ _).block]
  exact queue_endIdem s f.q.toNat

end

/-! ### QRD -/

theorem qrd_illegal (h : f.q.toNat = 3 ∨ (8 ≤ f.q.toNat ∧ (s.block.queue f.q.toNat).cap = 0)) :
    ∃ t, exec (.qrd f) s = .next t ∧ Illegal s t := by
  have hexec : exec (.qrd f) s = .next (effQrd f s) := run_ok hc
  refine ⟨_, hexec, ?_⟩
  rcases h with h | ⟨hq, hcap⟩
  · rw [effQrd, if_pos h]
    exact ill s
  · simp only [effQrd, if_neg (show ¬ f.q.toNat = 3 by omega), if_neg (show ¬ f.q.toNat ≤ 2 by omega),
      if_neg (show ¬ f.q.toNat ≤ 6 by omega), if_neg (show ¬ f.q.toNat = 7 by omega), undeclared hcap, Bool.not_false, if_true]
    exact ill s

theorem qrd_reads_room (hq : f.q.toNat ≤ 2) : ∃ t, exec (.qrd f) s = .next t ∧
    UniResult s t 1 f.a.toNat (BitVec.ofNat 64 (s.engFree s.sel.core f.q.toNat)) := by
  obtain ⟨-, hpc, -⟩ := id hc
  have hexec : exec (.qrd f) s = .next (effQrd f s) := run_ok hc
  rw [effQrd, if_neg (by omega), if_pos hq] at hexec
  generalize BitVec.ofNat 64 (s.engFree s.sel.core f.q.toNat) = y at hexec ⊢
  obtain ⟨t, ht, hpast, hsame⟩ := advance_setGroup (s := s) (x := s.group.setS f.a.toNat y) rfl hpc
  exact ⟨t, hexec.trans (congrArg _ ht), hpast, onlyUni_of_onlySplits hsame rfl, uniWrite_of_onlySplits hsame rfl⟩

/-- QRD of a record queue pops its head, `rest` being what the pop does to the queue. -/
theorem qrdRecord_pops {l : List DWord} {rest : List DWord → Group → Group} {r : DWord} {rs : List DWord}
    (hexec : exec (.qrd f) s = .next (qrdRecord f l rest s)) (hl : l = r :: rs)
    (hregs : (rest rs s.group).s = s.group.s) (hsplits : (rest rs s.group).splits = s.group.splits) :
    ∃ t, exec (.qrd f) s = .next t ∧ SteppedPast s t 1 ∧ UniWrite s.group t.group f.a.toNat r ∧
      { t.group with s := s.group.s, splits := s.group.splits } = rest rs s.group := by
  obtain ⟨-, hpc, -⟩ := id hc
  rw [hl, qrdRecord] at hexec
  obtain ⟨t, ht, hpast, hsame⟩ := advance_setGroup (s := s) (x := (rest rs s.group).setS f.a.toNat r) hsplits hpc
  refine ⟨t, hexec.trans (congrArg _ ht), hpast, uniWrite_of_onlySplits hsame hregs, ?_⟩
  have heq := congrArg (fun g : Group => { g with s := s.group.s, splits := s.group.splits }) (eq_of_onlySplits hsame)
  generalize rest rs s.group = x at hregs hsplits heq
  rw [← hregs, ← hsplits] at heq ⊢
  exact heq

theorem qrd_pops_completion (hq : 4 ≤ f.q.toNat) (hq' : f.q.toNat ≤ 6) {r : DWord} {rs : List DWord}
    (h : mapGet [] s.group.comp (f.q.toNat - 4) = r :: rs) : ∃ t, exec (.qrd f) s = .next t ∧
      SteppedPast s t 1 ∧ UniWrite s.group t.group f.a.toNat r ∧ mapGet [] t.group.comp (f.q.toNat - 4) = rs ∧
      { t.group with s := s.group.s, comp := s.group.comp, splits := s.group.splits } = s.group := by
  have hexec : exec (.qrd f) s = .next (effQrd f s) := run_ok hc
  rw [effQrd, if_neg (by omega), if_neg (by omega), if_pos hq'] at hexec
  obtain ⟨t, ht, hpast, hreg, hsame⟩ := qrdRecord_pops hc hexec h rfl rfl
  refine ⟨t, ht, hpast, hreg, ?_, (congrArg (fun g : Group => { g with comp := s.group.comp }) hsame :)⟩
  rw [(congrArg Group.comp hsame :), mapGet_mapSet_same]

theorem qrd_pops_q7 (hq : f.q.toNat = 7) {r : DWord} {rs : List DWord} (h : s.group.q7 = r :: rs) :
    ∃ t, exec (.qrd f) s = .next t ∧ SteppedPast s t 1 ∧ UniWrite s.group t.group f.a.toNat r ∧
      { t.group with s := s.group.s, q7cut := s.group.q7cut, splits := s.group.splits } = { s.group with q7 := rs } := by
  have hexec : exec (.qrd f) s = .next (effQrd f s) := run_ok hc
  rw [effQrd, if_neg (by omega), if_neg (by omega), if_neg (by omega), if_pos hq] at hexec
  obtain ⟨t, ht, hpast, hreg, hsame⟩ := qrdRecord_pops hc hexec h rfl rfl
  exact ⟨t, ht, hpast, hreg, (congrArg (fun g : Group => { g with q7cut := s.group.q7cut }) hsame :)⟩

theorem qrd_pops_block (hq : 8 ≤ f.q.toNat) (hcap : 0 < (s.block.queue f.q.toNat).cap) {r : DWord} {rs : List DWord}
    (h : (s.block.queue f.q.toNat).q = r :: rs) : ∃ t, exec (.qrd f) s = .next t ∧ OnlyBlock s t ∧
      SplitIs s t (SplitPast s 1) ∧ UniWrite s.group t.group f.a.toNat r ∧ OnlyUni s.group t.group ∧
      t.block.queue f.q.toNat = { s.block.queue f.q.toNat with q := rs } ∧
      { t.block with queues := s.block.queues } = s.block := by
  obtain ⟨-, hpc, -⟩ := id hc
  have hexec : exec (.qrd f) s = .next (effQrd f s) := run_ok hc
  have heff : effQrd f s = advance 1 ((s.setBlock (withQueue f.q.toNat { s.block.queue f.q.toNat with q := rs } s.block)).setGroup
      (s.group.setS f.a.toNat r)) := by
    rw [effQrd, if_neg (by omega), if_neg (by omega), if_neg (by omega), if_neg (by omega), (declared_iff _ _).2 hcap]
    simp only [Bool.not_true, if_neg Bool.false_ne_true, h, State.group_setBlock]
    rfl
  generalize ({ s.block.queue f.q.toNat with q := rs } : BQueue) = x at heff ⊢
  obtain ⟨t, ht, honly, hpast, hblock, hreg, hsame⟩ :=
    advance_setBlock_setS (s := s) (withQueue f.q.toNat x s.block) f.a.toNat r hpc
  refine ⟨t, hexec.trans (congrArg _ (heff.trans ht)), honly, hpast, hreg, hsame, ?_, ?_⟩
  · rw [hblock, queue_withQueue]
  · rw [hblock]
    rfl

theorem qrd_waits (h : (4 ≤ f.q.toNat ∧ f.q.toNat ≤ 6 ∧ mapGet [] s.group.comp (f.q.toNat - 4) = []) ∨
    (f.q.toNat = 7 ∧ s.group.q7 = []) ∨
    (8 ≤ f.q.toNat ∧ 0 < (s.block.queue f.q.toNat).cap ∧ (s.block.queue f.q.toNat).q = [])) :
    ∃ t, exec (.qrd f) s = .next t ∧ Waits s t (.qrd f) := by
  have hexec : exec (.qrd f) s = .next (effQrd f s) := run_ok hc
  have heff : effQrd f s = blockIn (.qrd f) 2 0 s := by
    rcases h with ⟨hq, hq', hnil⟩ | ⟨hq, hnil⟩ | ⟨hq, hcap, hnil⟩
    · rw [effQrd, if_neg (by omega), if_neg (by omega), if_pos hq', hnil, qrdRecord]
    · rw [effQrd, if_neg (by omega), if_neg (by omega), if_neg (by omega), if_pos hq, hnil, qrdRecord]
    · rw [effQrd, if_neg (by omega), if_neg (by omega), if_neg (by omega), if_neg (by omega), (declared_iff _ _).2 hcap]
      simp only [Bool.not_true, if_neg Bool.false_ne_true, hnil]
  exact ⟨_, hexec.trans (congrArg _ heff), waits_blockIn _ _ _ s⟩

end
end

/-- Settles O34: each word's effect is cut into its cases, and the rules of the step past a word and of a wait give the rest. -/
theorem queueWordsAndBatches : Obligations.QueueWordsAndBatches := by
  unfold Obligations.QueueWordsAndBatches
  refine ⟨fun s f hc hp => ?_, fun s f hc hp => ?_, fun s f hc hp => ?_⟩
  · intro q w ws x whole
    refine ⟨qw_illegal_queue hc, fun hq hb hw ha => qw_gathers hc hp hq hb ha rfl hw,
      fun ⟨hq, hb, hw, ha⟩ h => qw_illegal hc hp hq hb ha rfl hw h,
      fun ⟨hq, hb, hw, ha⟩ hk hf hr h => qw_unprivileged hc hp hq hb ha rfl hw hk hf hr h,
      fun ⟨hq, hb, hw, ha⟩ h hempty hroom => qw_enters hc hp hq hb ha rfl hw h hempty hroom,
      fun ⟨hq, hb, hw, ha⟩ h hmine hbusy => qw_waits_for_room hc hp hq hb ha rfl hw h hmine hbusy,
      fun hq h => qw_waits_behind hc hp hq h,
      fun hq hd h => qw_pushes hc hp hq hd (Nat.zero_lt_of_lt h) h,
      fun hq hd hcap h => qw_waits_full hc hp hq hd hcap h,
      qrd_illegal hc, qrd_reads_room hc, fun hq hq' r rs h => qrd_pops_completion hc hq hq' h,
      fun hq r rs h => qrd_pops_q7 hc hq h, fun hq hcap r rs h => qrd_pops_block hc hq hcap h, qrd_waits hc⟩
  · exact ⟨bclose_closes hc, bclose_waits hc, waitb_waits hp hc, fun h hm => waitb_gives hp hc rfl h hm,
      fun x h hm hr hx hh => waitb_traps hp hc rfl h hm hr hx hh⟩
  · refine ⟨qfence_illegal hc, fun h => ?_⟩
    intro own hown
    obtain ⟨t, ht, honly, hsame, hends, hwaits⟩ := qfence_records hc hp h
    have heq := eq_of_onlySplits hsame
    refine ⟨t, recordedFence f s, ht, honly, (congrArg Group.fences heq :), recordedFence_q f s,
      (congrArg (fun g : Group => { g with fences := s.group.fences }) heq :), ?_, fun hm => ?_,
      fun hm => (recordedFence_m hm).1, fun hm => (recordedFence_m hm).2.1, fun hm => (recordedFence_m hm).2.2, hends, hwaits⟩
    · rw [recordedFence_cmds]
      exact mem_fencedCmds hown
    · rw [recordedFence, if_neg (by rw [hm]; decide)]
      exact ⟨rfl, rfl⟩

end Sys2Proof.Proofs
end

section
/-!
Pages of a command (R56-R58): what their translation leaves, and what of the state it leaves alone.
-/

namespace Sys2Proof.Proofs

open Sys2Proof.Machine Sys2Proof.Statements

section
variable {s t u : State} {c : Cmd} {k q : Nat}

/-! ### Translations change the TLBs and what reads change -/

/-- The state with other cores and other TLBs of its dies. -/
def withTlbs (s x : State) : State :=
  { x with cores := s.cores, north := { x.north with tlb := s.north.tlb }, south := { x.south with tlb := s.south.tlb } }

theorem onlyReads_withTlbs (h : OnlyReads s t) (x : State) : OnlyReads (withTlbs x s) (withTlbs x t) := by
  obtain ⟨h1, h2, h3, h4⟩ := h
  exact ⟨congrArg (withTlbs x) h1, h2, congrArg (fun d : Die => { d with tlb := x.north.tlb }) h3,
    congrArg (fun d : Die => { d with tlb := x.south.tlb }) h4⟩

theorem onlyTranslates_refl (s : State) : OnlyTranslates s s := ⟨onlyReads_refl s, fun _ => rfl⟩

theorem onlyTranslates_trans (h : OnlyTranslates s t) (g : OnlyTranslates t u) : OnlyTranslates s u := by
  obtain ⟨h1, h2⟩ := h
  obtain ⟨g1, g2⟩ := g
  refine ⟨onlyReads_trans h1 (onlyReads_withTlbs g1 s), fun j => ?_⟩
  exact (congrArg (fun c : Core => { c with tlb := (s.coreAt j).tlb }) (g2 j)).trans (h2 j)

theorem cores_of_onlyReads (h : OnlyReads s t) : t.cores = s.cores := (congrArg State.cores h.1 :)

theorem onlyTranslates_of_onlyReads (h : OnlyReads s t) : OnlyTranslates s t := by
  have hn : t.north.tlb = s.north.tlb := (congrArg Die.tlb h.2.2.1 :)
  have hs : t.south.tlb = s.south.tlb := (congrArg Die.tlb h.2.2.2 :)
  have hc := cores_of_onlyReads h
  refine ⟨?_, fun j => ?_⟩
  · rw [← hn, ← hs, ← hc]
    exact h
  · rw [State.coreAt, hc]
    rfl

theorem onlyTranslates_fillTlb (k : Nat) (e : TlbEntry) (s : State) : OnlyTranslates s (fillTlb k e s) := by
  have hcore (x : State) (l : List TlbEntry) (j : Nat) :
      { (x.setCore k { x.coreAt k with tlb := l }).coreAt j with tlb := (x.coreAt j).tlb } = x.coreAt j := by
    by_cases h : j = k
    · rw [h, State.coreAt_setCore]
    · rw [State.coreAt_setCore_ne _ _ h]
  have hdie : OnlyTranslates s (s.setDie (dieOf k) { s.dieAt (dieOf k) with tlb := tlbPut 16384 (s.dieAt (dieOf k)).tlb e }) := by
    unfold State.setDie State.dieAt
    split <;> exact ⟨onlyReads_refl s, fun _ => rfl⟩
  exact onlyTranslates_trans hdie ⟨onlyReads_refl _, hcore _ _⟩

theorem onlyTranslates_walk (d asn vpn : Nat) (expect : Option (BitVec 16)) (s : State) :
    OnlyTranslates s (walk d asn vpn expect s).2 := onlyTranslates_of_onlyReads (onlyReads_walk d asn vpn expect s)

theorem onlyTranslates_translate (k asn vpn : Nat) (s : State) : OnlyTranslates s (Machine.translate k asn vpn s).2 := by
  have hwalk := onlyTranslates_walk (dieOf k) asn vpn none s
  unfold Machine.translate
  split
  · exact onlyTranslates_refl s
  · split
    · exact onlyTranslates_fillTlb k _ s
    · split
      next h =>
        rw [h] at hwalk
        exact onlyTranslates_trans hwalk (onlyTranslates_fillTlb k _ _)
      next h => rwa [h] at hwalk
      next h => rwa [h] at hwalk

theorem onlyTranslates_cmdPage (k : Nat) (c : Cmd) (p : Nat) (s : State) : OnlyTranslates s (cmdPage k c p s).2 := by
  unfold cmdPage
  split
  · exact onlyTranslates_translate k c.asn p s
  next g _ =>
    have hwalk := onlyTranslates_walk (dieOf k) c.asn p (some g) s
    split
    next h =>
      rw [h] at hwalk
      exact onlyTranslates_trans hwalk (onlyTranslates_fillTlb k _ _)
    next h => rwa [h] at hwalk
    next h => rwa [h] at hwalk

theorem onlyTranslates_cmdPageList (k : Nat) (c : Cmd) (ps : List Nat) (s : State) :
    OnlyTranslates s (cmdPageList k c ps s).2 := by
  induction ps generalizing s with
  | nil => exact onlyTranslates_refl s
  | cons p ps ih => exact onlyTranslates_trans (onlyTranslates_cmdPage k c p s) (ih _)

/-! ### Memory stays well formed -/

theorem mem_setDie (s : State) (d : Nat) (e : Die) : (s.setDie d e).mem = s.mem := by
  unfold State.setDie
  split <;> rfl

theorem mem_fillTlb (k : Nat) (e : TlbEntry) (s : State) : (fillTlb k e s).mem = s.mem := mem_setDie s _ _

theorem raiseEvent_wf (d src type : Nat) (payload : List Byte) (h : Memory.wf s.mem = true) :
    Memory.wf (raiseEvent d src type payload s).mem = true := by
  have hseq : Memory.wf (bumpSeq d src s).2.mem = true := by
    rw [bumpSeq, mem_setDie]
    exact h
  unfold raiseEvent
  dsimp only
  split
  · exact hseq
  · rw [raiseMsix, mem_setDie]
    exact writeView_wf 0 _ hseq

theorem walk_wf (d asn vpn : Nat) (expect : Option (BitVec 16)) (h : Memory.wf s.mem = true) :
    Memory.wf (walk d asn vpn expect s).2.mem = true := by
  have hcount : Memory.wf (countCorrected (s.walkOf asn vpn expect).reads s).mem = true := by
    rw [countCorrected_mem]
    exact h
  unfold walk
  dsimp only
  generalize (s.walkOf asn vpn expect).long = ks
  generalize countCorrected (s.walkOf asn vpn expect).reads s = t at hcount
  induction ks generalizing t with
  | nil => exact hcount
  | cons k ks ih => exact ih _ (raiseEvent_wf _ _ _ _ hcount)

theorem translate_wf (k asn vpn : Nat) (h : Memory.wf s.mem = true) :
    Memory.wf (Machine.translate k asn vpn s).2.mem = true := by
  have hfill (e : TlbEntry) (x : State) (hx : Memory.wf x.mem = true) : Memory.wf (fillTlb k e x).mem = true := by
    rw [mem_fillTlb]
    exact hx
  have hwalk := walk_wf (dieOf k) asn vpn none h
  unfold Machine.translate
  split
  · exact h
  · split
    · exact hfill _ s h
    · split
      next hw =>
        rw [hw] at hwalk
        exact hfill _ _ hwalk
      next hw => rwa [hw] at hwalk
      next hw => rwa [hw] at hwalk

theorem cmdPage_wf (k : Nat) (c : Cmd) (p : Nat) (h : Memory.wf s.mem = true) :
    Memory.wf (cmdPage k c p s).2.mem = true := by
  unfold cmdPage
  split
  · exact translate_wf k c.asn p h
  next g _ =>
    have hwalk := walk_wf (dieOf k) c.asn p (some g) h
    split
    next hw =>
      rw [hw] at hwalk
      exact (congrArg Memory.wf (mem_fillTlb k _ _)).trans hwalk
    next hw => rwa [hw] at hwalk
    next hw => rwa [hw] at hwalk

theorem cmdPageList_wf (k : Nat) (c : Cmd) (ps : List Nat) (h : Memory.wf s.mem = true) :
    Memory.wf (cmdPageList k c ps s).2.mem = true := by
  induction ps generalizing s with
  | nil => exact h
  | cons p ps ih => exact ih (cmdPage_wf k c p h)

/-! ### A command whose pages are translated -/

section
variable {vas : List Nat} {pages : Map Xlated}

/-- Nothing is left of pages whose generation has changed or that are walked again, once the pages are translated. -/
theorem pages_of_translated (h : Translated s k q c vas pages u) : cmdPageList k c (vas.map vpnOf).dedup s = (pages, u) := by
  unfold Translated commandPages at h
  revert h
  generalize cmdPageList k c (vas.map vpnOf).dedup s = r
  intro h
  dsimp only at h
  split at h
  · split at h
    · exact absurd (congrArg Prod.fst h) Pages.noConfusion
    · obtain ⟨hl, hu⟩ := Prod.mk.inj h
      exact Prod.ext (Pages.ok.inj hl) hu
  · exact absurd (congrArg Prod.fst h) Pages.noConfusion

theorem onlyTranslates_translated (h : Translated s k q c vas pages u) : OnlyTranslates s u := by
  have ht := onlyTranslates_cmdPageList k c (vas.map vpnOf).dedup s
  rwa [pages_of_translated h] at ht

theorem translated_wf (h : Translated s k q c vas pages u) (hwf : Memory.wf s.mem = true) : Memory.wf u.mem = true := by
  have ht := cmdPageList_wf k c (vas.map vpnOf).dedup hwf
  rwa [pages_of_translated h] at ht

theorem withPages_translated {f : Map Xlated → State → State} (h : Translated s k q c vas pages u) :
    withPages k q c vas f s = f pages u := by
  rw [withPages, (h : commandPages k q c vas s = (.ok pages, u))]

/-! ### What translation leaves alone -/

theorem rest_of_onlyTranslates (h : OnlyTranslates s t) : { t with
    cores := s.cores, mem := s.mem, copies := s.copies, l2 := s.l2, corrected := s.corrected, host := s.host, north := s.north,
    south := s.south } = s := h.1.1

theorem core_of_onlyTranslates (h : OnlyTranslates s t) (k : Nat) : { t.coreAt k with tlb := (s.coreAt k).tlb } = s.coreAt k := h.2 k

theorem die_of_onlyTranslates (h : OnlyTranslates s t) (d : Nat) : { t.dieAt d with
    srcSeq := (s.dieAt d).srcSeq, evtail := (s.dieAt d).evtail, tlb := (s.dieAt d).tlb } = s.dieAt d := by
  obtain ⟨⟨-, -, hn, hs⟩, -⟩ := h
  unfold State.dieAt
  split
  · exact (congrArg (fun x : Die => { x with tlb := s.north.tlb }) hn :)
  · exact (congrArg (fun x : Die => { x with tlb := s.south.tlb }) hs :)

theorem sel_of_onlyTranslates (h : OnlyTranslates s t) : t.sel = s.sel := (congrArg State.sel (rest_of_onlyTranslates h) :)

theorem engQueue_of_onlyTranslates (h : OnlyTranslates s t) (k q : Nat) : t.engQueue k q = s.engQueue k q :=
  (congrArg (fun c : Core => mapGet [] c.eng q) (core_of_onlyTranslates h k) :)

theorem blockAt_of_onlyTranslates (h : OnlyTranslates s t) (k b : Nat) : t.blockAt k b = s.blockAt k b :=
  (congrArg (fun c : Core => mapGet {} c.blocks b) (core_of_onlyTranslates h k) :)

theorem groupAt_of_onlyTranslates (h : OnlyTranslates s t) (k g : Nat) : t.groupAt k g = s.groupAt k g :=
  (congrArg (fun c : Core => mapGet {} c.groups g) (core_of_onlyTranslates h k) :)

theorem links_of_onlyTranslates (h : OnlyTranslates s t) : t.host.links = s.host.links := (congrArg HostBlock.links h.1.2.1 :)

end
end
end Sys2Proof.Proofs
end

section
/-!
Messages that leave a die on extended links (R208, R215, R243): each send puts its message, behind those that name its
dependencies, in the egress, or leaves it waiting at the source.
-/

namespace Sys2Proof.Proofs

open Sys2Proof.Machine Sys2Proof.Statements

section
variable {s t u : State} {d : Nat} {a b a' b' : List (Instr × Msg)} {kind : Instr} {m m' : Msg}

/-! ### What a send changes -/

theorem dieAt_setDie (s : State) (d : Nat) (e : Die) : (s.setDie d e).dieAt d = e := by
  unfold State.setDie State.dieAt
  split <;> rfl

/-- Die `d` has sent the messages `a` and keeps `b` at the source; the engines' queues and the links are as before. -/
structure Sends (d : Nat) (s t : State) (a b : List (Instr × Msg)) : Prop where
  egress : (t.dieAt d).egress = (s.dieAt d).egress ++ a
  waiting : (t.dieAt d).waiting = (s.dieAt d).waiting ++ b
  queues : ∀ k q, t.engQueue k q = s.engQueue k q
  id : t.id = s.id
  links : t.host.links = s.host.links

theorem Sends.trans (h : Sends d s t a b) (g : Sends d t u a' b') : Sends d s u (a ++ a') (b ++ b') where
  egress := by rw [g.egress, h.egress, List.append_assoc]
  waiting := by rw [g.waiting, h.waiting, List.append_assoc]
  queues k q := (g.queues k q).trans (h.queues k q)
  id := g.id.trans h.id
  links := g.links.trans h.links

theorem Sends.refl (d : Nat) (s : State) : Sends d s s [] [] :=
  ⟨(List.append_nil _).symm, (List.append_nil _).symm, fun _ _ => rfl, rfl, rfl⟩

/-- Nothing is sent by a step that leaves the dies' messages alone. -/
theorem Sends.then_nothing (h : Sends d s t a b) (g : Sends d t u [] []) : Sends d s u a b := by
  have hg := h.trans g
  rwa [List.append_nil, List.append_nil] at hg

theorem Sends.after_nothing (h : Sends d s t [] []) (g : Sends d t u a b) : Sends d s u a b := h.trans g

theorem leaveOrWait_of_sends (h : Sends d s t a b) : LeaveOrWait s t d (a ++ b) := ⟨a, b, h.egress, h.waiting, rfl⟩

/-- Every port's link is extended (R213). -/
def Extended (s : State) : Prop := ∀ p, s.linkStd p = false

theorem Sends.extended (h : Sends d s t a b) (he : Extended s) : Extended t := fun p => by
  rw [State.linkStd, h.id, h.links]
  exact he p

theorem sends_setDie {e : Die} (hegress : e.egress = (s.dieAt d).egress ++ a) (hwaiting : e.waiting = (s.dieAt d).waiting ++ b) :
    Sends d s (s.setDie d e) a b := by
  refine ⟨by rw [dieAt_setDie, hegress], by rw [dieAt_setDie, hwaiting], fun k q => ?_, ?_, ?_⟩
  all_goals
    unfold State.setDie
    split <;> rfl

theorem sends_setCore (d : Nat) {k : Nat} {c : Core} (h : c.eng = (s.coreAt k).eng) : Sends d s (s.setCore k c) [] [] := by
  refine ⟨(List.append_nil _).symm, (List.append_nil _).symm, fun j q => ?_, rfl, rfl⟩
  by_cases hj : j = k
  · rw [State.engQueue, State.engQueue, hj, State.coreAt_setCore, h]
  · rw [State.engQueue, State.coreAt_setCore_ne _ _ hj, State.engQueue]

theorem sends_modTag (d k g : Nat) (x : BitVec 2) (f : RTagState → RTagState) (s : State) :
    Sends d s (modTag k g x f s) [] [] := sends_setCore d rfl

theorem sends_takeNumbers (d k n : Nat) (s : State) : Sends d s (takeNumbers k n s).2 [] [] := sends_setCore d rfl

theorem sends_setVer (d v : Nat) (x : Version) (s : State) : Sends d s (s.setVer v x) [] [] :=
  ⟨(List.append_nil _).symm, (List.append_nil _).symm, fun _ _ => rfl, rfl, rfl⟩

theorem sends_choosePath (d plane peer : Nat) (s : State) : Sends d s (choosePath plane peer s).2 [] [] := by
  unfold choosePath
  dsimp only
  split
  · exact Sends.refl d s
  · exact ⟨(List.append_nil _).symm, (List.append_nil _).symm, fun _ _ => rfl, rfl, rfl⟩

theorem sends_requestPath (d e plane peer line : Nat) (s : State) : Sends d s (requestPath e plane peer line s).2 [] [] := by
  unfold requestPath
  split
  · exact Sends.refl d s
  · exact sends_choosePath d plane peer s

/-- A version's first message to a peer sets its bit there; the message is under the version. -/
theorem sends_versionFields (d v peer : Nat) (m : Msg) (s : State) : Sends d s (versionFields v peer m s).2 [] [] ∧
    ∃ chain, (versionFields v peer m s).1 = { m with vid := v, chain } := by
  unfold versionFields
  split
  next h => exact ⟨Sends.refl d s, m.chain, by rw [h]⟩
  · exact ⟨sends_setVer d v _ s, _, rfl⟩

/-! ### One message -/

/-- A message on its way: its die has given it its origin, path, destination die and place in causal order. -/
structure OnItsWay (m m' : Msg) : Prop where
  same : { m' with origin := m.origin, dest := m.dest, path := m.path, seq := m.seq, prev := m.prev, deps := m.deps } = m
  dest : m'.dest / 2 = m.dest / 2

theorem OnItsWay.trans {m'' : Msg} (h : OnItsWay m m') (g : OnItsWay m' m'') : OnItsWay m m'' :=
  ⟨(congrArg (fun x : Msg => { x with origin := m.origin, dest := m.dest, path := m.path, seq := m.seq, prev := m.prev,
                                       deps := m.deps }) g.same).trans h.same, g.dest.trans h.dest⟩

/-- Of some messages one is `m` on its way, and the others name its dependencies. -/
def Carries (kind : Instr) (m : Msg) (l : List (Instr × Msg)) : Prop :=
  ∃ m', OnItsWay m m' ∧ (kind, m') ∈ l ∧ ∀ x ∈ l, x.1 = .dependencyOnlyMessage ∨ x = (kind, m')

theorem Carries.of_onItsWay {l : List (Instr × Msg)} (h : Carries kind m' l) (hm : OnItsWay m m') : Carries kind m l := by
  obtain ⟨x, hx, hmem, hall⟩ := h
  exact ⟨x, hm.trans hx, hmem, hall⟩

theorem carries_single (hm : OnItsWay m m') : Carries kind m [(kind, m')] :=
  ⟨m', hm, List.mem_singleton.2 rfl, fun _ hx => .inr (List.mem_singleton.1 hx)⟩

theorem sends_enqueueMsg (d : Nat) (kind : Instr) (m : Msg) (deps : List (Nat × Word)) (s : State) :
    ∃ m', OnItsWay m m' ∧ Sends d s (enqueueMsg d kind m deps s) [(kind, m')] [] :=
  ⟨{ m with origin := s.iota d, seq := (s.dieAt d).sigma + 1,
            prev := (mapFind (s.dieAt d).lastTo m.dest).getD ((s.dieAt d).sigma + 1), deps },
    ⟨rfl, rfl⟩, sends_setDie rfl (List.append_nil _).symm⟩

theorem sends_sendWithDeps (d : Nat) (kind : Instr) (m : Msg) (n : Nat) (deps : List (Nat × Word)) (s : State) :
    ∃ a, Sends d s (sendWithDeps d kind m n deps s) a [] ∧ Carries kind m a := by
  have hlast (deps : List (Nat × Word)) (s : State) : ∃ a, Sends d s (enqueueMsg d kind m deps s) a [] ∧ Carries kind m a := by
    obtain ⟨m', hm, hs⟩ := sends_enqueueMsg d kind m deps s
    exact ⟨_, hs, carries_single hm⟩
  induction n generalizing deps s with
  | zero => exact hlast deps s
  | succ n ih =>
    rw [sendWithDeps]
    split
    · exact hlast deps s
    · obtain ⟨x, -, hx⟩ := sends_enqueueMsg d .dependencyOnlyMessage { dest := m.dest } (deps.take 4) s
      obtain ⟨a, ha, m', hm, hmem, hall⟩ := ih (deps.drop 4) (enqueueMsg d .dependencyOnlyMessage { dest := m.dest } (deps.take 4) s)
      refine ⟨_, hx.trans ha, m', hm, List.mem_append_right _ hmem, fun y hy => ?_⟩
      rcases List.mem_append.1 hy with hy | hy
      · rw [List.mem_singleton.1 hy]
        exact .inl rfl
      · exact hall y hy

theorem planeOf_lt (s : State) (va : Nat) : s.planeOf va < 4 := by
  unfold State.planeOf
  dsimp only
  generalize hq : List.find? _ _ = o
  cases o with
  | none => exact Nat.mod_lt _ (by decide)
  | some q =>
    obtain ⟨i, -, rfl⟩ := List.mem_map.1 (List.mem_of_find?_eq_some hq)
    exact Nat.mod_lt _ (by decide)

section
variable (he : Extended s)
include he

theorem sends_sendOn (d : Nat) (kind : Instr) (m : Msg) : ∃ a, Sends d s (sendOn d kind m s) a [] ∧ Carries kind m a := by
  rw [sendOn, he, if_neg Bool.false_ne_true]
  exact sends_sendWithDeps d kind m 32 _ s

theorem sends_sendMsg (d : Nat) (kind : Instr) (m : Msg) : ∃ a, Sends d s (sendMsg d kind m s) a [] ∧ Carries kind m a := by
  have hpath := sends_choosePath d (s.planeOf m.va) (m.dest / 2) s
  obtain ⟨a, ha, hm⟩ := sends_sendOn (hpath.extended he) d kind
    { m with path := (choosePath (s.planeOf m.va) (m.dest / 2) s).1 }
  exact ⟨a, hpath.after_nothing ha, hm.of_onItsWay ⟨rfl, rfl⟩⟩

theorem sends_departOn (d : Nat) (kind : Instr) (m : Msg) : ∃ a, Sends d s (departOn d kind m s) a [] ∧ Carries kind m a := by
  unfold departOn
  dsimp only
  cases hk : isRequest kind with
  | false =>
    simp only [Bool.false_and, Bool.false_eq_true, if_false]
    exact sends_sendMsg he d kind m
  | true =>
    have hplane := planeOf_lt s m.va
    have hm : OnItsWay m { m with origin := s.iota d, dest := m.dest / 2 * 2 + s.planeOf m.va / 2 } := ⟨rfl, by dsimp only; omega⟩
    simp only [if_true, Bool.true_and]
    generalize ({ m with origin := s.iota d, dest := m.dest / 2 * 2 + s.planeOf m.va / 2 } : Msg) = m1 at hm ⊢
    generalize (s.dieAt d).out ++ [_] = out
    have hout : Sends d s (s.setDie d { s.dieAt d with out }) [] [] :=
      sends_setDie (List.append_nil _).symm (List.append_nil _).symm
    rw [hout.extended he, if_neg Bool.false_ne_true]
    obtain ⟨a, ha, hcarries⟩ := sends_sendOn (hout.extended he) d kind m1
    exact ⟨a, hout.after_nothing ha, hcarries.of_onItsWay hm⟩

/-- A message leaves its die or waits at the source. -/
theorem sends_submit (d : Nat) (kind : Instr) (m : Msg) :
    ∃ a b, Sends d s (submit d kind m s) a b ∧ Carries kind m (a ++ b) := by
  unfold submit
  split
  · exact ⟨[], [(kind, m)], sends_setDie (List.append_nil _).symm rfl, carries_single ⟨rfl, rfl⟩⟩
  · obtain ⟨a, ha, hm⟩ := sends_departOn he d kind m
    refine ⟨a, [], ?_, by rwa [List.append_nil]⟩
    rw [depart, State.notTaken, he, Bool.and_false, if_neg Bool.false_ne_true, Bool.and_false, if_neg Bool.false_ne_true]
    exact ha

/-! ### Write messages -/

/-- A write on its way: `m` under the tag, version and source of its sender, to die of package `peer`. -/
structure WriteOnItsWay (m m' : Msg) (k g peer v : Nat) (tag : BitVec 2) : Prop where
  same : { m' with origin := m.origin, dest := m.dest, path := m.path, seq := m.seq, prev := m.prev, deps := m.deps,
                   tag := m.tag, srcGrp := m.srcGrp, vid := m.vid, chain := m.chain } = m
  dest : m'.dest / 2 = peer
  tag : m'.tag = tag
  srcGrp : m'.srcGrp = 256 * k + g
  vid : m'.vid = v

/-- Of some messages one is the write `m` on its way, and the others name its dependencies. -/
def CarriesWrite (kind : Instr) (m : Msg) (k g peer v : Nat) (tag : BitVec 2) (l : List (Instr × Msg)) : Prop :=
  ∃ m', WriteOnItsWay m m' k g peer v tag ∧ (kind, m') ∈ l ∧ ∀ x ∈ l, x.1 = .dependencyOnlyMessage ∨ x = (kind, m')

theorem sends_sendWriteOn (path : Path) (kind : Instr) (k g peer : Nat) (m : Msg) (v : Nat) (tag : BitVec 2) :
    (sendWriteOn path kind k g peer m v tag s).1 = .extended ∧
    ∃ a b, Sends (dieOf k) s (sendWriteOn path kind k g peer m v tag s).2 a b ∧
      CarriesWrite kind m k g peer v tag (a ++ b) := by
  have hplane := planeOf_lt s m.va
  unfold sendWriteOn
  simp only [he _, if_neg Bool.false_ne_true]
  refine ⟨trivial, ?_⟩
  obtain ⟨hfields, chain, hm⟩ := sends_versionFields (dieOf k) v peer
    { m with origin := s.iota (dieOf k), dest := 2 * peer + s.planeOf m.va / 2, tag := tag, srcGrp := 256 * k + g, path } s
  rw [hm]
  have htag := hfields.then_nothing (sends_modTag (dieOf k) k g tag (fun r =>
    { r with used := r.used.filter (· != (peer, s.planeOf m.va)) ++ [(peer, s.planeOf m.va)] }) _)
  obtain ⟨a, b, hs, m', hway, hmem, hall⟩ := sends_submit (htag.extended he) (dieOf k) kind
    { m with origin := s.iota (dieOf k), dest := 2 * peer + s.planeOf m.va / 2, tag := tag, srcGrp := 256 * k + g, path,
             vid := v, chain }
  obtain ⟨hsame, hdest⟩ := hway
  refine ⟨a, b, htag.after_nothing hs, m', ⟨?_, ?_, (congrArg Msg.tag hsame :), (congrArg Msg.srcGrp hsame :),
    (congrArg Msg.vid hsame :)⟩, hmem, hall⟩
  · exact congrArg (fun x : Msg => { x with
      origin := m.origin, dest := m.dest, path := m.path, tag := m.tag, srcGrp := m.srcGrp, vid := m.vid, chain := m.chain }) hsame
  · rw [hdest]
    dsimp only
    omega

theorem sends_sendWrite (k g peer : Nat) (m : Msg) (v : Nat) (tag : BitVec 2) :
    (sendWrite k g peer m v tag s).1 = .extended ∧
    ∃ a b, Sends (dieOf k) s (sendWrite k g peer m v tag s).2 a b ∧
      CarriesWrite .remoteWrite m k g peer v tag (a ++ b) := by
  have hpath := sends_requestPath (dieOf k) (dieOf k) (s.planeOf m.va) peer (m.va / 128) s
  obtain ⟨hsent, a, b, hs, hm⟩ := sends_sendWriteOn (hpath.extended he)
    (requestPath (dieOf k) (s.planeOf m.va) peer (m.va / 128) s).1 .remoteWrite k g peer m v tag
  exact ⟨hsent, a, b, hpath.after_nothing hs, hm⟩

end
end
end Sys2Proof.Proofs
end

section
/-!
RCOPY and CSHUF (R97, R208, R220): the bytes for the peer leave as write messages, and the command waits for its summary.
-/

namespace Sys2Proof.Proofs

open Sys2Proof.Machine Sys2Proof.Statements

section
variable {s t u : State} {c : Cmd} {k q d peer : Nat} {a b : List (Instr × Msg)} {bs : List (Nat × Byte)} {l : List Move}

/-! ### A command's start and its change -/

theorem startKind_starts {kind : Nat} (f : Nat → Nat → Cmd → State → State) (h : Starts s kind c) :
    startKind kind f s = .next (f s.sel.core s.sel.idx c s) := by
  obtain ⟨hstart, hkind, -⟩ := h
  rw [startKind, agentStep, hstart]
  exact congrArg _ (if_pos hkind)

theorem engQueue_setEngQueue (s : State) (k q : Nat) (l : List Cmd) : (s.setEngQueue k q l).engQueue k q = l := by
  rw [State.engQueue, State.setEngQueue, State.coreAt_setCore, mapGet_mapSet_same]

theorem commandIs_modCmd (f : Cmd → Cmd) (h : t.engQueue s.sel.core s.sel.idx = s.engQueue s.sel.core s.sel.idx) :
    CommandIs s (modCmd s.sel.core s.sel.idx c.id f t) c f := by
  rw [CommandIs, modCmd, engQueue_setEngQueue, h]

/-! ### Fields of a command word -/

theorem bits64_high (x : DWord) (lo n : Nat) (hn : lo + n = 64) : bits64 x lo n = x.toNat / 2 ^ lo :=
  Nat.mod_eq_of_lt (Nat.div_lt_of_lt_mul (by rw [← pow_add, hn]; exact x.isLt))

theorem bits64_low (x : DWord) (n : Nat) : bits64 x 0 n = x.toNat % 2 ^ n := congrArg (· % 2 ^ n) (Nat.div_one x.toNat)

/-! ### What moves do for a peer -/

theorem mem_peerPart {a : Nat} {x : Byte} : (a, x) ∈ peerPart l ↔ (Place.peer a, x) ∈ stored l := by
  simp only [peerPart, stored, List.mem_filterMap, List.mem_map]
  constructor
  · rintro ⟨m, hm, h⟩
    refine ⟨m, hm, ?_⟩
    cases hd : m.dst with
    | peer b => simp_all
    | _ => simp_all
  · rintro ⟨m, hm, h⟩
    obtain ⟨hd, hb⟩ := Prod.mk.inj h
    exact ⟨m, hm, by rw [hd, hb]⟩

theorem toPeers_iff : toPeers l = true ↔ peerPart l ≠ [] := by
  rw [toPeers, List.any_eq_true, Ne, peerPart, List.filterMap_eq_nil_iff, not_forall]
  refine exists_congr fun m => ?_
  rw [Classical.not_imp]
  refine and_congr_right fun _ => ?_
  cases m.dst <;> simp

theorem anyClipped_eq (l : List Move) : anyClipped l = decide (∃ m ∈ l, m.src = .clip ∨ m.dst = .clip) := by
  rw [Bool.eq_iff_iff, decide_eq_true_iff, anyClipped, List.any_eq_true]
  simp only [Bool.or_eq_true, beq_iff_eq]

/-! ### Nothing is sent -/

theorem sends_of_onlySlices (d : Nat) (h : OnlySlices s t) : Sends d s t [] [] := by
  have hdie : t.dieAt d = s.dieAt d := by
    rw [State.dieAt, (congrArg State.north h :), (congrArg State.south h :), State.dieAt]
  have hcores : t.cores = s.cores := (congrArg State.cores h :)
  refine ⟨by rw [hdie, List.append_nil], by rw [hdie, List.append_nil], fun k q => ?_, (congrArg State.id h :),
    (congrArg (fun x : State => x.host.links) h :)⟩
  rw [State.engQueue, State.coreAt, hcores]
  rfl

theorem sends_of_onlyTranslates (d : Nat) (h : OnlyTranslates s t) : Sends d s t [] [] := by
  have hdie := die_of_onlyTranslates h d
  exact ⟨by rw [(congrArg Die.egress hdie :), List.append_nil], by rw [(congrArg Die.waiting hdie :), List.append_nil],
    engQueue_of_onlyTranslates h, (congrArg State.id (rest_of_onlyTranslates h) :), links_of_onlyTranslates h⟩

theorem onlySlices_noteBytes (v : Nat) (pas : List Nat) (s : State) : OnlySlices s (noteBytes v pas s) :=
  onlySlices_foldl (fun t l => (onlySlices_settle l t).trans (restowed_noteLine v l _ 0 _).only) _ s

theorem sends_noteBytes {vas : List Nat} {pages : Map Xlated} (ht : Translated s k q c vas pages u) (d v : Nat)
    (pas : List Nat) : Sends d s (noteBytes v pas u) [] [] :=
  (sends_of_onlyTranslates d (onlyTranslates_translated ht)).then_nothing (sends_of_onlySlices d (onlySlices_noteBytes v pas u))

/-! ### RCOPY's messages -/

/-- The message of a line of the bytes, under the number `n`, and its send. -/
def lineMsg (c : Cmd) (bs : List (Nat × Byte)) (ln n : Nat) : Msg :=
  { asn := c.asn, va := 128 * ln, size := 128, req := c.id + 1, ack := n, bytes := bs.filter fun b => b.1 / 128 = ln }
def sendLine (k : Nat) (c : Cmd) (peer : Nat) (bs : List (Nat × Byte)) (r : CmdSent × State) (ln : Nat) : CmdSent × State :=
  let x := sendWrite k c.grp peer (lineMsg c bs ln (takeNumbers k 1 r.2).1) c.vid c.tag (takeNumbers k 1 r.2).2
  (r.1.add ((takeNumbers k 1 r.2).2.planeOf (128 * ln)) x.1, x.2)

theorem sendLines_eq (k : Nat) (c : Cmd) (peer : Nat) (bs : List (Nat × Byte)) (s : State) :
    sendLines k c peer bs s = ((bs.map fun b => b.1 / 128).dedup).foldl (sendLine k c peer bs) ({}, s) := rfl

/-- A line's message on its way. -/
def LineSent (k : Nat) (c : Cmd) (peer : Nat) (bs : List (Nat × Byte)) (ln : Nat) (m : Msg) : Prop :=
  ∃ n, WriteOnItsWay (lineMsg c bs ln n) m k c.grp peer c.vid c.tag

/-- The messages are those of the lines, and others that name dependencies. -/
structure LinesSent (k : Nat) (c : Cmd) (peer : Nat) (bs : List (Nat × Byte)) (lines : List Nat) (new : List (Instr × Msg)) : Prop where
  sent : ∀ ln ∈ lines, ∃ m, LineSent k c peer bs ln m ∧ (Instr.remoteWrite, m) ∈ new
  only : ∀ x ∈ new, x.1 = .dependencyOnlyMessage ∨ ∃ ln ∈ lines, x.1 = .remoteWrite ∧ LineSent k c peer bs ln x.2

/-- All writes have left by extended links: none waits for a completion of its own, none was refused; there are planes to
close as soon as there was a line. -/
structure AllExtended (r r' : CmdSent) (lines : List Nat) : Prop where
  std : r'.std = r.std
  refused : r'.refused = r.refused
  planes : r'.planes = [] ↔ r.planes = [] ∧ lines = []

theorem add_extended (r : CmdSent) (p : Nat) : AllExtended r (r.add p .extended) [p] := by
  refine ⟨rfl, rfl, ?_⟩
  rw [CmdSent.add]
  dsimp only
  split
  next h => 
    have hne : r.planes ≠ [] := by
      intro hn
      rw [hn] at h
      exact absurd h (by simp)
    simp [hne]
  · simp

theorem sends_sendLine (he : Extended s) (r : CmdSent) (ln : Nat) :
    ∃ a b, Sends (dieOf k) s (sendLine k c peer bs (r, s) ln).2 a b ∧ AllExtended r (sendLine k c peer bs (r, s) ln).1 [ln] ∧
      LinesSent k c peer bs [ln] (a ++ b) := by
  have htake := sends_takeNumbers (dieOf k) k 1 s
  obtain ⟨hsent, a, b, hs, m, hway, hmem, hall⟩ := sends_sendWrite (htake.extended he) k c.grp peer
    (lineMsg c bs ln (takeNumbers k 1 s).1) c.vid c.tag
  refine ⟨a, b, htake.after_nothing hs, ?_, ⟨?_, fun x hx => ?_⟩⟩
  · obtain ⟨h1, h2, h3⟩ := add_extended r ((takeNumbers k 1 s).2.planeOf (128 * ln))
    rw [sendLine, hsent]
    exact ⟨h1, h2, by simpa using h3⟩
  · rintro x hx
    rw [List.mem_singleton.1 hx]
    exact ⟨m, ⟨_, hway⟩, hmem⟩
  · rcases hall x hx with h | h
    · exact .inl h
    · rw [h]
      exact .inr ⟨ln, List.mem_singleton.2 rfl, rfl, _, hway⟩

theorem sends_sendLines (he : Extended s) (lines : List Nat) (r : CmdSent) :
    ∃ a b, Sends (dieOf k) s (lines.foldl (sendLine k c peer bs) (r, s)).2 a b ∧
      AllExtended r (lines.foldl (sendLine k c peer bs) (r, s)).1 lines ∧ LinesSent k c peer bs lines (a ++ b) := by
  induction lines generalizing r s with
  | nil => exact ⟨[], [], Sends.refl _ s, ⟨rfl, rfl, by simp⟩, ⟨fun _ h => absurd h List.not_mem_nil, fun _ h => absurd h List.not_mem_nil⟩⟩
  | cons ln lines ih =>
    obtain ⟨a, b, hs, ⟨h1, h2, h3⟩, hsent, honly⟩ := sends_sendLine (k := k) (c := c) (peer := peer) (bs := bs) he r ln
    obtain ⟨a', b', hs', ⟨h1', h2', h3'⟩, hsent', honly'⟩ := ih (hs.extended he) (sendLine k c peer bs (r, s) ln).1
    rw [List.foldl_cons]
    have hmem {x : Instr × Msg} : x ∈ (a ++ a') ++ (b ++ b') ↔ x ∈ a ++ b ∨ x ∈ a' ++ b' := by
      simp only [List.mem_append]
      tauto
    refine ⟨a ++ a', b ++ b', hs.trans hs', ⟨h1'.trans h1, h2'.trans h2, ?_⟩, fun x hx => ?_, fun x hx => ?_⟩
    · rw [h3', h3]
      simp
    · rcases List.mem_cons.1 hx with rfl | hx
      · obtain ⟨m, hm, hin⟩ := hsent x (List.mem_singleton.2 rfl)
        exact ⟨m, hm, hmem.2 (.inl hin)⟩
      · obtain ⟨m, hm, hin⟩ := hsent' x hx
        exact ⟨m, hm, hmem.2 (.inr hin)⟩
    · rcases hmem.1 hx with hx | hx
      · refine (honly x hx).imp_right ?_
        rintro ⟨y, hy, h⟩
        exact ⟨y, List.mem_singleton.1 hy ▸ List.mem_cons_self, h⟩
      · refine (honly' x hx).imp_right ?_
        rintro ⟨y, hy, h⟩
        exact ⟨y, List.mem_cons_of_mem _ hy, h⟩

/-- The command's notices to its peer, which are no writes. -/
theorem sends_closeCommand (he : Extended s) (k : Nat) (c : Cmd) (peer : Nat) (planes : List Nat) :
    ∃ a b, Sends (dieOf k) s (closeCommand k c peer planes s) a b ∧
      ∀ x ∈ a ++ b, x.1 = .dependencyOnlyMessage ∨ x.1 = .closeNotice := by
  unfold closeCommand
  generalize hcount : (planes.map fun x => 2 ^ x).sum = count
  clear hcount
  induction planes generalizing s with
  | nil => exact ⟨[], [], Sends.refl _ s, fun _ h => nomatch h⟩
  | cons p planes ih =>
    obtain ⟨a, b, hs, m, -, -, hall⟩ := sends_submit he (dieOf k) .closeNotice
      { dest := 2 * peer + p / 2, tag := c.tag, srcGrp := 256 * k + c.grp, role := p, req := c.id + 1, count }
    obtain ⟨a', b', hs', hall'⟩ := ih (hs.extended he)
    refine ⟨a ++ a', b ++ b', hs.trans hs', fun x hx => ?_⟩
    have hx' : x ∈ a ++ b ∨ x ∈ a' ++ b' := by
      simp only [List.mem_append] at hx ⊢
      tauto
    rcases hx' with hx | hx
    · exact (hall x hx).imp_right fun h => congrArg Prod.fst h
    · exact hall' x hx

/-! ### The commands -/

section
variable {pages : Map Xlated} {pairs : List (Nat × Nat)}

/-- What a command's writes leave it to wait for, once they have left by extended links: its summary, if it sent any. -/
theorem commandIs_commandSent {r : CmdSent} {clip : Bool} {lines : List Nat} (hr : AllExtended {} r lines)
    (hl : toPeers l = true ↔ lines ≠ [])
    (h : (closeCommand s.sel.core c peer r.planes t).engQueue s.sel.core s.sel.idx = s.engQueue s.sel.core s.sel.idx) :
    CommandIs s (commandSent s.sel.core s.sel.idx c peer clip r t) c fun x =>
      { x with st := .sent, clipped := clip, owed := x.owed + if toPeers l = true then 1 else 0 } := by
  obtain ⟨hstd, hrefused, hplanes⟩ := hr
  have howed : (if r.planes.isEmpty then 0 else 1) = if toPeers l = true then 1 else 0 := by
    by_cases hn : lines = []
    · rw [if_pos (List.isEmpty_iff.2 (hplanes.2 ⟨rfl, hn⟩)), if_neg fun hp => hl.1 hp hn]
    · rw [if_neg fun hp => hn (hplanes.1 (List.isEmpty_iff.1 hp)).2, if_pos (hl.2 hn)]
  have hf : CommandIs s (commandSent s.sel.core s.sel.idx c peer clip r t) c fun d =>
      { d with st := .sent, clipped := clip, remoteErr := d.remoteErr || r.refused,
               owed := d.owed + r.std + (if r.planes.isEmpty then 0 else 1) } := commandIs_modCmd _ h
  simp only [hstd, hrefused, howed, Bool.or_false, Nat.add_zero] at hf
  exact hf

theorem exec_rcopy (h : Starts s 4 c) (hspace : s.spaceOf c.drec = 3)
    (ht : Translated s s.sel.core s.sel.idx c (pairVas c (copyPairs c c.len) s) pages u)
    (hl : moveBytes s.sel.core c pages u (copyPairs c c.len) = .ok l) : exec .rcopy s = .next (
      let r := sendLines s.sel.core c (recPeer c.drec) (peerPart l) (noteBytes (srcVid c c.srec) (memOf (l.map (·.src))) u)
      commandSent s.sel.core s.sel.idx c (recPeer c.drec) (anyClipped l) r.1 r.2) := by
  have hexec : exec .rcopy s = .next (rcopyStep s.sel.core s.sel.idx c s) := startKind_starts rcopyStep h
  rw [hexec, rcopyStep]
  dsimp only
  rw [if_neg (not_not.2 hspace), withPages_translated ht, hl]
  rfl

/-- RCOPY sends the bytes for its peer, a line a message, and waits for its summary. -/
theorem rcopy_sends (h : Starts s 4 c) (hspace : s.spaceOf c.drec = 3) (he : Extended s)
    (ht : Translated s s.sel.core s.sel.idx c (pairVas c (copyPairs c c.len) s) pages u)
    (hl : moveBytes s.sel.core c pages u (copyPairs c c.len) = .ok l) :
    ∃ t new, exec .rcopy s = .next t ∧ LeaveOrWait s t (dieOf s.sel.core) new ∧
      (∀ a x, (∃ m, (Instr.remoteWrite, m) ∈ new ∧ (a, x) ∈ m.bytes) ↔ (Place.peer a, x) ∈ stored l) ∧
      (∀ m, (Instr.remoteWrite, m) ∈ new → m.dest / 2 = recPeer c.drec ∧ m.tag = c.tag ∧ m.vid = c.vid ∧ m.asn = c.asn ∧
        m.srcGrp = 256 * s.sel.core + c.grp ∧ m.req = c.id + 1) ∧
      CommandIs s t c fun x => { x with st := .sent, clipped := decide (∃ m ∈ l, m.src = .clip ∨ m.dst = .clip),
                                        owed := x.owed + if toPeers l = true then 1 else 0 } := by
  have hexec := exec_rcopy h hspace ht hl
  have hread := sends_noteBytes ht (dieOf s.sel.core) (srcVid c c.srec) (memOf (l.map (·.src)))
  generalize noteBytes (srcVid c c.srec) (memOf (l.map (·.src))) u = v at hexec hread
  obtain ⟨a, b, hs, hext, hsent, honly⟩ := sends_sendLines (k := s.sel.core) (c := c) (peer := recPeer c.drec)
    (bs := peerPart l) (hread.extended he) ((peerPart l).map fun b => b.1 / 128).dedup {}
  rw [← sendLines_eq] at hs hext
  have hwrote := hread.after_nothing hs
  obtain ⟨a', b', hclose, hnotices⟩ := sends_closeCommand (hwrote.extended he) s.sel.core c (recPeer c.drec)
    (sendLines s.sel.core c (recPeer c.drec) (peerPart l) v).1.planes
  have hall := hwrote.trans hclose
  have hmem {x : Instr × Msg} : x ∈ (a ++ a') ++ (b ++ b') ↔ x ∈ a ++ b ∨ x ∈ a' ++ b' := by
    simp only [List.mem_append]
    tauto
  -- a write among the messages is a line's
  have hline {m : Msg} (hm : (Instr.remoteWrite, m) ∈ (a ++ a') ++ (b ++ b')) :
      ∃ ln, LineSent s.sel.core c (recPeer c.drec) (peerPart l) ln m := by
    rcases hmem.1 hm with hm | hm
    · rcases honly _ hm with hk | ⟨ln, -, -, hsent⟩
      · exact absurd hk Instr.noConfusion
      · exact ⟨ln, hsent⟩
    · rcases hnotices _ hm with hk | hk <;> exact absurd hk Instr.noConfusion
  have hlines : toPeers l = true ↔ ((peerPart l).map fun b => b.1 / 128).dedup ≠ [] := by
    rw [toPeers_iff, Ne, Ne, List.dedup_eq_nil, List.map_eq_nil_iff]
  refine ⟨_, (a ++ a') ++ (b ++ b'), hexec, ⟨a ++ a', b ++ b', hall.egress, hall.waiting, rfl⟩,
    fun p x => ?_, fun m hm => ?_, ?_⟩
  · rw [← mem_peerPart]
    constructor
    · rintro ⟨m, hm, hx⟩
      obtain ⟨ln, n, hway⟩ := hline hm
      rw [(congrArg Msg.bytes hway.same :)] at hx
      exact List.mem_of_mem_filter hx
    · intro hx
      have hln : p / 128 ∈ ((peerPart l).map fun b => b.1 / 128).dedup :=
        List.mem_dedup.2 (List.mem_map.2 ⟨_, hx, rfl⟩)
      obtain ⟨m, ⟨n, hway⟩, hm⟩ := hsent _ hln
      refine ⟨m, hmem.2 (.inl hm), ?_⟩
      rw [(congrArg Msg.bytes hway.same :)]
      exact List.mem_filter.2 ⟨hx, decide_eq_true rfl⟩
  · obtain ⟨ln, n, hway⟩ := hline hm
    exact ⟨hway.dest, hway.tag, hway.vid, (congrArg Msg.asn hway.same :), hway.srcGrp, (congrArg Msg.req hway.same :)⟩
  · rw [← anyClipped_eq]
    exact commandIs_commandSent hext hlines (hall.queues _ _)


/-! ### CSHUF -/

theorem exec_cshuf (h : Starts s 5 c) (hspace : s.spaceOf c.drec = 3)
    (ht : Translated s s.sel.core s.sel.idx c (pairVas c (copyPairs c c.shufLen) s) pages u)
    (hl : moveBytes s.sel.core c pages u (copyPairs c c.shufLen) = .ok l) : exec .cshuf s = .next (
      let v := noteBytes (srcVid c c.srec) (memOf (l.map (·.src))) u
      if !v.accepted 1 then
        modCmd s.sel.core s.sel.idx c.id (fun d => { d with st := .sent, clipped := anyClipped l, remoteErr := true }) v
      else
        let r := if (peerPart l).isEmpty then ({}, v) else sendShuf s.sel.core c (peerPart l) false v
        commandSent s.sel.core s.sel.idx c (recPeer c.drec) (anyClipped l) r.1 r.2) := by
  have hexec : exec .cshuf s = .next (cshufStep s.sel.core s.sel.idx c s) := startKind_starts cshufStep h
  rw [hexec, cshufStep]
  dsimp only
  rw [if_neg fun hn => hn.1 hspace, withPages_translated ht, hl]
  rfl

/-- The packet of a CSHUF (R220). -/
def shufMsg (c : Cmd) (bs : List (Nat × Byte)) (n : Nat) : Msg :=
  { asn := c.asn, va := spaceAddr 3 c.drec c.doff, size := bs.length, bytes := bs, req := c.id + 1, ack := n, pair := c.pair,
    role := c.role, func := 1, pblk := c.pblk, doff := c.doff, crc := crc32c (bs.map (·.2)), batch := c.batch.toNat }
def shufKind (s : State) (c : Cmd) : Instr :=
  if c.role ≠ 0 ∧ hops s.id.pkg.toNat (recPeer c.drec) ≥ 2 then .codingWindowArrival else .remoteWrite

/-- Its path, of the route of R215 or fixed, from the state that has given it its number. -/
def shufRoute (k own : Nat) (c : Cmd) (s : State) : Path × State :=
  if c.role = 0 then
    requestPath (dieOf k) (s.planeOf (spaceAddr 3 c.drec c.doff)) (recPeer c.drec) (spaceAddr 3 c.drec c.doff / 128) s
  else (shufflePath own (recPeer c.drec), s)

theorem sendShuf_eq (k : Nat) (c : Cmd) (bs : List (Nat × Byte)) (s : State) : sendShuf k c bs false s =
    let r := shufRoute k s.id.pkg.toNat c (takeNumbers k 1 s).2
    let x := sendWriteOn r.1 (shufKind s c) k c.grp (recPeer c.drec) (shufMsg c bs (takeNumbers k 1 s).1) c.vid c.tag r.2
    (({} : CmdSent).add (r.2.planeOf (spaceAddr 3 c.drec c.doff)) x.1, x.2) := rfl

theorem sends_sendShuf (he : Extended s) (k : Nat) (c : Cmd) (bs : List (Nat × Byte)) :
    ∃ a b n, Sends (dieOf k) s (sendShuf k c bs false s).2 a b ∧ AllExtended {} (sendShuf k c bs false s).1 [0] ∧
      CarriesWrite (shufKind s c) (shufMsg c bs n) k c.grp (recPeer c.drec) c.vid c.tag (a ++ b) := by
  have htake := sends_takeNumbers (dieOf k) k 1 s
  have hroute : Sends (dieOf k) s (shufRoute k s.id.pkg.toNat c (takeNumbers k 1 s).2).2 [] [] := by
    unfold shufRoute
    split
    · exact htake.then_nothing (sends_requestPath _ _ _ _ _ _)
    · exact htake
  rw [sendShuf_eq]
  dsimp only
  generalize shufRoute k s.id.pkg.toNat c (takeNumbers k 1 s).2 = r at hroute
  obtain ⟨hsent, a, b, hs, hm⟩ := sends_sendWriteOn (hroute.extended he) r.1 (shufKind s c) k c.grp (recPeer c.drec)
    (shufMsg c bs (takeNumbers k 1 s).1) c.vid c.tag
  refine ⟨a, b, _, hroute.after_nothing hs, ?_, hm⟩
  obtain ⟨h1, h2, h3⟩ := add_extended {} (r.2.planeOf (spaceAddr 3 c.drec c.doff))
  rw [hsent]
  exact ⟨h1, h2, by simpa using h3⟩

section
variable (h : Starts s 5 c) (hspace : s.spaceOf c.drec = 3)
  (ht : Translated s s.sel.core s.sel.idx c (pairVas c (copyPairs c c.shufLen) s) pages u)
  (hl : moveBytes s.sel.core c pages u (copyPairs c c.shufLen) = .ok l)
include h hspace ht hl

/-- A CSHUF whose feature has not been accepted sends nothing. -/
theorem cshuf_unaccepted (hno : s.accepted 1 = false) : ∃ t, exec .cshuf s = .next t ∧ CommandIs s t c fun x =>
    { x with st := .sent, clipped := decide (∃ m ∈ l, m.src = .clip ∨ m.dst = .clip), remoteErr := true } := by
  have hexec := exec_cshuf h hspace ht hl
  have hread := sends_noteBytes ht (dieOf s.sel.core) (srcVid c c.srec) (memOf (l.map (·.src)))
  generalize noteBytes (srcVid c c.srec) (memOf (l.map (·.src))) u = v at hexec hread
  have hv : v.accepted 1 = false := by rw [State.accepted, hread.id, ← State.accepted, hno]
  dsimp only at hexec
  rw [hv, anyClipped_eq] at hexec
  exact ⟨_, hexec, commandIs_modCmd _ (hread.queues _ _)⟩

/-- A CSHUF sends one packet, and waits for its summary. -/
theorem cshuf_sends (he : Extended s) (hyes : s.accepted 1 = true) (hpeer : toPeers l = true) :
    ∃ t a b a' b' n m, exec .cshuf s = .next t ∧ LeaveOrWait s t (dieOf s.sel.core) ((a ++ a') ++ (b ++ b')) ∧
      WriteOnItsWay (shufMsg c (peerPart l) n) m s.sel.core c.grp (recPeer c.drec) c.vid c.tag ∧
      (shufKind s c, m) ∈ a ++ b ∧ (∀ x ∈ a ++ b, x.1 = .dependencyOnlyMessage ∨ x = (shufKind s c, m)) ∧
      (∀ x ∈ a' ++ b', x.1 = .dependencyOnlyMessage ∨ x.1 = .closeNotice) ∧
      CommandIs s t c fun x => { x with st := .sent, clipped := decide (∃ m ∈ l, m.src = .clip ∨ m.dst = .clip),
                                        owed := x.owed + 1 } := by
  have hexec := exec_cshuf h hspace ht hl
  have hread := sends_noteBytes ht (dieOf s.sel.core) (srcVid c c.srec) (memOf (l.map (·.src)))
  generalize noteBytes (srcVid c c.srec) (memOf (l.map (·.src))) u = v at hexec hread
  have hv : v.accepted 1 = true := by rw [State.accepted, hread.id, ← State.accepted, hyes]
  have hkind : shufKind v c = shufKind s c := by rw [shufKind, hread.id, ← shufKind]
  have hne : (peerPart l).isEmpty = false := by
    rw [Bool.eq_false_iff, Ne, List.isEmpty_iff]
    exact toPeers_iff.1 hpeer
  dsimp only at hexec
  rw [hv, Bool.not_true, if_neg Bool.false_ne_true, hne, if_neg Bool.false_ne_true] at hexec
  obtain ⟨a, b, n, hs, hext, m, hway, hmem, hall⟩ := sends_sendShuf (hread.extended he) s.sel.core c (peerPart l)
  rw [hkind] at hmem hall
  have hwrote := hread.after_nothing hs
  obtain ⟨a', b', hclose, hnotices⟩ := sends_closeCommand (hwrote.extended he) s.sel.core c (recPeer c.drec)
    (sendShuf s.sel.core c (peerPart l) false v).1.planes
  have hsent := hwrote.trans hclose
  have hcmd := commandIs_commandSent (clip := anyClipped l) hext (iff_of_true hpeer (List.cons_ne_nil 0 [])) (hsent.queues _ _)
  rw [if_pos hpeer, anyClipped_eq] at hcmd
  rw [anyClipped_eq] at hexec
  exact ⟨_, a, b, a', b', n, m, hexec, ⟨a ++ a', b ++ b', hsent.egress, hsent.waiting, rfl⟩, hway, hmem, hall, hnotices, hcmd⟩

end
end

end
end Sys2Proof.Proofs
end

section
/-!
A command that has been answered (R103-R105): it leaves its queue and its batch, and its record enters the group's queue.
-/

namespace Sys2Proof.Proofs

open Sys2Proof.Machine Sys2Proof.Statements

section
variable {s : State} {c : Cmd} {g : Group} {q : Nat}

/-! ### The record and the batch -/

/-- The status of highest rank. -/
def rankedStatus (c : Cmd) : Nat :=
  if c.cancelled then 3 else if c.remoteErr then 5 else if c.refused then 2 else if c.clipped then 1 else 0

theorem status_eq (h : c.uncoded = false) : c.status = rankedStatus c := by
  rw [Cmd.status, h, if_neg Bool.false_ne_true]
  rfl

theorem rankedStatus_ne (c : Cmd) : rankedStatus c ≠ 4 := by
  unfold rankedStatus
  split_ifs <;> decide

/-- The batch once a command of it has been answered. -/
def batchMarked (c : Cmd) (b : Batch) : Batch :=
  { b with open_ := b.open_ - 1, refused := b.refused || decide (rankedStatus c = 2),
           cancelled := b.cancelled || decide (rankedStatus c = 3), remote := b.remote || decide (rankedStatus c = 5) }

theorem batchAfter_eq (h : c.uncoded = false) (b : Batch) : b.after c = batchMarked c b := by
  have h4 : (rankedStatus c == 4) = false := beq_eq_false_iff_ne.2 (rankedStatus_ne c)
  rw [Batch.after, status_eq h, h4, Bool.or_false]
  rfl

/-- A record enters its queue if the command asked for one and there is room. -/
theorem pushRecord_spec (q : Nat) (c : Cmd) (g : Group) :
    { pushRecord q c g with comp := g.comp, compOvf := g.compOvf } = g ∧
      mapGet [] (pushRecord q c g).comp q = mapGet [] g.comp q ++
        if c.w0.getLsbD 6 = true ∧ (mapGet [] g.comp q).length < 16 then
          [completionRecord c (mapGet false g.compOvf q)] else [] := by
  unfold pushRecord
  rw [Cmd.notify]
  dsimp only
  cases c.w0.getLsbD 6 with
  | false => exact ⟨rfl, by simp⟩
  | true =>
    simp only [Bool.not_true, Bool.false_eq_true, if_false, true_and]
    split
    next h => exact ⟨rfl, by rw [if_neg (by omega), List.append_nil]⟩
    next h => exact ⟨rfl, by rw [if_pos (by omega), mapGet_mapSet_same]⟩

theorem leaveBatch_frame (c : Cmd) (g : Group) :
    { leaveBatch c g with openBatch := g.openBatch, batches := g.batches, doneMarks := g.doneMarks } = g := by
  unfold leaveBatch
  split <;> rfl

theorem leaveBatch_open (hu : c.uncoded = false) (h : c.batch = g.lastClosed + 1) :
    (leaveBatch c g).openBatch = batchMarked c g.openBatch ∧ (leaveBatch c g).batches = g.batches := by
  rw [leaveBatch, if_pos h]
  exact ⟨batchAfter_eq hu _, rfl⟩

/-- A closed batch is done with its last command; the others stay. -/
theorem leaveBatch_closed (hu : c.uncoded = false) (h : c.batch ≠ g.lastClosed + 1) :
    (leaveBatch c g).openBatch = g.openBatch ∧
      (∀ b ∈ g.batches, b.num = c.batch → b.open_ = 1 → batchMarked c b ∈ (leaveBatch c g).doneMarks) ∧
      ∀ b ∈ g.batches, b.num ≠ c.batch → b.open_ ≠ 0 → b ∈ (leaveBatch c g).batches := by
  rw [leaveBatch, if_neg h]
  refine ⟨rfl, fun b hb hn ho => List.mem_append_right _ (List.mem_filter.2 ⟨List.mem_map.2 ⟨b, hb, ?_⟩, ?_⟩),
    fun b hb hn ho => List.mem_filter.2 ⟨List.mem_map.2 ⟨b, hb, if_neg hn⟩, decide_eq_true ho⟩⟩
  · rw [if_pos hn, batchAfter_eq hu]
  · rw [batchMarked, ho]
    rfl

theorem completionRecord_eq (h : c.uncoded = false) (ovf : Bool) : completionRecord c ovf =
    BitVec.ofNat 64 (c.batch.toNat + 2 ^ 16 * rankedStatus c + 2 ^ 20 * (c.w0.toNat % 16) + (if ovf then 2 ^ 24 else 0) +
      2 ^ 32 * (if c.w0.toNat % 16 = 7 then c.count % 256 else 0) + 2 ^ 40 * (c.w0.toNat / 256 % 256)) := by
  rw [completionRecord, status_eq h]
  rfl

/-! ### The step -/

theorem isSome_mapFind {α : Type} (m : Map α) (k : Nat) : (mapFind m k).isSome = true ↔ k ∈ m.map (·.1) := by
  induction m with
  | nil => simp [mapFind]
  | cons e m ih =>
    obtain ⟨j, x⟩ := e
    rw [mapFind]
    split
    next h => simp [h]
    next h => simp [ih, Ne.symm h]

/-- The package once the command has left its queue. -/
def withoutCommand (c : Cmd) (s : State) : State :=
  s.setEngQueue s.sel.core s.sel.idx ((s.engQueue s.sel.core s.sel.idx).filter fun x => x.id ≠ c.id)

theorem groupAt_withoutCommand (c : Cmd) (s : State) (g : Nat) :
    (withoutCommand c s).groupAt s.sel.core g = s.groupAt s.sel.core g := by
  rw [withoutCommand, State.groupAt, State.setEngQueue, State.coreAt_setCore]
  rfl

/-- The command's group is still the one that gave it. -/
def GroupHere (s : State) (c : Cmd) : Prop :=
  (s.groupAt s.sel.core c.grp).blk = c.blk ∧ (s.groupAt s.sel.core c.grp).gid = c.gid ∧ c.grp ∈ s.core.groups.map (·.1)

/-- The group once the command has been answered. -/
def answeredGroup (c : Cmd) (s : State) : Group := pushRecord s.sel.idx c (leaveBatch c (s.groupAt s.sel.core c.grp))

open scoped Classical in
theorem exec_commandComplete (h : completable s s.sel.core s.sel.idx = some c) (hu : c.uncoded = false) :
    exec .commandComplete s = .next (if GroupHere s c then
      (withoutCommand c s).setGroupAt s.sel.core c.grp (answeredGroup c s) else withoutCommand c s) := by
  have hgroups : ((withoutCommand c s).coreAt s.sel.core).groups = s.core.groups := by
    rw [withoutCommand, State.setEngQueue, State.coreAt_setCore]
    rfl
  have hgroup := groupAt_withoutCommand c s c.grp
  have hqueue : s.setEngQueue s.sel.core s.sel.idx ((s.engQueue s.sel.core s.sel.idx).filter fun d => d.id != c.id) =
      withoutCommand c s := by
    rw [withoutCommand]
    congr 2
    funext d
    rw [Bool.eq_iff_iff, bne_iff_ne, decide_eq_true_iff]
  have hexec : exec .commandComplete s = execCommandComplete s := rfl
  rw [hexec, execCommandComplete, agentStep]
  dsimp only
  rw [h]
  dsimp only
  rw [hqueue, hgroup, hgroups, hu, Bool.false_and, if_neg Bool.false_ne_true, hgroup]
  refine congrArg _ (if_congr ?_ rfl rfl)
  rw [Bool.and_eq_true, Bool.and_eq_true, decide_eq_true_eq, decide_eq_true_eq, isSome_mapFind, and_assoc]
  rfl

theorem coreAt_withoutCommand (c : Cmd) (s : State) : OnlyCore s (withoutCommand c s) s.sel.core := onlyCore_setCore s _ _

theorem onlyCore_setGroupAt (s : State) (k g : Nat) (x : Group) : OnlyCore s (s.setGroupAt k g x) k := onlyCore_setCore s _ _

theorem engQueue_setGroupAt (s : State) (k g : Nat) (x : Group) (q : Nat) : (s.setGroupAt k g x).engQueue k q = s.engQueue k q := by
  rw [State.engQueue, State.setGroupAt, State.coreAt_setCore]
  rfl

section
variable (h : completable s s.sel.core s.sel.idx = some c) (hu : c.uncoded = false)
include h hu

/-- A command whose group is gone just leaves its queue. -/
theorem commandComplete_gone (hgone : ¬ GroupHere s c) : ∃ t, exec .commandComplete s = .next t ∧
    (∀ j, t.groupAt s.sel.core j = s.groupAt s.sel.core j) ∧
    t.engQueue s.sel.core s.sel.idx = (s.engQueue s.sel.core s.sel.idx).filter fun x => x.id ≠ c.id := by
  have hexec := exec_commandComplete h hu
  rw [if_neg hgone] at hexec
  exact ⟨_, hexec, groupAt_withoutCommand c s, engQueue_setEngQueue s _ _ _⟩

/-- A command whose group is there leaves its batch too, and its record enters. -/
theorem commandComplete_here (hhere : GroupHere s c) : ∃ t, exec .commandComplete s = .next t ∧ SameBytes s t ∧
    OnlyCore s t s.sel.core ∧ (∀ j, j ≠ c.grp → t.groupAt s.sel.core j = s.groupAt s.sel.core j) ∧
    t.engQueue s.sel.core s.sel.idx = (s.engQueue s.sel.core s.sel.idx).filter (fun x => x.id ≠ c.id) ∧
    t.groupAt s.sel.core c.grp = answeredGroup c s := by
  have hexec := exec_commandComplete h hu
  rw [if_pos hhere] at hexec
  have honly := onlyCore_trans (coreAt_withoutCommand c s) (onlyCore_setGroupAt (withoutCommand c s) s.sel.core c.grp (answeredGroup c s))
  refine ⟨_, hexec, sameBytes_of_onlyCore honly, honly, fun j hj => ?_, ?_, State.groupAt_setGroupAt _ _ _ _⟩
  · rw [State.groupAt_setGroupAt_ne _ _ _ hj, groupAt_withoutCommand]
  · rw [engQueue_setGroupAt, withoutCommand, engQueue_setEngQueue]

end

theorem answeredGroup_spec (s : State) (c : Cmd) (hu : c.uncoded = false) :
    let g := s.groupAt s.sel.core c.grp
    SameRegs g (answeredGroup c s) ∧
      mapGet [] (answeredGroup c s).comp s.sel.idx = mapGet [] g.comp s.sel.idx ++
        (if c.w0.getLsbD 6 = true ∧ (mapGet [] g.comp s.sel.idx).length < 16 then
          [BitVec.ofNat 64 (c.batch.toNat + 2 ^ 16 * rankedStatus c + 2 ^ 20 * (c.w0.toNat % 16) +
            (if mapGet false g.compOvf s.sel.idx then 2 ^ 24 else 0) +
            2 ^ 32 * (if c.w0.toNat % 16 = 7 then c.count % 256 else 0) + 2 ^ 40 * (c.w0.toNat / 256 % 256))] else []) ∧
      (answeredGroup c s).openBatch = (leaveBatch c g).openBatch ∧ (answeredGroup c s).batches = (leaveBatch c g).batches ∧
      (answeredGroup c s).doneMarks = (leaveBatch c g).doneMarks := by
  intro g
  obtain ⟨hframe, hcomp⟩ := pushRecord_spec s.sel.idx c (leaveBatch c g)
  have hleft := leaveBatch_frame c g
  rw [completionRecord_eq hu, (congrArg Group.comp hleft :), (congrArg Group.compOvf hleft :)] at hcomp
  have hanswered : answeredGroup c s = pushRecord s.sel.idx c (leaveBatch c g) := rfl
  rw [← hanswered] at hframe hcomp
  generalize answeredGroup c s = y at hframe hcomp ⊢
  refine ⟨?_, hcomp, (congrArg Group.openBatch hframe :), (congrArg Group.batches hframe :), (congrArg Group.doneMarks hframe :)⟩
  have hregs : SameRegs g (leaveBatch c g) := ⟨(congrArg Group.v hleft :), (congrArg Group.s hleft :),
    (congrArg Group.p hleft :), (congrArg Group.x hleft :), (congrArg Group.blo hleft :), (congrArg Group.bhi hleft :),
    (congrArg Group.d hleft :)⟩
  generalize leaveBatch c g = x at hframe hregs
  obtain ⟨h1, h2, h3, h4, h5, h6, h7⟩ := hregs
  exact ⟨((congrArg Group.v hframe :) : y.v = x.v).trans h1, ((congrArg Group.s hframe :) : y.s = x.s).trans h2,
    ((congrArg Group.p hframe :) : y.p = x.p).trans h3, ((congrArg Group.x hframe :) : y.x = x.x).trans h4,
    ((congrArg Group.blo hframe :) : y.blo = x.blo).trans h5, ((congrArg Group.bhi hframe :) : y.bhi = x.bhi).trans h6,
    ((congrArg Group.d hframe :) : y.d = x.d).trans h7⟩

/-- Settles O46: the bytes of RCOPY and CSHUF are followed through every send to the egress or the wait at the source, and a
completion is its queue's, its batch's and its record's part taken one by one. -/
theorem remoteCommandsAndCompletion : Obligations.RemoteCommandsAndCompletion := by
  unfold Obligations.RemoteCommandsAndCompletion
  refine ⟨⟨fun s c pages u l h hspace he ht hl => rcopy_sends h hspace he ht hl, fun s c pages u l h hspace he ht hl => ?_⟩,
    fun s c h hu => ?_⟩
  · intro k role clip
    refine ⟨cshuf_unaccepted h hspace ht hl, fun hyes hpeer => ?_⟩
    obtain ⟨t, a, b, a', b', n, m, hexec, hleave, hway, hmem, hall, hnotices, hcmd⟩ := cshuf_sends h hspace ht hl he hyes hpeer
    have hsame := hway.same
    have hnew {x : Instr × Msg} : x ∈ (a ++ a') ++ (b ++ b') ↔ x ∈ a ++ b ∨ x ∈ a' ++ b' := by
      simp only [List.mem_append]
      tauto
    have hrole : c.role = role := bits64_low c.w2 2
    have hkind : shufKind s c = if role ≠ 0 ∧ 2 ≤ hops s.id.pkg.toNat (recPeer c.drec) then Instr.codingWindowArrival
        else Instr.remoteWrite := by rw [shufKind, hrole]
    have hbytes : m.bytes = peerPart l := (congrArg Msg.bytes hsame :)
    refine ⟨t, _, m, hexec, hleave, fun x hx => ?_, List.mem_map.2 ⟨_, hnew.2 (.inl hmem), rfl⟩, hbytes, ?_, ?_, ?_, ?_, ?_,
      hway.dest, hway.tag, hway.vid, (congrArg Msg.req hsame :), hcmd⟩
    · rcases hnew.1 hx with hx | hx
      · exact (hall x hx).imp_right fun hm => .inr (hkind ▸ hm)
      · exact (hnotices x hx).imp_right .inl
    · rw [hbytes]
      exact (congrArg Msg.crc hsame :)
    · exact (congrArg Msg.pair hsame).trans (bits64_high c.w0 48 16 rfl)
    · exact (congrArg Msg.role hsame).trans hrole
    · exact (congrArg Msg.pblk hsame).trans (bits64_high c.w2 32 32 rfl)
    · exact (congrArg Msg.doff hsame).trans (bits64_high c.w1 32 32 rfl)
  · intro k q g status ovf mark
    refine ⟨fun hhere => ?_, commandComplete_gone h hu⟩
    obtain ⟨t, hexec, hbytes, honly, hothers, hqueue, hgroup⟩ := commandComplete_here h hu hhere
    obtain ⟨hregs, hrecord, hopen, hbatches, hmarks⟩ := answeredGroup_spec s c hu
    rw [← hgroup] at hregs hrecord hopen hbatches hmarks
    refine ⟨t, hexec, hbytes, honly, hothers, hqueue, hregs, hrecord, fun hb => ?_, fun hb => ?_⟩
    · rw [hopen, hbatches]
      exact leaveBatch_open hu hb
    · rw [hopen, hbatches, hmarks]
      exact leaveBatch_closed hu hb

end
end Sys2Proof.Proofs
end

section
/-!
Bytes at VID 0 (R71, R75-R77, R81): what a settled line would hold, and how settling, reading and writing lines change it.
-/

namespace Sys2Proof.Proofs

open Sys2Proof.Machine Sys2Proof.Statements

/-! ### The last of several bytes for an address -/

/-- Of some bytes the last for an address. -/
def lastByte : List (Nat × Byte) → Nat → Option Byte
  | [], _ => none
  | b :: bs, a => (lastByte bs a).or (if b.1 = a then some b.2 else none)

section
variable {m : List Host.Cell} {bs : List (Nat × Byte)} {a : Nat} {x : Byte}

theorem memGet_memSetAll (hm : Memory.wf m = true) (bs : List (Nat × Byte)) (a : Nat) :
    memGet (memSetAll m bs) a = (lastByte bs a).getD (memGet m a) := by
  induction bs generalizing m with
  | nil => rfl
  | cons b bs ih =>
    rw [memSetAll, ih (memSet_wf _ _ hm), lastByte]
    cases lastByte bs a with
    | some x => rfl
    | none =>
      rw [Option.none_or, Option.getD_none]
      split
      next h => rw [← h, memGet_memSet_same _ _ hm, Option.getD_some]
      next h => rw [memGet_memSet_ne _ _ (Ne.symm h), Option.getD_none]

theorem lastByte_none : lastByte bs a = none ↔ ∀ b ∈ bs, b.1 ≠ a := by
  induction bs with
  | nil => simp [lastByte]
  | cons b bs ih =>
    rw [lastByte, Option.or_eq_none_iff, ih, List.forall_mem_cons, and_comm]
    simp

theorem lastByte_mem (h : lastByte bs a = some x) : (a, x) ∈ bs := by
  induction bs with
  | nil => exact absurd h (by simp [lastByte])
  | cons b bs ih =>
    rw [lastByte, Option.or_eq_some_iff] at h
    rcases h with h | ⟨-, h⟩
    · exact List.mem_cons_of_mem _ (ih h)
    · split at h
      next hb => 
        rw [← hb, ← Option.some.inj h]
        exact List.mem_cons_self
      next => exact absurd h (by simp)

/-- The byte that no later one for its address follows is the last. -/
theorem lastByte_of_last {j : Nat} (h : bs[j]? = some (a, x)) (hlast : ∀ k y, j < k → bs[k]? ≠ some (a, y)) :
    lastByte bs a = some x := by
  induction bs generalizing j with
  | nil => exact absurd h (by simp)
  | cons b bs ih =>
    rw [lastByte]
    cases j with
    | zero =>
      have hb : b = (a, x) := by simpa using h
      have hnone : lastByte bs a = none := by
        refine lastByte_none.2 fun d hd hda => ?_
        obtain ⟨i, hi⟩ := List.mem_iff_getElem?.1 hd
        exact hlast (i + 1) d.2 (Nat.succ_pos i) (by rw [List.getElem?_cons_succ, hi, ← hda])
      rw [hnone, hb, Option.none_or, if_pos rfl]
    | succ j =>
      have hrec := ih (j := j) (by simpa using h) fun k y hk => by
        simpa using hlast (k + 1) y (Nat.succ_lt_succ hk)
      rw [hrec, Option.some_or]

theorem lastByte_filter (l : Nat) (bs : List (Nat × Byte)) (a : Nat) :
    lastByte (bs.filter fun c => lineOf c.1 = l) a = if lineOf a = l then lastByte bs a else none := by
  induction bs with
  | nil => simp [lastByte]
  | cons b bs ih =>
    rw [List.filter_cons]
    by_cases hl : lineOf a = l
    · rw [if_pos hl] at ih ⊢
      split
      · rw [lastByte, ih, lastByte]
      next hb =>
        have hne : b.1 ≠ a := by
          rintro rfl
          exact hb (decide_eq_true hl)
        rw [ih, lastByte, if_neg hne, Option.or_none]
    · rw [if_neg hl] at ih ⊢
      split
      next hb =>
        have hne : b.1 ≠ a := by
          rintro rfl
          exact hl (of_decide_eq_true hb)
        rw [lastByte, ih, if_neg hne, Option.none_or]
      · exact ih

theorem lastByte_atAddr (p : Nat) (bs : List Byte) (a : Nat) :
    lastByte (atAddr p bs) a = if p ≤ a then bs[a - p]? else none := by
  induction bs generalizing p with
  | nil => simp [atAddr, lastByte]
  | cons b bs ih =>
    rw [atAddr, lastByte, ih]
    by_cases h : p = a
    · rw [if_neg (by omega), if_pos h, if_pos (by omega), h, Nat.sub_self]
      rfl
    · rw [if_neg h, Option.or_none]
      by_cases hp : p + 1 ≤ a
      · rw [if_pos hp, if_pos (by omega), show a - p = (a - (p + 1)) + 1 by omega, List.getElem?_cons_succ]
      · rw [if_neg hp, if_neg (by omega)]

end

/-! ### The newest committed copy -/

section
variable {s t u : State} {l a : Nat}

/-- The copies of a line that a committed version has. -/
def committedAt (s : State) (l : Nat) (c : LineCopy) : Bool :=
  decide (c.line = l) && ((s.seenAt l).ver c.vid).st == .committed

/-- The newer of two copies. -/
def newer (s : State) (best : Option LineCopy) (c : LineCopy) : Option LineCopy :=
  match best with
  | none => some c
  | some b => if later16 (s.ver c.vid).cstamp (s.ver b.vid).cstamp then some c else best

theorem newestCommitted_eq (s : State) (l : Nat) :
    s.newestCommitted l = (s.copies.filter (committedAt s l)).foldl (newer s) none := rfl

theorem newer_unplaced (s : State) (best : Option LineCopy) (c : LineCopy) :
    (newer s best c).map unplaced = newer s (best.map unplaced) (unplaced c) := by
  cases best with
  | none => rfl
  | some b =>
    rw [newer, Option.map_some, newer]
    have hc : (unplaced c).vid = c.vid := rfl
    have hb : (unplaced b).vid = b.vid := rfl
    rw [hc, hb]
    split <;> rfl

theorem foldl_newer_unplaced (s : State) (cs : List LineCopy) (best : Option LineCopy) :
    (cs.foldl (newer s) best).map unplaced = (cs.map unplaced).foldl (newer s) (best.map unplaced) := by
  induction cs generalizing best with
  | nil => rfl
  | cons c cs ih => rw [List.foldl_cons, ih, newer_unplaced, List.map_cons, List.foldl_cons]

theorem ver_congr (h : t.vers = s.vers) (v : Nat) : t.ver v = s.ver v := by rw [State.ver, h, State.ver]

theorem committedAt_congr (h : t.vers = s.vers) (l : Nat) : committedAt t l = committedAt s l := by
  funext c
  rw [committedAt, ver_congr (seenAt_vers h l), committedAt]

theorem newer_congr (h : t.vers = s.vers) : newer t = newer s := by
  funext best c
  cases best <;> simp only [newer, ver_congr h]

theorem newestCommitted_of_copies (hv : t.vers = s.vers) (hc : t.copies = s.copies) (l : Nat) :
    t.newestCommitted l = s.newestCommitted l := by
  rw [newestCommitted_eq, newestCommitted_eq, committedAt_congr hv, newer_congr hv, hc]

theorem newestCommitted_withMem (s : State) (m : List Host.Cell) (l : Nat) :
    ({ s with mem := m } : State).newestCommitted l = s.newestCommitted l :=
  newestCommitted_of_copies (s := s) (t := { s with mem := m }) rfl rfl l

/-- The newest committed copy of a line depends on the line's copies and their versions alone. -/
theorem newestCommitted_congr (hv : t.vers = s.vers)
    (hc : (t.copies.filter fun c => c.line = l).map unplaced = (s.copies.filter fun c => c.line = l).map unplaced) :
    (t.newestCommitted l).map unplaced = (s.newestCommitted l).map unplaced := by
  have hsplit (x : State) : ((x.copies.filter (committedAt s l)).map unplaced) =
      ((x.copies.filter fun c => c.line = l).map unplaced).filter (committedAt s l) := by
    rw [List.filter_map, List.filter_filter]
    refine congrArg _ (List.filter_congr fun c _ => ?_)
    by_cases h : c.line = l
    · simp [h, unplaced, committedAt]
    · simp [h, committedAt]
  rw [newestCommitted_eq, newestCommitted_eq, foldl_newer_unplaced, foldl_newer_unplaced, committedAt_congr hv, newer_congr hv,
    hsplit, hsplit, hc]

theorem newestCommitted_none_iff : s.newestCommitted l = none ↔ ∀ c ∈ s.copies, committedAt s l c = false := by
  have hsome (cs : List LineCopy) (b : LineCopy) : ∃ c, cs.foldl (newer s) (some b) = some c := by
    induction cs generalizing b with
    | nil => exact ⟨b, rfl⟩
    | cons c cs ih =>
      rw [List.foldl_cons, newer]
      split
      · exact ih c
      · exact ih b
  rw [newestCommitted_eq]
  constructor
  · intro h c hc
    by_contra hcom
    have hmem : c ∈ s.copies.filter (committedAt s l) := List.mem_filter.2 ⟨hc, by simpa using hcom⟩
    cases hl : s.copies.filter (committedAt s l) with
    | nil => exact absurd (hl ▸ hmem) List.not_mem_nil
    | cons d cs =>
      rw [hl, List.foldl_cons, newer] at h
      obtain ⟨e, he⟩ := hsome cs d
      rw [he] at h
      exact absurd h (by simp)
  · intro h
    rw [List.filter_eq_nil_iff.2 fun c hc => by simp [h c hc]]
    rfl

/-! ### The byte of a settled line -/

/-- The byte that VID 0 has at an address once its line is settled. -/
def rootByte (s : State) (a : Nat) : Byte :=
  ((s.newestCommitted (lineOf a)).map fun c => memGet c.bytes (a % 128)).getD (memGet s.mem a)

theorem viewByte_zero (s : State) (a : Nat) : s.viewByte 0 a = memGet s.mem a := by
  have h : s.seenCopy (lineOf a) 0 = none := rfl
  rw [State.viewByte, h]

theorem rootByte_settled (h : s.newestCommitted (lineOf a) = none) : rootByte s a = s.viewByte 0 a := by
  rw [rootByte, h, viewByte_zero]
  rfl

theorem rootByte_congr (hn : (t.newestCommitted (lineOf a)).map unplaced = (s.newestCommitted (lineOf a)).map unplaced)
    (hm : memGet t.mem a = memGet s.mem a) : rootByte t a = rootByte s a := by
  have hbytes : (fun c : LineCopy => memGet c.bytes (a % 128)) =
    (fun c : LineCopy => memGet c.bytes (a % 128)) ∘ unplaced := rfl
  rw [rootByte, rootByte, hbytes, ← Option.map_map, hn, Option.map_map, hm]

/-- Of the bytes at VID 0 only those that `f` names have changed, outside the spill area; nothing else changes but what the
home slices keep, and no line waits that had settled. -/
structure RootWritten (f : Nat → Option Byte) (s t : State) : Prop where
  only : OnlySlices s t
  spill : ∀ a, InSpill t a → InSpill s a
  settled : ∀ l, s.newestCommitted l = none → t.newestCommitted l = none
  wf : Memory.wf s.mem = true → Memory.wf t.mem = true
  root : Memory.wf s.mem = true → ∀ a, ¬ InSpill s a → rootByte t a = (f a).getD (rootByte s a)

/-- No byte at VID 0 changes. -/
abbrev RootKept (s t : State) : Prop := RootWritten (fun _ => none) s t

theorem RootWritten.trans {f g : Nat → Option Byte} (h : RootWritten f s t) (k : RootWritten g t u) :
    RootWritten (fun a => (g a).or (f a)) s u where
  only := h.only.trans k.only
  spill a ha := h.spill a (k.spill a ha)
  settled l hl := k.settled l (h.settled l hl)
  wf hm := k.wf (h.wf hm)
  root hm a ha := by
    rw [k.root (h.wf hm) a fun hs => ha (h.spill a hs), h.root hm a ha]
    cases g a <;> rfl

theorem RootWritten.of_eq {f g : Nat → Option Byte} (h : RootWritten f s t) (hfg : ∀ a, f a = g a) : RootWritten g s t :=
  funext hfg ▸ h

theorem RootKept.trans (h : RootKept s t) (k : RootKept t u) : RootKept s u := RootWritten.trans h k

theorem RootKept.refl (s : State) : RootKept s s :=
  ⟨rfl, fun _ h => h, fun _ h => h, fun h => h, fun _ _ _ => rfl⟩

theorem newestCommitted_restowed (h : Restowed s t) (l : Nat) :
    (t.newestCommitted l).map unplaced = (s.newestCommitted l).map unplaced := by
  refine newestCommitted_congr h.only.vers ?_
  have hline (x : State) : ((x.copies.filter fun c => c.line = l).map unplaced) =
      (x.copies.map unplaced).filter fun c => c.line = l := by
    rw [List.filter_map]
    rfl
  rw [hline, hline, h.copies]

theorem rootKept_of_restowed (h : Restowed s t) (hwf : Memory.wf s.mem = true → Memory.wf t.mem = true) : RootKept s t where
  only := h.only
  spill := h.spill
  settled l hl := by
    have hn := newestCommitted_restowed h l
    rw [hl, Option.map_none] at hn
    exact Option.map_eq_none_iff.1 hn
  wf := hwf
  root _ a ha := rootByte_congr (newestCommitted_restowed h _) (h.mem a ha)

end
end Sys2Proof.Proofs
end

section
/-!
Settling, reading and writing lines at VID 0 (R72, R75-R77): each leaves the bytes of a settled memory but those written.
-/

namespace Sys2Proof.Proofs

open Sys2Proof.Machine Sys2Proof.Statements

section
variable {s t u : State} {l a : Nat}

/-! ### Settling -/

theorem inSpill_of_copies (hv : t.vers = s.vers) (hc : ∀ c ∈ t.copies, c ∈ s.copies) (h : InSpill t a) : InSpill s a := by
  have hb : t.spillBuckets = s.spillBuckets := by rw [State.spillBuckets, hv, State.spillBuckets]
  have htag (k : Nat) : t.spillTag k = s.spillTag k := by rw [State.spillTag, hv, State.spillTag]
  rcases h with h | ⟨c, hcm, n, hn, h⟩
  · rw [hv, hb] at h
    exact .inl h
  · rw [htag] at h
    exact .inr ⟨c, hc c hcm, n, hn, h⟩

theorem copies_freeSlots (cs : List LineCopy) (s : State) :
    (cs.foldl (fun t c => freeSlot c.spilled t) s).copies = s.copies := by
  induction cs generalizing s with
  | nil => rfl
  | cons c cs ih =>
    rw [List.foldl_cons, ih]
    cases c.spilled <;> rfl

theorem mem_freeSlots {cs : List LineCopy} (hcs : ∀ c ∈ cs, c ∈ s.copies) (ha : ¬ InSpill s a) :
    memGet (cs.foldl (fun t c => freeSlot c.spilled t) s).mem a = memGet s.mem a := by
  induction cs generalizing s with
  | nil => rfl
  | cons c cs ih =>
    have hcopies : (freeSlot c.spilled s).copies = s.copies := by cases c.spilled <;> rfl
    have hvers : (freeSlot c.spilled s).vers = s.vers := by cases c.spilled <;> rfl
    have hmem : memGet (freeSlot c.spilled s).mem a = memGet s.mem a := by
      cases hk : c.spilled with
      | none => rfl
      | some k =>
        refine memGet_memSetNat_outside _ _ _ _ ?_
        by_contra hin
        exact ha (.inr ⟨c, hcs c List.mem_cons_self, k, hk, by omega⟩)
    rw [List.foldl_cons, ih (fun d hd => hcopies ▸ hcs d (List.mem_cons_of_mem _ hd))
      fun h => ha (inSpill_of_copies hvers (fun d hd => hcopies ▸ hd) h), hmem]

theorem copies_dropCopies (p : LineCopy → Bool) (s : State) : (dropCopies p s).copies = s.copies.filter fun c => !p c := by
  rw [dropCopies]
  exact congrArg (List.filter fun c => !p c) (copies_freeSlots (s.copies.filter p) s)

theorem mem_dropCopies (p : LineCopy → Bool) (ha : ¬ InSpill s a) : memGet (dropCopies p s).mem a = memGet s.mem a :=
  mem_freeSlots (fun _ hc => List.mem_of_mem_filter hc) ha

/-- The package once the newest committed copy of a line is in memory and its committed copies are gone. -/
def settledWith (l : Nat) (c : LineCopy) (s : State) : State :=
  dropCopies (committedAt s l)
    { s with mem := memSetAll s.mem (atAddr (128 * l) ((List.range 128).map fun i => memGet c.bytes i)) }

theorem settle_eq {c : LineCopy} (h : s.newestCommitted l = some c) : ∃ e, settle l s = l2Take e (settledWith l c s) := by
  rw [settle, h]
  exact ⟨_, rfl⟩

theorem vers_settledWith (l : Nat) (c : LineCopy) (s : State) : (settledWith l c s).vers = s.vers :=
  (onlySlices_dropCopies (committedAt s l) _).vers

theorem copies_settledWith (l : Nat) (c : LineCopy) (s : State) :
    (settledWith l c s).copies = s.copies.filter fun d => !committedAt s l d := copies_dropCopies _ _

theorem newestCommitted_settledWith (l : Nat) (c : LineCopy) (s : State) : (settledWith l c s).newestCommitted l = none := by
  refine newestCommitted_none_iff.2 fun d hd => ?_
  rw [copies_settledWith] at hd
  rw [committedAt_congr (vers_settledWith l c s)]
  simpa using (List.mem_filter.1 hd).2

/-- The copies of other lines stay. -/
theorem newestCommitted_settledWith_ne {k : Nat} (h : k ≠ l) (c : LineCopy) :
    ((settledWith l c s).newestCommitted k).map unplaced = (s.newestCommitted k).map unplaced := by
  refine newestCommitted_congr (vers_settledWith l c s) ?_
  rw [copies_settledWith, List.filter_filter]
  refine congrArg _ (List.filter_congr fun d _ => ?_)
  by_cases hd : d.line = k
  · simp [hd, h, committedAt]
  · simp [hd]

theorem rootKept_settledWith {c : LineCopy} (h : s.newestCommitted l = some c) : RootKept s (settledWith l c s) where
  only := OnlySlices.trans (t := { s with mem := memSetAll s.mem (atAddr (128 * l) ((List.range 128).map fun i => memGet c.bytes i)) })
    rfl (onlySlices_dropCopies (committedAt s l) _)
  spill a := inSpill_of_copies (vers_settledWith l c s) fun d hd => by
    rw [copies_settledWith] at hd
    exact List.mem_of_mem_filter hd
  settled k hk := by
    have hne : k ≠ l := by
      rintro rfl
      rw [h] at hk
      exact absurd hk (by simp)
    have hn := newestCommitted_settledWith_ne (s := s) hne c
    rw [hk, Option.map_none] at hn
    exact Option.map_eq_none_iff.1 hn
  wf hm := dropCopies_wf _ (memSetAll_wf _ hm)
  root hm a ha := by
    have hmem : memGet (settledWith l c s).mem a =
        memGet (memSetAll s.mem (atAddr (128 * l) ((List.range 128).map fun i => memGet c.bytes i))) a := by
      refine mem_dropCopies (s := { s with mem := memSetAll s.mem _ }) _ ?_
      exact ha
    rw [Option.getD_none]
    by_cases hl : lineOf a = l
    · rw [rootByte, hl, newestCommitted_settledWith, Option.map_none, Option.getD_none, hmem, memGet_memSetAll hm,
        lastByte_atAddr, rootByte, hl, h]
      unfold lineOf at hl
      rw [if_pos (by omega), List.getElem?_map, List.getElem?_range (by omega), show a - 128 * l = a % 128 by omega]
      rfl
    · refine rootByte_congr (newestCommitted_settledWith_ne hl c) ?_
      rw [hmem, memGet_memSetAll_notin]
      intro b hb hba
      have hin := atAddr_addresses hb
      rw [List.length_map, List.length_range, hba] at hin
      unfold lineOf at hl
      omega

theorem rootKept_settle (l : Nat) (s : State) : RootKept s (settle l s) := by
  cases h : s.newestCommitted l with
  | none =>
    rw [settle_self h]
    exact .refl s
  | some c =>
    obtain ⟨e, he⟩ := settle_eq h
    rw [he]
    exact (rootKept_settledWith h).trans (rootKept_of_restowed (restowed_l2Take e _) fun hm => l2Take_wf e hm)

theorem newestCommitted_settle (l : Nat) (s : State) : (settle l s).newestCommitted l = none := by
  cases h : s.newestCommitted l with
  | none => rw [settle_self h, h]
  | some c =>
    obtain ⟨e, he⟩ := settle_eq h
    have hn := newestCommitted_restowed (restowed_l2Take e (settledWith l c s)) l
    rw [newestCommitted_settledWith, Option.map_none] at hn
    rw [he]
    exact Option.map_eq_none_iff.1 hn

theorem rootKept_foldl {α : Type} {f : State → α → State} (hf : ∀ x a, RootKept x (f x a)) (l : List α) (s : State) :
    RootKept s (l.foldl f s) := by
  induction l generalizing s with
  | nil => exact .refl s
  | cons a l ih => exact (hf s a).trans (ih _)

theorem rootKept_noteLine (v l : Nat) (need : BitVec 4) (cls : Nat) (s : State) : RootKept s (noteLine v l need cls s) :=
  rootKept_of_restowed (restowed_noteLine v l need cls s) fun hm => noteLine_wf v l need cls hm

theorem rootKept_noteBytes (v : Nat) (pas : List Nat) (s : State) : RootKept s (noteBytes v pas s) :=
  rootKept_foldl (fun t l => (rootKept_settle l t).trans (rootKept_noteLine v l _ 0 _)) _ s

/-! ### Reading a range -/

theorem settled_foldl_settle (ls : List Nat) (s : State) : RootKept s (ls.foldl (fun t l => settle l t) s) ∧
    ∀ l ∈ ls, (ls.foldl (fun t l => settle l t) s).newestCommitted l = none := by
  induction ls generalizing s with
  | nil => exact ⟨.refl s, fun _ h => absurd h List.not_mem_nil⟩
  | cons k ls ih =>
    obtain ⟨hkept, hall⟩ := ih (settle k s)
    refine ⟨(rootKept_settle k s).trans hkept, fun l hl => ?_⟩
    rcases List.mem_cons.1 hl with rfl | hl
    · exact hkept.settled _ (newestCommitted_settle l s)
    · exact hall l hl

theorem lineOf_mem_linesOf {pa n i : Nat} (h : i < n) : lineOf (pa + i) ∈ linesOf pa n := by
  refine List.mem_map.2 ⟨(pa + i) / 128 - pa / 128, List.mem_range.2 ?_, ?_⟩
  · omega
  · unfold lineOf
    omega

/-- A range reads as its bytes of a settled memory. -/
theorem rootBytes_getElem? (hm : Memory.wf s.mem = true) {pa n : Nat} (hclear : ClearOf s pa n) (i : Nat) :
    (s.rootBytes pa n)[i]? = if i < n then some (rootByte s (pa + i)) else none := by
  rw [State.rootBytes, viewBytes_getElem?]
  split
  next h =>
    obtain ⟨hkept, hall⟩ := settled_foldl_settle (linesOf pa n) s
    rw [settleRange, if_neg (by omega), ← rootByte_settled (hall _ (lineOf_mem_linesOf h)),
      hkept.root hm _ (hclear _ (by omega) (by omega))]
    rfl
  · rfl

theorem rootBytes_length (s : State) (pa n : Nat) : (s.rootBytes pa n).length = n := viewBytes_length _ _ _ _

theorem clearOf_of_spill (h : ∀ a, InSpill t a → InSpill s a) {pa n : Nat} (hc : ClearOf s pa n) : ClearOf t pa n :=
  fun x h1 h2 hx => hc x h1 h2 (h x hx)

/-- Two memories with the same bytes in a range read the same there. -/
theorem rootBytes_congr (hs : Memory.wf s.mem = true) (ht : Memory.wf t.mem = true) {pa n : Nat} (hcs : ClearOf s pa n)
    (hct : ClearOf t pa n) (h : ∀ i, i < n → rootByte t (pa + i) = rootByte s (pa + i)) :
    t.rootBytes pa n = s.rootBytes pa n := by
  refine List.ext_getElem? fun i => ?_
  rw [rootBytes_getElem? ht hct, rootBytes_getElem? hs hcs]
  split
  next hi => rw [h i hi]
  · rfl

/-! ### Writing -/

theorem rootWritten_memSetAll {bs : List (Nat × Byte)} (h : ∀ b ∈ bs, s.newestCommitted (lineOf b.1) = none) :
    RootWritten (lastByte bs) s { s with mem := memSetAll s.mem bs } where
  only := rfl
  spill _ h := h
  settled l hl := (newestCommitted_withMem s _ l).trans hl
  wf hm := memSetAll_wf bs hm
  root hm a _ := by
    rw [rootByte, newestCommitted_withMem, rootByte]
    dsimp only
    rw [memGet_memSetAll hm]
    cases hb : lastByte bs a with
    | none => rfl
    | some x => rw [h _ (lastByte_mem hb)]; rfl

/-- Bytes of one line are written at VID 0. -/
theorem rootWritten_writeLine {bs : List (Nat × Byte)} (h : ∀ b ∈ bs, lineOf b.1 = l) (cls : Nat) (s : State) :
    RootWritten (lastByte bs) s (writeLine 0 l bs cls s) ∧ (writeLine 0 l bs cls s).newestCommitted l = none := by
  have hself := newestCommitted_settle l s
  have hkept := rootKept_settle l s
  obtain ⟨e, he⟩ : ∃ e, writeLine 0 l bs cls s = l2Take e { settle l s with mem := memSetAll (settle l s).mem bs } := ⟨_, rfl⟩
  have hset := rootWritten_memSetAll (s := settle l s) (bs := bs) fun b hb => (h b hb).symm ▸ hself
  have htake := rootKept_of_restowed (restowed_l2Take e { settle l s with mem := memSetAll (settle l s).mem bs })
    fun hm => l2Take_wf e hm
  rw [he]
  exact ⟨((RootWritten.trans hkept hset).trans htake).of_eq fun a => by simp, htake.settled l (hset.settled l hself)⟩

theorem rootWritten_writeLines (bs : List (Nat × Byte)) (ls : List Nat) (s : State) :
    RootWritten (fun a => if lineOf a ∈ ls then lastByte bs a else none) s
        (ls.foldl (fun t l => writeLine 0 l (bs.filter fun c => lineOf c.1 = l) 0 t) s) ∧
      ∀ l ∈ ls, (ls.foldl (fun t l => writeLine 0 l (bs.filter fun c => lineOf c.1 = l) 0 t) s).newestCommitted l = none := by
  induction ls generalizing s with
  | nil => exact ⟨(RootKept.refl s).of_eq fun a => by simp, fun _ h => absurd h List.not_mem_nil⟩
  | cons k ls ih =>
    obtain ⟨hwrote, hself⟩ := rootWritten_writeLine (bs := bs.filter fun c => lineOf c.1 = k) (l := k)
      (fun b hb => of_decide_eq_true (List.mem_filter.1 hb).2) 0 s
    obtain ⟨hrest, hall⟩ := ih (writeLine 0 k (bs.filter fun c => lineOf c.1 = k) 0 s)
    refine ⟨(hwrote.trans hrest).of_eq fun a => ?_, fun l hl => ?_⟩
    · rw [lastByte_filter]
      by_cases hk : lineOf a = k
      · rw [if_pos hk, if_pos (List.mem_cons.2 (.inl hk))]
        split
        · cases lastByte bs a <;> rfl
        · rfl
      · rw [if_neg hk, Option.or_none]
        exact if_congr (by rw [List.mem_cons, or_iff_right hk]) rfl rfl
    · rcases List.mem_cons.1 hl with rfl | hl
      · exact hrest.settled _ hself
      · exact hall l hl

/-- Bytes are written at VID 0, of several for one address the last; their lines have settled. -/
theorem rootWritten_writeView (bs : List (Nat × Byte)) (s : State) :
    RootWritten (lastByte bs) s (writeView 0 bs s) ∧
      ∀ b ∈ bs, (writeView 0 bs s).newestCommitted (lineOf b.1) = none := by
  obtain ⟨hwrote, hall⟩ := rootWritten_writeLines bs (bs.map fun c => lineOf c.1).dedup s
  have hmem (b : Nat × Byte) (hb : b ∈ bs) : lineOf b.1 ∈ (bs.map fun c => lineOf c.1).dedup :=
    List.mem_dedup.2 (List.mem_map.2 ⟨b, hb, rfl⟩)
  refine ⟨hwrote.of_eq fun a => ?_, fun b hb => hall _ (hmem b hb)⟩
  cases h : lastByte bs a with
  | none => simp
  | some x => exact if_pos (hmem _ (lastByte_mem h))

end
end Sys2Proof.Proofs
end

section
/-!
COPY and GATHER (R97, R98, R101): bytes read, checked and stored as one step, or none of them.
-/

namespace Sys2Proof.Proofs

open Sys2Proof.Machine Sys2Proof.Statements

section
variable {s t u : State} {c : Cmd} {k q a : Nat} {l : List Move} {bs : List (Nat × Byte)}

/-! ### Lines that have settled are written in place -/

/-- As `Restowed`, but that the bytes that `p` holds of may change. -/
structure RestowedBut (p : Nat → Prop) (s t : State) : Prop where
  only : OnlySlices s t
  copies : t.copies.map unplaced = s.copies.map unplaced
  mem : ∀ a, ¬ p a → ¬ InSpill s a → memGet t.mem a = memGet s.mem a
  spill : ∀ a, InSpill t a → InSpill s a

section
variable {p : Nat → Prop}

theorem Restowed.but (h : Restowed s t) : RestowedBut p s t := ⟨h.only, h.copies, fun a _ ha => h.mem a ha, h.spill⟩

theorem RestowedBut.trans (h : RestowedBut p s t) (g : RestowedBut p t u) : RestowedBut p s u :=
  ⟨h.only.trans g.only, g.copies.trans h.copies,
    fun a hp ha => (g.mem a hp fun hb => ha (h.spill a hb)).trans (h.mem a hp ha), fun a ha => h.spill a (g.spill a ha)⟩

/-- Where its byte has not changed every version sees what it saw. -/
theorem RestowedBut.viewByte (h : RestowedBut p s t) (v : Nat) (hp : ¬ p a) (ha : ¬ InSpill s a) :
    t.viewByte v a = s.viewByte v a := by
  have hstowed : Restowed s { t with mem := s.mem } :=
    ⟨(congrArg (fun x : State => { x with mem := s.mem }) h.only :), h.copies, fun _ _ => rfl, h.spill⟩
  rw [← hstowed.viewByte v ha, viewByte_eq, viewByte_eq, h.mem a hp ha]
  have hseen : ({ t with mem := s.mem } : State).seenCopy (lineOf a) v = t.seenCopy (lineOf a) v := by
    rw [State.seenCopy, State.seenCopy, ancestors_congr (s := t) (t := { t with mem := s.mem }) rfl]
    rfl
  rw [hseen]

theorem RestowedBut.settled (h : RestowedBut p s t) {x : Nat} (hx : s.newestCommitted x = none) : t.newestCommitted x = none := by
  have hline (z : State) : ((z.copies.filter fun c => c.line = x).map unplaced) =
      (z.copies.map unplaced).filter fun c => c.line = x := by
    rw [List.filter_map]
    rfl
  have hn := newestCommitted_congr (s := s) (t := t) (l := x) h.only.vers (by rw [hline, hline, h.copies])
  rw [hx, Option.map_none] at hn
  exact Option.map_eq_none_iff.1 hn

theorem restowedBut_foldl {α : Type} {f : State → α → State} {good : State → α → Prop}
    (hgood : ∀ x y b, RestowedBut p x y → good x b → good y b) (ls : List α)
    (hf : ∀ x, ∀ b ∈ ls, good x b → RestowedBut p x (f x b)) (h : ∀ b ∈ ls, good s b) : RestowedBut p s (ls.foldl f s) := by
  induction ls generalizing s with
  | nil => exact (Restowed.refl s).but
  | cons b ls ih =>
    have hb := hf s b List.mem_cons_self (h b List.mem_cons_self)
    exact hb.trans (ih (fun x d hd => hf x d (List.mem_cons_of_mem _ hd))
      fun d hd => hgood _ _ _ hb (h d (List.mem_cons_of_mem _ hd)))

end

theorem restowedBut_noteBytes (p : Nat → Prop) (v : Nat) {pas : List Nat} (h : ∀ pa ∈ pas, s.newestCommitted (lineOf pa) = none) :
    RestowedBut p s (noteBytes v pas s) := by
  refine restowedBut_foldl (good := fun x ln => x.newestCommitted ln = none) (fun x y b hxy => hxy.settled) _
    (fun x ln _ hx => ?_) fun ln hln => ?_
  · rw [settle_self hx]
    exact (restowed_noteLine v ln _ 0 x).but
  · obtain ⟨pa, hpa, rfl⟩ := List.mem_map.1 (List.mem_dedup.1 hln)
    exact h pa hpa

theorem restowedBut_writeView (h : ∀ b ∈ bs, s.newestCommitted (lineOf b.1) = none) :
    RestowedBut (fun a => ∃ b ∈ bs, b.1 = a) s (writeView 0 bs s) := by
  refine restowedBut_foldl (good := fun x ln => x.newestCommitted ln = none) (fun x y b hxy => hxy.settled) _
    (fun x ln _ hx => ?_) fun ln hln => ?_
  · rw [writeLine_root ln _ 0 hx]
    refine RestowedBut.trans (t := { x with mem := memSetAll x.mem (bs.filter fun c => lineOf c.1 = ln) }) ?_ (restowed_l2Take _ _).but
    refine ⟨rfl, rfl, fun a hp _ => memGet_memSetAll_notin _ _ fun b hb hba => hp ⟨b, List.mem_of_mem_filter hb, hba⟩, fun _ ha => ha⟩
  · obtain ⟨b, hb, rfl⟩ := List.mem_map.1 (List.mem_dedup.1 hln)
    exact h b hb

/-! ### The bytes for one space -/

/-- Of the moves the bytes that `f` picks, for the places that `place` makes of addresses. -/
structure Picks (f : Move → Option (Nat × Byte)) (place : Nat → Place) : Prop where
  iff : ∀ m a x, f m = some (a, x) ↔ m.dst = place a ∧ m.byte = x

section
variable {f : Move → Option (Nat × Byte)} {place : Nat → Place} {x : Byte}

theorem lastByte_picks_none (hf : Picks f place) (h : ∀ x, (place a, x) ∉ stored l) : lastByte (l.filterMap f) a = none := by
  refine lastByte_none.2 fun b hb hba => ?_
  obtain ⟨m, hm, hfm⟩ := List.mem_filterMap.1 hb
  obtain ⟨hd, hx⟩ := (hf.iff m b.1 b.2).1 hfm
  exact h b.2 (List.mem_map.2 ⟨m, hm, by rw [hd, hx, hba]⟩)

theorem lastByte_picks {j : Nat} (hf : Picks f place)
    (h : (stored l)[j]? = some (place a, x)) (hlast : ∀ k y, j < k → (stored l)[k]? ≠ some (place a, y)) :
    lastByte (l.filterMap f) a = some x := by
  induction l generalizing j with
  | nil => exact absurd h (by simp [stored])
  | cons m l ih =>
    have hstored : stored (m :: l) = (m.dst, m.byte) :: stored l := rfl
    rw [hstored] at h hlast
    cases j with
    | zero =>
      obtain ⟨hd, hx⟩ := Prod.mk.inj (Option.some.inj h)
      have hnone : lastByte (l.filterMap f) a = none := by
        refine lastByte_picks_none hf fun y hy => ?_
        obtain ⟨i, hi⟩ := List.mem_iff_getElem?.1 hy
        exact hlast (i + 1) y (Nat.succ_pos i) hi
      rw [List.filterMap_cons_some ((hf.iff m a x).2 ⟨hd, hx⟩), lastByte, hnone, Option.none_or, if_pos rfl]
    | succ j =>
      have hrec := ih (j := j) h fun k y hk => hlast (k + 1) y (Nat.succ_lt_succ hk)
      cases hm : f m with
      | none => rw [List.filterMap_cons_none hm, hrec]
      | some b => rw [List.filterMap_cons_some hm, lastByte, hrec, Option.some_or]

end

/-- The bytes for shared space, for the tile store and for memory. -/
def sharedPart (l : List Move) : List (Nat × Byte) := l.filterMap fun x => match x.dst with | .shared a => some (a, x.byte) | _ => none
def tilePart (l : List Move) : List (Nat × Byte) := l.filterMap fun x => match x.dst with | .tile a => some (a, x.byte) | _ => none
def memPart (l : List Move) : List (Nat × Byte) := l.filterMap fun x => match x.dst with | .mem a => some (a, x.byte) | _ => none

theorem picks_shared : Picks (fun x => match x.dst with | .shared a => some (a, x.byte) | _ => none) .shared :=
  ⟨fun m a x => by cases h : m.dst <;> simp⟩
theorem picks_tile : Picks (fun x => match x.dst with | .tile a => some (a, x.byte) | _ => none) .tile :=
  ⟨fun m a x => by cases h : m.dst <;> simp⟩
theorem picks_mem : Picks (fun x => match x.dst with | .mem a => some (a, x.byte) | _ => none) .mem :=
  ⟨fun m a x => by cases h : m.dst <;> simp⟩

end
end Sys2Proof.Proofs
end

section
/-!
The steps of COPY and GATHER: a failing byte ends the grid, and the moves of a command are stored at once (R97, R101).
-/

namespace Sys2Proof.Proofs

open Sys2Proof.Machine Sys2Proof.Statements

section
variable {s t u : State} {c : Cmd} {k q a : Nat} {l : List Move} {pages : Map Xlated} {pairs : List (Nat × Nat)}

/-! ### A command's fault -/

/-- A fault that is reported stands in the grid's record, and nothing else changes. -/
theorem reportFault_spec (gid : Nat) (f : FaultRec) (s : State) : { reportFault gid f s with grids := s.grids } = s ∧
    (reportFault gid f s).gridAt gid = afterFault (s.gridAt gid) f := by
  unfold reportFault afterFault
  dsimp only
  by_cases h : (s.gridAt gid).st = .ended ∨ (s.gridAt gid).squashed = true
  · have hb : ((s.gridAt gid).st == .ended || (s.gridAt gid).squashed) = true := by
      rwa [Bool.or_eq_true, beq_iff_eq]
    rw [if_pos hb, if_pos h]
    exact ⟨rfl, rfl⟩
  · have hb : ¬ ((s.gridAt gid).st == .ended || (s.gridAt gid).squashed) = true := by
      rwa [Bool.or_eq_true, beq_iff_eq]
    rw [if_neg hb, if_neg h]
    cases (s.gridAt gid).fault <;> exact ⟨rfl, State.gridAt_setGrid s gid _⟩

theorem onlyCore_modCmd (k q id : Nat) (f : Cmd → Cmd) (s : State) : OnlyCore s (modCmd k q id f s) k := onlyCore_setCore s k _

theorem blockAt_modCmd (k q id : Nat) (f : Cmd → Cmd) (s : State) (b : Nat) :
    (modCmd k q id f s).blockAt k b = s.blockAt k b := by
  rw [State.blockAt, modCmd, State.setEngQueue, State.coreAt_setCore]
  rfl

/-- A command that aborts is faulted. -/
theorem commandFaulted_commandAbort (c : Cmd) (code detail : Nat) (s : State) :
    CommandFaulted s (commandAbort s.sel.core s.sel.idx c code detail s) c code detail := by
  unfold commandAbort
  dsimp only
  obtain ⟨hrest, hgrid⟩ := reportFault_spec c.gid
    { code, detail := BitVec.ofNat 64 detail, blk := (s.blockAt s.sel.core c.blk).blk, coreN := s.coreN s.sel.core,
      grpin := (s.groupAt s.sel.core c.grp).grpin, expgen := if code = 0x10 then c.goneGen detail s else 0,
      lease := s.leaseFor c.asn code detail } s
  generalize reportFault c.gid _ s = t at hrest hgrid
  have hcores : t.cores = s.cores := (congrArg State.cores hrest :)
  refine ⟨fun v a => ?_, hgrid, fun b => ?_, commandIs_modCmd _ ?_⟩
  · rw [sameBytes_of_onlyCore (onlyCore_modCmd _ _ _ _ t)]
    exact viewByte_congr (s := s) (t := t) (congrArg State.mem hrest :) (congrArg State.copies hrest :) (congrArg State.vers hrest :) v a
  · rw [blockAt_modCmd, State.blockAt, State.coreAt, hcores]
    rfl
  · rw [State.engQueue, State.coreAt, hcores]
    rfl

/-! ### The moves are stored -/

theorem performMoves_fails {code detail : Nat} (ht : Translated s k q c (pairVas c pairs s) pages u)
    (hl : moveBytes k c pages u pairs = .error (code, detail)) :
    performMoves k q c pairs s = commandAbort k q c code detail u := by
  rw [performMoves, withPages_translated ht, hl]

/-- Stores of the command go nowhere, or the lines it writes can be read and have room (R77, R80). -/
def MayStore (c : Cmd) (l : List Move) (s : State) : Prop :=
  s.deadVid c.vid = true ∨ ((∀ x ∈ linesWritten l, s.storeFault c.vid x = none) ∧ s.roomLines c.vid 0 (linesWritten l) = true)

theorem performMoves_stores (ht : Translated s k q c (pairVas c pairs s) pages u)
    (hl : moveBytes k c pages u pairs = .ok l) (hmay : MayStore c l u) :
    performMoves k q c pairs s = modCmd k q c.id (fun d => { d with st := .sent, clipped := anyClipped l })
      (writePlaces k c l (noteBytes (srcVid c c.srec) (memOf (l.map (·.src))) u)) := by
  rw [performMoves, withPages_translated ht, hl]
  dsimp only
  rcases hmay with hdead | ⟨hfault, hroom⟩
  · rw [hdead]
    rfl
  · have hnone : (linesWritten l).findSome? (u.storeFault c.vid) = none := List.findSome?_eq_none_iff.2 hfault
    rw [hnone, hroom, ite_self]
    simp

/-- The block once the moves are stored. -/
def storedBlock (l : List Move) (b : Block) : Block :=
  { b with shared := memSetAll b.shared (sharedPart l), tile := memSetAll b.tile (tilePart l) }

theorem onlyL1_l1Remove (k : Nat) (fused : Bool) (ln : Nat) (s : State) : OnlyL1 s (l1Remove k fused ln s) := by
  unfold l1Remove
  split
  · exact .refl s
  · exact onlyL1_modL1 _ _ s

/-- Storing the moves changes the block, then memory, then L1s. -/
theorem writePlaces_spec (k : Nat) (c : Cmd) (l : List Move) (s : State) :
    ∃ v w, v = s.setBlockAt k c.blk (storedBlock l (s.blockAt k c.blk)) ∧
      w = (if v.deadVid c.vid then v else writeView c.vid (memPart l) v) ∧ OnlyL1 w (writePlaces k c l s) :=
  ⟨_, _, rfl, rfl, onlyL1_foldl (fun t ln => onlyL1_l1Remove k _ ln t) _ _⟩

theorem blockAt_of_onlySlices (h : OnlySlices s t) (k b : Nat) : t.blockAt k b = s.blockAt k b := by
  rw [State.blockAt, State.coreAt, (congrArg State.cores h :)]
  rfl

theorem engQueue_of_onlySlices (h : OnlySlices s t) (k q : Nat) : t.engQueue k q = s.engQueue k q := by
  rw [State.engQueue, State.coreAt, (congrArg State.cores h :)]
  rfl

theorem engQueue_setBlockAt (s : State) (k b : Nat) (x : Block) (q : Nat) : (s.setBlockAt k b x).engQueue k q = s.engQueue k q := by
  rw [State.engQueue, State.setBlockAt, State.coreAt_setCore]
  rfl

theorem OnlyL1.engQueue (h : OnlyL1 s t) (k q : Nat) : t.engQueue k q = s.engQueue k q :=
  (congrArg (fun c : Core => mapGet [] c.eng q) (h.core k) :)

theorem OnlyL1.viewByte (h : OnlyL1 s t) (v a : Nat) : t.viewByte v a = s.viewByte v a :=
  viewByte_congr (s := s) (t := t) (congrArg State.mem h.rest :) (congrArg State.copies h.rest :) (congrArg State.vers h.rest :) v a

/-- What of the block and of the queue the stores leave. -/
theorem writePlaces_core (k : Nat) (c : Cmd) (l : List Move) (s : State) :
    (writePlaces k c l s).blockAt k c.blk = storedBlock l (s.blockAt k c.blk) ∧
      ∀ q, (writePlaces k c l s).engQueue k q = s.engQueue k q := by
  obtain ⟨v, w, hv, hw, hl1⟩ := writePlaces_spec k c l s
  have hslices : OnlySlices v w := by
    rw [hw]
    split
    · rfl
    · exact onlySlices_writeView _ _ _
  refine ⟨?_, fun q => ?_⟩
  · rw [hl1.blockAt, blockAt_of_onlySlices hslices, hv, State.blockAt_setBlockAt]
  · rw [hl1.engQueue, engQueue_of_onlySlices hslices, hv, engQueue_setBlockAt]

/-- At VID 0 the bytes in memory are those of a write at VID 0. -/
theorem writePlaces_view (h : c.vid = 0) : ∃ v, OnlyCore s v k ∧
    ∀ x a, (writePlaces k c l s).viewByte x a = (writeView 0 (memPart l) v).viewByte x a := by
  obtain ⟨v, w, hv, hw, hl1⟩ := writePlaces_spec k c l s
  have hdead : v.deadVid 0 = false := rfl
  rw [h, hdead, if_neg Bool.false_ne_true] at hw
  exact ⟨v, hv ▸ onlyCore_setCore s k _, fun x a => hw ▸ hl1.viewByte x a⟩

theorem inSpill_of_onlyCore (h : OnlyCore s t k) : InSpill t a ↔ InSpill s a := by
  have hc : t.copies = s.copies := (congrArg State.copies h.1 :)
  have hv : t.vers = s.vers := (congrArg State.vers h.1 :)
  exact ⟨inSpill_of_copies hv fun _ hd => hc ▸ hd, inSpill_of_copies hv.symm fun _ hd => hc ▸ hd⟩

section
variable {v : Nat} {pas : List Nat}

/-- The last byte for an address is the one that lies there. -/
theorem storedByte_lies (hm : Memory.wf s.mem = true) (h : c.vid = 0) {x : Byte} {j : Nat}
    (hj : (stored l)[j]? = some (Place.mem a, x)) (hlast : ∀ k y, j < k → (stored l)[k]? ≠ some (Place.mem a, y))
    (ha : ¬ InSpill s a) : (writePlaces k c l (noteBytes v pas s)).viewByte 0 a = x := by
  have hbyte : lastByte (memPart l) a = some x := lastByte_picks picks_mem hj hlast
  have hread := rootKept_noteBytes v pas s
  obtain ⟨z, honly, hview⟩ := writePlaces_view (s := noteBytes v pas s) (k := k) (l := l) h
  obtain ⟨hwrote, hsettled⟩ := rootWritten_writeView (memPart l) z
  have hmem : Memory.wf z.mem = true := by
    rw [(congrArg State.mem honly.1 :)]
    exact hread.wf hm
  have hclear : ¬ InSpill z a := fun hz => ha (hread.spill a ((inSpill_of_onlyCore honly).1 hz))
  rw [hview, ← rootByte_settled (hsettled _ (lastByte_mem hbyte)), hwrote.root hmem a hclear, hbyte]
  rfl

/-- A byte that no move stores stays, in every version. -/
theorem unstoredByte_stays (h : c.vid = 0) (hl : LinesSettled s l) (hnot : ∀ x, (Place.mem a, x) ∉ stored l)
    (ha : ¬ InSpill s a) (y : Nat) :
    (writePlaces k c l (noteBytes v (memOf (l.map (·.src))) s)).viewByte y a = s.viewByte y a := by
  have hread : RestowedBut (fun a => ∃ b ∈ memPart l, b.1 = a) s (noteBytes v (memOf (l.map (·.src))) s) := by
    refine restowedBut_noteBytes _ v fun pa hpa => ?_
    obtain ⟨p, hp, hpm⟩ := List.mem_filterMap.1 hpa
    obtain ⟨m, hm, rfl⟩ := List.mem_map.1 hp
    cases hsrc : m.src with
    | mem b =>
      rw [hsrc] at hpm
      exact hl m hm pa (.inl (hsrc.trans (congrArg Place.mem (Option.some.inj hpm))))
    | _ => rw [hsrc] at hpm; exact absurd hpm (by simp)
  obtain ⟨z, honly, hview⟩ := writePlaces_view (s := noteBytes v (memOf (l.map (·.src))) s) (k := k) (l := l) h
  have hsettled : ∀ b ∈ memPart l, z.newestCommitted (lineOf b.1) = none := by
    intro b hb
    rw [newestCommitted_of_copies (t := z) (congrArg State.vers honly.1 :) (congrArg State.copies honly.1 :)]
    obtain ⟨m, hm, hpick⟩ := List.mem_filterMap.1 hb
    obtain ⟨hdst, -⟩ := (picks_mem.iff m b.1 b.2).1 hpick
    exact hread.settled (hl m hm b.1 (.inr hdst))
  have hwrote := restowedBut_writeView hsettled
  have hp : ¬ ∃ b ∈ memPart l, b.1 = a := by
    rintro ⟨b, hb, hba⟩
    obtain ⟨m, hm, hpick⟩ := List.mem_filterMap.1 hb
    obtain ⟨hdst, hbyte⟩ := (picks_mem.iff m b.1 b.2).1 hpick
    exact hnot b.2 (List.mem_map.2 ⟨m, hm, by rw [hdst, hbyte, hba]⟩)
  have hclear : ¬ InSpill z a := fun hs => ha (hread.spill a ((inSpill_of_onlyCore honly).1 hs))
  rw [hview, hwrote.viewByte y hp hclear, sameBytes_of_onlyCore honly, hread.viewByte y hp ha]

end

/-- The bytes for the block lie in its two stores. -/
theorem bytesLie_of_block (hb : t.blockAt k c.blk = storedBlock l (s.blockAt k c.blk))
    (hshared : Memory.wf (s.blockAt k c.blk).shared = true) (htile : Memory.wf (s.blockAt k c.blk).tile = true) :
    BytesLie s t k c (stored l) := by
  have hs (a : Nat) : memGet (t.blockAt k c.blk).shared a =
      (lastByte (sharedPart l) a).getD (memGet (s.blockAt k c.blk).shared a) := by
    rw [hb]
    exact memGet_memSetAll hshared _ a
  have ht (a : Nat) : memGet (t.blockAt k c.blk).tile a =
      (lastByte (tilePart l) a).getD (memGet (s.blockAt k c.blk).tile a) := by
    rw [hb]
    exact memGet_memSetAll htile _ a
  refine ⟨fun a x => ?_, fun a h => ?_, fun a x => ?_, fun a h => ?_, ?_⟩
  · rintro ⟨i, -, hi, hlast⟩
    rw [hs, sharedPart, lastByte_picks picks_shared hi hlast]
    rfl
  · rw [hs, sharedPart, lastByte_picks_none picks_shared h]
    rfl
  · rintro ⟨i, -, hi, hlast⟩
    rw [ht, tilePart, lastByte_picks picks_tile hi hlast]
    rfl
  · rw [ht, tilePart, lastByte_picks_none picks_tile h]
    rfl
  · rw [hb]
    rfl

end
end Sys2Proof.Proofs
end

section
/-!
The steps of FIFOFILL (R58, R110): the source is read whole, then its units join the FIFO one by one.
-/

namespace Sys2Proof.Proofs

open Sys2Proof.Machine Sys2Proof.Statements

section
variable {s t u : State} {c : Cmd} {h : DWord} {bytes : List (Byte × Bool)}

/-! ### The units of a stream -/

/-- Bytes of a unit in the source, and the offsets of those kept. -/
def unitBytes (h : DWord) : Nat := if h.toNat % 4 = 1 then 1536 else 800
def keptOffs (h : DWord) : List Nat :=
  if h.toNat % 4 = 0 then List.range (96 * (h.toNat / 4 % 16)) ++ (List.range 32).map (· + 768) else List.range (unitBytes h)

theorem unitSize_eq (h : DWord) : unitSize h = unitBytes h := by
  rw [unitSize, bits64_low]
  rfl

theorem unitKept_eq (h : DWord) : unitKept h = keptOffs h := by
  have hlow : bits64 h 0 2 = h.toNat % 4 := bits64_low h 2
  unfold unitKept keptOffs unitBytes
  rw [hlow]
  split
  next h0 => rw [if_pos h0]; rfl
  next h1 => rw [if_neg (by omega), if_pos h1]
  next h0 h1 => rw [if_neg h0, if_neg h1]

theorem units_eq (c : Cmd) : c.units = c.w0.toNat / 2 ^ 32 := bits64_high c.w0 32 32 rfl

theorem fillOffs_eq (c : Cmd) (h : DWord) : fillOffs c h = (List.range (c.w0.toNat / 2 ^ 32)).flatMap fun i =>
    (keptOffs h).map fun o => o + (c.w1.toNat % 2 ^ 32 + i * unitBytes h) := by
  rw [fillOffs, units_eq, unitKept_eq, unitSize_eq, Cmd.soff, bits64_low]

theorem appendUnit_last (b : List Byte) (older : List Stream) (last : Stream) :
    appendUnit b (older ++ [last]) = older ++ [{ last with units := last.units ++ [b] }] := by
  induction older with
  | nil => rfl
  | cons x older ih =>
    rw [List.cons_append, List.cons_append, ← ih]
    cases older <;> rfl

/-! ### What a FIFO holds afterwards -/

/-- The block of the command with a FIFO's streams. -/
def FifoIs (s t : State) (c : Cmd) (m : List Stream) : Prop :=
  t.blockAt s.sel.core c.blk =
    { s.blockAt s.sel.core c.blk with fifos := mapSet (s.blockAt s.sel.core c.blk).fifos (c.w0.toNat / 2 ^ 21 % 8) m }

/-- The streams of the command's FIFO. -/
def fifoOf (s : State) (c : Cmd) : List Stream := mapGet [] (s.blockAt s.sel.core c.blk).fifos (c.w0.toNat / 2 ^ 21 % 8)

theorem exec_fifofill (hs : Starts s 3 c) : exec .fifofill s = .next (fillStep s.sel.core s.sel.idx c s) :=
  startKind_starts fillStep hs

/-! ### The read -/

section
variable {pages : Map Xlated}

/-- The header of the stream that the command feeds. -/
def FeedsStream (s : State) (c : Cmd) (h : DWord) : Prop :=
  (c.w0.getLsbD 24 = true → fifoOf s c ≠ [] ∧ ((fifoOf s c).getLast?.map (·.hdr)) = some h) ∧
    (c.w0.getLsbD 24 = false → h = c.w2)

theorem fillHeader_eq (hh : FeedsStream s c h) : fillHeader s.sel.core c s = some h := by
  obtain ⟨hcont, hnew⟩ := hh
  rw [fillHeader]
  cases hb : c.w0.getLsbD 24 with
  | true => exact (hcont hb).2
  | false => rw [hnew hb]; rfl

theorem fillStep_reads (hs : Starts s 3 c) (hn : c.taken = none) (hh : FeedsStream s c h) :
    exec .fifofill s = .next (fillRead s.sel.core s.sel.idx c h s) := by
  rw [exec_fifofill hs, fillStep, hn, fillHeader_eq hh]

variable (hs : Starts s 3 c) (hn : c.taken = none) (hh : FeedsStream s c h)
  (ht : Translated s s.sel.core s.sel.idx c (recVas s c.srec (fillOffs c h)) pages u)
include hs hn hh ht

theorem fifofill_fails {code detail : Nat}
    (hf : firstFailure ((fillOffs c h).map fun o => sourceByte s.sel.core c pages o u) = .error (code, detail)) :
    ∃ t, exec .fifofill s = .next t ∧ CommandFaulted u t c code detail := by
  have hsel : u.sel = s.sel := sel_of_onlyTranslates (onlyTranslates_translated ht)
  have hfault := commandFaulted_commandAbort c code detail u
  rw [hsel] at hfault
  refine ⟨_, (fillStep_reads hs hn hh).trans (congrArg _ ?_), hfault⟩
  rw [fillRead, withPages_translated ht, hf]

theorem fifofill_reads {bs : List (Place × Byte)}
    (hf : firstFailure ((fillOffs c h).map fun o => sourceByte s.sel.core c pages o u) = .ok bs) :
    ∃ t, exec .fifofill s = .next t ∧
      FifoIs s t c (if c.w0.getLsbD 24 then fifoOf s c
        else (fifoOf s c).filter (fun x => decide (x.done < x.hdr.toNat / 65536 % 65536)) ++ [{ hdr := c.w2 }]) ∧
      CommandIs s t c fun x => { x with taken := some (bs.map fun y => (y.2, decide (y.1 = .clip))) } := by
  have htr := onlyTranslates_translated ht
  have hread : OnlySlices u (noteBytes (srcVid c c.srec) (memOf (bs.map (·.1))) u) := onlySlices_noteBytes _ _ u
  have hblock := blockAt_of_onlyTranslates htr s.sel.core c.blk
  have hqueue := (engQueue_of_onlySlices hread s.sel.core s.sel.idx).trans (engQueue_of_onlyTranslates htr _ _)
  have hexec := fillStep_reads hs hn hh
  rw [fillRead, withPages_translated ht, hf] at hexec
  dsimp only at hexec
  rw [hblock] at hexec
  refine ⟨_, hexec, ?_, ?_⟩
  · rw [FifoIs, blockAt_modCmd, State.blockAt_setBlockAt]
    rfl
  · have htaken : (bs.map fun x => (x.2, x.1 == Place.clip)) = bs.map fun y => (y.2, decide (y.1 = .clip)) := rfl
    rw [htaken]
    exact commandIs_modCmd _ ((engQueue_setBlockAt _ _ _ _ _).trans hqueue)

end

/-! ### A unit -/

section
variable (hs : Starts s 3 c) (ht : c.taken = some bytes)
include hs ht

theorem fillStep_unit : exec .fifofill s = .next (fillUnit s.sel.core s.sel.idx c bytes s) := by
  rw [exec_fifofill hs, fillStep, ht]

theorem fifofill_ends (hc : c.w0.toNat / 2 ^ 32 ≤ c.count) :
    ∃ t, exec .fifofill s = .next t ∧ SameBytes s t ∧ CommandIs s t c fun x => { x with st := .sent } := by
  have hexec := fillStep_unit hs ht
  rw [fillUnit] at hexec
  dsimp only at hexec
  rw [if_pos (units_eq c ▸ hc)] at hexec
  exact ⟨_, hexec, sameBytes_of_onlyCore (onlyCore_modCmd _ _ _ _ s), commandIs_modCmd _ rfl⟩

variable {older : List Stream} {last : Stream} (hc : c.count < c.w0.toNat / 2 ^ 32) (hl : fifoOf s c = older ++ [last])
include hc hl

theorem fillUnit_eq : exec .fifofill s = .next (
    if fifoUsed (fifoOf s c) + (keptOffs last.hdr).length > (s.blockAt s.sel.core c.blk).fifoBytes then s
    else
      let n := (keptOffs last.hdr).length
      modCmd s.sel.core s.sel.idx c.id
        (fun d => { d with count := c.count + 1, taken := some (bytes.drop n),
                           clipped := d.clipped || (bytes.take n).any (·.2),
                           st := if c.count + 1 ≥ c.units then .sent else .queued })
        (s.setBlockAt s.sel.core c.blk { s.blockAt s.sel.core c.blk with
          fifos := mapSet (s.blockAt s.sel.core c.blk).fifos c.fifo (appendUnit ((bytes.take n).map (·.1)) (fifoOf s c)) })) := by
  have hlast : (mapGet [] (s.blockAt s.sel.core c.blk).fifos c.fifo).getLast? = some last := by
    have hfifo : mapGet [] (s.blockAt s.sel.core c.blk).fifos c.fifo = older ++ [last] := hl
    rw [hfifo, List.getLast?_append]
    rfl
  rw [fillStep_unit hs ht, fillUnit]
  dsimp only
  rw [if_neg (by rw [units_eq]; omega), hlast]
  dsimp only
  rw [unitKept_eq]
  rfl

theorem fifofill_waits (hroom : (s.blockAt s.sel.core c.blk).fifoBytes < fifoUsed (fifoOf s c) + (keptOffs last.hdr).length) :
    exec .fifofill s = .next s := by
  rw [fillUnit_eq hs ht hc hl, if_pos hroom]

theorem fifofill_appends
    (hroom : fifoUsed (fifoOf s c) + (keptOffs last.hdr).length ≤ (s.blockAt s.sel.core c.blk).fifoBytes) :
    ∃ t, exec .fifofill s = .next t ∧ SameBytes s t ∧
      FifoIs s t c (older ++ [{ last with units := last.units ++ [(bytes.take (keptOffs last.hdr).length).map (·.1)] }]) ∧
      CommandIs s t c fun x =>
        { x with count := c.count + 1, taken := some (bytes.drop (keptOffs last.hdr).length),
                 clipped := x.clipped || (bytes.take (keptOffs last.hdr).length).any (·.2),
                 st := if c.w0.toNat / 2 ^ 32 ≤ c.count + 1 then .sent else .queued } := by
  have hexec := fillUnit_eq hs ht hc hl
  rw [if_neg (not_lt.2 hroom)] at hexec
  dsimp only at hexec
  rw [hl, appendUnit_last, units_eq] at hexec
  refine ⟨_, hexec, sameBytes_of_onlyCore (onlyCore_trans (onlyCore_setCore s _ _) (onlyCore_modCmd _ _ _ _ _)), ?_,
    commandIs_modCmd _ (engQueue_setBlockAt s _ _ _ _)⟩
  rw [FifoIs, blockAt_modCmd, State.blockAt_setBlockAt]
  rfl

end
end

/-! ### The obligation -/

section
variable {s u : State} {c : Cmd} {pairs : List (Nat × Nat)} {pages : Map Xlated}

theorem exec_copy (h : Starts s 1 c) : exec .copy s = .next (performMoves s.sel.core s.sel.idx c ((List.range (c.w0.toNat / 2 ^ 32)).map
    fun j => (c.w1.toNat % 2 ^ 32 + j, c.w1.toNat / 2 ^ 32 + j)) s) := by
  have hexec : exec .copy s = .next (performMoves s.sel.core s.sel.idx c (copyPairs c c.len) s) :=
    startKind_starts (fun k q c s => performMoves k q c (copyPairs c c.len) s) h
  rw [hexec, copyPairs, Cmd.len, Cmd.soff, Cmd.doff, bits64_high c.w0 32 32 rfl, bits64_high c.w1 32 32 rfl, bits64_low]

theorem exec_gather (h : Starts s 2 c) : exec .gather s = .next
    (match gatherPairs s.sel.core c s (List.range (c.w0.toNat / 2 ^ 48)) with
      | .error e => commandAbort s.sel.core s.sel.idx c e.1 e.2 s
      | .ok pairs => performMoves s.sel.core s.sel.idx c pairs s) := by
  rw [← bits64_high c.w0 48 16 rfl]
  exact startKind_starts (fun k q c s =>
    match gatherPairs k c s (gatherRows c) with
    | .error e => commandAbort k q c e.1 e.2 s
    | .ok pairs => performMoves k q c pairs s) h

end

/-- Settles O44: a command's pages are translated, its bytes checked, and then either its grid ends or its bytes are written,
which the rules of memory at VID 0 follow byte by byte. -/
theorem enginesMoveBytes : Obligations.EnginesMoveBytes := by
  unfold Obligations.EnginesMoveBytes
  refine ⟨⟨fun s c i pairs hi hmem hshared htile pages u ht => ?_, fun s c code detail h hp => ?_⟩, fun s c h => ?_⟩
  · have htr := onlyTranslates_translated ht
    have hsel : u.sel = s.sel := sel_of_onlyTranslates htr
    have hwf := translated_wf ht hmem
    have hexec : exec i s = .next (performMoves s.sel.core s.sel.idx c pairs s) := by
      rcases hi with ⟨rfl, h, rfl⟩ | ⟨rfl, h, hp⟩
      · exact exec_copy h
      · rw [exec_gather h, hp]
    refine ⟨htr, fun l hl hmay => ?_, fun code detail hl => ?_⟩
    · rw [performMoves_stores ht hl hmay] at hexec
      obtain ⟨hblock, hqueue⟩ := writePlaces_core s.sel.core c l (noteBytes (srcVid c c.srec) (memOf (l.map (·.src))) u)
      have hview (v a : Nat) := sameBytes_of_onlyCore (onlyCore_modCmd s.sel.core s.sel.idx c.id
        (fun d => { d with st := .sent, clipped := anyClipped l })
        (writePlaces s.sel.core c l (noteBytes (srcVid c c.srec) (memOf (l.map (·.src))) u))) v a
      have hread := onlySlices_noteBytes (srcVid c c.srec) (memOf (l.map (·.src))) u
      have hb := blockAt_of_onlyTranslates htr s.sel.core c.blk
      rw [← hb] at hshared htile
      refine ⟨_, hexec, bytesLie_of_block ?_ hshared htile, ?_, fun hv j pa x hj hlast ha => ?_, fun hv hl' v pa hnot ha => ?_⟩
      · rw [blockAt_modCmd, hblock, blockAt_of_onlySlices hread]
      · rw [← anyClipped_eq, ← hsel]
        refine commandIs_modCmd _ ?_
        rw [hsel, hqueue, engQueue_of_onlySlices hread]
      · rw [hview]
        exact storedByte_lies hwf hv hj hlast ha
      · rw [hview]
        exact unstoredByte_stays hv hl' hnot ha v
    · rw [performMoves_fails ht hl, ← hsel] at hexec
      exact ⟨_, hexec, commandFaulted_commandAbort c code detail u⟩
  · have hexec := exec_gather h
    rw [hp] at hexec
    exact ⟨_, hexec, commandFaulted_commandAbort c code detail s⟩
  · intro k b fi units cont l0 live filled size kept
    refine ⟨fun hd hn hcont hnew => ?_, fun bytes htaken => ?_⟩
    · intro offs pages u ht
      have hoffs : offs = fillOffs c hd := (fillOffs_eq c hd).symm
      rw [hoffs] at ht ⊢
      have hh : FeedsStream s c hd := ⟨hcont, hnew⟩
      exact ⟨onlyTranslates_translated ht, fun bs hf => fifofill_reads h hn hh ht hf,
        fun code detail hf => fifofill_fails h hn hh ht hf⟩
    · exact ⟨fifofill_ends h htaken, fun older last hc hl =>
        ⟨fun hroom => fifofill_appends h htaken hc hl hroom, fun hroom => fifofill_waits h htaken hc hl hroom⟩⟩

end Sys2Proof.Proofs
end

section
/-!
Numbers in memory at VID 0 and page table entries (R51-R54): what a write leaves of the others, and the entry a walk finds.
-/

namespace Sys2Proof.Proofs

open Sys2Proof.Machine Sys2Proof.Statements

section
variable {s t u : State} {a pa n x : Nat}

/-! ### Numbers -/

theorem rootNat_kept {f : Nat → Option Byte} (h : RootWritten f s t) (hm : Memory.wf s.mem = true) (hc : ClearOf s pa n)
    (hf : ∀ i, i < n → f (pa + i) = none) : t.rootNat pa n = s.rootNat pa n := by
  refine congrArg leNat (rootBytes_congr hm (h.wf hm) hc (clearOf_of_spill h.spill hc) fun i hi => ?_)
  rw [h.root hm _ (hc _ (by omega) (by omega)), hf i hi]
  rfl

theorem rootNat_written {f : Nat → Option Byte} (h : RootWritten f s t) (hm : Memory.wf s.mem = true) (hc : ClearOf s pa n)
    (hf : ∀ i, i < n → f (pa + i) = (leBytes n x)[i]?) : t.rootNat pa n = x % 256 ^ n := by
  rw [← leNat_leBytes, State.rootNat]
  refine congrArg leNat (List.ext_getElem? fun i => ?_)
  rw [rootBytes_getElem? (h.wf hm) (clearOf_of_spill h.spill hc)]
  split
  next hi =>
    have hlen : i < (leBytes n x).length := by rwa [leBytes_length]
    rw [h.root hm _ (hc _ (by omega) (by omega)), hf i hi, List.getElem?_eq_getElem hlen, Option.getD_some]
  next hi => rw [List.getElem?_eq_none (by rw [leBytes_length]; omega)]

/-- A state with the same bytes, copies and versions has the same numbers. -/
theorem rootNat_of_home (hm : Memory.wf s.mem = true) (hmem : t.mem = s.mem) (hcopies : t.copies = s.copies)
    (hvers : t.vers = s.vers) (hc : ClearOf s pa n) : t.rootNat pa n = s.rootNat pa n := by
  have hct : ClearOf t pa n := clearOf_of_spill (fun a => inSpill_of_copies hvers fun _ hd => hcopies ▸ hd) hc
  refine congrArg leNat (rootBytes_congr hm (hmem ▸ hm) hc hct fun i _ => ?_)
  rw [rootByte, newestCommitted_of_copies hvers hcopies, hmem, rootByte]

theorem lastByte_atAddr_outside {bs : List Byte} (h : a < pa ∨ pa + bs.length ≤ a) : lastByte (atAddr pa bs) a = none := by
  rw [lastByte_atAddr]
  split
  · exact List.getElem?_eq_none (by omega)
  · rfl

theorem rootWritten_writeNat (pa n x : Nat) (s : State) : RootWritten (lastByte (atAddr pa (leBytes n x))) s (writeNat 0 pa n x s) :=
  (rootWritten_writeView _ s).1

theorem rootNat_writeNat (hm : Memory.wf s.mem = true) (hc : ClearOf s pa n) :
    (writeNat 0 pa n x s).rootNat pa n = x % 256 ^ n := by
  refine rootNat_written (rootWritten_writeNat pa n x s) hm hc fun i hi => ?_
  rw [lastByte_atAddr, if_pos (by omega), Nat.add_sub_cancel_left]

/-- Bytes written apart from a number leave it. -/
theorem rootNat_writeView_apart {bs : List Byte} {b m : Nat} (hm : Memory.wf s.mem = true) (hc : ClearOf s b m)
    (h : Apart b m pa bs.length) : (writeView 0 (atAddr pa bs) s).rootNat b m = s.rootNat b m := by
  refine rootNat_kept (rootWritten_writeView (atAddr pa bs) s).1 hm hc fun i hi => lastByte_atAddr_outside ?_
  unfold Apart at h
  omega

theorem rootNat_writeNat_apart {b m : Nat} (hm : Memory.wf s.mem = true) (hc : ClearOf s b m) (h : Apart b m pa n) :
    (writeNat 0 pa n x s).rootNat b m = s.rootNat b m :=
  rootNat_writeView_apart hm hc (by rwa [leBytes_length])

theorem clearOf_writeNat {b m : Nat} (hc : ClearOf s b m) (pa n x : Nat) : ClearOf (writeNat 0 pa n x s) b m :=
  clearOf_of_spill (rootWritten_writeNat pa n x s).spill hc

/-! ### Entries -/

theorem xl_of_onlySlices (h : OnlySlices s t) : t.xl = s.xl := (congrArg State.xl h :)

theorem pteAddr_congr (h : t.xl.ptbase = s.xl.ptbase) (k fr : Nat) : t.pteAddr k fr = s.pteAddr k fr := by
  rw [State.pteAddr, State.ptbase, h, State.pteAddr, State.ptbase]

theorem anchorAddr_congr (h : t.xl.anchbase = s.xl.anchbase) (k fr : Nat) : t.anchorAddr k fr = s.anchorAddr k fr := by
  rw [State.anchorAddr, State.anchbase, h, State.anchorAddr, State.anchbase]

theorem pte_eq {k fr : Nat} {e : Pte} (h : t.xl.ptbase = s.xl.ptbase) (hn : t.rootNat (s.pteAddr k fr) 32 = e.toNat) :
    t.pte k fr = e := by
  rw [State.pte, pteAddr_congr h, hn, BitVec.ofNat_toNat, BitVec.setWidth_eq]

theorem rootNat_setPte {k fr : Nat} (e : Pte) (hm : Memory.wf s.mem = true) (hc : ClearOf s (s.pteAddr k fr) 32) :
    (s.setPte k fr e).rootNat (s.pteAddr k fr) 32 = e.toNat :=
  (rootNat_writeNat hm hc).trans (Nat.mod_eq_of_lt e.isLt)

theorem onlySlices_setPte (s : State) (k fr : Nat) (e : Pte) : OnlySlices s (s.setPte k fr e) := onlySlices_writeView _ _ s

theorem onlySlices_writeNat (pa n x : Nat) (s : State) : OnlySlices s (writeNat 0 pa n x s) := onlySlices_writeView _ _ s

/-! ### Fields of an entry -/

/-- An entry with a field replaced: what lies above the field, the new field, what lies below. -/
theorem pteSet_toNat (e : Pte) (lo n x : Nat) (h : lo + n ≤ 256) :
    (pteSet e lo n x).toNat = 2 ^ lo * (2 ^ n * (e.toNat / 2 ^ (lo + n)) + x % 2 ^ n) + e.toNat % 2 ^ lo := by
  have hlow := Nat.div_add_mod e.toNat (2 ^ lo)
  have hhigh := Nat.div_add_mod (e.toNat / 2 ^ lo) (2 ^ n)
  rw [Nat.div_div_eq_div_mul, ← pow_add] at hhigh
  have hlt : e.toNat % 2 ^ lo < 2 ^ lo := Nat.mod_lt _ (Nat.two_pow_pos lo)
  have hx : x % 2 ^ n < 2 ^ n := Nat.mod_lt _ (Nat.two_pow_pos n)
  have htop : e.toNat / 2 ^ (lo + n) < 2 ^ (256 - (lo + n)) := by
    refine Nat.div_lt_of_lt_mul ?_
    rw [← pow_add, show lo + n + (256 - (lo + n)) = 256 by omega]
    exact e.isLt
  have hpow : 2 ^ lo * (2 ^ n * 2 ^ (256 - (lo + n))) = 2 ^ 256 := by
    rw [← pow_add, ← pow_add, show lo + (n + (256 - (lo + n))) = 256 by omega]
  rw [pteSet, BitVec.toNat_ofNat]
  generalize e.toNat / 2 ^ lo % 2 ^ n = r at *
  generalize e.toNat / 2 ^ (lo + n) = top at *
  generalize e.toNat / 2 ^ lo = q at *
  generalize e.toNat % 2 ^ lo = low at *
  generalize x % 2 ^ n = y at *
  generalize 2 ^ (256 - (lo + n)) = c at *
  generalize 2 ^ lo = A at *
  generalize 2 ^ n = B at *
  have hsub : e.toNat - r * A + y * A = A * (B * top + y) + low := by
    rw [← hlow, ← hhigh, show A * (B * top + r) + low = A * (B * top) + low + r * A by ring, Nat.add_sub_cancel]
    ring
  have hbound : A * (B * top + y) + low < 2 ^ 256 := calc
    A * (B * top + y) + low < A * (B * top + y) + A := Nat.add_lt_add_left hlt _
    _ = A * (B * top + y + 1) := by ring
    _ ≤ A * (B * top + B) := Nat.mul_le_mul_left _ (by omega)
    _ = A * (B * (top + 1)) := by ring
    _ ≤ A * (B * c) := Nat.mul_le_mul_left _ (Nat.mul_le_mul_left _ htop)
    _ = 2 ^ 256 := hpow
  rw [hsub]
  exact Nat.mod_eq_of_lt hbound

theorem pte_getLsbD (e : Pte) (i : Nat) : e.getLsbD i = decide (e.toNat / 2 ^ i % 2 = 1) := by
  rw [BitVec.getLsbD, Nat.testBit_eq_decide_div_mod_eq]

/-- The replaced bit. -/
theorem getLsbD_pteSet (e : Pte) (i x : Nat) (h : i + 1 ≤ 256) : (pteSet e i 1 x).getLsbD i = decide (x % 2 = 1) := by
  rw [pte_getLsbD, pteSet_toNat e i 1 x h, Nat.mul_add_div (Nat.two_pow_pos i),
    Nat.div_eq_of_lt (Nat.mod_lt _ (Nat.two_pow_pos i)), Nat.add_zero, pow_one, Nat.mul_add_mod, Nat.mod_mod]

/-- A field below the replaced one stays. -/
theorem pteSet_below (e : Pte) {lo n x i m : Nat} (h : lo + n ≤ 256) (hi : i + m ≤ lo) :
    (pteSet e lo n x).toNat / 2 ^ i % 2 ^ m = e.toNat / 2 ^ i % 2 ^ m := by
  have hmod (y : Nat) : y / 2 ^ i % 2 ^ m = y % 2 ^ lo / 2 ^ i % 2 ^ m := by
    rw [show lo = i + (m + (lo - i - m)) by omega, pow_add, Nat.mod_mul_right_div_self, pow_add, Nat.mod_mul_right_mod]
  rw [hmod, pteSet_toNat e lo n x h, Nat.mul_add_mod, Nat.mod_mod, ← hmod]

theorem pteGen_toNat (e : Pte) : (pteGen e).toNat = e.toNat / 2 ^ 48 % 2 ^ 16 := by
  rw [pteGen, BitVec.toNat_setWidth, BitVec.toNat_ushiftRight, Nat.shiftRight_eq_div_pow]

/-- The generation that replaces an entry's. -/
theorem pteGen_pteSet (e : Pte) (x : BitVec 16) : pteGen (pteSet e 48 16 x.toNat) = x := by
  refine BitVec.eq_of_toNat_eq ?_
  rw [pteGen_toNat, pteSet_toNat e 48 16 _ (by decide), Nat.mul_add_div (Nat.two_pow_pos 48),
    Nat.div_eq_of_lt (Nat.mod_lt _ (Nat.two_pow_pos 48)), Nat.add_zero, Nat.mul_add_mod, Nat.mod_mod,
    Nat.mod_eq_of_lt x.isLt]

theorem pteGen_pteSet_above (e : Pte) {lo n x : Nat} (h : lo + n ≤ 256) (hlo : 64 ≤ lo) : pteGen (pteSet e lo n x) = pteGen e := by
  refine BitVec.eq_of_toNat_eq ?_
  rw [pteGen_toNat, pteGen_toNat, pteSet_below e h hlo]

/-- The entry a page leaves behind when it moves: not valid, not busy, with the next generation. -/
def leftEntry (e : Pte) : Pte := pteSet (pteSet (pteSet e 48 16 (pteGen e + 1).toNat) 138 1 0) 139 1 0

theorem leftEntry_spec (e : Pte) :
    (leftEntry e).getLsbD 138 = false ∧ (leftEntry e).getLsbD 139 = false ∧ pteGen (leftEntry e) = pteGen e + 1 := by
  refine ⟨?_, getLsbD_pteSet _ 139 0 (by decide), ?_⟩
  · have hbelow := pteSet_below (pteSet (pteSet e 48 16 (pteGen e + 1).toNat) 138 1 0) (lo := 139) (n := 1) (x := 0) (i := 138)
      (m := 1) (by decide) (by decide)
    rw [pow_one] at hbelow
    rw [leftEntry, pte_getLsbD, hbelow, ← pte_getLsbD]
    exact getLsbD_pteSet _ 138 0 (by decide)
  · rw [leftEntry, pteGen_pteSet_above _ (by decide) (by decide), pteGen_pteSet_above _ (by decide) (by decide), pteGen_pteSet]

/-- The entry of the frame that takes a page, by its fields. -/
def takenEntry (e : Pte) (perm head : Nat) : Pte :=
  BitVec.ofNat 256 (pteVpn e + 2 ^ 36 * pteAsn e + 2 ^ 48 * (pteGen e + 1).toNat + 2 ^ 64 * head + 2 ^ 96 * pteLease e +
    2 ^ 112 * ptePins e + 2 ^ 136 * perm + 2 ^ 138)

theorem takenEntry_spec (e : Pte) {perm head : Nat} (hperm : perm < 4) (hhead : head < 2 ^ 32) :
    (takenEntry e perm head).getLsbD 138 = true ∧ (takenEntry e perm head).getLsbD 137 = decide (perm / 2 = 1) ∧
      pteVpn (takenEntry e perm head) = pteVpn e ∧ pteAsn (takenEntry e perm head) = pteAsn e ∧
      pteGen (takenEntry e perm head) = pteGen e + 1 ∧ pteNext (takenEntry e perm head) = head := by
  have hvpn : pteVpn e < 2 ^ 36 := Nat.mod_lt _ (by decide)
  have hasn : pteAsn e < 4096 := Nat.mod_lt _ (by decide)
  have hlease : pteLease e < 65536 := Nat.mod_lt _ (by decide)
  have hpins : ptePins e < 65536 := Nat.mod_lt _ (by decide)
  have hgen : (pteGen e + 1).toNat < 65536 := (pteGen e + 1).isLt
  have hnat : (takenEntry e perm head).toNat = pteVpn e + 2 ^ 36 * pteAsn e + 2 ^ 48 * (pteGen e + 1).toNat + 2 ^ 64 * head +
      2 ^ 96 * pteLease e + 2 ^ 112 * ptePins e + 2 ^ 136 * perm + 2 ^ 138 := by
    rw [takenEntry, BitVec.toNat_ofNat]
    refine Nat.mod_eq_of_lt ?_
    omega
  generalize takenEntry e perm head = w at hnat
  refine ⟨?_, ?_, ?_, ?_, BitVec.eq_of_toNat_eq ?_, ?_⟩
  · rw [pte_getLsbD, decide_eq_true_eq, hnat]
    omega
  · rw [pte_getLsbD, hnat]
    exact decide_eq_decide.2 (by omega)
  · rw [pteVpn, hnat]
    omega
  · rw [pteAsn, hnat]
    omega
  · rw [pteGen_toNat, hnat]
    omega
  · rw [pteNext, hnat]
    omega

/-! ### What a walk finds -/

/-- The walk's answer names an entry of the page. -/
def HitNames (asn vpn : Nat) (h : WalkHit) : Prop := ∀ st fr e, h = .found st fr e → pteAsn e = asn ∧ pteVpn e = vpn

theorem hitNames_orUnreadable {asn vpn : Nat} {x : WalkHit} (hx : HitNames asn vpn x) (y : WalkHit) :
    HitNames asn vpn (.orUnreadable x y) := by
  cases y with
  | unreadable pa => exact fun _ _ _ h => absurd h WalkHit.noConfusion
  | _ => exact hx

theorem hitNames_ite {asn vpn : Nat} {b : Bool} {x y : WalkHit} (hx : b = true → HitNames asn vpn x) (hy : HitNames asn vpn y) :
    HitNames asn vpn (if b then x else y) := by
  split
  next h => exact hx h
  · exact hy

theorem hitNames_walkChain (s : State) (k asn vpn : Nat) (expect : Option (BitVec 16)) (m i : Nat) :
    HitNames asn vpn (walkChain s k asn vpn expect m i).hit := by
  induction m generalizing i with
  | zero => exact fun _ _ _ h => absurd h WalkHit.noConfusion
  | succ m ih =>
    rw [walkChain]
    split
    · exact fun _ _ _ h => absurd h WalkHit.noConfusion
    · dsimp only
      split
      · exact fun _ _ _ h => absurd h WalkHit.noConfusion
      · refine hitNames_ite (fun here => hitNames_orUnreadable ?_ _) (ih _)
        intro st fr e h
        obtain ⟨-, -, rfl⟩ := WalkHit.found.inj h
        rw [Bool.and_eq_true, Bool.and_eq_true, Bool.and_eq_true, decide_eq_true_eq, decide_eq_true_eq] at here
        obtain ⟨⟨⟨-, hasn⟩, hvpn⟩, -⟩ := here
        exact ⟨hasn, hvpn⟩

theorem hitNames_walkStacks (s : State) (asn vpn : Nat) (expect : Option (BitVec 16)) (ks : List Nat) :
    HitNames asn vpn (walkStacks s asn vpn expect ks).hit := by
  induction ks with
  | nil => exact fun _ _ _ h => absurd h WalkHit.noConfusion
  | cons k ks ih =>
    rw [walkStacks]
    dsimp only
    split
    · exact fun _ _ _ h => absurd h WalkHit.noConfusion
    · have hchain := hitNames_walkChain s k asn vpn expect 256 (s.rootNat (s.anchorAddr k (xlHash asn vpn)) 4)
      dsimp only
      split
      · exact ih
      · exact fun _ _ _ h => absurd h WalkHit.noConfusion
      · exact hitNames_orUnreadable hchain _

theorem hitNames_walk (d asn vpn : Nat) (expect : Option (BitVec 16)) (s : State) :
    HitNames asn vpn (walk d asn vpn expect s).1 := by
  have hhit : (walk d asn vpn expect s).1 = (s.walkOf asn vpn expect).hit := rfl
  rw [hhit, State.walkOf]
  split
  · exact fun _ _ _ h => absurd h WalkHit.noConfusion
  · exact hitNames_walkStacks _ _ _ _ _

end
end Sys2Proof.Proofs
end

section
/-!
DEMOTE and REQUANT (R66-R68, R99): the checks, the target frame written and the entry marked busy.
-/

namespace Sys2Proof.Proofs

open Sys2Proof.Machine Sys2Proof.Statements

section
variable {s t u : State} {c : Cmd} {e : Pte} {st fr : Nat}

/-! ### The requantised page has its length -/

theorem requantSegment_length (K : Nat) {bs : List Byte} (h : bs.length = 800) : (requantSegment K bs).1.length = 800 := by
  rw [requantSegment]
  dsimp only
  rw [List.length_append, List.length_drop, h, List.length_flatMap]
  simp only [List.length_map, List.length_range, List.map_const', List.sum_replicate]
  decide

theorem length_flatMap_const {α β : Type} {n : Nat} (f : α → List β) (l : List α) (h : ∀ x ∈ l, (f x).length = n) :
    (l.flatMap f).length = l.length * n := by
  rw [List.length_flatMap, List.map_congr_left h, List.map_const', List.sum_replicate, smul_eq_mul]

/-- Segments of a page requantised. -/
def requantSegments (K : Nat) (bs : List Byte) (m : Nat) : List (List Byte × Nat) :=
  (List.range m).map fun i => requantSegment K ((bs.drop (800 * i)).take 800)

theorem requantSegments_length (K : Nat) {bs : List Byte} {m : Nat} (h : 800 * m ≤ bs.length) :
    ((requantSegments K bs m).flatMap (·.1)).length = m * 800 := by
  rw [length_flatMap_const (n := 800), requantSegments, List.length_map, List.length_range]
  intro x hx
  obtain ⟨i, hi, rfl⟩ := List.mem_map.1 hx
  have him := List.mem_range.1 hi
  refine requantSegment_length K ?_
  rw [List.length_take, List.length_drop]
  omega

theorem requantPage_length (K : Nat) {bs : List Byte} (h : bs.length = 2 ^ 21) : (requantPage K bs).1.length = 2 ^ 21 := by
  have hpage : (requantPage K bs).1 = (requantSegments K bs 2621).flatMap (·.1) ++ bs.drop 2096800 := rfl
  rw [hpage, List.length_append, requantSegments_length K (by omega), List.length_drop, h]
  norm_num

/-! ### The checks -/

theorem ptePerm_write (st : Nat) (e : Pte) : (ptePerm st e).getLsbD 1 = false ↔ (st ≤ 7 → e.getLsbD 137 = false) := by
  unfold ptePerm
  split
  next h => simp; omega
  next h =>
    have hle : st ≤ 7 := by omega
    simp [hle]

theorem swapChecks_iff (st fr : Nat) : swapChecks c (st, fr, e) s = true ↔ SwapMayStart s c st e := by
  have himp {p q : Prop} [Decidable p] [Decidable q] : (decide (¬ p) || decide q) = true ↔ (p → q) := by
    rw [Bool.or_eq_true, decide_eq_true_iff, decide_eq_true_iff]
    tauto
  unfold swapChecks SwapMayStart
  dsimp only
  simp only [Bool.and_eq_true, ne_eq, himp, Bool.not_eq_true', decide_eq_true_eq, ptePerm_write, and_assoc]
  rfl

/-! ### The ends of a start -/

theorem exec_programFrame {i : Instr} (hi : i = .demote ∧ Starts s 6 c ∨ i = .requant ∧ Starts s 7 c) :
    exec i s = .next (programFrame s.sel.core s.sel.idx c s) := by
  rcases hi with ⟨rfl, h⟩ | ⟨rfl, h⟩
  · exact startKind_starts programFrame h
  · exact startKind_starts programFrame h

theorem refusedIs_refuseCmd (c : Cmd) (s : State) : RefusedIs s (refuseCmd s.sel.core s.sel.idx c s) c :=
  ⟨rfl, commandIs_modCmd _ rfl⟩

theorem onlyReads_commandPage {k : Nat} {x : WalkHit} (h : commandPage k c s = (x, u)) : OnlyReads s u := by
  have hreads := onlyReads_walk (dieOf k) c.asn (vpnOf (bits64 c.w1 0 57)) none s
  rw [commandPage] at h
  rwa [h] at hreads

theorem commandPage_wf {k : Nat} {x : WalkHit} (h : commandPage k c s = (x, u)) (hm : Memory.wf s.mem = true) :
    Memory.wf u.mem = true := by
  have hwf := walk_wf (dieOf k) c.asn (vpnOf (bits64 c.w1 0 57)) none hm
  rw [commandPage] at h
  rwa [h] at hwf

theorem sel_of_onlyReads (h : OnlyReads s t) : t.sel = s.sel := (congrArg State.sel h.1 :)

theorem physOf_zero (st fr : Nat) : physOf st fr 0 = 2 ^ 41 * st + 2 ^ 21 * fr := by
  rw [physOf, Nat.zero_mod, Nat.add_zero]

theorem readView_eq (pa n : Nat) (s : State) : readView 0 pa n s = (s.rootBytes pa n, noteReads 0 pa n s) := rfl

/-- What a DEMOTE or REQUANT writes, and how many elements it clamped. -/
def programmedBytes (c : Cmd) (bs : List Byte) : List Byte × Nat :=
  if c.kind = 7 then requantPage (bits64 c.w2 0 4) bs else (bs, 0)

/-- Memory once the entry is busy and the wear counter of a flash frame is raised. -/
def markedBusy (c : Cmd) (st fr : Nat) (e : Pte) (s : State) : State :=
  let t := commandTarget c
  let v := s.setPte st fr (pteSet e 139 1 1)
  if c.kind = 6 then writeNat 0 (v.wearAddr t.1 t.2) 4 (min 0xFFFFFFFF (v.rootNat (v.wearAddr t.1 t.2) 4 + 1)) v else v

/-- The target frame. -/
def targetFrame (c : Cmd) : Nat := 2 ^ 41 * (commandTarget c).1 + 2 ^ 21 * (commandTarget c).2

/-- Memory once the frame is written too. -/
def programmed (c : Cmd) (st fr : Nat) (e : Pte) (out : List Byte) (s : State) : State :=
  writeView 0 (atAddr (targetFrame c) out) (markedBusy c st fr e s)

/-- The last part of a start: the `n` bytes of the page are read and the frame is written. -/
def finishProgram (n k q : Nat) (c : Cmd) (st fr : Nat) (e : Pte) (s : State) : State :=
  let t := commandTarget c
  let (bs, s) := readView 0 (physOf st fr 0) n s
  let out := if c.kind = 7 then requantPage (bits64 c.w2 0 4) bs else (bs, 0)
  let s := s.setPte st fr (pteSet e 139 1 1)
  let s := if c.kind = 6 then
      writeNat 0 (s.wearAddr t.1 t.2) 4 (min 0xFFFFFFFF (s.rootNat (s.wearAddr t.1 t.2) 4 + 1)) s else s
  let s := l1DropFrame k (s.gridAt c.gid).fuse t.1 t.2 (writeView 0 (atAddr (physOf t.1 t.2 0) out.1) s)
  modCmd k q c.id (fun d => { d with st := .swapping, count := min 255 out.2 }) s

section
variable {k : Nat} (q : Nat) (h : commandPage k c s = (.found st fr e, u))
include h

/-- A start on the page that its walk has found ends by the first of its checks that fails, or writes the frame. -/
theorem programFrame_cases :
    (∃ b, tableFault c e u = some b ∧ programFrame k q c s = commandAbort k q c 0x14 b u) ∨
    (tableFault c e u = none ∧ ¬ SwapMayStart u c st e ∧ programFrame k q c s = refuseCmd k q c u) ∨
    (∃ f, tableFault c e u = none ∧ SwapMayStart u c st e ∧ sourceFault c st fr e u = some f ∧
      programFrame k q c s = commandAbort k q c f.1 f.2 u) ∨
    (tableFault c e u = none ∧ SwapMayStart u c st e ∧ sourceFault c st fr e u = none ∧
      programFrame k q c s = finishProgram (2 ^ 21) k q c st fr e u) := by
  unfold programFrame
  split
  next h' => 
    rw [h] at h'
    exact absurd (congrArg Prod.fst h') WalkHit.noConfusion
  next h' =>
    rw [h] at h'
    exact absurd (congrArg Prod.fst h') WalkHit.noConfusion
  next st' fr' e' u' h' =>
    rw [h] at h'
    obtain ⟨hhit, rfl⟩ := Prod.mk.inj h'
    obtain ⟨rfl, rfl, rfl⟩ := WalkHit.found.inj hhit
    rw [← swapChecks_iff st fr]
    split
    next b hb => exact .inl ⟨b, hb, rfl⟩
    next hb =>
      have hnone : tableFault c e u = none := Option.eq_none_iff_forall_ne_some.2 hb
      split
      next hs => 
        rw [Bool.not_eq_true'] at hs
        exact .inr (.inl ⟨hnone, by rw [hs]; exact Bool.false_ne_true, rfl⟩)
      next hs =>
        rw [Bool.not_eq_true', Bool.not_eq_false] at hs
        split
        next f hf => exact .inr (.inr (.inl ⟨f, hnone, hs, hf, rfl⟩))
        next hf => exact .inr (.inr (.inr ⟨hnone, hs, hf, rfl⟩))

end

section
variable {k q : Nat}

theorem onlyL1_l1DropFrame (k : Nat) (fused : Bool) (a b : Nat) (s : State) : OnlyL1 s (l1DropFrame k fused a b s) :=
  onlyL1_foldl (fun t j => onlyL1_modL1 j _ t) _ _

/-- The frame is written, then L1s lose its lines, and the command waits for its swap. -/
theorem finishProgram_spec (n : Nat) (c : Cmd) (st fr : Nat) (e : Pte) (s : State) :
    let out := programmedBytes c (s.rootBytes (2 ^ 41 * st + 2 ^ 21 * fr) n)
    ∃ v w, v = programmed c st fr e out.1 (noteReads 0 (2 ^ 41 * st + 2 ^ 21 * fr) n s) ∧ OnlyL1 v w ∧
      finishProgram n k q c st fr e s = modCmd k q c.id (fun d => { d with st := .swapping, count := min 255 out.2 }) w := by
  intro out
  unfold out finishProgram
  dsimp only
  rw [readView_eq, physOf_zero, physOf_zero]
  exact ⟨_, _, rfl, onlyL1_l1DropFrame k _ (commandTarget c).1 (commandTarget c).2 _, rfl⟩

end

/-! ### What it leaves in memory -/

theorem rootKept_noteReads (pa n : Nat) (s : State) : RootKept s (noteReads 0 pa n s) := by
  unfold noteReads
  split
  · exact .refl s
  · exact rootKept_foldl (fun t l => (rootKept_settle l t).trans (rootKept_noteLine 0 l _ 0 _)) _ s

theorem wearAddr_congr (h : t.xl = s.xl) (k fr : Nat) : t.wearAddr k fr = s.wearAddr k fr := by
  rw [State.wearAddr, h, State.wearAddr]

theorem rootWritten_markedBusy (c : Cmd) (st fr : Nat) (e : Pte) (s : State) : ∃ f, RootWritten f s (markedBusy c st fr e s) := by
  have hset := rootWritten_writeNat (s.pteAddr st fr) 32 (pteSet e 139 1 1).toNat s
  unfold markedBusy
  dsimp only
  split
  · exact ⟨_, hset.trans (rootWritten_writeNat _ 4 _ _)⟩
  · exact ⟨_, hset⟩

theorem rootWritten_programmed (c : Cmd) (st fr : Nat) (e : Pte) (out : List Byte) (s : State) :
    ∃ f, RootWritten f s (programmed c st fr e out s) := by
  obtain ⟨f, hf⟩ := rootWritten_markedBusy c st fr e s
  exact ⟨_, hf.trans (rootWritten_writeView (atAddr (targetFrame c) out) (markedBusy c st fr e s)).1⟩

section
variable {out : List Byte} {n : Nat} (hm : Memory.wf s.mem = true) (hlen : out.length = n)
include hm hlen

/-- The frame's bytes. -/
theorem bytesAt_programmed (hc : ClearOf s (targetFrame c) n) :
    BytesAt (programmed c st fr e out s) (targetFrame c) out := by
  intro i b hb
  obtain ⟨f, hf⟩ := rootWritten_markedBusy c st fr e s
  obtain ⟨hwrote, hsettled⟩ := rootWritten_writeView (atAddr (targetFrame c) out) (markedBusy c st fr e s)
  have hi : i < out.length := (List.getElem?_eq_some_iff.1 hb).1
  have hlast : lastByte (atAddr (targetFrame c) out) (targetFrame c + i) = some b := by
    rw [lastByte_atAddr, if_pos (by omega), Nat.add_sub_cancel_left, hb]
  have hclear : ¬ InSpill (markedBusy c st fr e s) (targetFrame c + i) := fun h =>
    hc _ (by omega) (by omega) (hf.spill _ h)
  rw [programmed, ← rootByte_settled (hsettled _ (lastByte_mem hlast)), hwrote.root (hf.wf hm) _ hclear, hlast]
  rfl

/-- The page's entry, marked busy, where nothing else is written to its place. -/
theorem rootNat_programmed (hc : ClearOf s (s.pteAddr st fr) 32) (hframe : Apart (s.pteAddr st fr) 32 (targetFrame c) n)
    (hwear : Apart (s.pteAddr st fr) 32 (s.wearAddr (commandTarget c).1 (commandTarget c).2) 4) :
    (programmed c st fr e out s).rootNat (s.pteAddr st fr) 32 = (pteSet e 139 1 1).toNat := by
  obtain ⟨f, hf⟩ := rootWritten_markedBusy c st fr e s
  have hset := rootNat_setPte (s := s) (k := st) (fr := fr) (pteSet e 139 1 1) hm hc
  have hwf : Memory.wf (s.setPte st fr (pteSet e 139 1 1)).mem = true := writeNat_wf 0 _ 32 _ hm
  rw [programmed, rootNat_writeView_apart (hf.wf hm) (clearOf_of_spill hf.spill hc) (by rw [hlen]; exact hframe), markedBusy]
  split
  · have hwear' : Apart (s.pteAddr st fr) 32
        ((s.setPte st fr (pteSet e 139 1 1)).wearAddr (commandTarget c).1 (commandTarget c).2) 4 := by
      rw [wearAddr_congr (xl_of_onlySlices (onlySlices_setPte s st fr _))]
      exact hwear
    rw [rootNat_writeNat_apart hwf (clearOf_writeNat hc _ 32 _) hwear', hset]
  · exact hset

end

end
end Sys2Proof.Proofs
end

section
/-!
DEMOTE and REQUANT as O45 states them: refused, faulted, or the target frame is written and the entry busy.
-/

namespace Sys2Proof.Proofs

open Sys2Proof.Machine Sys2Proof.Statements

section
variable {s t u : State} {c : Cmd} {e : Pte} {st fr : Nat} {i : Instr}

/-- A state that differs in its cores alone reads the same entries. -/
theorem pte_of_cores (h : { t with cores := s.cores } = s) (hm : Memory.wf s.mem = true) {k f : Nat}
    (hc : ClearOf s (s.pteAddr k f) 32) : t.pte k f = s.pte k f := by
  have hxl : t.xl = s.xl := (congrArg State.xl h :)
  rw [State.pte, State.pte, pteAddr_congr (congrArg XlBlock.ptbase hxl), rootNat_of_home (t := t) hm (congrArg State.mem h :)
    (congrArg State.copies h :) (congrArg State.vers h :) hc]

theorem engQueue_of_cores (h : t.cores = s.cores) (k q : Nat) : t.engQueue k q = s.engQueue k q := by
  rw [State.engQueue, State.coreAt, h]
  rfl

/-- What the command writes has a frame's length. -/
theorem programmedBytes_length (c : Cmd) {bs : List Byte} (h : bs.length = 2 ^ 21) : (programmedBytes c bs).1.length = 2 ^ 21 := by
  unfold programmedBytes
  split
  · exact requantPage_length _ h
  · exact h

section
variable (hi : i = .demote ∧ Starts s 6 c ∨ i = .requant ∧ Starts s 7 c)
  (h : commandPage s.sel.core c s = (.found st fr e, u))
include hi h

theorem program_tableFault {b : Nat} (hb : tableFault c e u = some b) :
    ∃ t, exec i s = .next t ∧ CommandFaulted u t c 0x14 b := by
  have hexec := exec_programFrame hi
  have hsel := sel_of_onlyReads (onlyReads_commandPage h)
  rcases programFrame_cases s.sel.idx h with ⟨b', hb', heq⟩ | ⟨hn, -⟩ | ⟨-, hn, -⟩ | ⟨hn, -⟩
  · obtain rfl := Option.some.inj (hb.symm.trans hb')
    rw [heq, ← hsel] at hexec
    exact ⟨_, hexec, commandFaulted_commandAbort c 0x14 b u⟩
  all_goals exact absurd (hb.symm.trans hn) (by simp)

theorem program_refused (hb : tableFault c e u = none) (hno : ¬ SwapMayStart u c st e) :
    ∃ t, exec i s = .next t ∧ RefusedIs u t c := by
  have hexec := exec_programFrame hi
  have hsel := sel_of_onlyReads (onlyReads_commandPage h)
  rcases programFrame_cases s.sel.idx h with ⟨b, hb', -⟩ | ⟨-, -, heq⟩ | ⟨-, -, hmay, -⟩ | ⟨-, hmay, -⟩
  · exact absurd (hb.symm.trans hb') (by simp)
  · rw [heq, ← hsel] at hexec
    exact ⟨_, hexec, refusedIs_refuseCmd c u⟩
  all_goals exact absurd hmay hno

theorem program_sourceFault {code detail : Nat} (hb : tableFault c e u = none) (hmay : SwapMayStart u c st e)
    (hf : sourceFault c st fr e u = some (code, detail)) : ∃ t, exec i s = .next t ∧ CommandFaulted u t c code detail := by
  have hexec := exec_programFrame hi
  have hsel := sel_of_onlyReads (onlyReads_commandPage h)
  rcases programFrame_cases s.sel.idx h with ⟨b, hb', -⟩ | ⟨-, hno, -⟩ | ⟨f, -, -, hf', heq⟩ | ⟨-, -, hf', -⟩
  · exact absurd (hb.symm.trans hb') (by simp)
  · exact absurd hmay hno
  · obtain rfl := Option.some.inj (hf.symm.trans hf')
    rw [heq, ← hsel] at hexec
    exact ⟨_, hexec, commandFaulted_commandAbort c code detail u⟩
  · exact absurd (hf.symm.trans hf') (by simp)

theorem exec_program_finishes (hb : tableFault c e u = none) (hmay : SwapMayStart u c st e)
    (hf : sourceFault c st fr e u = none) : exec i s = .next (finishProgram (2 ^ 21) s.sel.core s.sel.idx c st fr e u) := by
  rw [exec_programFrame hi]
  rcases programFrame_cases s.sel.idx h with ⟨b, hb', -⟩ | ⟨-, hno, -⟩ | ⟨f, -, -, hf', -⟩ | ⟨-, -, -, heq⟩
  · exact absurd (hb.symm.trans hb') (by simp)
  · exact absurd hmay hno
  · exact absurd (hf.symm.trans hf') (by simp)
  · rw [heq]

/-- The frame is written, the entry is busy, and the command waits for its swap. -/
theorem program_writes (hm : Memory.wf s.mem = true) (hb : tableFault c e u = none) (hmay : SwapMayStart u c st e)
    (hf : sourceFault c st fr e u = none) (hclear : ClearOf u (targetFrame c) (2 ^ 21)) :
    let out := programmedBytes c (u.rootBytes (2 ^ 41 * st + 2 ^ 21 * fr) (2 ^ 21))
    ∃ t, exec i s = .next t ∧ BytesAt t (targetFrame c) out.1 ∧
      (ClearOf u (u.pteAddr st fr) 32 → Apart (u.pteAddr st fr) 32 (targetFrame c) (2 ^ 21) →
        Apart (u.pteAddr st fr) 32 (u.wearAddr (commandTarget c).1 (commandTarget c).2) 4 → (t.pte st fr).getLsbD 139 = true) ∧
      CommandIs s t c fun x => { x with st := .swapping, count := min 255 out.2 } := by
  intro out
  have hexec := exec_program_finishes hi h hb hmay hf
  have hreads := onlyReads_commandPage h
  have hlen : out.1.length = 2 ^ 21 := programmedBytes_length c (rootBytes_length u _ _)
  obtain ⟨v, w, hv, hl1, heq⟩ := finishProgram_spec (k := s.sel.core) (q := s.sel.idx) (2 ^ 21) c st fr e u
  have hkept := rootKept_noteReads (2 ^ 41 * st + 2 ^ 21 * fr) (2 ^ 21) u
  have hwf := hkept.wf (commandPage_wf h hm)
  rw [heq] at hexec
  change v = programmed c st fr e out.1 _ at hv
  generalize noteReads 0 (2 ^ 41 * st + 2 ^ 21 * fr) (2 ^ 21) u = z at hv hkept hwf
  obtain ⟨g, hwrote⟩ := rootWritten_programmed c st fr e out.1 z
  rw [← hv] at hwrote
  have hslices : OnlySlices u v := hkept.only.trans hwrote.only
  have hmodded := onlyCore_modCmd s.sel.core s.sel.idx c.id
    (fun d => { d with st := .swapping, count := min 255 out.2 }) w
  refine ⟨_, hexec, fun j b hj => ?_, fun hc hframe hwear => ?_, commandIs_modCmd _ ?_⟩
  · rw [sameBytes_of_onlyCore hmodded, hl1.viewByte, hv]
    exact bytesAt_programmed hwf hlen (clearOf_of_spill hkept.spill hclear) j b hj
  · have hcores : { modCmd s.sel.core s.sel.idx c.id (fun d => { d with st := .swapping, count := min 255 out.2 }) w with
        cores := v.cores } = v := (congrArg (fun x : State => { x with cores := v.cores }) hmodded.1).trans hl1.rest
    have hzaddr := pteAddr_congr (congrArg XlBlock.ptbase (xl_of_onlySlices hkept.only)) st fr
    have hvaddr := pteAddr_congr (congrArg XlBlock.ptbase (xl_of_onlySlices hslices)) st fr
    have hvclear : ClearOf v (v.pteAddr st fr) 32 := by
      rw [hvaddr]
      exact clearOf_of_spill hwrote.spill (clearOf_of_spill hkept.spill hc)
    have hentry : v.pte st fr = pteSet e 139 1 1 := by
      refine pte_eq (s := z) (congrArg XlBlock.ptbase (xl_of_onlySlices hwrote.only)) ?_
      rw [hv]
      refine rootNat_programmed hwf hlen ?_ (hzaddr ▸ hframe) ?_
      · rw [hzaddr]
        exact clearOf_of_spill hkept.spill hc
      · rw [hzaddr, wearAddr_congr (xl_of_onlySlices hkept.only)]
        exact hwear
    rw [pte_of_cores hcores (hwrote.wf hwf) hvclear, hentry]
    exact getLsbD_pteSet e 139 1 (by decide)
  · rw [hl1.engQueue, engQueue_of_onlySlices hslices, engQueue_of_cores (cores_of_onlyReads hreads)]

end
end
end Sys2Proof.Proofs
end

section
/-!
PAGE_SWAP (R52, R59, R67): the page moves to its target frame and its translations go, or the swap is refused.
-/

namespace Sys2Proof.Proofs

open Sys2Proof.Machine Sys2Proof.Statements

section
variable {s t u : State} {c : Cmd} {e : Pte} {st fr k : Nat}

/-! ### The ends of a swap -/

/-- The swap finds the page held, an error of the programming, or a version's line in its frame. -/
def SwapStopped (s : State) (st fr : Nat) (e : Pte) : Prop := pteHold e ≠ 0 ∨ s.arg.flag = true ∨ versionedIn s st fr = true

theorem swapPage_cases (q : Nat) (h : commandPage k c s = (.found st fr e, u)) :
    (∃ b, tableFault c e u = some b ∧ swapPage k q c s = commandAbort k q c 0x14 b u) ∨
    (tableFault c e u = none ∧ SwapStopped u st fr e ∧
      swapPage k q c s = refuseCmd k q c (u.setPte st fr (pteSet e 139 1 0))) ∨
    (tableFault c e u = none ∧ ¬ SwapStopped u st fr e ∧
      swapPage k q c s = modCmd k q c.id (fun d => { d with st := .sent, swapped := true })
        (invalidate (fun a v => a == c.asn && v == pteVpn e)
          (movePage st fr e (ptePerm st e).toNat (commandTarget c) u))) := by
  unfold swapPage
  split
  next h' =>
    rw [h] at h'
    exact absurd (congrArg Prod.fst h') WalkHit.noConfusion
  next h' =>
    rw [h] at h'
    exact absurd (congrArg Prod.fst h') WalkHit.noConfusion
  next st' fr' e' u' h' =>
    rw [h] at h'
    obtain ⟨hhit, rfl⟩ := Prod.mk.inj h'
    obtain ⟨rfl, rfl, rfl⟩ := WalkHit.found.inj hhit
    split
    next b hb => exact .inl ⟨b, hb, rfl⟩
    next hb =>
      have hnone : tableFault c e u = none := Option.eq_none_iff_forall_ne_some.2 hb
      split
      next hs => exact .inr (.inl ⟨hnone, hs, rfl⟩)
      next hs => exact .inr (.inr ⟨hnone, hs, rfl⟩)

theorem exec_pageSwap (h : swapDue s s.sel.core s.sel.idx = some c) :
    exec .pageSwap s = .next (swapPage s.sel.core s.sel.idx c s) := by
  have hexec : exec .pageSwap s = execPageSwap s := rfl
  rw [hexec, execPageSwap, agentStep, h]

section
variable (hdue : swapDue s s.sel.core s.sel.idx = some c) (h : commandPage s.sel.core c s = (.found st fr e, u))
include hdue h

theorem swap_tableFault {b : Nat} (hb : tableFault c e u = some b) :
    ∃ t, exec .pageSwap s = .next t ∧ CommandFaulted u t c 0x14 b := by
  have hexec := exec_pageSwap hdue
  have hsel := sel_of_onlyReads (onlyReads_commandPage h)
  rcases swapPage_cases s.sel.idx h with ⟨b', hb', heq⟩ | ⟨hn, -⟩ | ⟨hn, -⟩
  · obtain rfl := Option.some.inj (hb.symm.trans hb')
    rw [heq, ← hsel] at hexec
    exact ⟨_, hexec, commandFaulted_commandAbort c 0x14 b u⟩
  all_goals exact absurd (hb.symm.trans hn) (by simp)

/-- A swap that is stopped marks the entry as busy no more. -/
theorem swap_refused (hm : Memory.wf s.mem = true) (hc : ClearOf u (u.pteAddr st fr) 32) (hb : tableFault c e u = none)
    (hstop : SwapStopped u st fr e) : ∃ t, exec .pageSwap s = .next t ∧ (t.pte st fr).getLsbD 139 = false ∧
      CommandIs s t c fun x => { x with st := .sent, refused := true } := by
  have hexec := exec_pageSwap hdue
  have hreads := onlyReads_commandPage h
  have hwf := commandPage_wf h hm
  rcases swapPage_cases s.sel.idx h with ⟨b', hb', -⟩ | ⟨-, -, heq⟩ | ⟨-, hgo, -⟩
  · exact absurd (hb.symm.trans hb') (by simp)
  · rw [heq] at hexec
    have hslices := onlySlices_setPte u st fr (pteSet e 139 1 0)
    have haddr := pteAddr_congr (congrArg XlBlock.ptbase (xl_of_onlySlices hslices)) st fr
    have hentry : (u.setPte st fr (pteSet e 139 1 0)).pte st fr = pteSet e 139 1 0 :=
      pte_eq (congrArg XlBlock.ptbase (xl_of_onlySlices hslices)) (rootNat_setPte _ hwf hc)
    have hmodded := onlyCore_modCmd s.sel.core s.sel.idx c.id (fun d => { d with st := .sent, refused := true })
      (u.setPte st fr (pteSet e 139 1 0))
    refine ⟨_, hexec, ?_, commandIs_modCmd _ ?_⟩
    · rw [refuseCmd, pte_of_cores hmodded.1 (writeNat_wf 0 _ 32 _ hwf) (by rw [haddr]; exact clearOf_writeNat hc _ 32 _), hentry]
      exact getLsbD_pteSet e 139 0 (by decide)
    · rw [engQueue_of_onlySlices hslices, engQueue_of_cores (cores_of_onlyReads hreads)]
  · exact absurd hstop hgo

end

/-! ### The page moves -/

/-- The swap writes three numbers: the entry left behind, the entry taken, the head of its chain. -/
theorem movePage_eq (st fr : Nat) (e : Pte) (perm : Nat) (t : Nat × Nat) (s : State) :
    movePage st fr e perm t s =
      let a := s.anchorAddr t.1 (xlHash (pteAsn e) (pteVpn e))
      writeNat 0 a 4 t.2 (writeNat 0 (s.pteAddr t.1 t.2) 32 (takenEntry e perm (s.rootNat a 4)).toNat
        (writeNat 0 (s.pteAddr st fr) 32 (leftEntry e).toNat s)) := by
  have hxl := xl_of_onlySlices (onlySlices_setPte s st fr (leftEntry e))
  have hmove : movePage st fr e perm t s =
      writeNat 0 ((s.setPte st fr (leftEntry e)).anchorAddr t.1 (xlHash (pteAsn e) (pteVpn e))) 4 t.2
        ((s.setPte st fr (leftEntry e)).setPte t.1 t.2
          (takenEntry e perm (s.rootNat (s.anchorAddr t.1 (xlHash (pteAsn e) (pteVpn e))) 4))) := rfl
  rw [hmove, anchorAddr_congr (congrArg XlBlock.anchbase hxl), State.setPte,
    pteAddr_congr (congrArg XlBlock.ptbase hxl)]
  rfl

/-- What the three numbers are afterwards, where they lie apart. -/
theorem rootNat_movePage {a left taken head : Nat} {p x : Nat} (hm : Memory.wf s.mem = true) (hp : ClearOf s p 32) (hx : ClearOf s x 32)
    (ha : ClearOf s a 4) (hpx : Apart p 32 x 32) (hpa : Apart p 32 a 4) (hxa : Apart x 32 a 4) :
    let z := writeNat 0 a 4 head (writeNat 0 x 32 taken (writeNat 0 p 32 left s))
    z.rootNat p 32 = left % 256 ^ 32 ∧ z.rootNat x 32 = taken % 256 ^ 32 ∧ z.rootNat a 4 = head % 256 ^ 4 := by
  have hm1 := writeNat_wf 0 p 32 left hm
  have hm2 := writeNat_wf 0 x 32 taken hm1
  refine ⟨?_, ?_, ?_⟩
  · rw [rootNat_writeNat_apart hm2 (clearOf_writeNat (clearOf_writeNat hp p 32 left) x 32 taken) hpa,
      rootNat_writeNat_apart hm1 (clearOf_writeNat hp p 32 left) hpx, rootNat_writeNat hm hp]
  · rw [rootNat_writeNat_apart hm2 (clearOf_writeNat (clearOf_writeNat hx p 32 left) x 32 taken) hxa,
      rootNat_writeNat hm1 (clearOf_writeNat hx p 32 left)]
  · exact rootNat_writeNat hm2 (clearOf_writeNat (clearOf_writeNat ha p 32 left) x 32 taken)

/-! ### The invalidation -/

theorem mapGet_map {α : Type} {d : α} {f : α → α} (hd : f d = d) (m : Map α) (j : Nat) :
    mapGet d (m.map fun x => (x.1, f x.2)) j = f (mapGet d m j) := by
  induction m with
  | nil => exact hd.symm
  | cons x m ih =>
    obtain ⟨i, y⟩ := x
    rw [List.map_cons, mapGet, mapGet]
    split
    · rfl
    · exact ih

/-- An invalidation leaves the engines' queues, and of its TLBs only the translations it does not name. -/
theorem invalidate_core (p : Nat → Nat → Bool) (s : State) (j : Nat) :
    ((invalidate p s).coreAt j).eng = (s.coreAt j).eng ∧
      ((invalidate p s).coreAt j).tlb = (s.coreAt j).tlb.filter fun x => !p x.asn x.vpn := by
  let f (x : Core) : Core := { x with
    tlb := x.tlb.filter fun e => !p e.asn e.vpn,
    reqs := x.reqs.map fun r => if r.st == .unsent then { unparked p r with st := .unsent } else r,
    groups := x.groups.map fun g => (g.1, { g.2 with parked := g.2.parked.map (unparked p) }) }
  have hcore : (invalidate p s).coreAt j = f (s.coreAt j) := mapGet_map (d := ({} : Core)) (f := f) rfl s.cores j
  rw [hcore]
  exact ⟨rfl, rfl⟩

theorem engQueue_invalidate (p : Nat → Nat → Bool) (s : State) (j q : Nat) : (invalidate p s).engQueue j q = s.engQueue j q := by
  rw [State.engQueue, (invalidate_core p s j).1, State.engQueue]

theorem tlb_modCmd (k q id : Nat) (f : Cmd → Cmd) (s : State) (j : Nat) :
    ((modCmd k q id f s).coreAt j).tlb = (s.coreAt j).tlb := by
  by_cases hj : j = k
  · rw [hj, modCmd, State.setEngQueue, State.coreAt_setCore]
  · rw [modCmd, State.setEngQueue, State.coreAt_setCore_ne _ _ hj]

theorem pte_mod (e : Pte) : e.toNat % 256 ^ 32 = e.toNat := Nat.mod_eq_of_lt e.isLt

theorem commandTarget_lt (c : Cmd) : (commandTarget c).2 < 2 ^ 20 := by
  unfold commandTarget
  split
  · exact lt_trans (Nat.mod_lt _ (by decide)) (by decide : 2 ^ 19 < 2 ^ 20)
  · exact Nat.mod_lt _ (by decide)

/-! ### A swap that moves the page -/

theorem ptePerm_lt (st : Nat) (e : Pte) : (ptePerm st e).toNat < 4 := (ptePerm st e).isLt

/-- A page from flash has no write bit. -/
theorem ptePerm_flash (h : 8 ≤ st) (e : Pte) : ¬ (ptePerm st e).toNat / 2 = 1 := by
  have hbit := (ptePerm_write st e).2 fun hle => absurd h (by omega)
  rw [BitVec.getLsbD, Nat.testBit_eq_decide_div_mod_eq, decide_eq_false_iff_not] at hbit
  have hlt := ptePerm_lt st e
  omega

theorem rootNat_lt (s : State) (pa n : Nat) : s.rootNat pa n < 256 ^ n := by
  have h := leNat_lt (s.rootBytes pa n)
  rwa [rootBytes_length] at h

/-- The swap moves the page to its target: both entries, the head of the chain, the invalidation and the command. -/
theorem swap_moves (hdue : swapDue s s.sel.core s.sel.idx = some c)
    (h : commandPage s.sel.core c s = (.found st fr e, u)) (hm : Memory.wf s.mem = true) (hb : tableFault c e u = none)
    (hgo : ¬ SwapStopped u st fr e) :
    let t' := commandTarget c
    let a := u.anchorAddr t'.1 (xlHash c.asn (pteVpn e))
    ClearOf u (u.pteAddr st fr) 32 → ClearOf u (u.pteAddr t'.1 t'.2) 32 → ClearOf u a 4 →
    Apart (u.pteAddr st fr) 32 (u.pteAddr t'.1 t'.2) 32 → Apart (u.pteAddr st fr) 32 a 4 →
    Apart (u.pteAddr t'.1 t'.2) 32 a 4 → ∃ t, exec .pageSwap s = .next t ∧
      t.pte st fr = leftEntry e ∧ t.pte t'.1 t'.2 = takenEntry e (ptePerm st e).toNat (u.rootNat a 4) ∧
      t.rootNat (t.anchorAddr t'.1 (xlHash c.asn (pteVpn e))) 4 = t'.2 ∧ t.xl.busy = true ∧
      (∀ k, ∀ x ∈ (t.coreAt k).tlb, ¬ (x.asn = c.asn ∧ x.vpn = pteVpn e)) ∧
      CommandIs s t c fun x => { x with st := .sent, swapped := true } := by
  intro t' a hp hx ha hpx hpa hxa
  have hexec := exec_pageSwap hdue
  have hreads := onlyReads_commandPage h
  have hwf := commandPage_wf h hm
  have hasn : pteAsn e = c.asn := by
    have hnames := hitNames_walk (dieOf s.sel.core) c.asn (vpnOf (bits64 c.w1 0 57)) none s
    rw [commandPage] at h
    rw [h] at hnames
    exact (hnames st fr e rfl).1
  rcases swapPage_cases s.sel.idx h with ⟨b', hb', -⟩ | ⟨-, hstop, -⟩ | ⟨-, -, heq⟩
  · exact absurd (hb.symm.trans hb') (by simp)
  · exact absurd hstop hgo
  rw [heq] at hexec
  obtain ⟨hleft, htaken, hhead⟩ := rootNat_movePage (head := t'.2) (taken := (takenEntry e (ptePerm st e).toNat (u.rootNat a 4)).toNat)
    (left := (leftEntry e).toNat) hwf hp hx ha hpx hpa hxa
  have hmove := movePage_eq st fr e (ptePerm st e).toNat t' u
  rw [hasn] at hmove
  dsimp only at hmove
  rw [← hmove] at hleft htaken hhead
  have hslices : OnlySlices u (movePage st fr e (ptePerm st e).toNat t' u) := by
    rw [hmove]
    exact ((onlySlices_writeNat _ _ _ _).trans (onlySlices_writeNat _ _ _ _)).trans (onlySlices_writeNat _ _ _ _)
  have hzwf : Memory.wf (movePage st fr e (ptePerm st e).toNat t' u).mem = true := by
    rw [hmove]
    exact writeNat_wf 0 _ 4 _ (writeNat_wf 0 _ 32 _ (writeNat_wf 0 _ 32 _ hwf))
  have hclear {b n : Nat} (hc : ClearOf u b n) : ClearOf (movePage st fr e (ptePerm st e).toNat t' u) b n := by
    rw [hmove]
    exact clearOf_writeNat (clearOf_writeNat (clearOf_writeNat hc _ _ _) _ _ _) _ _ _
  change exec .pageSwap s = .next (modCmd _ _ _ _ (invalidate _ (movePage st fr e (ptePerm st e).toNat t' u))) at hexec
  generalize movePage st fr e (ptePerm st e).toNat t' u = z at *
  have hxl := xl_of_onlySlices hslices
  let t := modCmd s.sel.core s.sel.idx c.id (fun d => { d with st := .sent, swapped := true })
    (invalidate (fun a v => a == c.asn && v == pteVpn e) z)
  have hnum {b n : Nat} (hc : ClearOf u b n) : t.rootNat b n = z.rootNat b n :=
    rootNat_of_home (s := z) (t := t) hzwf rfl rfl rfl (hclear hc)
  have hptbase : t.xl.ptbase = u.xl.ptbase := (congrArg XlBlock.ptbase hxl :)
  have hanchbase : t.xl.anchbase = u.xl.anchbase := (congrArg XlBlock.anchbase hxl :)
  refine ⟨t, hexec, ?_, ?_, ?_, rfl, fun j y hy hnamed => ?_, commandIs_modCmd _ ?_⟩
  · exact pte_eq hptbase (by rw [hnum hp, hleft, pte_mod])
  · exact pte_eq hptbase (by rw [hnum hx, htaken, pte_mod])
  · rw [anchorAddr_congr hanchbase, hnum ha, hhead]
    exact Nat.mod_eq_of_lt (lt_trans (commandTarget_lt c) (by decide))
  · rw [tlb_modCmd, (invalidate_core _ z j).2] at hy
    obtain ⟨h1, h2⟩ := hnamed
    have hkept := (List.mem_filter.1 hy).2
    simp [h1, h2] at hkept
  · rw [engQueue_invalidate, engQueue_of_onlySlices hslices, engQueue_of_cores (cores_of_onlyReads hreads)]

end

/-- Settles O45: a start and a swap end by the first of their checks that fails; where none does, the numbers and the frame
they write are followed through memory at VID 0. -/
theorem pagesMoveToTheirTarget : Obligations.PagesMoveToTheirTarget := by
  unfold Obligations.PagesMoveToTheirTarget
  refine ⟨fun s c i st fr e u hi h hm => ?_, fun s c st fr e u hdue _ h hm => ?_⟩
  · intro t' frame bs
    refine ⟨onlyReads_commandPage h, fun b hb => program_tableFault hi h hb, fun hb hno => program_refused hi h hb hno,
      fun code detail hb hmay hf => program_sourceFault hi h hb hmay hf, fun hb hmay hf hclear => ?_⟩
    obtain ⟨t, hexec, hbytes, hentry, hcmd⟩ := program_writes hi h hm hb hmay hf hclear
    change BytesAt t (targetFrame c) (programmedBytes c bs).1 at hbytes
    change CommandIs s t c fun x => { x with st := .swapping, count := min 255 (programmedBytes c bs).2 } at hcmd
    clear_value bs
    refine ⟨t, hexec, ?_⟩
    rcases hi with ⟨rfl, -, hkind, -⟩ | ⟨rfl, -, hkind, -⟩
    · have hout : programmedBytes c bs = (bs, 0) := if_neg (by omega)
      rw [hout] at hbytes hcmd
      rw [if_pos rfl, if_pos rfl]
      exact ⟨hbytes, hentry, hcmd⟩
    · have hout : programmedBytes c bs = requantPage (c.w2.toNat % 16) bs :=
        (if_pos hkind).trans (congrArg (requantPage · bs) (bits64_low c.w2 4))
      rw [hout] at hbytes hcmd
      rw [if_neg (by decide), if_neg (by decide)]
      exact ⟨hbytes, hentry, hcmd⟩
  · intro t' hash free hc
    have hreads := onlyReads_commandPage h
    have harg : u.arg = s.arg := (congrArg State.arg hreads.1 :)
    have hfree : SwapStopped u st fr e ↔ ¬ free := by
      rw [SwapStopped, harg]
      simp only [free, pteHold, not_and_or, Bool.not_eq_false]
    refine ⟨hreads, fun b hb => swap_tableFault hdue h hb, fun hb hno => swap_refused hdue h hm hc hb (hfree.2 hno),
      fun hb hgo hx ha hpx hpa hxa => ?_⟩
    obtain ⟨t, hexec, hleft, htaken, hhead, hbusy, htlb, hcmd⟩ :=
      swap_moves hdue h hm hb (fun hs => hfree.1 hs hgo) hc hx ha hpx hpa hxa
    obtain ⟨hv, hw, hgen⟩ := leftEntry_spec e
    obtain ⟨hv', hw', hvpn, hasn, hgen', hnext⟩ := takenEntry_spec e (ptePerm_lt st e)
      (rootNat_lt u (u.anchorAddr t'.1 hash) 4)
    refine ⟨t, hexec, hleft ▸ hv, hleft ▸ hw, hleft ▸ hgen, htaken ▸ hv', fun hst => ?_, htaken ▸ hvpn, htaken ▸ hasn,
      htaken ▸ hgen', htaken ▸ hnext, hhead, hbusy, htlb, hcmd⟩
    rw [htaken, hw']
    exact decide_eq_false (ptePerm_flash hst e)

end Sys2Proof.Proofs
end

section
/-!
The index, record and control registers (R117-R119, R143-R148, R296), and O9.
-/

namespace Sys2Proof.Proofs

open Sys2Proof.Machine Sys2Proof.Statements

/-! ### What a word may write -/

/-- The check of a record's high half is the rule's (R117). -/
theorem recordHighOk_iff (hi : DWord) : recordHighOk hi = true ↔ LegalRecordHigh hi := by
  have hfield (a n : Nat) : (hi.extractLsb' a n).toNat = hi.toNat / 2 ^ a % 2 ^ n := by
    rw [BitVec.extractLsb'_toNat, Nat.shiftRight_eq_div_pow]
  have htop : hi.toNat / 2 ^ 62 % 4 = hi.toNat / 2 ^ 62 := Nat.mod_eq_of_lt (by omega)
  have heq (a n m : Nat) (hm : m < 2 ^ n) : hi.extractLsb' a n = BitVec.ofNat n m ↔ hi.toNat / 2 ^ a % 2 ^ n = m := by
    rw [← BitVec.toNat_inj, hfield, BitVec.toNat_ofNat, Nat.mod_eq_of_lt hm]
  have h62 := heq 62 2 0 (by decide)
  have h52 := heq 52 4 3 (by decide)
  have h56 := heq 56 6 0 (by decide)
  simp only [Nat.reducePow] at h62 h52 h56 htop
  simp only [recordHighOk, LegalRecordHigh, Bool.and_eq_true, Bool.or_eq_true, beq_iff_eq, decide_eq_true_eq, hfield,
    Nat.reducePow]
  rw [and_assoc, and_assoc]
  exact and_congr (by rw [← htop]; exact h62.symm) (and_congr_right' (and_congr_right' (or_congr h52.symm h56.symm)))

/-- The halves of a record. -/
theorem record_low (r : BitVec 128) : r.setWidth 64 = r.extractLsb' 0 64 := BitVec.eq_of_toNat_eq (by simp)

theorem record_high (r : BitVec 128) : (r >>> 64).setWidth 64 = r.extractLsb' 64 64 := rfl

/-- A write of FPMODE clears the flags it names, and no more. -/
theorem clearsFlags_fpmodeWrite (g h : Group) (m : Lanes) (x : DWord)
    (hh : { h with splits := g.splits } = g.fpmodeWrite m x) : ClearsFlags g h m x := by
  have hsat : h.sat = (g.fpmodeWrite m x).sat := (congrArg Group.sat hh :)
  have hclip : h.clip = (g.fpmodeWrite m x).clip := (congrArg Group.clip hh :)
  have hqsat : h.qsat = (g.fpmodeWrite m x).qsat := (congrArg Group.qsat hh :)
  have hinvx : h.invx = (g.fpmodeWrite m x).invx := (congrArg Group.invx hh :)
  have hkeep (b : Bool) (f : Lanes) {l : Nat} (hl : l < 48) :
      laneIn (if b then f &&& ~~~m else f) l = (laneIn f l && !(b && laneIn m l)) := by
    cases b
    · simp
    · simp [laneIn, hl]
  refine ⟨fun l hl => ?_, ?_⟩
  · rw [hsat, hclip, hqsat, hinvx]
    exact ⟨hkeep _ _ hl, hkeep _ _ hl, hkeep _ _ hl, hkeep _ _ hl⟩
  · exact (congrArg (fun y : Group => { y with sat := g.sat, clip := g.clip, qsat := g.qsat, invx := g.invx }) hh :)

/-! ### Words that update the selected group -/

section
variable {s : State}

/-- The selected group is updated, but for its splits, and the word is past. -/
theorem groupWritten {x : Group} (hp : s.split.pc.toNat % 1024 + 1 ≤ 1023) (hx : x.splits = s.group.splits) :
    SteppedPast s (advance 1 (s.setGroup x)) 1 ∧ { (advance 1 (s.setGroup x)).group with splits := s.group.splits } = x := by
  obtain ⟨t, rfl, hpast, hgroup⟩ := advance_setGroup hx hp
  rw [OnlySplits, hx] at hgroup
  exact ⟨hpast, hgroup⟩

/-- The group with the halves of a record in a pair of uniform registers. -/
def pairWritten (g : Group) (d : Nat) (r : BitVec 128) : Group :=
  (g.setS d (r.setWidth 64)).setS (d + 1) ((r >>> 64).setWidth 64)

theorem onlyUni_pairWritten (g : Group) (d : Nat) (r : BitVec 128) (i : Nat) (p : Split) :
    OnlyUni g ((pairWritten g d r).setSplit i p) := rfl

theorem sAt_pairWritten (g : Group) (d : Nat) (r : BitVec 128) :
    (pairWritten g d r).sAt d = r.extractLsb' 0 64 ∧ (pairWritten g d r).sAt (d + 1) = r.extractLsb' 64 64 ∧
      ∀ q, q ≠ d → q ≠ d + 1 → (pairWritten g d r).sAt q = g.sAt q := by
  refine ⟨?_, ?_, fun q h1 h2 => ?_⟩
  · rw [pairWritten, Group.sAt_setS_ne _ _ (by omega), Group.sAt_setS, record_low]
  · rw [pairWritten, Group.sAt_setS, record_high]
  · rw [pairWritten, Group.sAt_setS_ne _ _ h2, Group.sAt_setS_ne _ _ h1]

/-! ### WCAGE -/

/-- The state whose selected core has another WCAGE. -/
def withWcage (w : BitVec 7) (s : State) : State := s.setCore s.sel.core { s.core with wcage := w }

theorem core_withWcage (w : BitVec 7) : (withWcage w s).core = { s.core with wcage := w } := State.coreAt_setCore _ _ _

theorem group_withWcage (w : BitVec 7) : (withWcage w s).group = s.group :=
  (congrArg (fun c : Core => mapGet {} c.groups s.sel.grp) (core_withWcage w) :)

theorem split_withWcage (w : BitVec 7) : (withWcage w s).split = s.split :=
  (congrArg (fun g : Group => g.split s.sel.slot) (group_withWcage w) :)

theorem blockAt_withWcage (w : BitVec 7) (b : Nat) : (withWcage w s).blockAt s.sel.core b = s.blockAt s.sel.core b :=
  (congrArg (fun c : Core => mapGet {} c.blocks b) (core_withWcage w) :)

/-- The core's WCAGE is set, its selected block loses the idempotent mark, and the split is past the word. -/
theorem wcage_written (hp : s.split.pc.toNat % 1024 + 1 ≤ 1023) (w : BitVec 7) :
    ∃ t, advance 1 (endIdem (withWcage w s)) = t ∧ t.core.wcage = w ∧ t.block = { s.block with idem := false } ∧
      (∀ b, b ≠ s.group.blk → t.blockAt s.sel.core b = s.blockAt s.sel.core b) ∧
      { t with cores := s.cores } = s ∧ (∀ k, k ≠ s.sel.core → t.coreAt k = s.coreAt k) ∧
      { t.core with wcage := s.core.wcage, groups := s.core.groups, blocks := s.core.blocks } = s.core ∧
      OnlySplits s.group t.group ∧ SplitIs s t (SplitPast s 1) := by
  have hgroup := group_withWcage (s := s) w
  have hsplit := split_withWcage (s := s) w
  have hcore := core_withWcage (s := s) w
  have hblock : (withWcage w s).block = s.block := by rw [State.block, hgroup]; exact blockAt_withWcage w _
  obtain ⟨t, ht, ⟨⟨hrest, hcores⟩, hc, hothers, -, -⟩, ⟨hpast, hslots⟩, hidem, honly⟩ :=
    advance_setBlock (s := withWcage w s) { (withWcage w s).block with idem := false } (by rwa [hsplit])
  rw [hgroup] at hothers hslots honly
  rw [hcore] at hc
  rw [SplitPast, hsplit] at hpast
  refine ⟨t, ht, (congrArg Core.wcage hc :), hidem.trans (by rw [hblock]), fun b hb => (hothers b hb).trans (blockAt_withWcage w b),
    ?_, fun k hk => (hcores k hk).trans (State.coreAt_setCore_ne _ _ hk), ?_, honly, hpast, hslots⟩
  · exact (congrArg (fun x : State => { x with cores := s.cores }) hrest :)
  · exact (congrArg (fun c : Core => { c with wcage := s.core.wcage }) hc :)

end

/-! ### The words -/

section
variable {s : State}

/-- RECSET of a legal record writes it. -/
theorem recset_writes {f : RecsetForm} (hc : CanRun s 1 (f.refs s.group)) {lo hi : DWord}
    (hlo : s.group.sAt (s.group.uni f.i f.a.toNat) = lo) (hhi : s.group.sAt (s.group.uni f.i f.b.toNat) = hi)
    (hlegal : LegalRecordHigh hi) :
    ∃ t, effRecset f s = t ∧ SteppedPast s t 1 ∧ t.group.dAt f.d.toNat = (hi ++ lo : BitVec 128) ∧
      (∀ n, n ≠ f.d.toNat → t.group.dAt n = s.group.dAt n) ∧
      { t.group with d := s.group.d, splits := s.group.splits } = s.group := by
  obtain ⟨hpast, hgroup⟩ := groupWritten (x := s.group.setD f.d.toNat (hi ++ lo)) hc.2.1 rfl
  have hd : (advance 1 (s.setGroup (s.group.setD f.d.toNat (hi ++ lo)))).group.d = (s.group.setD f.d.toNat (hi ++ lo)).d :=
    (congrArg Group.d hgroup :)
  refine ⟨advance 1 (s.setGroup (s.group.setD f.d.toNat (hi ++ lo))), ?_, hpast, ?_, fun n hn => ?_,
    (congrArg (fun g : Group => { g with d := s.group.d }) hgroup :)⟩
  · simp only [effRecset, hlo, hhi, (recordHighOk_iff hi).2 hlegal, if_true]
  · rw [Group.dAt, hd]
    exact Group.dAt_setD _ _ _
  · rw [Group.dAt, hd]
    exact Group.dAt_setD_ne _ _ hn

/-- RECSET of an illegal record is illegal. -/
theorem recset_refuses {f : RecsetForm} (hno : ¬ LegalRecordHigh (s.group.sAt (s.group.uni f.i f.b.toNat))) :
    Illegal s (effRecset f s) := by
  rw [← recordHighOk_iff, Bool.not_eq_true] at hno
  simp only [effRecset, hno, Bool.false_eq_true, if_false]
  exact ill s

variable {f : MovcwForm} (hc : CanRun s 1 (f.refs s.group))
include hc

/-- MOVCW in a group that may write its register: the write, or an illegal word where the limits refuse it. -/
theorem exec_movcw (hpriv : f.c.toNat = 4 → s.group.priv = true) : exec (.movcw f) s = .next (effMovcw f s) := by
  have hp : (f.c.toNat != 4 || s.group.priv) = true := by
    by_cases h : f.c.toNat = 4
    · rw [hpriv h, Bool.or_true]
    · rw [bne_iff_ne.2 h, Bool.true_or]
  change runWord true (f.c.toNat != 4 || s.group.priv) (f.refs s.group) (effMovcw f) s = _
  rw [hp, run_ok hc]

/-- WCAGE in an unprivileged group. -/
theorem movcw_wcage_faults (hf : f.c.toNat = 4) (hpriv : s.group.priv = false) :
    exec (.movcw f) s = .next (privilegeViolation s) := by
  change runWord true (f.c.toNat != 4 || s.group.priv) (f.refs s.group) (effMovcw f) s = _
  rw [hf, hpriv, runWord_next _ _ _ _ hc.1]
  rfl

omit hc in
theorem effMovcw_illegal (hno : controlWrite f.c.toNat (s.group.sAt (s.group.uni f.i f.a.toNat)) s = none) :
    Illegal s (effMovcw f s) := by
  rw [effMovcw, hno]
  exact ill s

/-- A control register of the group is written. -/
theorem effMovcw_group {x : Group} (hx : x.splits = s.group.splits) (h4 : f.c.toNat ≠ 4)
    (hw : controlWrite f.c.toNat (s.group.sAt (s.group.uni f.i f.a.toNat)) s = some (s.setGroup x)) :
    SteppedPast s (effMovcw f s) 1 ∧ { (effMovcw f s).group with splits := s.group.splits } = x := by
  have heff : effMovcw f s = advance 1 (s.setGroup x) := by
    rw [effMovcw, hw]
    exact congrArg (advance 1) (if_neg h4)
  rw [heff]
  exact groupWritten hc.2.1 hx

end

/-- Settles O9: each word updates one register of the selected group, or of its core, or is illegal by its check. -/
theorem indexRecordAndControlRegisterWords : Obligations.IndexRecordAndControlRegisterWords := by
  unfold Obligations.IndexRecordAndControlRegisterWords
  refine ⟨⟨fun s f hc => ?_, fun s f hc => ?_, fun s f hc => ?_⟩, fun s f hc => ?_, fun s f hc => ?_, fun s f hf hc => ?_⟩
  · refine ⟨_, run_group hc (s.group.setX f.n.toNat f.imm) rfl rfl, steppedPast_setGroup s _ 1 rfl, ?_, fun n hn => ?_, ?_⟩
    · rw [State.group_setGroup, Group.xAt_setSplit, Group.xAt_setX]
    · rw [State.group_setGroup, Group.xAt_setSplit, Group.xAt_setX_ne _ _ hn]
    · rw [State.group_setGroup]
      rfl
  · refine ⟨_, run_ok hc, fun hlegal => ?_, recset_refuses⟩
    obtain ⟨t, rfl, h⟩ := recset_writes hc rfl rfl hlegal
    exact h
  · refine ⟨_, run_group hc (pairWritten s.group (s.group.uni f.i f.d.toNat) (s.group.dAt f.a.toNat)) rfl rfl,
      steppedPast_setGroup s _ 1 rfl, ?_, ?_⟩
    · rw [State.group_setGroup]
      exact onlyUni_pairWritten _ _ _ _ _
    · simp only [State.group_setGroup, Group.sAt_setSplit]
      exact sAt_pairWritten s.group _ _
  · refine ⟨_, run_group hc _ rfl rfl, ?_⟩
    exact uniResult s 1 _ _
  · intro x
    by_cases h4 : f.c = 4
    · refine ⟨_, runWord_next _ _ _ _ hc.1, ?_, ?_, ?_, ?_⟩
      all_goals simp [h4]
    refine ⟨_, exec_movcw hc fun h => absurd (BitVec.eq_of_toNat_eq h) h4, fun h0 hx => ?_, fun h1 hx => ?_, fun h3 hx => ?_,
      fun hno => effMovcw_illegal ?_⟩
    · exact effMovcw_group hc (x := { s.group with phmargin := x }) rfl (by rw [h0]; decide)
        (by rw [h0]; exact if_pos hx)
    · exact effMovcw_group hc (x := { s.group with trapvec := x }) rfl (by rw [h1]; decide)
        (by rw [h1]; exact if_pos hx)
    · obtain ⟨hpast, hgroup⟩ := effMovcw_group hc (x := s.group.fpmodeWrite s.split.exec x) rfl (by rw [h3]; decide)
        (by rw [h3]; exact if_pos hx)
      exact ⟨hpast, clearsFlags_fpmodeWrite _ _ _ _ hgroup⟩
    · rcases hno with ⟨h, hx⟩ | ⟨h, hx⟩ | ⟨h, hx⟩
      all_goals
        rw [h]
        exact if_neg (not_lt.2 hx)
  · intro x
    have h4 : f.c.toNat = 4 := congrArg BitVec.toNat hf
    cases hpriv : s.group.priv with
    | false => exact ⟨_, movcw_wcage_faults hc h4 hpriv, fun _ => faulted s _ _, nofun, nofun⟩
    | true =>
      by_cases hx : 1 ≤ x.toNat ∧ x.toNat ≤ 64
      · obtain ⟨t, ht, h⟩ := wcage_written hc.2.1 (BitVec.ofNat 7 x.toNat)
        have hwrite : controlWrite f.c.toNat x s = some (withWcage (BitVec.ofNat 7 x.toNat) s) := by
          rw [h4]
          exact if_pos hx
        have heff : effMovcw f s = t := by
          rw [effMovcw, hwrite, ← ht]
          exact congrArg (advance 1) (if_pos h4)
        exact ⟨t, (exec_movcw hc fun _ => hpriv).trans (by rw [heff]), nofun, fun _ hout => absurd hx (by omega), fun _ _ _ => h⟩
      · have hno : controlWrite f.c.toNat x s = none := by
          rw [h4]
          exact if_neg hx
        exact ⟨_, exec_movcw hc fun _ => hpriv, nofun, fun _ _ => effMovcw_illegal hno, fun _ h1 h64 => absurd ⟨h1, h64⟩ hx⟩

end Sys2Proof.Proofs
end

section
/-!
Deque operations in a block's shared space (R131-R133), and O25.
-/

namespace Sys2Proof.Proofs

open Sys2Proof.Machine Sys2Proof.Statements

/-! ### Numbers in a byte store -/

section
variable {m n : List Host.Cell}

theorem memBytes_congr {a b c : Nat} (h : ∀ i, i < c → memGet n (b + i) = memGet m (a + i)) :
    memBytes n b c = memBytes m a c := by
  refine List.ext_getElem? fun i => ?_
  rw [memBytes_getElem?, memBytes_getElem?]
  split
  next hi => rw [h i hi]
  · rfl

theorem memNat_congr {a c : Nat} (h : ∀ i, i < c → memGet n (a + i) = memGet m (a + i)) : memNat n a c = memNat m a c := by
  rw [memNat, memBytes_congr h, memNat]

theorem memBytes_length (m : List Host.Cell) (a n : Nat) : (memBytes m a n).length = n := by
  induction n generalizing a with
  | zero => rfl
  | succ n ih => rw [memBytes, List.length_cons, ih]

theorem memNat_lt (m : List Host.Cell) (a c : Nat) : memNat m a c < 256 ^ c := by
  have h := leNat_lt (memBytes m a c)
  rwa [memBytes_length] at h

/-- A field of some bytes read from a store. -/
theorem leNat_field (m : List Host.Cell) (a : Nat) {o c N : Nat} (h : o + c ≤ N) :
    leNat (((memBytes m a N).drop o).take c) = memNat m (a + o) c := by
  refine congrArg leNat (List.ext_getElem? fun i => ?_)
  rw [memBytes_getElem?, List.getElem?_take, List.getElem?_drop, memBytes_getElem?]
  split
  next hi => rw [if_pos (by omega), Nat.add_assoc]
  · rfl

theorem memSetAll_append (m : List Host.Cell) (xs ys : List (Nat × Byte)) :
    memSetAll m (xs ++ ys) = memSetAll (memSetAll m xs) ys := by
  induction xs generalizing m with
  | nil => rfl
  | cons x xs ih => exact ih _

theorem atAddr_append (a : Nat) (xs ys : List Byte) : atAddr a (xs ++ ys) = atAddr a xs ++ atAddr (a + xs.length) ys := by
  induction xs generalizing a with
  | nil => rfl
  | cons x xs ih =>
    rw [List.cons_append, atAddr, ih, atAddr, List.cons_append, List.length_cons, Nat.add_right_comm, Nat.add_assoc]

/-! ### Headers -/

/-- A header is read field by field (R132). -/
theorem readDeque_memBytes (m : List Host.Cell) (a : Nat) : readDeque (memBytes m a 32) =
    { top := memNat m a 4, bottom := memNat m (a + 4) 4, logcap := memNat m (a + 8) 4, arr := memNat m (a + 16) 8,
      ok := 1 ≤ memNat m (a + 8) 4 && memNat m (a + 8) 4 ≤ 20 && memNat m (a + 12) 4 == 0 && memNat m (a + 24) 8 == 0 &&
        memNat m (a + 16) 8 % 4 == 0 } := by
  simp only [readDeque, leNat_field m a (show 0 + 4 ≤ 32 by decide), leNat_field m a (show 4 + 4 ≤ 32 by decide),
    leNat_field m a (show 8 + 4 ≤ 32 by decide), leNat_field m a (show 12 + 4 ≤ 32 by decide),
    leNat_field m a (show 16 + 8 ≤ 32 by decide), leNat_field m a (show 24 + 8 ≤ 32 by decide), Nat.add_zero]

theorem memSetAll_dequeCounts (m : List Host.Cell) (top bottom a : Nat) :
    memSetAll m (dequeCounts top bottom a) = memSetNat (memSetNat m a 4 top) (a + 4) 4 bottom := by
  rw [dequeCounts, atAddr_append, memSetAll_append, leBytes_length, memSetNat, memSetNat]

/-- TOP and BOTTOM written back: they read as written, and no other byte changes. -/
theorem counts_written (hm : Memory.wf m = true) {top bottom a : Nat} (ht : top < 2 ^ 32) (hb : bottom < 2 ^ 32) :
    let n := memSetAll m (dequeCounts top bottom a)
    memNat n a 4 = top ∧ memNat n (a + 4) 4 = bottom ∧ ∀ o, o < a ∨ a + 8 ≤ o → memGet n o = memGet m o := by
  rw [memSetAll_dequeCounts]
  refine ⟨?_, ?_, fun o ho => ?_⟩
  · rw [memNat_congr fun i hi => memGet_memSetNat_outside _ _ _ _ (by omega), memNat_memSetNat _ _ _ _ hm]
    exact Nat.mod_eq_of_lt ht
  · rw [memNat_memSetNat _ _ _ _ (memSetNat_wf _ _ _ hm)]
    exact Nat.mod_eq_of_lt hb
  · rw [memGet_memSetNat_outside _ _ _ _ (by omega), memGet_memSetNat_outside _ _ _ _ (by omega)]

end

/-! ### A request whose effect lies in its core -/

section
variable {s u t : State} {k : Nat} {r : Req} {e : LogEntry}

theorem OnlyReqs.blockAt (h : OnlyReqs k s t) (b : Nat) : t.blockAt k b = s.blockAt k b := by
  have hb : (t.coreAt k).blocks = (s.coreAt k).blocks := (congrArg Core.blocks h.core :)
  rw [State.blockAt, hb, State.blockAt]

/-- Nothing has changed but cores, and the requests of core `k` stand. -/
structure WithinCores (k : Nat) (s u : State) : Prop where
  rest : { u with cores := s.cores } = s
  reqs : (u.coreAt k).reqs = (s.coreAt k).reqs

theorem WithinCores.refl (k : Nat) (s : State) : WithinCores k s s := ⟨rfl, rfl⟩

theorem WithinCores.trans (h : WithinCores k s u) (g : WithinCores k u t) : WithinCores k s t :=
  ⟨(congrArg (fun x : State => { x with cores := s.cores }) g.rest).trans h.rest, g.reqs.trans h.reqs⟩

theorem OnlyLogs.withinCores (h : OnlyLogs s u) (k : Nat) : WithinCores k s u := ⟨h.rest, h.reqs k⟩

theorem withinCores_setCore {c : Core} (h : c.reqs = (s.coreAt k).reqs) : WithinCores k s (s.setCore k c) :=
  ⟨rfl, by rw [State.coreAt_setCore, h]⟩

theorem withinCores_setBlockAt (b : Nat) (x : Block) : WithinCores k s (s.setBlockAt k b x) := withinCores_setCore rfl
theorem withinCores_setGroupAt (g : Nat) (x : Group) : WithinCores k s (s.setGroupAt k g x) := withinCores_setCore rfl

theorem WithinCores.sameBytes (h : WithinCores k s u) : SameBytes s u :=
  viewByte_cores (congrArg (fun x : State => { x with performs := s.performs }) h.rest)

/-- A request whose answer is in the log is performed, and nothing more happens. -/
theorem performed_logged (h : WithinCores s.sel.core s u) (hlog : LogAt u s.sel.core r e) :
    let t := performed s.sel.core r u
    NowPerformed s t r ∧ LogOf t r e ∧ SameBytes s t ∧ (∀ b, t.blockAt s.sel.core b = u.blockAt s.sel.core b) ∧
      ∀ g, t.groupAt s.sel.core g = u.groupAt s.sel.core g := by
  intro t
  have ho := orphan_of_logAt hlog
  have hreqs : OnlyReqs s.sel.core u t := onlyReqs_performed ho
  have husel : u.sel = s.sel := (congrArg State.sel h.rest :)
  have htsel : t.sel = s.sel := (congrArg State.sel hreqs.rest :).trans husel
  refine ⟨nowPerformed husel h.reqs (congrArg State.performs h.rest :) ho (.refl t), ?_, fun v a => ?_, hreqs.blockAt,
    hreqs.groupAt _⟩
  · rw [LogOf, htsel, hreqs.groupAt]
    exact hlog
  · rw [hreqs.viewByte, h.sameBytes]

theorem logAt_setBlockAt (h : LogAt s k r e) (b : Nat) (x : Block) : LogAt (s.setBlockAt k b x) k r e := by
  rw [LogAt, State.groupAt_setBlockAt]
  exact h

theorem mapGet_land (e : LogEntry) (lane : Nat) (w : Word) : mapGet 0 (e.land lane [w]).data lane = w := by
  have h : (e.land lane [w]).data = mapSet e.data (64 * 0 + lane) w := rfl
  rw [h, Nat.mul_zero, Nat.zero_add, mapGet_mapSet_same]

theorem mapGet_land_other (e : LogEntry) {lane j : Nat} (w : Word) (h : j ≠ lane) :
    mapGet 0 (e.land lane [w]).data j = mapGet 0 e.data j := by
  have hd : (e.land lane [w]).data = mapSet e.data (64 * 0 + lane) w := rfl
  rw [hd, Nat.mul_zero, Nat.zero_add, mapGet_mapSet_ne _ _ h]

end

/-! ### One lane -/

section
variable {s u : State} {k : Nat} {r : Req} {e : LogEntry} {x : ReqLane}

/-- A lane's answer goes to the log, and the request has been performed. -/
theorem performed_dqAnswer (h : WithinCores s.sel.core s u) (hlog : LogAt u s.sel.core r e) (lane : Nat) (w : Word) :
    let t := performed s.sel.core r (dqAnswer s.sel.core r lane w u)
    NowPerformed s t r ∧ LogOf t r (e.land lane [w]) ∧ SameBytes s t ∧ mapGet 0 (e.land lane [w]).data lane = w ∧
      (∀ b, t.blockAt s.sel.core b = u.blockAt s.sel.core b) ∧
      ∀ g, (t.groupAt s.sel.core g).clip = (u.groupAt s.sel.core g).clip := by
  have hlogs : OnlyLogs u (dqAnswer s.sel.core r lane w u) := onlyLogs_modLog _ _ _ u
  obtain ⟨hdone, hof, hbytes, hblock, hgroup⟩ :=
    performed_logged (h.trans (hlogs.withinCores _)) (logAt_modLog hlog (f := fun e => e.land lane [w]) rfl)
  refine ⟨hdone, hof, hbytes, mapGet_land _ _ _, fun b => (hblock b).trans (hlogs.blocks _ b), fun g => ?_⟩
  rw [hgroup]
  exact (congrArg Group.clip (hlogs.groups s.sel.core g) :)

/-- A DQOP of one lane whose operation ends has been performed in that lane's state. -/
theorem exec_dqop {i : Instr} (h : Served i s r) (hk : r.kind = .dqop) (hw : r.window = false) (hs : r.space = 1)
    (hl : r.lanes = [x]) (hlane : dqLane s.sel.core r x s = .ok u) : exec i s = .next (performed s.sel.core r u) := by
  have hlanes : dqLanes s.sel.core r [x] s = some u := by
    rw [dqLanes, hlane]
    rfl
  rw [exec_of_served h, serveReq_block hw (.inl hs), serveBytes, hk]
  simp only [hl, hlanes, Option.getD_some]

theorem spaceRead_shared (hw : r.window = false) (hs : r.space = 1) (a n : Nat) (s : State) :
    spaceRead k r a n s = memBytes (s.blockAt k r.blk).shared a n := by
  unfold spaceRead
  rw [hw, if_neg Bool.false_ne_true, hs]
  rfl

/-- The state with other bytes in the shared space of the request's block. -/
def withShared (k : Nat) (r : Req) (m : Map Byte) (s : State) : State :=
  s.setBlockAt k r.blk { s.blockAt k r.blk with shared := m }

theorem spaceWrite_shared (hs : r.space = 1) (bs : List (Nat × Byte)) (s : State) :
    spaceWrite k r bs s = withShared k r (memSetAll (s.blockAt k r.blk).shared bs) s := by
  unfold spaceWrite
  rw [hs]
  rfl

theorem spaceWrite_line (r : Req) (l : Nat) (bs : List (Nat × Byte)) (s : State) :
    spaceWrite k { r with line := l } bs s = spaceWrite k r bs s := rfl

theorem spaceRead_line (r : Req) (l a n : Nat) (s : State) :
    spaceRead k { r with line := l } a n s = spaceRead k r a n s := rfl

theorem setBlockAt_setBlockAt (s : State) (k b : Nat) (x y : Block) :
    (s.setBlockAt k b x).setBlockAt k b y = s.setBlockAt k b y := by
  simp only [State.setBlockAt, State.setCore, State.coreAt, mapGet_mapSet_same, mapSet_mapSet]

theorem withShared_withShared (m n : Map Byte) (s : State) : withShared k r n (withShared k r m s) = withShared k r n s := by
  rw [withShared, withShared, State.blockAt_setBlockAt, setBlockAt_setBlockAt, withShared]

theorem shared_withShared (m : Map Byte) : ((withShared k r m s).blockAt k r.blk).shared = m := by
  rw [withShared, State.blockAt_setBlockAt]

theorem withinCores_withShared (m : Map Byte) : WithinCores k s (withShared k r m s) := withinCores_setBlockAt _ _

theorem elementReq_shared (hs : r.space = 1) {a : Nat} (ha : a + 4 ≤ (s.blockAt k r.blk).sharedSize) :
    elementReq k r a s = .ok ({ r with line := a / 128 }, s) := by
  rw [elementReq, if_pos hs, if_pos ha]

section
variable {top bottom cap arr : Nat} (hw : r.window = false) (hs : r.space = 1)
  (hd : DequeAt (s.blockAt k r.blk).shared x.addr top bottom cap arr)
include hw hs

/-- What a lane reads of its deque's header. -/
theorem header_shared (x : ReqLane) : readDeque (spaceRead k r x.addr 32 s) =
    readDeque (memBytes (s.blockAt k r.blk).shared x.addr 32) := by rw [spaceRead_shared hw hs]

/-- A malformed header clips the lane. -/
theorem dqLane_malformed {sh : Map Byte} (hsh : sh = (s.blockAt k r.blk).shared)
    (hbad : memNat sh (x.addr + 8) 4 < 1 ∨ 20 < memNat sh (x.addr + 8) 4 ∨ memNat sh (x.addr + 12) 4 ≠ 0 ∨
      memNat sh (x.addr + 24) 8 ≠ 0 ∨ memNat sh (x.addr + 16) 8 % 4 ≠ 0) :
    dqLane k r x s = .ok (dqClip k r x.lane s) := by
  have hok : (readDeque (memBytes sh x.addr 32)).ok = false := by
    rw [readDeque_memBytes]
    dsimp only
    by_contra hok
    simp only [Bool.not_eq_false, Bool.and_eq_true, decide_eq_true_eq, beq_iff_eq] at hok
    omega
  rw [dqLane, header_shared hw hs, ← hsh]
  simp only [hok, Bool.not_false, if_true]

include hd

theorem header_deque : ∃ c, cap = 2 ^ c ∧ readDeque (spaceRead k r x.addr 32 s) = { top, bottom, logcap := c, arr, ok := true } := by
  obtain ⟨htop, hbottom, ⟨c, hc, h1, h20, hcap⟩, ⟨hz1, hz2⟩, harr, h4⟩ := hd
  refine ⟨c, hcap, ?_⟩
  rw [header_shared hw hs, readDeque_memBytes, htop, hbottom, hc, hz1, hz2, harr, h4]
  simp [h1, h20]

/-- A PUSH of all ones, or onto a full deque. -/
theorem dqLane_push_fails (hf : r.func = 0) (hfull : x.x = 0xFFFFFFFF ∨ cap ≤ dequeSize top bottom) :
    dqLane k r x s = .ok (dqAnswer k r x.lane 0xFFFFFFFF s) := by
  obtain ⟨c, rfl, hh⟩ := header_deque hw hs hd
  rw [dqLane, hh]
  simp only [Bool.not_true, Bool.false_eq_true, if_false, hf]
  exact if_pos hfull

/-- A POP or STEAL of an empty deque. -/
theorem dqLane_take_fails (hf : r.func = 1 ∨ r.func = 2) (hempty : dequeSize top bottom = 0) :
    dqLane k r x s = .ok (dqAnswer k r x.lane 0xFFFFFFFF s) := by
  obtain ⟨c, rfl, hh⟩ := header_deque hw hs hd
  rw [dqLane, hh]
  rcases hf with hf | hf
  all_goals
    simp only [Bool.not_true, Bool.false_eq_true, if_false, hf]
    exact if_pos hempty

/-- The place of entry `n` of the deque. -/
def entryAt (arr cap n : Nat) : Nat := arr + 4 * (n % cap)

omit hw hs hd in
theorem entryAt_eq (arr cap n : Nat) : arr + 4 * (n % cap) = entryAt arr cap n := rfl

/-- A PUSH stores at BOTTOM, then writes the header back. -/
theorem dqLane_push (hf : r.func = 0) (hx : x.x ≠ 0xFFFFFFFF) (hroom : dequeSize top bottom < cap)
    (hin : entryAt arr cap bottom + 4 ≤ (s.blockAt k r.blk).sharedSize) :
    dqLane k r x s = .ok (dqAnswer k r x.lane 0 (withShared k r
      (memSetAll (memSetNat (s.blockAt k r.blk).shared (entryAt arr cap bottom) 4 x.x.toNat)
        (dequeCounts top ((bottom + 1) % 2 ^ 32) x.addr)) s)) := by
  obtain ⟨c, rfl, hh⟩ := header_deque hw hs hd
  have hpush : ¬ (x.x = 0xFFFFFFFF ∨ (bottom + 2 ^ 32 - top) % 2 ^ 32 ≥ 2 ^ c) := by
    rintro (h | h)
    · exact hx h
    · exact absurd hroom (not_lt.2 h)
  have hroomy (q : Req) : pushRoom r q s = true := by rw [pushRoom, hs]; rfl
  rw [dqLane, hh]
  simp only [Bool.not_true, Bool.false_eq_true, if_false, hf]
  rw [if_neg hpush, entryAt_eq arr (2 ^ c) bottom, elementReq_shared hs hin]
  dsimp only
  rw [hroomy, elemDone, if_pos hs, spaceWrite_line r (entryAt arr (2 ^ c) bottom / 128), spaceWrite_shared hs,
    spaceWrite_shared hs, shared_withShared, withShared_withShared]
  rfl

/-- The entry that a POP or a STEAL takes, and the header it leaves. -/
theorem dqLane_take (hne : dequeSize top bottom ≠ 0) {n top' bottom' : Nat}
    (hf : r.func = 1 ∧ n = (bottom + 2 ^ 32 - 1) % 2 ^ 32 ∧ top' = top ∧ bottom' = n ∨
      r.func = 2 ∧ n = top ∧ top' = (top + 1) % 2 ^ 32 ∧ bottom' = bottom)
    (hin : entryAt arr cap n + 4 ≤ (s.blockAt k r.blk).sharedSize) :
    dqLane k r x s = .ok (dqAnswer k r x.lane (BitVec.ofNat 32 (memNat (s.blockAt k r.blk).shared (entryAt arr cap n) 4))
      (withShared k r (memSetAll (s.blockAt k r.blk).shared (dequeCounts top' bottom' x.addr)) s)) := by
  obtain ⟨c, rfl, hh⟩ := header_deque hw hs hd
  rw [dequeSize] at hne
  rw [dqLane, hh]
  rcases hf with ⟨hf, hn, rfl, hb⟩ | ⟨hf, hn, rfl, hb⟩
  all_goals
    simp only [Bool.not_true, Bool.false_eq_true, if_false, hf]
    rw [if_neg hne, hb, ← hn, entryAt_eq arr (2 ^ c) n, elementReq_shared hs hin]
    dsimp only
    rw [elemDone, if_pos hs, spaceWrite_shared hs, spaceRead_line r (entryAt arr (2 ^ c) n / 128), spaceRead_shared hw hs]
    rfl

end

/-! ### The header after an operation -/

/-- A deque whose TOP and BOTTOM have been written back, in a store that has kept the rest of its header. -/
theorem dequeAt_counts {m n : Map Byte} {a top bottom cap arr top' bottom' : Nat} (hd : DequeAt m a top bottom cap arr)
    (ht : memNat n a 4 = top') (hb : memNat n (a + 4) 4 = bottom')
    (hkeep : ∀ o, a + 8 ≤ o → o < a + 32 → memGet n o = memGet m o) : DequeAt n a top' bottom' cap arr := by
  obtain ⟨-, -, ⟨c, hc, hrange⟩, ⟨hz1, hz2⟩, harr, h4⟩ := hd
  have hfield (o w : Nat) (ho : 8 ≤ o) (hw : o + w ≤ 32) : memNat n (a + o) w = memNat m (a + o) w :=
    memNat_congr fun i hi => hkeep _ (by omega) (by omega)
  refine ⟨ht, hb, ⟨c, ?_, hrange⟩, ⟨?_, ?_⟩, ?_, h4⟩
  · rw [hfield 8 4 (by omega) (by omega), hc]
  · rw [hfield 12 4 (by omega) (by omega), hz1]
  · rw [hfield 24 8 (by omega) (by omega), hz2]
  · rw [hfield 16 8 (by omega) (by omega), harr]

theorem dequeAt_bounds {m : Map Byte} {a top bottom cap arr : Nat} (hd : DequeAt m a top bottom cap arr) :
    top < 2 ^ 32 ∧ bottom < 2 ^ 32 := ⟨hd.top ▸ memNat_lt m a 4, hd.bottom ▸ memNat_lt m (a + 4) 4⟩

theorem logAt_setClip (h : LogAt s k r e) (l : Nat) :
    LogAt (s.setGroupAt k r.grp ((s.groupAt k r.grp).setClip (BitVec.ofNat 48 (2 ^ l)))) k r e := by
  rw [LogAt, State.groupAt_setGroupAt]
  exact h

theorem blockAt_setGroupAt (s : State) (k g b : Nat) (y : Group) : (s.setGroupAt k g y).blockAt k b = s.blockAt k b := by
  rw [State.blockAt, State.setGroupAt, State.coreAt_setCore]
  rfl

/-- A clipped lane's flag is set. -/
theorem laneIn_setClip (g : Group) {l : Nat} (hl : l < 48) : laneIn (g.setClip (BitVec.ofNat 48 (2 ^ l))).clip l = true := by
  rw [laneIn, Group.setClip, BitVec.getLsbD_or, BitVec.getLsbD_ofNat, Nat.testBit_two_pow]
  simp [hl]

end

/-- Settles O25: by what the header says, the one lane's operation fails, or writes its entry and the header, or clips. -/
theorem dequesPushPopAndSteal : Obligations.DequesPushPopAndSteal := by
  unfold Obligations.DequesPushPopAndSteal
  intro i s r e x h hk hw hs hlog hl hlane sh size hm
  have hself : WithinCores s.sel.core s s := .refl _ s
  refine ⟨fun top bottom cap arr hd => ?_, fun hbad => ?_⟩
  · intro at_ apart fails
    obtain ⟨htop, hbottom⟩ := dequeAt_bounds hd
    have hfails (hlane : dqLane s.sel.core r x s = .ok (dqAnswer s.sel.core r x.lane 0xFFFFFFFF s)) : fails := by
      obtain ⟨hdone, hof, hbytes, hword, hblock, -⟩ := performed_dqAnswer hself hlog x.lane 0xFFFFFFFF
      exact ⟨_, _, exec_dqop h hk hw hs hl hlane, hdone, hof, hbytes, hword, hblock _⟩
    refine ⟨fun hf hfull => hfails (dqLane_push_fails hw hs hd hf hfull), fun hf hx hroom ⟨hin, hapart⟩ => ?_,
      fun hf hempty => hfails (dqLane_take_fails hw hs hd hf hempty), fun hf hne => ?_⟩
    · obtain ⟨hdone, hof, -, hword, hblock, -⟩ := performed_dqAnswer
        (hself.trans (withinCores_withShared (r := r) (memSetAll (memSetNat sh (at_ bottom) 4 x.x.toNat)
          (dequeCounts top ((bottom + 1) % 2 ^ 32) x.addr)))) (logAt_setBlockAt hlog r.blk _) x.lane 0
      refine ⟨_, _, ?_, hdone, hof, hword, ?_⟩
      · exact exec_dqop h hk hw hs hl (dqLane_push hw hs hd hf hx hroom hin)
      rw [hblock, shared_withShared]
      intro new
      obtain ⟨ht, hb, hkeep⟩ := counts_written (memSetNat_wf (at_ bottom) 4 x.x.toNat hm) (a := x.addr) htop
        (Nat.mod_lt (bottom + 1) (by decide : 0 < 2 ^ 32))
      have hother {o : Nat} (h1 : o < x.addr ∨ x.addr + 8 ≤ o) (h2 : o < at_ bottom ∨ at_ bottom + 4 ≤ o) :
          memGet new o = memGet sh o := (hkeep o h1).trans (memGet_memSetNat_outside _ _ _ _ h2)
      refine ⟨?_, dequeAt_counts hd ht hb fun o h1 h2 => hother (.inr h1) (by omega), fun o h1 h2 => hother h1 h2⟩
      rw [memNat_congr fun j hj => hkeep (at_ bottom + j) (by omega), memNat_memSetNat _ _ _ _ hm]
      exact Nat.mod_eq_of_lt x.x.isLt
    · intro n hin
      obtain ⟨top', bottom', ht', hb', hcase⟩ : ∃ top' bottom', top' < 2 ^ 32 ∧ bottom' < 2 ^ 32 ∧
          (r.func = 1 ∧ n = (bottom + 2 ^ 32 - 1) % 2 ^ 32 ∧ top' = top ∧ bottom' = n ∨
            r.func = 2 ∧ n = top ∧ top' = (top + 1) % 2 ^ 32 ∧ bottom' = bottom) := by
        rcases hf with hf | hf
        · exact ⟨top, n, htop, by simp only [n, hf, if_true]; omega, .inl ⟨hf, if_pos hf, rfl, rfl⟩⟩
        · exact ⟨(top + 1) % 2 ^ 32, bottom, by omega, hbottom, .inr ⟨hf, if_neg (by omega), rfl, rfl⟩⟩
      obtain ⟨hdone, hof, -, hword, hblock, -⟩ := performed_dqAnswer
        (hself.trans (withinCores_withShared (r := r) (memSetAll sh (dequeCounts top' bottom' x.addr))))
        (logAt_setBlockAt hlog r.blk _) x.lane (BitVec.ofNat 32 (memNat sh (at_ n) 4))
      refine ⟨_, _, ?_, hdone, hof, hword, ?_⟩
      · exact exec_dqop h hk hw hs hl (dqLane_take hw hs hd hne hcase hin)
      rw [hblock, shared_withShared]
      obtain ⟨ht, hb, hkeep⟩ := counts_written hm (a := x.addr) ht' hb'
      refine ⟨?_, hkeep⟩
      rcases hcase with ⟨hf, -, rfl, rfl⟩ | ⟨hf, -, rfl, rfl⟩
      · rw [if_pos hf]
        exact ⟨ht, hb⟩
      · rw [if_neg (by omega)]
        exact ⟨ht, hb⟩
  · obtain ⟨hdone, hof, -, hword, hblock, hclip⟩ := performed_dqAnswer (hself.trans (withinCores_setGroupAt r.grp
      ((s.groupAt s.sel.core r.grp).setClip (BitVec.ofNat 48 (2 ^ x.lane))))) (logAt_setClip hlog x.lane) x.lane 0
    refine ⟨_, _, ?_, hdone, hof, hword, ?_, ?_⟩
    · exact exec_dqop h hk hw hs hl (dqLane_malformed hw hs rfl hbad)
    · rw [hclip, State.groupAt_setGroupAt]
      exact laneIn_setClip _ hlane
    · rw [hblock]
      exact blockAt_setGroupAt _ _ _ _ _

end Sys2Proof.Proofs
end

section
/-!
Atomics at their performing point, lane by lane (R125, R130, R131), and O24: in a block's shared space, and at VID 0 in
memory, where a line that other dies contend for may have a new owner first (R217, R218).
-/

namespace Sys2Proof.Proofs

open Sys2Proof.Machine Sys2Proof.Statements

/-! ### The table of functions (R130) -/

/-- What an atomic leaves in its word is the table's word; a CAS that finds another word leaves the one it found. -/
theorem atomWord_table {f : Nat × (Word → Word → Word → Word)} (hf : f ∈ atomicTable) (m x y : Word) :
    (atomWord f.1 m x y).getD m = f.2 m x y := by
  simp only [atomicTable, List.mem_cons, List.not_mem_nil, or_false] at hf
  rcases hf with rfl | rfl | rfl | rfl | rfl | rfl | rfl | rfl | rfl | rfl | rfl
  · simp [atomWord, BitVec.ofNat_add]
  · exact pick_min_toInt m x
  · exact pick_max_toInt m x
  · exact (pick_min_toNat m x).trans (BitVec.ofInt_natCast 32 _)
  · exact (pick_max_toNat m x).trans (BitVec.ofInt_natCast 32 _)
  · rfl
  · rfl
  · rfl
  · rfl
  · simp only [atomWord]
    split <;> rfl
  · rfl

/-! ### One word, one lane after another -/

section
variable {k a : Nat} {r : Req} {f : Nat × (Word → Word → Word → Word)}

/-- Where the word of an atomic stands: `Inv` is kept by its lanes, and while `clear` holds `Val u m` says that the word
reads as `m`. -/
structure AtomicCell (k a : Nat) (r : Req) (clear : Prop) (Inv : State → Prop) (Val : State → Word → Prop) : Prop where
  inv_write : ∀ u (w : Word), Inv u → Inv (spaceWrite k r (atAddr a (leBytes 4 w.toNat)) u)
  log_write : ∀ u (w : Word) e, Inv u → LogAt u k r e → LogAt (spaceWrite k r (atAddr a (leBytes 4 w.toNat)) u) k r e
  inv_log : ∀ u v, Inv u → OnlyLogs u v → Inv v
  read : clear → ∀ u m, Inv u → Val u m → BitVec.ofNat 32 (leNat (spaceRead k r a 4 u)) = m
  val_write : clear → ∀ u (w : Word), Inv u → Val (spaceWrite k r (atAddr a (leBytes 4 w.toNat)) u) w
  val_log : ∀ u v m, Val u m → OnlyLogs u v → Val v m

variable {clear : Prop} {Inv : State → Prop} {Val : State → Word → Prop} {u : State} {e : LogEntry}

/-- One lane is given the word it finds and leaves the table's word. -/
theorem AtomicCell.lane (c : AtomicCell k a r clear Inv Val) (hf : f ∈ atomicTable) (hfn : r.func = f.1) {x : ReqLane}
    (hx : x.addr = a) (hu : Inv u) (he : LogAt u k r e) :
    ∃ w, LogAt (atomLane k r u x) k r (e.land x.lane [w]) ∧ Inv (atomLane k r u x) ∧
      (clear → ∀ m, Val u m → w = m ∧ Val (atomLane k r u x) (f.2 m x.x x.y)) := by
  have htable := atomWord_table hf (BitVec.ofNat 32 (leNat (spaceRead k r a 4 u))) x.x x.y
  rw [atomLane, hx, hfn]
  cases hw : atomWord f.1 (BitVec.ofNat 32 (leNat (spaceRead k r a 4 u))) x.x x.y with
  | none =>
    rw [hw, Option.getD_none] at htable
    have hlogs := onlyLogs_modLog k r (fun e => e.land x.lane [BitVec.ofNat 32 (leNat (spaceRead k r a 4 u))]) u
    refine ⟨_, logAt_modLog he rfl, c.inv_log _ _ hu hlogs, fun hc m hm => ?_⟩
    rw [c.read hc u m hu hm] at htable
    exact ⟨c.read hc u m hu hm, htable ▸ c.val_log _ _ _ hm hlogs⟩
  | some w =>
    rw [hw, Option.getD_some] at htable
    have hlogs := onlyLogs_modLog k r (fun e => e.land x.lane [BitVec.ofNat 32 (leNat (spaceRead k r a 4 u))])
      (spaceWrite k r (atAddr a (leBytes 4 w.toNat)) u)
    refine ⟨_, logAt_modLog (c.log_write u w e hu he) rfl, c.inv_log _ _ (c.inv_write u w hu) hlogs, fun hc m hm => ?_⟩
    rw [c.read hc u m hu hm] at htable
    exact ⟨c.read hc u m hu hm, htable ▸ c.val_log _ _ _ (c.val_write hc u w hu) hlogs⟩

/-- The word after some lanes have acted. -/
def afterLanes (f : Nat × (Word → Word → Word → Word)) (m : Word) (xs : List ReqLane) : Word :=
  xs.foldl (fun m x => f.2 m x.x x.y) m

/-- Lanes act in their order, each on the word the ones before it have left. -/
theorem AtomicCell.lanes (c : AtomicCell k a r clear Inv Val) (hf : f ∈ atomicTable) (hfn : r.func = f.1) {xs : List ReqLane}
    (hxs : ∀ x ∈ xs, x.addr = a) (hlt : (xs.map (·.lane)).Pairwise (· < ·)) (hu : Inv u) (he : LogAt u k r e) {m : Word}
    (hm : clear → Val u m) :
    ∃ e', LogAt (xs.foldl (fun t x => atomLane k r t x) u) k r e' ∧ Inv (xs.foldl (fun t x => atomLane k r t x) u) ∧
      (∀ j, j ∉ xs.map (·.lane) → mapGet 0 e'.data j = mapGet 0 e.data j) ∧
      (clear → Val (xs.foldl (fun t x => atomLane k r t x) u) (afterLanes f m xs) ∧
        ∀ before x rest, xs = before ++ x :: rest → mapGet 0 e'.data x.lane = afterLanes f m before) := by
  induction xs generalizing u e m with
  | nil => exact ⟨e, he, hu, fun _ _ => rfl, fun hc => ⟨hm hc, fun b x rest h => by simp at h⟩⟩
  | cons x xs ih =>
    rw [List.map_cons, List.pairwise_cons] at hlt
    obtain ⟨hfirst, hlt⟩ := hlt
    obtain ⟨w, hlog, hinv, hval⟩ := c.lane hf hfn (hxs x List.mem_cons_self) hu he
    obtain ⟨e', hlog', hinv', hkeep, hvals⟩ := ih (fun y hy => hxs y (List.mem_cons_of_mem _ hy)) hlt hinv hlog
      (m := f.2 m x.x x.y) fun hc => (hval hc m (hm hc)).2
    refine ⟨e', hlog', hinv', fun j hj => ?_, fun hc => ⟨(hvals hc).1, fun before y rest h => ?_⟩⟩
    · rw [List.map_cons, List.mem_cons, not_or] at hj
      rw [hkeep j hj.2, mapGet_land_other _ _ hj.1]
    · cases before with
      | nil =>
        obtain ⟨rfl, rfl⟩ := List.cons.inj h
        rw [hkeep x.lane fun h => lt_irrefl _ (hfirst _ h), mapGet_land]
        exact (hval hc m (hm hc)).1
      | cons z before =>
        obtain ⟨rfl, htail⟩ := List.cons.inj h
        exact (hvals hc).2 before y rest htail

end

/-! ### The word of a block's shared space -/

section
variable {s u v : State} {k a : Nat} {r : Req}

/-- Lanes of an atomic have changed only four bytes of the block's shared space, and logs. -/
structure SharedWord (k a : Nat) (r : Req) (s u : State) : Prop where
  within : WithinCores k s u
  wf : Memory.wf (u.blockAt k r.blk).shared = true
  others : ∀ o, o < a ∨ a + 4 ≤ o → memGet (u.blockAt k r.blk).shared o = memGet (s.blockAt k r.blk).shared o

/-- The four bytes at `a` of a store are a word. -/
def WordAt (m : List Host.Cell) (a : Nat) (w : Word) : Prop := memNat m a 4 = w.toNat

theorem wordAt_ofNat (m : List Host.Cell) (a : Nat) : WordAt m a (BitVec.ofNat 32 (memNat m a 4)) :=
  (Nat.mod_eq_of_lt (memNat_lt m a 4)).symm

theorem WordAt.ofNat {m : List Host.Cell} {w : Word} (h : WordAt m a w) : BitVec.ofNat 32 (memNat m a 4) = w := by
  rw [h, BitVec.ofNat_toNat, BitVec.setWidth_eq]

theorem wordAt_memSetNat {m : List Host.Cell} (hm : Memory.wf m = true) (a : Nat) (w : Word) :
    WordAt (memSetNat m a 4 w.toNat) a w := by
  rw [WordAt, memNat_memSetNat _ _ _ _ hm]
  exact Nat.mod_eq_of_lt w.isLt

theorem atomicCell_shared (hw : r.window = false) (hs : r.space = 1) (s : State) :
    AtomicCell k a r True (SharedWord k a r s) (fun u m => WordAt (u.blockAt k r.blk).shared a m) := by
  have hwrite (u : State) (w : Word) : spaceWrite k r (atAddr a (leBytes 4 w.toNat)) u =
      withShared k r (memSetNat (u.blockAt k r.blk).shared a 4 w.toNat) u := spaceWrite_shared hs _ u
  constructor
  case inv_write =>
    intro u w hu
    rw [hwrite]
    refine ⟨hu.within.trans (withinCores_withShared _), ?_, fun o ho => ?_⟩
    · rw [shared_withShared]
      exact memSetNat_wf _ _ _ hu.wf
    · rw [shared_withShared, memGet_memSetNat_outside _ _ _ _ ho, hu.others o ho]
  case log_write =>
    intro u w e _ he
    rw [hwrite]
    exact logAt_setBlockAt he _ _
  case inv_log =>
    intro u v hu h
    have hb := h.blocks k r.blk
    exact ⟨hu.within.trans (h.withinCores k), hb ▸ hu.wf, hb ▸ hu.others⟩
  case read =>
    intro _ u m _ hm
    rw [spaceRead_shared hw hs]
    exact hm.ofNat
  case val_write =>
    intro _ u w hu
    rw [hwrite, shared_withShared]
    exact wordAt_memSetNat hu.wf _ _
  case val_log => exact fun u v m hm h => h.blocks k r.blk ▸ hm

end

/-! ### Lines that change their owner (R217, R218) -/

section
variable {s t u : State} {p : Nat → Prop}

/-- As `RestowedBut`, but that cores and dies may change: lines have moved between slices, and of the bytes outside the
spill area only those that `p` holds of may have changed. -/
structure Moved (p : Nat → Prop) (s t : State) : Prop where
  only : { t with cores := s.cores, mem := s.mem, copies := s.copies, l2 := s.l2, corrected := s.corrected,
                  north := s.north, south := s.south } = s
  copies : t.copies.map unplaced = s.copies.map unplaced
  mem : ∀ a, ¬ p a → ¬ InSpill s a → memGet t.mem a = memGet s.mem a
  spill : ∀ a, InSpill t a → InSpill s a
  wf : Memory.wf s.mem = true → Memory.wf t.mem = true

theorem Moved.trans (h : Moved p s t) (g : Moved p t u) : Moved p s u :=
  ⟨(congrArg (fun x : State => { x with
      cores := s.cores, mem := s.mem, copies := s.copies, l2 := s.l2, corrected := s.corrected, north := s.north,
      south := s.south }) g.only).trans h.only,
    g.copies.trans h.copies, fun a hp ha => (g.mem a hp fun hb => ha (h.spill a hb)).trans (h.mem a hp ha),
    fun a ha => h.spill a (g.spill a ha), fun hm => g.wf (h.wf hm)⟩

theorem Moved.refl (s : State) : Moved p s s := ⟨rfl, rfl, fun _ _ _ => rfl, fun _ h => h, fun h => h⟩

theorem RestowedBut.moved (h : RestowedBut p s t) (hwf : Memory.wf s.mem = true → Memory.wf t.mem = true) : Moved p s t :=
  ⟨(congrArg (fun x : State => { x with cores := s.cores, north := s.north, south := s.south }) h.only :), h.copies, h.mem,
    h.spill, hwf⟩

theorem Restowed.moved (h : Restowed s t) (hwf : Memory.wf s.mem = true → Memory.wf t.mem = true) : Moved p s t :=
  h.but.moved hwf

/-- Only cores have changed. -/
theorem moved_cores (h : { t with cores := s.cores } = s) : Moved p s t := by
  have hm : t.mem = s.mem := (congrArg State.mem h :)
  have hc : t.copies = s.copies := (congrArg State.copies h :)
  refine ⟨(congrArg (fun x : State => { x with
    mem := s.mem, copies := s.copies, l2 := s.l2, corrected := s.corrected, north := s.north, south := s.south }) h :), by rw [hc], fun _ _ _ => by rw [hm], fun a => ?_, fun h => hm ▸ h⟩
  exact inSpill_of_copies (congrArg State.vers h :) fun c hc' => hc ▸ hc'

theorem Moved.vers (h : Moved p s t) : t.vers = s.vers := (congrArg State.vers h.only :)

theorem Moved.settled (h : Moved p s t) {l : Nat} (hl : s.newestCommitted l = none) : t.newestCommitted l = none := by
  have hline (z : State) : ((z.copies.filter fun c => c.line = l).map unplaced) =
      (z.copies.map unplaced).filter fun c => c.line = l := by
    rw [List.filter_map]
    rfl
  have hn := newestCommitted_congr (s := s) (t := t) (l := l) h.vers (by rw [hline, hline, h.copies])
  rw [hl, Option.map_none] at hn
  exact Option.map_eq_none_iff.1 hn

/-- Lines have moved between slices, and no core has noticed. -/
structure Rehomed (s t : State) : Prop where
  moved : Moved (fun _ => False) s t
  cores : t.cores = s.cores

theorem Rehomed.trans (h : Rehomed s t) (g : Rehomed t u) : Rehomed s u := ⟨h.moved.trans g.moved, g.cores.trans h.cores⟩
theorem Rehomed.refl (s : State) : Rehomed s s := ⟨.refl s, rfl⟩

theorem Restowed.rehomed (h : Restowed s t) (hwf : Memory.wf s.mem = true → Memory.wf t.mem = true) : Rehomed s t :=
  ⟨h.moved hwf, (congrArg State.cores h.only :)⟩

theorem rehomed_l2Take (e : L2Line) (s : State) : Rehomed s (l2Take e s) :=
  (restowed_l2Take e s).rehomed fun hm => l2Take_wf e hm

theorem rehomed_setDie (s : State) (d : Nat) (x : Die) : Rehomed s (s.setDie d x) := by
  unfold State.setDie
  split <;> exact ⟨⟨rfl, rfl, fun _ _ _ => rfl, fun _ h => h, fun h => h⟩, rfl⟩

theorem rehomed_foldr {α : Type} {f : α → State → State} (hf : ∀ a x, Rehomed x (f a x)) (l : List α) (s : State) :
    Rehomed s (l.foldr f s) := by
  induction l with
  | nil => exact .refl s
  | cons a l ih => exact ih.trans (hf a _)

theorem rehomed_foldl {α : Type} {f : State → α → State} (hf : ∀ x a, Rehomed x (f x a)) (l : List α) (s : State) :
    Rehomed s (l.foldl f s) := by
  induction l generalizing s with
  | nil => exact .refl s
  | cons a l ih => exact (hf s a).trans (ih _)

/-- A line's copies leave the package: their slots are freed. -/
theorem restowed_unplace (l : Nat) (s : State) :
    let t := (s.copies.filter fun c => c.line = l).foldl (fun t c => freeSlot c.spilled t) s
    Restowed s { t with copies := t.copies.map fun c => if c.line = l then { c with spilled := none } else c } := by
  intro t
  have hfree (x : State) (c : LineCopy) : OnlySlices x (freeSlot c.spilled x) := by cases c.spilled <;> rfl
  have honly : OnlySlices s t := onlySlices_foldl hfree _ s
  have hcopies : t.copies = s.copies := copies_freeSlots _ s
  refine ⟨(congrArg (fun x : State => { x with copies := s.copies }) honly :), ?_, fun a ha => ?_, fun a ha => ?_⟩
  · rw [hcopies, List.map_map]
    refine List.map_congr_left fun c _ => ?_
    simp only [Function.comp_apply]
    split <;> rfl
  · exact mem_freeSlots (fun _ hc => List.mem_of_mem_filter hc) ha
  · rcases ha with ha | ⟨d, hd, n, hn, ha⟩
    · refine .inl ?_
      have hv : t.vers = s.vers := honly.vers
      have hb : t.spillBuckets = s.spillBuckets := by rw [State.spillBuckets, hv, State.spillBuckets]
      rw [← hv, ← hb]
      exact ha
    · obtain ⟨e, he, rfl⟩ := List.mem_map.1 hd
      have htag : t.spillTag n = s.spillTag n := by rw [State.spillTag, honly.vers, State.spillTag]
      split at hn
      · exact absurd hn (by simp)
      · exact .inr ⟨e, hcopies ▸ he, n, hn, by rw [← htag]; exact ha⟩

theorem freeSlots_wf (cs : List LineCopy) (h : Memory.wf s.mem = true) :
    Memory.wf (cs.foldl (fun t c => freeSlot c.spilled t) s).mem = true := by
  induction cs generalizing s with
  | nil => exact h
  | cons c cs ih => exact ih (freeSlot_wf c.spilled h)

theorem rehomed_rehome (l : Nat) (s : State) : Rehomed s (rehome l s) := by
  have hl2 : Rehomed s { s with l2 := s.l2.filter fun e => e.line != l } := (restowed_l2 s _ s.corrected).rehomed fun h => h
  refine hl2.trans ?_
  unfold rehome
  dsimp only
  split
  · exact (restowed_unplace l { s with l2 := s.l2.filter fun e => e.line != l }).rehomed fun h => freeSlots_wf _ h
  · exact rehomed_foldr rehomed_l2Take _ _

theorem rehomed_giveLine (l owner : Nat) (s : State) : Rehomed s (giveLine l owner s) :=
  (rehomed_setDie s _ _).trans (rehomed_rehome l _)

theorem rehomed_recallLine (l : Nat) (s : State) : Rehomed s (recallLine l s) := by
  have hhome := fun d x => (rehomed_setDie s d x).trans (rehomed_rehome l _)
  unfold recallLine
  dsimp only
  split
  · exact (hhome _ _).trans (rehomed_foldr (fun c t => rehomed_l2Take _ t) _ _)
  · exact hhome _ _

theorem rehomed_recallPages (d : Nat) (home : Nat → Bool) (s : State) : Rehomed s (recallPages d home s) :=
  rehomed_foldl (fun t l => rehomed_recallLine l t) _ s

theorem rehomed_noteAtomic (die pa : Nat) (s : State) : Rehomed s (noteAtomic die pa s) := by
  have hcount := fun d x home => (rehomed_setDie s d x).trans (rehomed_recallPages d home _)
  unfold noteAtomic
  dsimp only
  split
  · exact .refl s
  · split
    · exact (hcount _ _ _).trans (rehomed_giveLine _ _ _)
    · exact hcount _ _ _

end

/-! ### The word of a line at VID 0 -/

section
variable {s u t : State} {k a : Nat} {r : Req}

theorem map_physical_atAddr (r : Req) (bs : List Byte) (h : a % 128 + bs.length ≤ 128) :
    (atAddr a bs).map (fun c => (r.physical c.1, c.2)) = atAddr (r.physical a) bs := by
  induction bs generalizing a with
  | nil => rfl
  | cons b bs ih =>
    rw [List.length_cons] at h
    rw [atAddr, List.map_cons, atAddr]
    cases bs with
    | nil => rfl
    | cons c cs =>
      rw [List.length_cons] at h
      have hnext : r.physical (a + 1) = r.physical a + 1 := by unfold Req.physical; omega
      rw [ih (by rw [List.length_cons]; omega), hnext]

/-- Lanes of an atomic have changed only the four bytes of its word, outside the spill area. -/
structure MemoryWord (k a : Nat) (r : Req) (s u : State) : Prop where
  moved : Moved (fun o => r.physical a ≤ o ∧ o < r.physical a + 4) s u
  reqs : (u.coreAt k).reqs = (s.coreAt k).reqs

theorem restowedBut_writeLine {l b : Nat} (h : s.newestCommitted l = none) (cls n x : Nat) :
    RestowedBut (fun o => b ≤ o ∧ o < b + n) s (writeLine 0 l (atAddr b (leBytes n x)) cls s) := by
  rw [writeLine_root l _ cls h]
  refine RestowedBut.trans (t := { s with mem := memSetAll s.mem (atAddr b (leBytes n x)) }) ?_ (restowed_l2Take _ _).but
  exact ⟨rfl, rfl, fun o hp _ => memGet_memSetNat_outside s.mem b n x (by omega), fun _ h => h⟩

theorem atomicCell_memory (hw : r.window = false) (h1 : r.space ≠ 1) (h2 : r.space ≠ 2) (hv : r.vid = 0)
    (ha : a % 128 + 4 ≤ 128) (hc : s.newestCommitted r.pa = none) (hm : Memory.wf s.mem = true) :
    AtomicCell k a r (∀ o, r.physical a ≤ o → o < r.physical a + 4 → ¬ InSpill s o) (MemoryWord k a r s)
      (fun u m => WordAt u.mem (r.physical a) m) := by
  have hwrite (u : State) (w : Word) : spaceWrite k r (atAddr a (leBytes 4 w.toNat)) u =
      writeLine 0 r.pa (atAddr (r.physical a) (leBytes 4 w.toNat)) (classOf r.policy) u := by
    rw [spaceWrite_home h1 h2, hv, map_physical_atAddr r _ (by rw [leBytes_length]; exact ha)]
  have hslices (u : State) (w : Word) : OnlySlices u (spaceWrite k r (atAddr a (leBytes 4 w.toNat)) u) := by
    rw [hwrite]
    exact onlySlices_writeLine _ _ _ _ u
  constructor
  case inv_write =>
    intro u w hu
    refine ⟨hu.moved.trans (RestowedBut.moved ?_ fun hmu => ?_), ?_⟩
    · rw [hwrite]
      exact restowedBut_writeLine (hu.moved.settled hc) _ _ _
    · rw [hwrite, writeLine_root _ _ _ (hu.moved.settled hc)]
      exact l2Take_wf _ (memSetAll_wf _ hmu)
    · rw [State.coreAt, (congrArg State.cores (hslices u w) :)]
      exact hu.reqs
  case log_write =>
    intro u w e _ he
    rw [LogAt, State.groupAt, State.coreAt, (congrArg State.cores (hslices u w) :)]
    exact he
  case inv_log => exact fun u v hu h => ⟨hu.moved.trans (moved_cores h.rest), (h.reqs k).trans hu.reqs⟩
  case read =>
    intro _ u m hu hval
    have hbytes : spaceRead k r a 4 u = memBytes u.mem (r.physical a) 4 := by
      refine List.ext_getElem? fun i => ?_
      rw [spaceRead_getElem? hw, memBytes_getElem?, spaceByte, if_neg h1, if_neg h2, hv, viewByte_zero, Req.physical]
    rw [hbytes]
    exact hval.ofNat
  case val_write =>
    intro hclear u w hu
    rw [hwrite, writeLine_root _ _ _ (hu.moved.settled hc)]
    refine (memNat_congr fun i hi => (restowed_l2Take _ _).mem _ fun hspill => ?_).trans
      (wordAt_memSetNat (hu.moved.wf hm) (r.physical a) w)
    exact hclear _ (Nat.le_add_right _ i) (by omega) (hu.moved.spill _ hspill)
  case val_log =>
    intro u v m hval h
    rw [(congrArg State.mem h.rest :)]
    exact hval

/-- A home that is ready performs an atomic: the line may have a new owner and is touched, then the lanes act. -/
theorem serveSlice_atom (hk : r.kind = .atom) (hc : s.newestCommitted r.pa = none) (k : Nat) : ∃ u, Rehomed s u ∧
    OnlyL1 (performed k r (r.lanes.foldl (fun t x => atomLane k r t x) u)) (serveSlice k r s) := by
  have hnote := rehomed_noteAtomic (s.iota (dieOf k)) (128 * r.pa) s
  have hslice : atSlice k r s = noteLine r.vid r.pa r.sectors (classOf r.policy)
      (noteAtomic (s.iota (dieOf k)) (128 * r.pa) s) := by
    rw [atSlice, hk]
    simp [settle_self (hnote.moved.settled hc)]
  refine ⟨_, hnote.trans ((restowed_noteLine r.vid r.pa r.sectors (classOf r.policy) _).rehomed
    fun hm => noteLine_wf _ _ _ _ hm), ?_⟩
  rw [serveSlice, hslice, serveBytes, hk]
  simp only [afterServe, hk]
  exact onlyL1_l1Remove _ _ _ _

/-- An atomic at its home has been performed: of the package the dies and the home slices have changed, of the bytes
outside the spill area its word. -/
theorem performed_memory {e : LogEntry} (hu : MemoryWord s.sel.core a r s u) (hlog : LogAt u s.sel.core r e)
    (ht : OnlyL1 (performed s.sel.core r u) t) : NowPerformed s t r ∧ LogOf t r e ∧ t.mem = u.mem ∧
      { t with cores := s.cores, mem := s.mem, copies := s.copies, l2 := s.l2, corrected := s.corrected,
               performs := s.performs, north := s.north, south := s.south } = s := by
  have ho := orphan_of_logAt hlog
  have hreqs : OnlyReqs s.sel.core u _ := onlyReqs_performed ho
  have husel : u.sel = s.sel := (congrArg State.sel hu.moved.only :)
  have htsel : t.sel = s.sel := ((congrArg State.sel ht.rest :).trans (congrArg State.sel hreqs.rest :)).trans husel
  refine ⟨nowPerformed husel hu.reqs (congrArg State.performs hu.moved.only :) ho ht, ?_,
    (congrArg State.mem ht.rest :).trans hreqs.mem, ?_⟩
  · rw [LogOf, htsel, ht.groupAt, hreqs.groupAt]
    exact hlog
  · have h1 := congrArg (fun x : State => { x with
      cores := s.cores, mem := s.mem, copies := s.copies, l2 := s.l2, corrected := s.corrected, performs := s.performs,
      north := s.north, south := s.south }) ht.rest
    have h2 := congrArg (fun x : State => { x with
      cores := s.cores, mem := s.mem, copies := s.copies, l2 := s.l2, corrected := s.corrected, performs := s.performs,
      north := s.north, south := s.south }) hreqs.rest
    have h3 := congrArg (fun x : State => { x with performs := s.performs }) hu.moved.only
    exact (h1.trans h2).trans h3

end

/-- Settles O24: lane by lane, the word is read, the table's word is written, and the lane's answer lands. -/
theorem atomicsActInLaneOrder : Obligations.AtomicsActInLaneOrder := by
  unfold Obligations.AtomicsActInLaneOrder
  intro i s r e f hf h hk hfn hw hlog hlt a hlanes hline hin after
  have haddr : ∀ x ∈ r.lanes, x.addr = a := fun x hx => (hlanes x hx).1
  refine ⟨?_, ?_⟩
  · intro hs hm m
    obtain ⟨e', hlog', hword, -, hvals⟩ := (atomicCell_shared (a := a) hw hs s).lanes hf hfn haddr hlt
      ⟨.refl _ s, hm, fun _ _ => rfl⟩ hlog fun _ => wordAt_ofNat _ _
    obtain ⟨hdone, hof, hbytes, hblock, -⟩ := performed_logged hword.within hlog'
    obtain ⟨hend, heach⟩ := hvals trivial
    refine ⟨_, e', ?_, hdone, hof, hbytes, ?_, ?_, heach⟩
    · rw [exec_of_served h, serveReq_block hw (.inl hs), serveBytes, hk]
      rfl
    · rw [hblock]
      exact hend
    · rw [hblock]
      exact hword.others
  · intro hready hv hm pa m
    have hd : s.deadVid r.vid = false := by simp [State.deadVid, hv]
    have hserve := serveReq_home hready hd s.sel.core
    obtain ⟨-, h1, h2, hc, -, -, -⟩ := hready
    obtain ⟨u, hu, ht⟩ := serveSlice_atom hk hc s.sel.core
    have hgroups (g : Nat) : u.groupAt s.sel.core g = s.groupAt s.sel.core g := by
      rw [State.groupAt, State.coreAt, hu.cores]
      rfl
    have hlogu : LogAt u s.sel.core r e := by
      rw [LogAt, hgroups]
      exact hlog
    have hmoved : Moved (fun o => r.physical a ≤ o ∧ o < r.physical a + 4) s u :=
      ⟨hu.moved.only, hu.moved.copies, fun o _ ho => hu.moved.mem o (fun h => h) ho, hu.moved.spill, hu.moved.wf⟩
    have hreqs : (u.coreAt s.sel.core).reqs = (s.coreAt s.sel.core).reqs := by
      rw [State.coreAt, hu.cores]
      rfl
    obtain ⟨e', hlog', hword, -, hvals⟩ := (atomicCell_memory (a := a) hw h1 h2 hv hin hc hm).lanes hf hfn haddr hlt
      ⟨hmoved, hreqs⟩ hlogu (m := m) fun hclear => by
        rw [WordAt, memNat_congr fun i hi => hu.moved.mem _ (fun h => h) (hclear _ (Nat.le_add_right _ i) (by omega))]
        exact wordAt_ofNat _ _
    obtain ⟨hdone, hof, hmem, hrest⟩ := performed_memory hword hlog' ht
    refine ⟨_, e', (exec_of_served h).trans (congrArg _ hserve), hdone, hof, hrest, fun o ho hspill => ?_, fun hclear => ?_⟩
    · rw [hmem]
      exact hword.moved.mem o (by unfold Req.physical; omega) hspill
    · rw [hmem]
      refine hvals fun o hlow hhigh => ?_
      have hplace : o = 128 * r.pa + (o - 128 * r.pa) := by unfold Req.physical at hlow; omega
      rw [hplace]
      exact hclear _ (by unfold Req.physical at hlow hhigh; omega)

end Sys2Proof.Proofs
end

section
/-!
O19: an SC word is performed as it issues, and so a POP whose deque's array lies outside the allotment faults as it issues
(R133), where the statement leaves the grids as they were.
-/

namespace Sys2Proof.Proofs

open Sys2Proof.Machine Sys2Proof.Statements Sys2Proof.Tests

/-- Lane 0 names a deque at address 0 of its block's shared space: one entry stands in it, its header is well formed, and
its array begins at 0x2000, past the 4,096 bytes of the allotment. -/
def dequeOutside : State :=
  let s := memState (mkRec 0 4096 0 1 0) 0 []
  { s with cores := [(0, { s.coreAt 0 with blocks := [(0, { s.block with shared := [(4, 1), (8, 1), (17, 0x20)] })] })] }

/-- The lane reaches the header, so an SC POP meets every check that the statement asks for. -/
theorem dequeOutside_checks :
    let m := orderedAccess dequeOutside (.dqop, 32, 1, 1) (ordw 3)
    m.SpaceFits dequeOutside ∧ (∀ l, m.Goes dequeOutside l → m.Reaches dequeOutside l) ∧ m.Released dequeOutside ∧
      m.Goes dequeOutside 0 := by
  refine ⟨⟨by change _ ∈ [0, 1]; decide, by decide⟩, fun l h => ?_,
    .inr (.inr (.inr ⟨(by decide : (5 : BitVec 3).toNat ≤ 5), .inr rfl⟩)), by decide, by decide, by unfold Access.Clips; decide⟩
  obtain rfl := goes_zero rfl h
  change 0 + 32 ≤ 4096
  decide

/-- The POP's entry lies outside the allotment: the grid faults as the word issues. -/
theorem dequeOutside_faults {t : State} (h : exec (.dqopPop (ordw 3)) dequeOutside = .next t) :
    (t.gridAt 1).fault.isNone = false := by
  have hrun : (match exec (.dqopPop (ordw 3)) dequeOutside with
    | .next t => (t.gridAt 1).fault.isNone
    | _ => true) = false := by decide +kernel
  rw [h] at hrun
  exact hrun

/-- Refutes O19, in its clause on SC words of spaces 1 and 2: a DQOP that is performed at issue can fault there, and then
the grid is not as it was. -/
theorem not_memoryWordsLeaveRequests : ¬ Obligations.MemoryWordsLeaveRequests := by
  unfold Obligations.MemoryWordsLeaveRequests
  rintro ⟨-, -, hsc, -⟩
  obtain ⟨hfits, hreach, hrel, hgoes⟩ := dequeOutside_checks
  obtain ⟨t, -, hexec, -, -, -, hrest, -⟩ := hsc (.dqopPop, .dqop, 32, 1, 1) (List.mem_of_getElem? (i := 22) rfl)
    dequeOutside (ordw 3) (by unfold CanRun Fits; decide) rfl (fun h => absurd h (by decide)) hfits (.inr ⟨0, by decide, rfl⟩)
    hreach hrel ⟨0, hgoes⟩ rfl (.inl rfl) (by decide) (by decide) (by decide)
  have hgrid : t.gridAt 1 = dequeOutside.gridAt 1 := by
    rw [State.gridAt, (congrArg State.grids hrest :)]
    rfl
  have hfault := dequeOutside_faults hexec
  rw [hgrid] at hfault
  exact absurd hfault (by decide)

end Sys2Proof.Proofs
end

section
/-!
What comes back to a core (R126, R128, R206, R226, R237, R370), and O23: answers of loads and stores, write-combining
entries that age, announcements and storage errors.
-/

namespace Sys2Proof.Proofs

open Sys2Proof.Machine Sys2Proof.Statements

/-! ### Registers that a reply writes -/

section
variable {s t u : State} {k : Nat} {e : LogEntry} {r : Req}

theorem onlyLanes_writeBack (e : LogEntry) (g : Group) : OnlyLanes g (writeBack e g) ∧ (writeBack e g).splits = g.splits := by
  unfold writeBack
  generalize List.range e.nreg = js
  induction js generalizing g with
  | nil => exact ⟨rfl, rfl⟩
  | cons j js ih =>
    obtain ⟨h, hs⟩ := ih (g.setV (e.dest + j) e.wr fun l => mapGet 0 e.data (64 * j + l))
    exact ⟨(congrArg (fun x : Group => { x with v := g.v, splits := g.splits }) h :), hs⟩

/-- The destination registers take the entry's words in its lanes, and the others stay. -/
theorem vAt_writeBack (e : LogEntry) (g : Group) (r : Nat) {l : Nat} (hl : l < 48) :
    (writeBack e g).vAt r l = if e.dest ≤ r ∧ r < e.dest + e.nreg ∧ laneIn e.wr l = true
      then mapGet 0 e.data (64 * (r - e.dest) + l) else g.vAt r l := by
  unfold writeBack
  generalize e.nreg = n
  induction n with
  | zero => exact (if_neg (by omega)).symm
  | succ n ih =>
    rw [List.range_succ, List.foldl_append, List.foldl_cons, List.foldl_nil]
    by_cases h : r = e.dest + n
    · have hd : r - e.dest = n := by omega
      rw [h, Group.vAt_setV_same _ _ _ _ hl, ← h, ih, hd]
      by_cases hw : laneIn e.wr l = true
      · rw [if_pos hw, if_pos ⟨by omega, by omega, hw⟩]
      · rw [if_neg hw, if_neg fun h => hw h.2.2, if_neg fun h => hw h.2.2]
    · have hin : r < e.dest + n ↔ r < e.dest + (n + 1) := by omega
      rw [Group.vAt_setV_ne _ _ _ _ h, ih]
      exact if_congr (and_congr_right' (and_congr_left' hin)) rfl rfl

/-! ### Requests that leave their core -/

theorem groupAt_dropReqs (k : Nat) (p : Req → Bool) (s : State) (j g : Nat) :
    (dropReqs k p s).groupAt j g = s.groupAt j g := by
  by_cases h : j = k
  · rw [h, State.groupAt, dropReqs, State.coreAt_setCore]
    rfl
  · rw [State.groupAt, dropReqs, State.coreAt_setCore_ne _ _ h, State.groupAt]

theorem coreAt_dropReqs (k : Nat) (p : Req → Bool) (s : State) :
    (dropReqs k p s).coreAt k = { s.coreAt k with reqs := (s.coreAt k).reqs.filter fun r => !p r } := State.coreAt_setCore _ _ _

/-- A request without the mark of the L1 that has taken it. -/
def unmarked (q : Req) : Req := { q with inL1 := false }

theorem OnlyL1.mem_reqs (h : OnlyL1 s t) {q : Req} (hq : q ∈ (t.coreAt k).reqs) :
    ∃ p ∈ (s.coreAt k).reqs, unmarked p = unmarked q := by
  have hmem : unmarked q ∈ (t.coreAt k).reqs.map unmarked := List.mem_map_of_mem hq
  have hreqs : (t.coreAt k).reqs.map unmarked = (s.coreAt k).reqs.map unmarked := h.reqs k
  rw [hreqs] at hmem
  exact List.mem_map.1 hmem

/-! ### An acquire empties the L1 (R113, R233) -/

theorem l1_modL1_nil (k j : Nat) (s : State) : ((modL1 k (fun _ => []) s).coreAt j).l1 = if j = k then [] else (s.coreAt j).l1 := by
  split
  next h => rw [h, modL1, State.coreAt_setCore]
  next h => rw [modL1, State.coreAt_setCore_ne _ _ h]

theorem l1_modL1s_nil (ks : List Nat) (s : State) (j : Nat) :
    ((ks.foldl (fun t kc => modL1 kc (fun _ => []) t) s).coreAt j).l1 = if j ∈ ks then [] else (s.coreAt j).l1 := by
  induction ks generalizing s with
  | nil => rfl
  | cons k ks ih =>
    rw [List.foldl_cons, ih, l1_modL1_nil]
    by_cases h : j ∈ ks
    · rw [if_pos h, if_pos (List.mem_cons_of_mem _ h)]
    · rw [if_neg h]
      exact if_congr (by rw [List.mem_cons, or_iff_left h]) rfl rfl

theorem l1_l1Acquire (h : isOasis k = false) (fused : Bool) (s : State) :
    (fused = false → ((l1Acquire k fused s).coreAt k).l1 = []) ∧
      (fused = true → ∀ j ∈ (s.coreAt k).slicesRead, ((l1Acquire k fused s).coreAt j).l1 = []) := by
  rw [l1Acquire, h, if_neg Bool.false_ne_true]
  refine ⟨?_, ?_⟩
  · rintro rfl
    rw [Bool.not_false, if_pos rfl, l1_modL1_nil, if_pos rfl]
  · rintro rfl j hj
    rw [Bool.not_true, if_neg Bool.false_ne_true]
    dsimp only
    rw [l1_modL1s_nil, if_pos hj]

/-! ### A load's reply -/

/-- The core once a complete entry's registers are written and its requests are gone. -/
def entryReplied (idx : Nat) (e : LogEntry) (s : State) : State :=
  dropReqs s.sel.core (fun r => r.grp = s.sel.grp && r.ser = e.ser)
    (s.setGroup { writeBack e s.group with oplog := mapDel (writeBack e s.group).oplog idx })

theorem exec_loadReply (h : mapFind s.group.oplog s.sel.idx = some e) (hdone : logDone s s.sel.core s.sel.grp e = true) :
    exec .loadReply s = .next (match e.acq with
      | some sc => acquireAt sc.toNat (entryReplied s.sel.idx e s)
      | none => entryReplied s.sel.idx e s) := by
  change execLoadReply s = _
  rw [execLoadReply, agentStep, h]
  simp only [hdone, if_true]
  rfl

theorem group_entryReplied (idx : Nat) (e : LogEntry) (s : State) :
    (entryReplied idx e s).group = { writeBack e s.group with oplog := mapDel (writeBack e s.group).oplog idx } := by
  change (entryReplied idx e s).groupAt s.sel.core s.sel.grp = _
  rw [entryReplied, groupAt_dropReqs]
  exact State.group_setGroup _ _

/-- Only the core has changed: its group's registers and log, and its requests. -/
theorem entryReplied_rest (idx : Nat) (e : LogEntry) (s : State) : { entryReplied idx e s with cores := s.cores } = s := rfl

theorem core_entryReplied (idx : Nat) (e : LogEntry) (s : State) :
    (entryReplied idx e s).core.reqs = s.core.reqs.filter (fun r => !(decide (r.grp = s.sel.grp) && decide (r.ser = e.ser))) ∧
      (entryReplied idx e s).core.slicesRead = s.core.slicesRead := by
  have hcore (x : Group) : (s.setGroup x).coreAt s.sel.core = { s.core with groups := (s.setGroup x).core.groups } :=
    (congrArg (fun c : Core => { c with groups := (s.setGroup x).core.groups }) (State.setGroup_core s x) :)
  change ((entryReplied idx e s).coreAt s.sel.core).reqs = _ ∧ ((entryReplied idx e s).coreAt s.sel.core).slicesRead = _
  rw [entryReplied, coreAt_dropReqs, hcore]
  exact ⟨rfl, rfl⟩

/-- A load's reply, whether or not it acquires: the registers, the log and the requests of the entry; the L1s beside them. -/
theorem onlyL1_acquired (a : Option (BitVec 3)) (s : State) : OnlyL1 s (match a with
    | some sc => acquireAt sc.toNat s
    | none => s) := by
  cases a with
  | none => exact .refl s
  | some sc => exact onlyL1_acquireAt _ s

/-- What a load's reply does. -/
theorem loadReply_answers (h : mapFind s.group.oplog s.sel.idx = some e) (hdone : logDone s s.sel.core s.sel.grp e = true) :
    ∃ t, exec .loadReply s = .next t ∧ SameBytes s t ∧ t.group.oplog = mapDel s.group.oplog s.sel.idx ∧
      (∀ r l, l < 48 → t.group.vAt r l = if e.dest ≤ r ∧ r < e.dest + e.nreg ∧ laneIn e.wr l = true
        then mapGet 0 e.data (64 * (r - e.dest) + l) else s.group.vAt r l) ∧
      OnlyLanes s.group { t.group with oplog := s.group.oplog } ∧
      (∀ q ∈ t.core.reqs, q.grp = s.sel.grp → q.ser ≠ e.ser) ∧
      (∀ sc, e.acq = some sc → 3 ≤ sc.toNat → isOasis s.sel.core = false →
        (s.grid.fuse = false → t.core.l1 = []) ∧ (s.grid.fuse = true → ∀ k ∈ s.core.slicesRead, (t.coreAt k).l1 = [])) := by
  obtain ⟨hreqs, hslices⟩ := core_entryReplied s.sel.idx e s
  obtain ⟨honly, -⟩ := onlyLanes_writeBack e s.group
  have hl1 := onlyL1_acquired e.acq (entryReplied s.sel.idx e s)
  have hexec := exec_loadReply h hdone
  generalize hu : entryReplied s.sel.idx e s = u at *
  have hrest : { u with cores := s.cores } = s := hu ▸ entryReplied_rest _ _ _
  have hgroup : u.group = { writeBack e s.group with oplog := mapDel (writeBack e s.group).oplog s.sel.idx } :=
    hu ▸ group_entryReplied _ _ _
  have hsel : u.sel = s.sel := (congrArg State.sel hrest :)
  refine ⟨_, hexec, ?_⟩
  have hacquired : ∀ sc, e.acq = some sc → 3 ≤ sc.toNat → (match e.acq with
      | some sc => acquireAt sc.toNat u
      | none => u) = l1Acquire s.sel.core s.grid.fuse u := by
    intro sc hsc h3
    have hgrid : u.grid = s.grid := by
      rw [State.grid, State.gridAt, (congrArg State.grids hrest :), hgroup, (congrArg Group.gid honly :)]
      rfl
    rw [hsc]
    dsimp only
    rw [acquireAt, if_pos h3, hsel, hgrid]
  generalize (match e.acq with
    | some sc => acquireAt sc.toNat u
    | none => u) = t at hl1 hacquired ⊢
  have htsel : t.sel = s.sel := (congrArg State.sel hl1.rest :).trans hsel
  have htgroup : t.group = u.group := by
    rw [State.group, htsel, hl1.groupAt, State.group, hsel]
  rw [htgroup, hgroup]
  refine ⟨viewByte_cores ?_, ?_, fun r l hl => vAt_writeBack e s.group r hl, ?_, fun q hq hgrp => ?_, fun sc hsc h3 ho => ?_⟩
  · exact (congrArg (fun x : State => { x with cores := s.cores, performs := s.performs }) hl1.rest :).trans
      (congrArg (fun x : State => { x with performs := s.performs }) hrest :)
  · exact congrArg (fun m => mapDel m s.sel.idx) (congrArg Group.oplog honly :)
  · exact (congrArg (fun x : Group => { x with oplog := s.group.oplog }) honly :)
  · rw [State.core, htsel] at hq
    obtain ⟨p, hp, hpq⟩ := hl1.mem_reqs hq
    rw [State.core, hsel] at hreqs
    rw [hreqs, List.mem_filter] at hp
    have hser : p.ser = q.ser := (congrArg Req.ser hpq :)
    have hpgrp : p.grp = s.sel.grp := (congrArg Req.grp hpq :).trans hgrp
    rw [← hser]
    simpa [hpgrp] using hp.2
  · rw [State.core, hsel] at hslices
    rw [State.core, htsel, hacquired sc hsc h3, ← hslices]
    exact l1_l1Acquire ho _ u

/-! ### The acknowledgement of a store -/

theorem storeAcknowledgement_answers (hr : s.reqAt s.sel.core s.sel.idx = some r) (hdue : ackDue s s.sel.core r = true) :
    ∃ t, exec .storeAcknowledgement s = .next t ∧ SameBytes s t ∧
      (t.core.reqs.map fun q => { q with inL1 := false }) =
        (s.core.reqs.filter fun q => !decide (q.id = r.id)).map (fun q => { q with inL1 := false }) ∧
      ∀ k g, SameRegs (s.groupAt k g) (t.groupAt k g) := by
  have hexec : ∃ u t, OnlyL1 s u ∧ OnlyL1 (dropReqs s.sel.core (fun q => q.id = r.id) u) t ∧
      exec .storeAcknowledgement s = .next t := by
    change ∃ u t, _ ∧ _ ∧ execStoreAcknowledgement s = _
    rw [execStoreAcknowledgement, agentStep]
    simp only [hr, hdue, if_true]
    refine ⟨if r.space = 0 ∧ (!r.window) = true then l1Catch s.sel.core (s.gridAt r.gid).fuse r.pa r.at_ s else s,
      _, ?_, ?_, rfl⟩
    · split
      · exact onlyL1_l1Catch _ _ _ _ s
      · exact .refl s
    · generalize dropReqs s.sel.core _ _ = u
      split
      · exact onlyL1_l1Acquire _ _ u
      · exact .refl u
  obtain ⟨u, t, hu, ht, hexec⟩ := hexec
  have hsel : t.sel = s.sel := (congrArg State.sel ht.rest :).trans (congrArg State.sel hu.rest :)
  have hgroup (k g : Nat) : t.groupAt k g = s.groupAt k g := by rw [ht.groupAt, groupAt_dropReqs, hu.groupAt]
  refine ⟨t, hexec, viewByte_cores ?_, ?_, fun k g => ?_⟩
  · exact (congrArg (fun x : State => { x with cores := s.cores, performs := s.performs }) ht.rest :).trans
      (congrArg (fun x : State => { x with performs := s.performs }) hu.rest :)
  · rw [State.core, hsel, ht.reqs, coreAt_dropReqs]
    have hfilter (l : List Req) : (l.filter fun q => !decide (q.id = r.id)).map (fun q => { q with inL1 := false }) =
        (l.map fun q => { q with inL1 := false }).filter fun q => !decide (q.id = r.id) := by
      rw [List.filter_map]
      rfl
    rw [hfilter, hfilter, hu.reqs, State.core]
  · rw [hgroup]
    exact ⟨rfl, rfl, rfl, rfl, rfl, rfl, rfl⟩

/-! ### Announcements (R237) -/

theorem unreachedCounters_none (hfree : scInFlight s k = false) (hq : (s.dieAt (dieOf k)).stdQueue = [])
    (hw : (s.dieAt (dieOf k)).waiting = []) (hafter : ∀ q ∈ (s.coreAt k).reqs, q.after = []) : unreachedCounters s k = [] := by
  have hnone : ((s.coreAt k).reqs.filter fun r => r.ord == 3 && (r.st == .nacked || r.st == .backoff || !r.after.isEmpty)) = [] := by
    refine List.filter_eq_nil_iff.2 fun q hqm => ?_
    have hsc := List.any_eq_false.1 hfree q hqm
    rw [Bool.and_eq_true, not_and, beq_iff_eq, bne_iff_ne, not_not] at hsc
    rw [Bool.and_eq_true, beq_iff_eq, hafter q hqm]
    rintro ⟨hord, hst⟩
    rw [hsc hord] at hst
    exact absurd hst (by decide)
  rw [unreachedCounters, hnone, hq, hw]
  rfl

theorem lamportAt_idle (hfree : scInFlight s k = false) :
    (lamportAt s k).toNat = max (s.coreAt k).lamport.toNat (s.coreAt k).heard.toNat := by
  rw [lamportAt, hfree, Bool.not_false, Bool.true_and]
  split
  next h => exact (max_eq_right (of_decide_eq_true h).le).symm
  next h => exact (max_eq_left (not_lt.1 fun hlt => h (decide_eq_true hlt))).symm

/-- The package once a core has announced: its counters, what its die sends, and what is on its way. -/
def announcing (s : State) (e : Die) : State :=
  let u := (s.setCore s.sel.core { s.core with
    lamport := lamportAt s s.sel.core, announced := nextAnnounce s s.sel.core,
    announcedAt := (s.dieAt (dieOf s.sel.core)).clk }).setDie (dieOf s.sel.core) e
  { u with annSent := u.annSent ++ [(podCore s.id.pkg.toNat s.sel.core, nextAnnounce s s.sel.core)] }

theorem exec_lamportAnnounce (s : State) : ∃ e, exec .lamportAnnounce s = .next (announcing s e) := ⟨_, rfl⟩

theorem announcing_rest (s : State) (e : Die) :
    { announcing s e with cores := s.cores, north := s.north, south := s.south, annSent := s.annSent } = s ∧
      (announcing s e).annSent = s.annSent ++ [(podCore s.id.pkg.toNat s.sel.core, nextAnnounce s s.sel.core)] ∧
      (announcing s e).cores = (s.setCore s.sel.core { s.core with
        lamport := lamportAt s s.sel.core, announced := nextAnnounce s s.sel.core,
        announcedAt := (s.dieAt (dieOf s.sel.core)).clk }).cores := by
  unfold announcing State.setDie
  split <;> exact ⟨rfl, rfl, rfl⟩

theorem lamportAnnounce_answers (hfree : scInFlight s s.sel.core = false) (hq : (s.dieAt (dieOf s.sel.core)).stdQueue = [])
    (hw : (s.dieAt (dieOf s.sel.core)).waiting = []) (hafter : ∀ q ∈ s.core.reqs, q.after = []) :
    ∃ t, exec .lamportAnnounce s = .next t ∧ SameBytes s t ∧
      t.core.lamport.toNat = max s.core.lamport.toNat s.core.heard.toNat ∧
      t.annSent = s.annSent ++ [(podCore s.id.pkg.toNat s.sel.core,
        BitVec.ofNat 48 (max s.core.lamport.toNat s.core.heard.toNat + 1))] ∧
      ∀ k g, SameRegs (s.groupAt k g) (t.groupAt k g) := by
  obtain ⟨e, hexec⟩ := exec_lamportAnnounce s
  obtain ⟨hrest, hsent, hcores⟩ := announcing_rest s e
  have hlamport := lamportAt_idle hfree
  have hannounce : nextAnnounce s s.sel.core = BitVec.ofNat 48 (max s.core.lamport.toNat s.core.heard.toNat + 1) := by
    rw [nextAnnounce, unreachedCounters_none hfree hq hw hafter, List.foldl_nil, hlamport]
    rfl
  rw [hannounce] at hsent
  have hcore (j : Nat) : (announcing s e).coreAt j = (s.setCore s.sel.core { s.core with
      lamport := lamportAt s s.sel.core, announced := nextAnnounce s s.sel.core,
      announcedAt := (s.dieAt (dieOf s.sel.core)).clk }).coreAt j := by
    rw [State.coreAt, hcores]
    rfl
  refine ⟨_, hexec, viewByte_congr (congrArg State.mem hrest :) (congrArg State.copies hrest :) (congrArg State.vers hrest :),
    ?_, hsent, fun k g => ?_⟩
  · rw [State.core, (congrArg State.sel hrest :), hcore, State.coreAt_setCore]
    exact hlamport
  · have hgroup : (announcing s e).groupAt k g = s.groupAt k g := by
      rw [State.groupAt, hcore]
      by_cases h : k = s.sel.core
      · rw [h, State.coreAt_setCore]
        rfl
      · rw [State.coreAt_setCore_ne _ _ h]
        rfl
    rw [hgroup]
    exact ⟨rfl, rfl, rfl, rfl, rfl, rfl, rfl⟩

theorem mapGet_eq_mapFind {α : Type} (d : α) (m : Map α) (j : Nat) : mapGet d m j = (mapFind m j).getD d := by
  induction m with
  | nil => rfl
  | cons x m ih =>
    obtain ⟨i, y⟩ := x
    rw [mapGet, mapFind]
    split
    · rfl
    · exact ih

theorem mapFind_map {α β : Type} (f : α → β) (m : Map α) (j : Nat) :
    mapFind (m.map fun x => (x.1, f x.2)) j = (mapFind m j).map f := by
  induction m with
  | nil => rfl
  | cons x m ih =>
    obtain ⟨i, y⟩ := x
    rw [List.map_cons, mapFind, mapFind]
    split
    · rfl
    · exact ih

theorem toNat_later {n : Nat} (x a : BitVec n) : (if x.toNat < a.toNat then a else x).toNat = max x.toNat a.toNat := by
  split
  next h => exact (max_eq_right h.le).symm
  next h => exact (max_eq_left (not_lt.1 h)).symm

/-- A core that has heard an announcement. -/
def hearing (a : BitVec 48) (c : Core) : Core := { c with heard := if c.heard.toNat < a.toNat then a else c.heard }

theorem lamportAnnounceReceive_answers {c : Nat} {a : BitVec 48} (hn : s.arg.n = c) (hv : s.arg.v = a.setWidth 64)
    (hheard : c / 416 = s.id.pkg.toNat ∧ (c, a) ∈ s.annSent ∨
      c / 416 ≠ s.id.pkg.toNat ∧ s.id.fail = 0 ∧ s.id.podmask.getLsbD (c / 416) = true) :
    ∃ t, exec .lamportAnnounceReceive s = .next t ∧ SameBytes s t ∧
      (mapGet 0 t.horizon c).toNat = max (mapGet 0 s.horizon c).toNat a.toNat ∧
      (∀ x, x ≠ c → mapGet 0 t.horizon x = mapGet 0 s.horizon x) ∧
      ∀ k y, mapFind s.cores k = some y → (t.coreAt k).heard.toNat = max y.heard.toNat a.toNat := by
  have harg : (s.arg.n, s.arg.v.setWidth 48) = (c, a) := by
    rw [hn, hv, BitVec.setWidth_setWidth_of_le _ (by decide), BitVec.setWidth_eq]
  have htaken : ¬ ((c / 416 = s.id.pkg.toNat ∧ (!s.annSent.contains (c, a)) = true) ∨
      ((!decide (c / 416 = s.id.pkg.toNat)) = true ∧ (s.id.fail ≠ 0 ∨ (!s.id.podmask.getLsbD (c / 416)) = true))) := by
    rcases hheard with ⟨hown, hmem⟩ | ⟨hother, hfail, hmask⟩
    · simp [hown, hmem]
    · simp [hother, hfail, hmask]
  have hexec : ∃ m, exec .lamportAnnounceReceive s = .next { s with
      annSent := m
      horizon := mapSet s.horizon c (if (mapGet 0 s.horizon c).toNat < a.toNat then a else mapGet 0 s.horizon c)
      cores := s.cores.map fun x => (x.1, hearing a x.2) } := by
    change ∃ m, execLamportAnnounceReceive s = _
    rw [execLamportAnnounceReceive, agentStep, harg]
    dsimp only
    rw [if_neg htaken]
    split <;> exact ⟨_, rfl⟩
  obtain ⟨m, hexec⟩ := hexec
  refine ⟨_, hexec, viewByte_congr rfl rfl rfl, ?_, fun x hx => mapGet_mapSet_ne _ _ hx, fun k y hy => ?_⟩
  · dsimp only
    rw [mapGet_mapSet_same]
    exact toNat_later _ _
  · rw [State.coreAt]
    dsimp only
    rw [mapGet_eq_mapFind, mapFind_map, hy]
    exact toNat_later _ _

/-! ### Storage errors (R370) -/

theorem gridAt_reportFault_ne (f : FaultRec) (s : State) {gid g : Nat} (h : g ≠ gid) :
    (reportFault gid f s).gridAt g = s.gridAt g := by
  unfold reportFault
  dsimp only
  split
  · rfl
  · split <;> exact mapGet_mapSet_ne _ _ h

theorem coreStorageError_answers (hlive : s.group.live = true) (hflag : s.arg.flag = false) :
    ∃ t, exec .coreStorageError s = .next t ∧ SameBytes s t ∧ { t with grids := s.grids } = s ∧
      (∀ g, g ≠ s.group.gid → t.gridAt g = s.gridAt g) ∧
      t.gridAt s.group.gid = afterFault (s.gridAt s.group.gid)
        { code := 0x14, detail := 0xFFFFFFFFFFFFFFFF, blk := s.block.blk, coreN := s.coreN s.sel.core,
          grpin := s.group.grpin } := by
  have hexec : exec .coreStorageError s = .next (reportFault s.group.gid
      { code := 0x14, detail := 0xFFFFFFFFFFFFFFFF, blk := s.block.blk, coreN := s.coreN s.sel.core,
        grpin := s.group.grpin } s) := by
    change execCoreStorageError s = _
    rw [execCoreStorageError, agentStep]
    dsimp only
    rw [hflag, if_neg Bool.false_ne_true, if_pos hlive]
    rfl
  obtain ⟨hrest, hgrid⟩ := reportFault_spec s.group.gid
    { code := 0x14, detail := 0xFFFFFFFFFFFFFFFF, blk := s.block.blk, coreN := s.coreN s.sel.core,
      grpin := s.group.grpin } s
  exact ⟨_, hexec, viewByte_congr (congrArg State.mem hrest :) (congrArg State.copies hrest :) (congrArg State.vers hrest :),
    hrest, fun g hg => gridAt_reportFault_ne _ s hg, hgrid⟩

/-! ### What a send keeps (R126, R206) -/

/-- Nothing changes but what the dies hold and the choices made of paths. -/
def OnlyDies (s t : State) : Prop := { t with north := s.north, south := s.south, fresh := s.fresh } = s

theorem OnlyDies.trans (h : OnlyDies s t) (g : OnlyDies t u) : OnlyDies s u :=
  Eq.trans (congrArg (fun x : State => { x with north := s.north, south := s.south, fresh := s.fresh }) g) h

theorem onlyDies_setDie (s : State) (d : Nat) (e : Die) : OnlyDies s (s.setDie d e) := by
  unfold State.setDie
  split <;> rfl

theorem OnlyDies.extended (h : OnlyDies s t) (he : Extended s) : Extended t := fun p => by
  rw [State.linkStd, (congrArg State.id h :), (congrArg State.host h :)]
  exact he p

theorem onlyDies_choosePath (plane peer : Nat) (s : State) : OnlyDies s (choosePath plane peer s).2 := by
  unfold choosePath
  dsimp only
  split <;> rfl

theorem onlyDies_requestPath (d plane peer line : Nat) (s : State) : OnlyDies s (requestPath d plane peer line s).2 := by
  unfold requestPath
  split
  · rfl
  · exact onlyDies_choosePath _ _ s

theorem onlyDies_sendWithDeps (d : Nat) (kind : Instr) (m : Msg) (n : Nat) (deps : List (Nat × Word)) (s : State) :
    OnlyDies s (sendWithDeps d kind m n deps s) := by
  have hone (kind : Instr) (m : Msg) (deps : List (Nat × Word)) (s : State) : OnlyDies s (enqueueMsg d kind m deps s) :=
    onlyDies_setDie s d _
  induction n generalizing deps s with
  | zero => exact hone kind m deps s
  | succ n ih =>
    rw [sendWithDeps]
    split
    · exact hone kind m deps s
    · exact (hone _ _ _ s).trans (ih _ _)

theorem onlyDies_sendOn (he : Extended s) (d : Nat) (kind : Instr) (m : Msg) : OnlyDies s (sendOn d kind m s) := by
  rw [sendOn, he, if_neg Bool.false_ne_true]
  exact onlyDies_sendWithDeps d kind m 32 _ s

theorem onlyDies_departOn (he : Extended s) (d : Nat) (kind : Instr) (m : Msg) : OnlyDies s (departOn d kind m s) := by
  unfold departOn
  dsimp only
  cases isRequest kind with
  | false =>
    simp only [Bool.false_and, Bool.false_eq_true, if_false]
    have hpath := onlyDies_choosePath (s.planeOf m.va) (m.dest / 2) s
    exact hpath.trans (onlyDies_sendOn (hpath.extended he) d kind _)
  | true =>
    simp only [if_true, Bool.true_and]
    generalize (s.dieAt d).out ++ [_] = out
    have hout := onlyDies_setDie s d { s.dieAt d with out }
    rw [hout.extended he, if_neg Bool.false_ne_true]
    exact hout.trans (onlyDies_sendOn (hout.extended he) d kind _)

theorem onlyDies_submit (he : Extended s) (d : Nat) (kind : Instr) (m : Msg) : OnlyDies s (submit d kind m s) := by
  unfold submit
  split
  · exact onlyDies_setDie s d _
  · rw [depart, State.notTaken, he, Bool.and_false, if_neg Bool.false_ne_true, Bool.and_false, if_neg Bool.false_ne_true]
    exact onlyDies_departOn he d kind m

/-! A version's first message to a peer is noted in its entry (R256), which what versions see does not depend on. -/

/-- Two version tables give every version the same state and the same parent. -/
def SameTree (m n : Map Version) : Prop := ∀ v, (mapGet {} n v).st = (mapGet {} m v).st ∧ (mapGet {} n v).parent = (mapGet {} m v).parent

theorem lineage_sameTree (h : SameTree s.vers.tab t.vers.tab) (n v : Nat) : t.lineage n v = s.lineage n v := by
  induction n generalizing v with
  | zero => rfl
  | succ n ih =>
    obtain ⟨hst, hparent⟩ := h v
    rw [State.lineage, State.ver, hst, hparent, ih, State.lineage, State.ver]

theorem sameTree_states {m n : Map Version} (h : SameTree m n) (old : List (Nat × VSt)) :
    SameTree (old.foldl (fun m e => mapSet m e.1 { mapGet {} m e.1 with st := e.2 }) m)
      (old.foldl (fun m e => mapSet m e.1 { mapGet {} m e.1 with st := e.2 }) n) := by
  induction old generalizing m n with
  | nil => exact h
  | cons e old ih =>
    refine ih fun v => ?_
    rw [mapGet_mapSet, mapGet_mapSet]
    split
    · exact ⟨rfl, (h e.1).2⟩
    · exact h v

theorem sameBytes_setVer_peers (v : Nat) (x : DWord) (s : State) : SameBytes s (s.setVer v { s.ver v with peers := x }) := by
  have htree : SameTree s.vers.tab (s.setVer v { s.ver v with peers := x }).vers.tab := by
    intro w
    rw [State.setVer]
    dsimp only
    rw [mapGet_mapSet]
    split
    next h => exact h ▸ ⟨rfl, rfl⟩
    · exact ⟨rfl, rfl⟩
  have hseen (l w : Nat) : ((s.setVer v { s.ver v with peers := x }).seenAt l).ancestors w = (s.seenAt l).ancestors w := by
    refine lineage_sameTree ?_ 256 w
    unfold State.seenAt
    have hlag : (s.setVer v { s.ver v with peers := x }).vers.lag = s.vers.lag := rfl
    rw [hlag]
    split
    · exact htree
    · split
      · exact sameTree_states htree _
      · exact htree
  intro w a
  rw [State.viewByte, State.seenCopy, hseen]
  rfl

/-- The buffer of core `k` and every byte stand, whatever has been sent. -/
structure KeepsBuffer (k : Nat) (s t : State) : Prop where
  sel : t.sel = s.sel
  wc : (t.coreAt k).wc = (s.coreAt k).wc
  bytes : SameBytes s t

theorem KeepsBuffer.trans (h : KeepsBuffer k s t) (g : KeepsBuffer k t u) : KeepsBuffer k s u :=
  ⟨g.sel.trans h.sel, g.wc.trans h.wc, fun v a => (g.bytes v a).trans (h.bytes v a)⟩

theorem OnlyDies.keepsBuffer (h : OnlyDies s t) (k : Nat) : KeepsBuffer k s t where
  sel := (congrArg State.sel h :)
  wc := by
    rw [State.coreAt, (congrArg State.cores h :)]
    rfl
  bytes := viewByte_congr (congrArg State.mem h :) (congrArg State.copies h :) (congrArg State.vers h :)

theorem keepsBuffer_versionFields (k v peer : Nat) (m : Msg) (s : State) : KeepsBuffer k s (versionFields v peer m s).2 := by
  unfold versionFields
  split
  · exact ⟨rfl, rfl, fun _ _ => rfl⟩
  · exact ⟨rfl, rfl, sameBytes_setVer_peers v _ s⟩

theorem keepsBuffer_modTag (k g : Nat) (x : BitVec 2) (f : RTagState → RTagState) (s : State) : KeepsBuffer k s (modTag k g x f s) := by
  refine ⟨rfl, ?_, viewByte_congr rfl rfl rfl⟩
  rw [modTag, State.setGroupAt, State.coreAt_setCore]

theorem keepsBuffer_sendWrite (he : Extended s) (k g peer : Nat) (m : Msg) (v : Nat) (tag : BitVec 2) :
    KeepsBuffer k s (sendWrite k g peer m v tag s).2 := by
  have hpath := onlyDies_requestPath (dieOf k) (s.planeOf m.va) peer (m.va / 128) s
  have he' := hpath.extended he
  refine (hpath.keepsBuffer k).trans ?_
  unfold sendWrite
  dsimp only
  generalize (requestPath (dieOf k) (s.planeOf m.va) peer (m.va / 128) s).1 = path
  generalize (requestPath (dieOf k) (s.planeOf m.va) peer (m.va / 128) s).2 = w at he' ⊢
  unfold sendWriteOn
  simp only [he' _, if_neg Bool.false_ne_true]
  generalize ({ m with origin := w.iota (dieOf k), dest := 2 * peer + w.planeOf m.va / 2, tag := tag,
                       srcGrp := 256 * k + g, path } : Msg) = m'
  have hfields := keepsBuffer_versionFields k v peer m' w
  have hsends := (sends_versionFields (dieOf k) v peer m' w).1
  generalize (versionFields v peer m' w).2 = x at hfields hsends ⊢
  refine hfields.trans ((keepsBuffer_modTag k g tag _ x).trans ((onlyDies_submit ?_ _ _ _).keepsBuffer k))
  exact (sends_modTag (dieOf k) k g tag _ x).extended (hsends.extended he')

/-! ### A write-combining entry that ages -/

/-- The message of an entry. -/
def entryMsg (w : WcEntry) : Msg :=
  { asn := w.asn, va := 128 * w.line, bytes := w.data.map fun c => (128 * w.line + c.1, c.2), size := 128, ack := w.ack }

/-- Entries are sent one after another. -/
theorem sends_entries (k : Nat) (ws : List WcEntry) (he : Extended s) : ∃ a b,
    Sends (dieOf k) s (ws.foldl (fun t w => sendWcEntry k w t) s) a b ∧ KeepsBuffer k s (ws.foldl (fun t w => sendWcEntry k w t) s) ∧
      ∀ w ∈ ws, ∃ m, (Instr.remoteWrite, m) ∈ a ++ b ∧ WriteOnItsWay (entryMsg w) m k w.grp w.peer w.vid w.tag := by
  induction ws generalizing s with
  | nil => exact ⟨[], [], .refl _ s, ⟨rfl, rfl, fun _ _ => rfl⟩, fun _ h => absurd h List.not_mem_nil⟩
  | cons w ws ih =>
    obtain ⟨-, a, b, hs, m, hway, hmem, -⟩ := sends_sendWrite he k w.grp w.peer (entryMsg w) w.vid w.tag
    have hkeeps := keepsBuffer_sendWrite he k w.grp w.peer (entryMsg w) w.vid w.tag
    obtain ⟨a', b', hs', hkeeps', hall⟩ := ih (hs.extended he)
    refine ⟨a ++ a', b ++ b', hs.trans hs', hkeeps.trans hkeeps', fun x hx => ?_⟩
    rcases List.mem_cons.1 hx with rfl | hx
    · refine ⟨m, ?_, hway⟩
      rcases List.mem_append.1 hmem with h | h
      · exact List.mem_append_left _ (List.mem_append_left _ h)
      · exact List.mem_append_right _ (List.mem_append_left _ h)
    · obtain ⟨m, hm, hway⟩ := hall x hx
      refine ⟨m, ?_, hway⟩
      rcases List.mem_append.1 hm with h | h
      · exact List.mem_append_left _ (List.mem_append_right _ h)
      · exact List.mem_append_right _ (List.mem_append_right _ h)

/-- An entry of a buffer leaves with `w`: it shares the peer and the line (R206). -/
def leavesWith (ws : List WcEntry) (w e : WcEntry) : Bool :=
  ws.any fun f => f == w && decide (f.peer = e.peer) && decide (f.line = e.line)

theorem leavesWith_of_line {ws : List WcEntry} {w e : WcEntry} (h : w ∈ ws) (hp : e.peer = w.peer) (hl : e.line = w.line) :
    leavesWith ws w e = true := List.any_eq_true.2 ⟨w, h, by simp [hp, hl]⟩

/-- The package once the entries that leave with `w` are out of the buffer. -/
def withoutEntries (w : WcEntry) (s : State) : State :=
  s.setCore s.sel.core { s.core with wc := s.core.wc.filter fun e => !leavesWith s.core.wc w e }

theorem exec_wcAgeExpiry {w : WcEntry} (hw : s.core.wc[s.sel.idx]? = some w) (haged : wcAged s s.sel.core w = true) :
    exec .wcAgeExpiry s = .next ((s.core.wc.filter (leavesWith s.core.wc w)).foldl
      (fun t e => sendWcEntry s.sel.core e t) (withoutEntries w s)) := by
  change execWcAgeExpiry s = _
  rw [execWcAgeExpiry, agentStep]
  simp only [hw, haged, if_true]
  rfl

theorem wcAgeExpiry_answers {w : WcEntry} (hw : s.core.wc[s.sel.idx]? = some w) (haged : wcAged s s.sel.core w = true)
    (he : Extended s) : ∃ t, exec .wcAgeExpiry s = .next t ∧ SameBytes s t ∧
      (∀ x ∈ t.core.wc, x ∈ s.core.wc ∧ ¬ (x.peer = w.peer ∧ x.line = w.line)) ∧
      ∃ p ∈ (t.dieAt (dieOf s.sel.core)).egress ++ (t.dieAt (dieOf s.sel.core)).waiting, p.1 = .remoteWrite ∧
        p.2.va = 128 * w.line ∧ p.2.dest / 2 = w.peer ∧ p.2.asn = w.asn ∧ p.2.tag = w.tag ∧ p.2.vid = w.vid ∧
        p.2.ack = w.ack ∧ p.2.bytes = w.data.map fun c => (128 * w.line + c.1, c.2) := by
  have hmem : w ∈ s.core.wc := List.mem_of_getElem? hw
  have hu : Extended (withoutEntries w s) := he
  obtain ⟨a, b, hs, hkeeps, hall⟩ := sends_entries s.sel.core (s.core.wc.filter (leavesWith s.core.wc w)) hu
  obtain ⟨m, hm, hway⟩ := hall w (List.mem_filter.2 ⟨hmem, leavesWith_of_line hmem rfl rfl⟩)
  have hsame := hway.same
  refine ⟨_, exec_wcAgeExpiry hw haged,
    fun v a => (hkeeps.bytes v a).trans (viewByte_congr (s := s) (t := withoutEntries w s) rfl rfl rfl v a), fun x hx => ?_,
    (.remoteWrite, m), ?_, rfl, (congrArg Msg.va hsame :), hway.dest, (congrArg Msg.asn hsame :), hway.tag, hway.vid,
    (congrArg Msg.ack hsame :), (congrArg Msg.bytes hsame :)⟩
  · have hsel : (withoutEntries w s).sel = s.sel := rfl
    rw [State.core, hkeeps.sel, hsel, hkeeps.wc, withoutEntries, State.coreAt_setCore] at hx
    obtain ⟨hx, hnot⟩ := List.mem_filter.1 hx
    exact ⟨hx, fun ⟨h1, h2⟩ => by rw [leavesWith_of_line hmem h1 h2] at hnot; exact absurd hnot (by decide)⟩
  · rw [hs.egress, hs.waiting]
    rcases List.mem_append.1 hm with h | h
    · exact List.mem_append_left _ (List.mem_append_right _ h)
    · exact List.mem_append_right _ (List.mem_append_right _ h)

end

/-- Settles O23: what each answer leaves, clause by clause. -/
theorem answersReachTheCore : Obligations.AnswersReachTheCore := by
  unfold Obligations.AnswersReachTheCore
  exact ⟨⟨fun _ _ h hdone => loadReply_answers h hdone, fun _ _ hr hdue => storeAcknowledgement_answers hr hdue,
      fun _ _ hw haged he => wcAgeExpiry_answers hw haged he⟩,
    fun _ hfree hq hw hafter _ => lamportAnnounce_answers hfree hq hw hafter,
    fun _ _ _ hn hv hheard => lamportAnnounceReceive_answers hn hv hheard,
    fun _ hlive hflag => coreStorageError_answers hlive hflag⟩

end Sys2Proof.Proofs
end

section
/-!
Room in the L2 and the spill area (R80) does not depend on the cores: what the home slices do for a store is the same whatever
the cores hold.
-/

namespace Sys2Proof.Proofs

open Sys2Proof.Machine Sys2Proof.Statements

section
variable {s : State} (cs : Map Core)

/-- The package with other cores. -/
def withCores (cs : Map Core) (s : State) : State := { s with cores := cs }

theorem copyOf_withCores (l v : Nat) : (withCores cs s).copyOf l v = s.copyOf l v := rfl

theorem seenCopy_withCores (l v : Nat) : (withCores cs s).seenCopy l v = s.seenCopy l v := by
  rw [State.seenCopy, ancestors_congr (s := s) (t := withCores cs s) rfl, State.seenCopy]
  rfl

theorem freeSlots_withCores (l : List LineCopy) (s : State) :
    l.foldl (fun t c => freeSlot c.spilled t) (withCores cs s) = withCores cs (l.foldl (fun t c => freeSlot c.spilled t) s) := by
  induction l generalizing s with
  | nil => rfl
  | cons c l ih =>
    have hone : freeSlot c.spilled (withCores cs s) = withCores cs (freeSlot c.spilled s) := by
      cases c.spilled <;> rfl
    rw [List.foldl_cons, hone, ih, List.foldl_cons]

theorem dropCopies_withCores (p : LineCopy → Bool) (s : State) : dropCopies p (withCores cs s) = withCores cs (dropCopies p s) := by
  have hcopies : (withCores cs s).copies = s.copies := rfl
  rw [dropCopies, hcopies, freeSlots_withCores]
  rfl

theorem l2Leave_withCores (e : L2Line) (s : State) : l2Leave e (withCores cs s) = withCores cs (l2Leave e s) := by
  have hleave (u : State) : l2Leave e u = if e.vid = 0
      then { u with l2 := u.l2.filter fun x => !(decide (x.line = e.line) && decide (x.vid = e.vid)) }
      else match u.copyOf e.line e.vid, u.spillSlot e.line e.vid with
        | some c, some k => spillOut c k { u with l2 := u.l2.filter fun x => !(decide (x.line = e.line) && decide (x.vid = e.vid)) }
        | _, _ => { u with l2 := u.l2.filter fun x => !(decide (x.line = e.line) && decide (x.vid = e.vid)) } := rfl
  have hslot : (withCores cs s).spillSlot e.line e.vid = s.spillSlot e.line e.vid := rfl
  rw [hleave, hleave, copyOf_withCores, hslot]
  split
  · rfl
  · split <;> rfl

theorem l2Take_withCores (e : L2Line) (s : State) : l2Take e (withCores cs s) = withCores cs (l2Take e s) := by
  have hfar : (withCores cs s).ownedFar e.line = s.ownedFar e.line := rfl
  have hat : (withCores cs s).l2At e.line e.vid = s.l2At e.line e.vid := rfl
  have hvictims : (withCores cs s).l2Victims e.line e.vid = s.l2Victims e.line e.vid := rfl
  have hvictim : (withCores cs s).l2Victim e.line e.vid = s.l2Victim e.line e.vid := rfl
  have hcan : (withCores cs s).canLeave = s.canLeave := rfl
  unfold l2Take
  rw [hfar, hat, hvictims, hvictim, hcan]
  split
  · rfl
  · split
    · rfl
    · split
      · rfl
      · split
        · rw [l2Leave_withCores]
          rfl
        · split
          · rw [l2Leave_withCores]
            rfl
          · rfl

theorem settle_withCores (l : Nat) (s : State) : settle l (withCores cs s) = withCores cs (settle l s) := by
  cases h : s.newestCommitted l with
  | none =>
    rw [settle_self h, settle_self ((newestCommitted_of_copies (s := s) (t := withCores cs s) rfl rfl l).trans h)]
  | some c =>
    have h' := (newestCommitted_of_copies (s := s) (t := withCores cs s) rfl rfl l).trans h
    have hsettle (u : State) (hu : u.newestCommitted l = some c) : settle l u = l2Take
        { line := l, valid := 15, dirty := BitVec.allOnes 128, cls := ((u.l2At l c.vid).map (·.cls)).getD 0 } (settledWith l c u) := by
      rw [settle, hu]
      rfl
    have hcommitted : committedAt (withCores cs s) l = committedAt s l := committedAt_congr (s := s) (t := withCores cs s) rfl l
    rw [hsettle _ h, hsettle _ h', settledWith, hcommitted]
    exact (congrArg _ (dropCopies_withCores cs (committedAt s l)
      { s with mem := memSetAll s.mem (atAddr (128 * l) ((List.range 128).map fun i => memGet c.bytes i)) })).trans
      (l2Take_withCores cs _ _)

theorem countCorrected_withCores (as : List Nat) (s : State) :
    countCorrected as (withCores cs s) = withCores cs (countCorrected as s) := by
  have hweak : (withCores cs s).weakSectors = s.weakSectors := rfl
  unfold countCorrected
  rw [hweak]
  clear hweak
  generalize as.filter _ = l
  induction l generalizing s with
  | nil => rfl
  | cons a l ih =>
    exact ih { s with corrected := mapSet s.corrected (a / 2 ^ 41) (mapGet 0 s.corrected (a / 2 ^ 41) + 1) }

theorem noteLine_withCores (v l : Nat) (need : BitVec 4) (cls : Nat) (s : State) :
    noteLine v l need cls (withCores cs s) = withCores cs (noteLine v l need cls s) := by
  have hat (v : Nat) : (withCores cs s).l2At l v = s.l2At l v := rfl
  have hfill : (withCores cs s).toFill l need = s.toFill l need := rfl
  unfold noteLine
  rw [seenCopy_withCores]
  split
  · rw [hat]
    split
    · exact l2Take_withCores cs _ s
    · rfl
  · rw [hat, hfill, countCorrected_withCores]
    exact l2Take_withCores cs _ _

theorem unspill_withCores (l v : Nat) (s : State) : unspill l v (withCores cs s) = withCores cs (unspill l v s) := by
  unfold unspill
  rw [copyOf_withCores]
  split
  · rfl
  next c _ => cases c.spilled <;> rfl

theorem roomFor_withCores (l v : Nat) (s : State) : (withCores cs s).roomFor l v = s.roomFor l v := rfl

theorem storeRoom_withCores (l v cls : Nat) (s : State) : (withCores cs s).storeRoom l v cls = s.storeRoom l v cls := by
  have hat : (withCores cs s).l2At l v = s.l2At l v := rfl
  have hfar : (withCores cs s).ownedFar l = s.ownedFar l := rfl
  have hfull : (withCores cs s).spillFull = s.spillFull := rfl
  have hyoungest : (withCores cs s).youngest = s.youngest := rfl
  have hver : (withCores cs s).ver v = s.ver v := rfl
  unfold State.storeRoom
  simp only [hat, hfar, hfull, hyoungest, hver, settle_withCores, unspill_withCores, noteLine_withCores, seenCopy_withCores,
    copyOf_withCores, roomFor_withCores]

end
end Sys2Proof.Proofs
end

section
/-!
The checks of a memory word (R120, R121, R370): what they say of one lane, and where the word stops or waits.
-/

namespace Sys2Proof.Proofs

open Sys2Proof.Machine Sys2Proof.Statements

/-! ### An access as the memory unit takes it -/

/-- The operation that a word's access asks the memory unit for. -/
def accessOp (m : Access) (log : Nat) (ext : Word) : MemOp :=
  { kind := m.kind, sz := m.sz, n := m.n, d := m.d, a := m.a, r := m.r, ord := m.ord, scope := m.scope, policy := m.policy,
    cbyp := m.bypass, func := m.func, log, ext }

/-- A relaxed word is a `plainMem` of its row. -/
theorem exec_relaxedTable {e : (LMem → Instr) × ReqKind × Nat × Nat} (he : e ∈ relaxedTable) :
    ∃ log, ∀ (s : State) (f : LMem), exec (e.1 f) s = plainMem (e.1 f) e.2.1 e.2.2.1 e.2.2.2 log f s := by
  simp only [relaxedTable, List.mem_cons, List.not_mem_nil, or_false] at he
  rcases he with rfl | rfl | rfl | rfl | rfl | rfl | rfl | rfl | rfl | rfl
  exacts [⟨0, fun _ _ => rfl⟩, ⟨1, fun _ _ => rfl⟩, ⟨2, fun _ _ => rfl⟩, ⟨3, fun _ _ => rfl⟩, ⟨4, fun _ _ => rfl⟩,
    ⟨0, fun _ _ => rfl⟩, ⟨0, fun _ _ => rfl⟩, ⟨0, fun _ _ => rfl⟩, ⟨0, fun _ _ => rfl⟩, ⟨0, fun _ _ => rfl⟩]

/-- A word with an extension word is an `extMem` of its row. -/
theorem exec_orderedTable {e : (LMemX → Instr) × ReqKind × Nat × Nat × Nat} (he : e ∈ orderedTable) :
    ∃ log op fn, ∀ (s : State) (f : LMemX),
      exec (e.1 f) s = extMem (e.1 f) e.2.1 e.2.2.1 e.2.2.2.1 log op e.2.2.2.2 fn f s := by
  simp only [orderedTable, List.mem_cons, List.not_mem_nil, or_false] at he
  rcases he with rfl | rfl | rfl | rfl | rfl | rfl | rfl | rfl | rfl | rfl | rfl | rfl | rfl | rfl | rfl | rfl | rfl | rfl |
    rfl | rfl | rfl | rfl | rfl | rfl
  exacts [⟨0, 0x70, 0, fun _ _ => rfl⟩, ⟨1, 0x71, 0, fun _ _ => rfl⟩, ⟨2, 0x72, 0, fun _ _ => rfl⟩,
    ⟨3, 0x73, 0, fun _ _ => rfl⟩, ⟨4, 0x74, 0, fun _ _ => rfl⟩, ⟨0, 0x75, 0, fun _ _ => rfl⟩, ⟨0, 0x76, 0, fun _ _ => rfl⟩,
    ⟨0, 0x77, 0, fun _ _ => rfl⟩, ⟨0, 0x78, 0, fun _ _ => rfl⟩, ⟨0, 0x79, 0, fun _ _ => rfl⟩, ⟨5, 0x7A, 0, fun _ _ => rfl⟩,
    ⟨5, 0x7A, 1, fun _ _ => rfl⟩, ⟨5, 0x7A, 2, fun _ _ => rfl⟩, ⟨5, 0x7A, 3, fun _ _ => rfl⟩, ⟨5, 0x7A, 4, fun _ _ => rfl⟩,
    ⟨5, 0x7A, 5, fun _ _ => rfl⟩, ⟨5, 0x7A, 6, fun _ _ => rfl⟩, ⟨5, 0x7A, 7, fun _ _ => rfl⟩, ⟨5, 0x7A, 8, fun _ _ => rfl⟩,
    ⟨5, 0x7A, 9, fun _ _ => rfl⟩, ⟨5, 0x7A, 10, fun _ _ => rfl⟩, ⟨6, 0x7B, 0, fun _ _ => rfl⟩, ⟨6, 0x7B, 1, fun _ _ => rfl⟩,
    ⟨6, 0x7B, 2, fun _ _ => rfl⟩]

section
variable {s : State}

/-- A relaxed word that can run issues its access. -/
theorem exec_relaxed {e : (LMem → Instr) × ReqKind × Nat × Nat} (he : e ∈ relaxedTable) {f : LMem}
    (hc : CanRun s 1 (f.refs e.2.2.2 s.group)) : ∃ log ext, exec (e.1 f) s =
      .next (memIssue (e.1 f) (accessOp (relaxedAccess s e.2 f) log ext) (relaxedAccess s e.2 f).act 1 s) := by
  obtain ⟨log, hlog⟩ := exec_relaxedTable he
  refine ⟨log, 0, (hlog s f).trans ?_⟩
  rw [plainMem]
  exact run_ok hc

/-- A word with an extension word that can run issues its access; a cached bypass is privileged (R42). -/
theorem exec_ordered {e : (LMemX → Instr) × ReqKind × Nat × Nat × Nat} (he : e ∈ orderedTable) {f : LMemX}
    (hc : CanRun s 2 (f.refs e.2.2.2.1 s.group)) (hb : f.cbyp = 1 → s.group.priv = true) : ∃ log ext, exec (e.1 f) s =
      .next (memIssue (e.1 f) (accessOp (orderedAccess s e.2 f) log ext) (orderedAccess s e.2 f).act 2 s) := by
  obtain ⟨log, op, fn, hlog⟩ := exec_orderedTable he
  refine ⟨log, (encMemX op fn f).getD 1 0, (hlog s f).trans ?_⟩
  have hpriv : (f.cbyp != 1 || s.group.priv) = true := by
    by_cases h : f.cbyp = 1
    · rw [hb h, Bool.or_true]
    · rw [bne_iff_ne.2 h, Bool.true_or]
  rw [extMem, hpriv]
  exact run_ok hc

theorem relaxedAccess_kind {e : (LMem → Instr) × ReqKind × Nat × Nat} (he : e ∈ relaxedTable) (f : LMem) :
    (relaxedAccess s e.2 f).kind = .load ∨ (relaxedAccess s e.2 f).kind = .store := by
  change e.2.1 = _ ∨ e.2.1 = _
  exact (by decide : ∀ k ∈ relaxedTable.map (·.2.1), k = .load ∨ k = .store) _ (List.mem_map_of_mem he)

end

/-! ### One lane's checks -/

section
variable {s : State} {m : Access} {log : Nat} {ext : Word} {l : Nat}

/-- The lane passes the checks of its space but for its page: it lies in its allotment or lease, or in the register window. -/
def LanePasses (m : Access) (s : State) (l : Nat) : Prop :=
  if m.space s = 1 ∨ m.space s = 2 then m.Allotted s l
  else (m.space s = 0 ∧ inWindow (m.addr s l) = true) ∨ m.Leased s l

theorem laneCheck_clips (h : m.Clips s l) : laneCheck s (accessOp m log ext) (m.record s) l = .clip := by
  unfold laneCheck
  dsimp only
  rcases h with h | h
  · exact if_pos h
  · split
    · rfl
    · exact if_pos h

/-- Past the clips, the space decides. -/
theorem laneCheck_unclipped (h : ¬ m.Clips s l) : laneCheck s (accessOp m log ext) (m.record s) l =
    if m.space s = 1 ∨ m.space s = 2 then
      match outsideAllotment (s.block.allotment (m.space s)) (m.addr s l) m.sz with
      | some a => .fail 0x11 (a % 2 ^ 32 + 2 ^ 32 * m.space s)
      | none => .go (m.addr s l) (swizzle (recSwz (m.record s)) (m.off s l))
    else if m.space s = 0 ∧ inWindow (m.addr s l) then .go (m.addr s l) (swizzle (recSwz (m.record s)) (m.off s l))
    else match s.grid.firstRefused (m.kind != .load) (m.addr s l) m.sz with
      | some a => .fail 0x10 a
      | none => .go (m.addr s l) (swizzle (recSwz (m.record s)) (m.off s l)) := by
  obtain ⟨hext, halign⟩ := not_or.1 h
  unfold laneCheck
  dsimp only
  refine (if_neg hext).trans ((if_neg halign).trans ?_)
  rfl

theorem outsideAllotment_none (h : m.space s = 1 ∨ m.space s = 2) :
    outsideAllotment (s.block.allotment (m.space s)) (m.addr s l) m.sz = none ↔ m.Allotted s l := by
  unfold outsideAllotment Block.allotment Access.Allotted
  rcases h with h | h
  all_goals
    rw [h]
    simp only [if_true, if_neg (show ¬ (1 = 2) by decide), if_neg (show ¬ (2 = 1) by decide)]
    split
    · simp only [reduceCtorEq, false_iff]
      omega
    · split
      · simp only [reduceCtorEq, false_iff]
        omega
      · simp only [true_iff]
        omega

theorem firstRefused_none (g : Grid) (write : Bool) (va n : Nat) : g.firstRefused write va n = none ↔
    ∀ i, i < n → va + i < 2 ^ 57 ∧ g.permits write (va + i) = true := by
  simp [Grid.firstRefused, Nat.add_comm va]

/-- The first byte of a lane that its lease refuses is the lane's failure. -/
theorem firstRefused_eq {g : Grid} {write : Bool} {va n i a : Nat} (hi : i < n)
    (hbefore : ∀ j, j < i → va + j < 2 ^ 57 ∧ g.permits write (va + j) = true)
    (hfails : ¬ (va + i < 2 ^ 57 ∧ g.permits write (va + i) = true)) (h : g.firstRefused write va n = some a) : a = va + i := by
  have hok (j : Nat) : (!(decide (j + va < 2 ^ 57) && g.permits write (j + va))) = false ↔
      va + j < 2 ^ 57 ∧ g.permits write (va + j) = true := by
    rw [Nat.add_comm j, Bool.not_eq_false', Bool.and_eq_true, decide_eq_true_iff]
  rw [Grid.firstRefused, List.find?_map, Option.map_eq_some_iff] at h
  obtain ⟨k, hk, rfl⟩ := h
  obtain ⟨hkfail, -, hkfirst⟩ := List.find?_range_eq_some.1 hk
  rcases Nat.lt_trichotomy k i with hlt | rfl | hlt
  · exact absurd hkfail (ne_true_of_eq_false ((hok k).2 (hbefore k hlt)))
  · exact Nat.add_comm k va
  · have hi := hkfirst i hlt
    rw [Bool.not_eq_true'] at hi
    exact absurd ((hok i).1 hi) hfails

theorem laneCheck_passes (h : ¬ m.Clips s l) (hp : LanePasses m s l) : laneCheck s (accessOp m log ext) (m.record s) l =
    .go (m.addr s l) (swizzle (recSwz (m.record s)) (m.off s l)) := by
  rw [laneCheck_unclipped h]
  unfold LanePasses at hp
  split
  next hs =>
    rw [if_pos hs] at hp
    rw [(outsideAllotment_none hs).2 hp]
  next hs =>
    rw [if_neg hs] at hp
    split
    · rfl
    next hw => rw [(firstRefused_none _ _ _ _).2 (hp.resolve_left hw)]

/-- A lane that does not pass fails with the fault of its space. -/
theorem laneCheck_fails (h : ¬ m.Clips s l) (hp : ¬ LanePasses m s l) : ∃ code detail,
    laneCheck s (accessOp m log ext) (m.record s) l = .fail code detail ∧
    (m.space s = 1 ∨ m.space s = 2 → code = 0x11 ∧ BitVec.ofNat 64 detail = m.allotmentDetail s l) ∧
    (m.space s ≠ 1 → m.space s ≠ 2 → code = 0x10 ∧ s.grid.firstRefused (m.kind != .load) (m.addr s l) m.sz = some detail) := by
  rw [laneCheck_unclipped h]
  unfold LanePasses at hp
  split
  next hs =>
    rw [if_pos hs] at hp
    have hout := mt (outsideAllotment_none hs).1 hp
    cases ha : outsideAllotment (s.block.allotment (m.space s)) (m.addr s l) m.sz with
    | none => exact absurd ha hout
    | some a =>
      refine ⟨_, _, rfl, fun _ => ⟨rfl, ?_⟩, fun h1 h2 => absurd hs (not_or.2 ⟨h1, h2⟩)⟩
      have hlim : s.block.allotment (m.space s) = (if m.space s = 1 then 0 else 64512 * s.block.slots,
          if m.space s = 1 then s.block.sharedSize else 64512 * s.block.slots + s.block.tileBytes) := by
        rcases hs with h | h <;> rw [h] <;> rfl
      rw [hlim] at ha
      unfold outsideAllotment at ha
      unfold Access.allotmentDetail
      dsimp only at ha ⊢
      generalize (if m.space s = 1 then 0 else 64512 * s.block.slots) = lo at ha ⊢
      generalize (if m.space s = 1 then s.block.sharedSize else 64512 * s.block.slots + s.block.tileBytes) = hi at ha ⊢
      split at ha
      next hlt => rw [if_pos hlt, ← Option.some.inj ha]
      next hge =>
        split at ha
        · rw [if_neg hge, ← Option.some.inj ha]
        · exact absurd ha (by simp)
  next hs =>
    rw [if_neg hs, not_or] at hp
    rw [if_neg hp.1]
    have hout := mt (firstRefused_none s.grid (m.kind != .load) (m.addr s l) m.sz).1 hp.2
    cases ha : s.grid.firstRefused (m.kind != .load) (m.addr s l) m.sz with
    | none => exact absurd ha hout
    | some a => exact ⟨_, _, rfl, fun h => absurd h hs, fun _ _ => ⟨rfl, rfl⟩⟩

end
end Sys2Proof.Proofs
end

section
/-!
A memory word as a whole (R120-R122): what its lanes' checks make of it, and where it stops or waits.
-/

namespace Sys2Proof.Proofs

open Sys2Proof.Machine Sys2Proof.Statements

/-! ### The word in parts -/

/-- The checks of the active lanes, in lane order. -/
def laneChecks (s : State) (o : MemOp) (act : Lanes) : List (Nat × LaneChk) :=
  (laneList act).map fun l => (l, laneCheck s o (s.group.dAt o.r) l)

def laneFails (c : Nat × LaneChk) : Bool := match c.2 with
  | .fail _ _ => true
  | _ => false

/-- The lanes that a word flags, and those that go, with their addresses and offsets. -/
def clippedLanes (cs : List (Nat × LaneChk)) : List Nat := cs.filterMap fun c => match c.2 with
  | .clip => some c.1
  | _ => none
def goingLanes (cs : List (Nat × LaneChk)) : List (Nat × Nat × Nat) := cs.filterMap fun c => match c.2 with
  | .go a o => some (c.1, a, o)
  | _ => none

/-- The space's addresses are mapped by pages, and an address of it lies in the register window. -/
def spaceMapped (s : State) (o : MemOp) : Bool := s.spaceOf (s.group.dAt o.r) = 0 || s.spaceOf (s.group.dAt o.r) = 4
def windowAddr (s : State) (o : MemOp) (a : Nat) : Bool := s.spaceOf (s.group.dAt o.r) = 0 && inWindow a

/-- The pages of some lanes, each once. -/
def pagesOf (s : State) (o : MemOp) (l : List (Nat × Nat × Nat)) : List Nat :=
  if spaceMapped s o then ((l.filter fun x => !windowAddr s o x.2.1).map fun x => vpnOf x.2.1).dedup else []

/-- The failure of the first lane that fails, its page's among them. -/
def wordFailure (s : State) (o : MemOp) (act : Lanes) (pages : List (Nat × Xlated)) : Option (Nat × Nat) :=
  (laneChecks s o act).findSome? (laneFailure o pages fun a => !spaceMapped s o || windowAddr s o a)

/-- A word of which a lane fails. -/
def failingWord (s : State) (o : MemOp) (act : Lanes) : State :=
  let x := translatePages s.sel.core s.group.asn (pagesOf s o (goingLanes (laneChecks s o act))) s
  match wordFailure s o act x.1 with
  | some f => accessFault f.1 f.2 x.2
  | none => x.2

/-- What follows the word's release: its pages are translated, and its lanes `go` act, or the word waits for room. -/
def issueStep (i : Instr) (o : MemOp) (act : Lanes) (words : Nat) (s : State) (bad : List Nat) (go : List (Nat × Nat × Nat))
    (u : State) : State :=
  let x := translatePages u.sel.core u.group.asn (pagesOf s o go) u
  match wordFailure s o act x.1 with
  | some f => accessFault f.1 f.2 x.2
  | none =>
    if roomLacks x.2 o x.1 ((go.filter fun x => spaceMapped s o && !windowAddr s o x.2.1).map (·.2.1)) then
      blockIn i 2 x.2.split.wdata x.2
    else advance words (memPerform o act (clippedLanes (laneChecks s o act)) bad go x.1 x.2)

/-- The mark of the word's block is ended where the word ends it. -/
def endsMark (o : MemOp) (s : State) : State := if o.endsIdem (s.spaceOf (s.group.dAt o.r)) then endIdem s else s

/-- The lanes that go out of a frozen or allowed core, and those that the window refuses. -/
def issueGo (s : State) (o : MemOp) (act : Lanes) : List (Nat × Nat × Nat) :=
  if windowRefused s o then (goingLanes (laneChecks s o act)).filter fun x => !windowAddr s o x.2.1 else goingLanes (laneChecks s o act)
def issueBad (s : State) (o : MemOp) (act : Lanes) : List Nat :=
  if windowRefused s o then ((goingLanes (laneChecks s o act)).filter fun x => windowAddr s o x.2.1).map (·.1) else []

section
variable {s u : State} {i : Instr} {o : MemOp} {act : Lanes} {words : Nat}

theorem memIssue_eq (i : Instr) (o : MemOp) (act : Lanes) (words : Nat) (s : State) : memIssue i o act words s =
    if o.kind != .store && s.group.freeLog.isNone then s
    else match groupCheck s o (s.group.dAt o.r) act with
      | some fault => fault s
      | none =>
        if (laneChecks s o act).any laneFails then failingWord s o act
        else if (goingLanes (laneChecks s o act)).any (fun x => windowAddr s o x.2.1) && o.kind == .store && s.group.vid ≠ 0 then
          privilegeViolation s
        else if scHeld s o (s.spaceOf (s.group.dAt o.r)) ||
            loadAhead s o (s.group.dAt o.r) ((goingLanes (laneChecks s o act)).map (·.2.1)) then s
        else releaseThen i (if (issueGo s o act).any fun x => windowAddr s o x.2.1 then 7
            else if o.ord = 2 ∨ o.ord = 3 then o.scope.toNat else 0)
          (issueStep i o act words s (issueBad s o act) (issueGo s o act)) (endsMark o s) := rfl

/-! ### Before the lanes' checks -/

/-- The operand log has a free entry for what the word is owed. -/
def logReady (o : MemOp) (s : State) : Prop := (o.kind != .store && s.group.freeLog.isNone) = false

theorem memIssue_waits_log (h : ¬ logReady o s) : memIssue i o act words s = s := by
  rw [memIssue_eq, if_pos (by rwa [logReady, Bool.not_eq_false] at h)]

theorem memIssue_groupCheck (h : logReady o s) {fault : State → State} (hg : groupCheck s o (s.group.dAt o.r) act = some fault) :
    memIssue i o act words s = fault s := by
  rw [memIssue_eq, if_neg (ne_true_of_eq_false h), hg]

theorem memIssue_fails (h : logReady o s) (hg : groupCheck s o (s.group.dAt o.r) act = none)
    (hf : (laneChecks s o act).any laneFails = true) : memIssue i o act words s = failingWord s o act := by
  rw [memIssue_eq, if_neg (ne_true_of_eq_false h), hg]
  exact if_pos hf

/-- Every lane passes or is clipped, and none lies in the register window. -/
structure AllPass (s : State) (o : MemOp) (act : Lanes) : Prop where
  log : logReady o s
  group : groupCheck s o (s.group.dAt o.r) act = none
  lanes : (laneChecks s o act).any laneFails = false
  window : ∀ x ∈ goingLanes (laneChecks s o act), windowAddr s o x.2.1 = false

theorem AllPass.go (h : AllPass s o act) : issueGo s o act = goingLanes (laneChecks s o act) := by
  unfold issueGo
  split
  · exact List.filter_eq_self.2 fun x hx => by rw [h.window x hx]; rfl
  · rfl

theorem AllPass.bad (h : AllPass s o act) : issueBad s o act = [] := by
  unfold issueBad
  split
  · rw [List.filter_eq_nil_iff.2 fun x hx => ne_true_of_eq_false (h.window x hx)]
    rfl
  · rfl

/-- A word of which no lane fails is held, or releases and then acts. -/
theorem AllPass.memIssue (h : AllPass s o act) : memIssue i o act words s =
    if scHeld s o (s.spaceOf (s.group.dAt o.r)) ||
        loadAhead s o (s.group.dAt o.r) ((goingLanes (laneChecks s o act)).map (·.2.1)) then s
    else releaseThen i (if o.ord = 2 ∨ o.ord = 3 then o.scope.toNat else 0)
      (issueStep i o act words s [] (goingLanes (laneChecks s o act))) (endsMark o s) := by
  have hnone : ((goingLanes (laneChecks s o act)).any fun x => windowAddr s o x.2.1) = false :=
    List.any_eq_false.2 fun x hx => ne_true_of_eq_false (h.window x hx)
  rw [memIssue_eq, if_neg (ne_true_of_eq_false h.log), h.group, h.go, h.bad, hnone]
  dsimp only
  rw [if_neg (ne_true_of_eq_false h.lanes), Bool.false_and, Bool.false_and, if_neg Bool.false_ne_true]
  simp only [Bool.false_eq_true, if_false]

/-! ### Pages that the core's TLB holds -/

theorem translatePages_found {k asn : Nat} {ps : List Nat} (h : ∀ p ∈ ps, ∃ e, tlbFind (s.coreAt k).tlb asn p = some e) :
    (translatePages k asn ps s).2 = s ∧ ∀ p ∈ ps, ∀ e, tlbFind (s.coreAt k).tlb asn p = some e →
      mapFind (translatePages k asn ps s).1 p = some (.ok e) := by
  induction ps with
  | nil => exact ⟨rfl, fun _ h => absurd h List.not_mem_nil⟩
  | cons q ps ih =>
    obtain ⟨x, hx⟩ := h q List.mem_cons_self
    obtain ⟨hstate, hfind⟩ := ih fun p hp => h p (List.mem_cons_of_mem _ hp)
    have hq : translate k asn q s = (.ok x, s) := by
      unfold Machine.translate
      rw [hx]
    rw [translatePages, hq]
    refine ⟨hstate, fun p hp e he => ?_⟩
    dsimp only
    rw [mapFind]
    split
    next hqp =>
      subst hqp
      rw [hx] at he
      rw [Option.some.inj he]
    next hqp => exact hfind p ((List.mem_cons.1 hp).resolve_left fun h => hqp h.symm) e he

/-! ### The first lane that fails -/

theorem mem_laneList {m : Lanes} {l : Nat} : l ∈ laneList m ↔ l < 48 ∧ laneIn m l = true := by
  rw [laneList, List.mem_filter, List.mem_range]

/-- Of the lanes the first for which `f` gives a value decides. -/
theorem findSome_laneList {α : Type} {f : Nat → Option α} {m : Lanes} {l : Nat} {x : α} (hl : l < 48) (hm : laneIn m l = true)
    (hx : f l = some x) (hbefore : ∀ j, j < l → laneIn m j = true → f j = none) : (laneList m).findSome? f = some x := by
  have hsorted : (laneList m).Pairwise (· < ·) := List.Pairwise.filter _ List.pairwise_lt_range
  obtain ⟨before, after, hsplit⟩ := List.append_of_mem (mem_laneList.2 ⟨hl, hm⟩)
  rw [hsplit] at hsorted ⊢
  refine List.findSome?_eq_some_iff.2 ⟨before, l, after, rfl, hx, fun j hj => ?_⟩
  have hjm : j ∈ laneList m := hsplit ▸ List.mem_append_left _ hj
  exact hbefore j ((List.pairwise_append.1 hsorted).2.2 j hj l List.mem_cons_self) (mem_laneList.1 hjm).2

end

/-! ### The checks in the statement's words -/

section
variable {s u : State} {i : Instr} {m : Access} {log : Nat} {ext : Word} {l : Nat} {words : Nat}

theorem logReady_of_room (h : m.Room s) : logReady (accessOp m log ext) s := by
  change (m.kind != .store && s.group.freeLog.isNone) = false
  rcases h with h | ⟨j, hj, hfree⟩
  · rw [h]
    rfl
  · have hsome : s.group.freeLog.isNone = false := by
      rw [Group.freeLog, Option.isNone_eq_false_iff, List.find?_isSome]
      exact ⟨j, List.mem_range.2 hj, by rw [hfree]; rfl⟩
    rw [hsome, Bool.and_false]

theorem not_logReady (h : ¬ m.Room s) : ¬ logReady (accessOp m log ext) s := by
  obtain ⟨hk, hfull⟩ := not_or.1 h
  intro hready
  have hready : (m.kind != .store && s.group.freeLog.isNone) = false := hready
  rw [bne_iff_ne.2 hk, Bool.true_and, Group.freeLog, Option.isNone_eq_false_iff, List.find?_isSome] at hready
  obtain ⟨j, hj, hfree⟩ := hready
  exact hfull ⟨j, List.mem_range.1 hj, Option.isNone_iff_eq_none.1 hfree⟩

theorem laneCheck_go_iff {a b : Nat} : laneCheck s (accessOp m log ext) (m.record s) l = .go a b ↔
    ¬ m.Clips s l ∧ LanePasses m s l ∧ a = m.addr s l ∧ b = swizzle (recSwz (m.record s)) (m.off s l) := by
  by_cases hc : m.Clips s l
  · simp [laneCheck_clips hc, hc]
  · by_cases hp : LanePasses m s l
    · simp [laneCheck_passes hc hp, hc, hp, eq_comm]
    · obtain ⟨code, detail, hf, -⟩ := laneCheck_fails (log := log) (ext := ext) hc hp
      simp [hf, hp]

theorem mem_goingLanes {x : Nat × Nat × Nat} : x ∈ goingLanes (laneChecks s (accessOp m log ext) m.act) ↔
    m.Goes s x.1 ∧ LanePasses m s x.1 ∧ x.2.1 = m.addr s x.1 ∧ x.2.2 = swizzle (recSwz (m.record s)) (m.off s x.1) := by
  obtain ⟨l, a, b⟩ := x
  have hstep : (l, a, b) ∈ goingLanes (laneChecks s (accessOp m log ext) m.act) ↔
      (l < 48 ∧ laneIn m.act l = true) ∧ laneCheck s (accessOp m log ext) (m.record s) l = .go a b := by
    rw [goingLanes, laneChecks, List.filterMap_map, List.mem_filterMap]
    constructor
    · rintro ⟨j, hj, h⟩
      simp only [Function.comp_apply] at h
      split at h
      next hgo =>
        obtain ⟨rfl, rfl, rfl⟩ := Option.some.inj h
        exact ⟨mem_laneList.1 hj, hgo⟩
      · exact absurd h (by simp)
    · rintro ⟨hl, hgo⟩
      have hgo : laneCheck s (accessOp m log ext) (s.group.dAt (accessOp m log ext).r) l = .go a b := hgo
      exact ⟨l, mem_laneList.2 hl, by simp [Function.comp_apply, hgo]⟩
  rw [hstep, laneCheck_go_iff]
  unfold Access.Goes
  tauto

/-- No lane fails where every lane that is not clipped passes. -/
theorem laneFails_none (h : ∀ l, m.Goes s l → LanePasses m s l) :
    (laneChecks s (accessOp m log ext) m.act).any laneFails = false := by
  refine List.any_eq_false.2 fun c hc => ?_
  obtain ⟨l, hl, rfl⟩ := List.mem_map.1 hc
  obtain ⟨hl, hact⟩ := mem_laneList.1 hl
  have hcheck : laneFails (l, laneCheck s (accessOp m log ext) (m.record s) l) = false := by
    by_cases hclip : m.Clips s l
    · rw [laneCheck_clips hclip]
      rfl
    · rw [laneCheck_passes hclip (h l ⟨hl, hact, hclip⟩)]
      rfl
  exact ne_true_of_eq_false hcheck

theorem windowAddr_eq (a : Nat) : windowAddr s (accessOp m log ext) a = (decide (m.space s = 0) && inWindow a) := rfl
theorem spaceMapped_eq : spaceMapped s (accessOp m log ext) = (decide (m.space s = 0) || decide (m.space s = 4)) := rfl

/-- Spaces that the kind may name, and no wide access through SWZ 3: the group's checks pass. -/
theorem groupCheck_none (h : m.SpaceFits s) : groupCheck s (accessOp m log ext) (m.record s) m.act = none := by
  obtain ⟨hspace, hswz⟩ := h
  have hs : s.spaceOf (m.record s) = m.space s := rfl
  unfold groupCheck
  dsimp only
  rw [hs]
  change (if m.kind == .store && _ then _ else if m.kind == .atom && _ then _ else if m.kind == .dqop && _ then _ else
    if _ && (m.kind == .load || m.kind == .store) && decide (m.sz ≥ 8) then _ else _) = _
  have hwide : (decide (recSwz (m.record s) = 3) && (m.kind == .load || m.kind == .store) && decide (m.sz ≥ 8)) = false := by
    by_contra hcon
    simp only [Bool.not_eq_false, Bool.and_eq_true, Bool.or_eq_true, decide_eq_true_eq, beq_iff_eq] at hcon
    exact absurd (hswz hcon.1.1 hcon.1.2) (not_lt.2 hcon.2)
  rw [hwide]
  cases hk : m.kind
  all_goals
    rw [hk] at hspace
    simp at hspace ⊢
  all_goals omega

theorem passes_of_reaches (h : m.Reaches s l) : LanePasses m s l := by
  unfold Access.Reaches at h
  unfold LanePasses
  split at h
  next hs => rwa [if_pos hs]
  next hs =>
    rw [if_neg hs]
    exact .inr h.2.1

/-- A word whose lanes all reach their bytes. -/
theorem allPass (hroom : m.Room s) (hfits : m.SpaceFits s) (hreach : ∀ l, m.Goes s l → m.Reaches s l) :
    AllPass s (accessOp m log ext) m.act where
  log := logReady_of_room hroom
  group := groupCheck_none hfits
  lanes := laneFails_none fun l hl => passes_of_reaches (hreach l hl)
  window x hx := by
    obtain ⟨hgoes, -, haddr, -⟩ := mem_goingLanes.1 hx
    have h := hreach _ hgoes
    rw [windowAddr_eq, haddr]
    unfold Access.Reaches at h
    split at h
    next hs =>
      have h0 : m.space s ≠ 0 := by omega
      simp [h0]
    · rw [h.1, Bool.and_false]

/-! ### Where a word with no failing lane is held -/

theorem scHeld_iff : scHeld s (accessOp m log ext) (m.space s) = true ↔ m.ord = 3 ∧ (m.space s = 1 ∨ m.space s = 2) ∧
    ∃ q ∈ s.core.reqs, q.grp = s.sel.grp ∧ q.mask &&& s.split.mask ≠ 0 ∧ q.space = m.space s ∧ q.st ≠ .performed := by
  have hord : (accessOp m log ext).ord = m.ord := rfl
  simp only [scHeld, hord, Bool.and_eq_true, Bool.or_eq_true, decide_eq_true_eq, List.any_eq_true, bne_iff_ne, and_assoc]

theorem loadAhead_none (h : m.space s = 3 → NoLoadWaits s) (addrs : List Nat) :
    loadAhead s (accessOp m log ext) (m.record s) addrs = false := by
  have hs : s.spaceOf (m.record s) = m.space s := rfl
  rw [loadAhead, hs]
  by_cases h3 : m.space s = 3
  · rw [Bool.and_eq_false_imp]
    refine fun _ => List.any_eq_false.2 fun q hq => ?_
    simp only [Bool.and_eq_true, not_and, decide_eq_true_eq]
    intro hcon
    obtain ⟨⟨⟨-, hspace⟩, -⟩, hafter⟩ := hcon
    rw [h h3 q hq hspace] at hafter
    exact absurd hafter (by decide)
  · simp [h3]

theorem endsIdem_iff : (accessOp m log ext).endsIdem (m.space s) = true ↔ m.EndsIdem s := by
  have hk : (accessOp m log ext).kind = m.kind := rfl
  have ho : (accessOp m log ext).ord = m.ord := rfl
  unfold MemOp.endsIdem Access.EndsIdem
  rw [hk, ho]
  cases m.kind <;> simp [or_assoc]

end
end Sys2Proof.Proofs
end

section
/-!
O20: a memory word faults at the first lane that fails, or waits for its release, its room or its SC turn.
-/

namespace Sys2Proof.Proofs

open Sys2Proof.Machine Sys2Proof.Statements

section
variable {s u : State} {i : Instr} {m : Access} {log : Nat} {ext : Word} {l : Nat} {words : Nat}

/-! ### Pages -/

theorem mem_pagesOf {p : Nat} {o : MemOp} {xs : List (Nat × Nat × Nat)} : p ∈ pagesOf s o xs ↔
    spaceMapped s o = true ∧ ∃ x ∈ xs, windowAddr s o x.2.1 = false ∧ vpnOf x.2.1 = p := by
  unfold pagesOf
  split
  next h => simp [h, and_assoc]
  next h => simp [h]

/-- A lane that needs its page: the space is mapped by pages, and the lane is not in the register window. -/
def NeedsPage (m : Access) (s : State) (l : Nat) : Prop :=
  (m.space s = 0 ∨ m.space s = 4) ∧ ¬ (m.space s = 0 ∧ inWindow (m.addr s l) = true)

theorem needsPage_iff : NeedsPage m s l ↔
    (!spaceMapped s (accessOp m log ext) || windowAddr s (accessOp m log ext) (m.addr s l)) = false := by
  simp [NeedsPage, spaceMapped_eq, windowAddr_eq, or_iff_not_imp_left]

/-- The pages of the lanes that pass are in the core's TLB. -/
def PagesHeld (m : Access) (s : State) : Prop := ∀ l, m.Goes s l → LanePasses m s l → NeedsPage m s l → m.Mapped s l

/-- Translating such pages changes nothing and finds them. -/
theorem translated_held (h : PagesHeld m s) (hgroup : u.group = s.group) (htlb : u.core.tlb = s.core.tlb) :
    let x := translatePages u.sel.core u.group.asn
      (pagesOf s (accessOp m log ext) (goingLanes (laneChecks s (accessOp m log ext) m.act))) u
    x.2 = u ∧ ∀ l, m.Goes s l → LanePasses m s l → NeedsPage m s l → ∀ e,
      tlbFind s.core.tlb s.group.asn (vpnOf (m.addr s l)) = some e → mapFind x.1 (vpnOf (m.addr s l)) = some (.ok e) := by
  have htlb : (u.coreAt u.sel.core).tlb = s.core.tlb := htlb
  have hfound := translatePages_found (s := u) (k := u.sel.core) (asn := u.group.asn)
    (ps := pagesOf s (accessOp m log ext) (goingLanes (laneChecks s (accessOp m log ext) m.act))) fun p hp => by
      obtain ⟨hmapped, x, hx, hwin, rfl⟩ := mem_pagesOf.1 hp
      obtain ⟨hgoes, hpass, haddr, -⟩ := mem_goingLanes.1 hx
      obtain ⟨e, he, -⟩ := h x.1 hgoes hpass (needsPage_iff.2 (by rw [hmapped, ← haddr, hwin]; rfl))
      exact ⟨e, by rw [htlb, hgroup, haddr, he]⟩
  refine ⟨hfound.1, fun l hgoes hpass hneeds e he => hfound.2 _ ?_ e (by rw [htlb, hgroup, he])⟩
  have hneeds := needsPage_iff (log := log) (ext := ext).1 hneeds
  rw [Bool.or_eq_false_iff, Bool.not_eq_false'] at hneeds
  exact mem_pagesOf.2 ⟨hneeds.1, (l, m.addr s l, swizzle (recSwz (m.record s)) (m.off s l)),
    mem_goingLanes.2 ⟨hgoes, hpass, rfl, rfl⟩, hneeds.2, rfl⟩

theorem pageFail_none {pages : List (Nat × Xlated)} (h : m.Mapped s l) (hpages : ∀ e,
    tlbFind s.core.tlb s.group.asn (vpnOf (m.addr s l)) = some e → mapFind pages (vpnOf (m.addr s l)) = some (.ok e)) :
    pageFail (accessOp m log ext) pages (m.addr s l) = none := by
  obtain ⟨e, he, hread, hwrite⟩ := h
  have hperm : permOk e.perm (m.kind != .store) (m.kind != .load) = true := by
    rw [permOk, Bool.and_eq_true, Bool.or_eq_true, Bool.or_eq_true, Bool.not_eq_true', Bool.not_eq_true', bne_eq_false_iff_eq,
      bne_eq_false_iff_eq]
    exact ⟨or_iff_not_imp_left.2 hread, or_iff_not_imp_left.2 hwrite⟩
  rw [pageFail, hpages e he]
  exact if_pos hperm

/-- A lane that is clipped, or passes with its page, is no failure. -/
theorem laneFailure_none (hheld : PagesHeld m s) {pages : List (Nat × Xlated)}
    (hpages : ∀ l, m.Goes s l → LanePasses m s l → NeedsPage m s l → ∀ e,
      tlbFind s.core.tlb s.group.asn (vpnOf (m.addr s l)) = some e → mapFind pages (vpnOf (m.addr s l)) = some (.ok e))
    (hl : l < 48) (hact : laneIn m.act l = true) (hpass : m.Goes s l → LanePasses m s l) :
    laneFailure (accessOp m log ext) pages (fun a => !spaceMapped s (accessOp m log ext) || windowAddr s (accessOp m log ext) a)
      (l, laneCheck s (accessOp m log ext) (m.record s) l) = none := by
  by_cases hclip : m.Clips s l
  · rw [laneCheck_clips hclip]
    rfl
  · have hgoes : m.Goes s l := ⟨hl, hact, hclip⟩
    rw [laneCheck_passes hclip (hpass hgoes), laneFailure]
    dsimp only
    split
    · rfl
    next hneeds =>
      have hneeds : NeedsPage m s l := needsPage_iff.2 (eq_false_of_ne_true hneeds)
      exact pageFail_none (hheld l hgoes (hpass hgoes) hneeds) (hpages l hgoes (hpass hgoes) hneeds)

/-! ### The first lane that fails -/

theorem failsFirst_held (h : m.FailsFirst s l) : PagesHeld m s := by
  obtain ⟨hmapped, -, -, -⟩ := h
  intro j hgoes hpass hneeds
  have hspace : ¬ (m.space s = 1 ∨ m.space s = 2) := by
    obtain ⟨h, -⟩ := hneeds
    omega
  rw [LanePasses, if_neg hspace] at hpass
  exact hmapped hneeds.1 j hgoes (hpass.resolve_left hneeds.2) hneeds.2

theorem failsFirst_lane (h : m.FailsFirst s l) : m.Goes s l ∧ ¬ LanePasses m s l ∧ ∀ j, j < l → m.Goes s j → LanePasses m s j := by
  obtain ⟨-, hgoes, hfails, hbefore⟩ := h
  refine ⟨hgoes, ?_, hbefore⟩
  unfold LanePasses
  split at hfails
  next hs => rwa [if_pos hs]
  next hs =>
    rw [if_neg hs]
    exact not_or.2 hfails

/-- The word faults with the failure of its first failing lane. -/
theorem memIssue_firstFails (hroom : m.Room s) (hfits : m.SpaceFits s) (h : m.FailsFirst s l) {code detail : Nat}
    (hcheck : laneCheck s (accessOp m log ext) (m.record s) l = .fail code detail) :
    memIssue i (accessOp m log ext) m.act words s = accessFault code detail s := by
  obtain ⟨⟨hl, hact, -⟩, -, hbefore⟩ := failsFirst_lane h
  have hheld := failsFirst_held h
  obtain ⟨hstate, hpages⟩ := translated_held (log := log) (ext := ext) hheld rfl rfl
  have hany : (laneChecks s (accessOp m log ext) m.act).any laneFails = true :=
    List.any_eq_true.2 ⟨_, List.mem_map_of_mem (mem_laneList.2 ⟨hl, hact⟩), congrArg (fun c => laneFails (l, c)) hcheck⟩
  rw [memIssue_fails (logReady_of_room hroom) (groupCheck_none hfits) hany, failingWord, hstate]
  generalize (translatePages s.sel.core s.group.asn _ s).1 = pages at hpages ⊢
  have hword : wordFailure s (accessOp m log ext) m.act pages = some (code, detail) := by
    rw [wordFailure, laneChecks, List.findSome?_map]
    refine findSome_laneList hl hact ?_ fun j hj hjact => ?_
    · exact congrArg (fun c => laneFailure (accessOp m log ext) pages _ (l, c)) hcheck
    · exact laneFailure_none hheld hpages (hj.trans hl) hjact (hbefore j hj)
  rw [hword]

theorem failsFirst_faults (hroom : m.Room s) (hfits : m.SpaceFits s) (h : m.FailsFirst s l) :
    ∃ t, memIssue i (accessOp m log ext) m.act words s = t ∧
      (m.space s = 1 ∨ m.space s = 2 → Faulted s t 0x11 (m.allotmentDetail s l)) ∧
      (m.space s ≠ 1 → m.space s ≠ 2 → ∀ n, n < m.sz →
        (∀ j, j < n → m.addr s l + j < 2 ^ 57 ∧ s.grid.permits (m.kind != .load) (m.addr s l + j) = true) →
        ¬ (m.addr s l + n < 2 ^ 57 ∧ s.grid.permits (m.kind != .load) (m.addr s l + n) = true) →
        FaultedAt (s.leaseOf s.group.asn (m.addr s l + n)) s t 0x10 (BitVec.ofNat 64 (m.addr s l + n))) := by
  obtain ⟨⟨-, -, hclip⟩, hfails, -⟩ := failsFirst_lane h
  obtain ⟨code, detail, hcheck, hallot, hlease⟩ := laneCheck_fails (log := log) (ext := ext) hclip hfails
  refine ⟨_, memIssue_firstFails hroom hfits h hcheck, fun hs => ?_, fun h1 h2 n hn hbefore hnot => ?_⟩
  · obtain ⟨rfl, hdetail⟩ := hallot hs
    rw [accessFault, hdetail]
    exact faultedAt s 0 0x11 _
  · obtain ⟨rfl, hrefused⟩ := hlease h1 h2
    obtain rfl := firstRefused_eq hn hbefore hnot hrefused
    exact faultedAt s _ 0x10 _

/-! ### What the word may not name -/

/-- A space that the kind may not name, or a wide access through SWZ 3: the word is illegal. -/
theorem memIssue_illegal (hroom : m.Room s)
    (h : (m.kind = .load ∨ m.kind = .store ∧ m.space s ≠ 4) ∧ recSwz (m.record s) = 3 ∧ 8 ≤ m.sz ∨
      m.kind = .atom ∧ (m.space s = 2 ∨ m.space s = 4) ∨
      m.kind = .dqop ∧ (m.space s = 2 ∨ m.space s = 3 ∨ m.space s = 4)) :
    Illegal s (memIssue i (accessOp m log ext) m.act words s) := by
  have hg : groupCheck s (accessOp m log ext) (m.record s) m.act = some illegal := by
    have hs : s.spaceOf (m.record s) = m.space s := rfl
    have hk : (accessOp m log ext).kind = m.kind := rfl
    have hz : (accessOp m log ext).sz = m.sz := rfl
    unfold groupCheck
    simp only [hs, hk, hz]
    rcases h with ⟨hk | ⟨hk, h4⟩, hswz, hwide⟩ | ⟨hk, hs⟩ | ⟨hk, hs⟩
    · simp [hk, hswz, hwide]
    · simp [hk, h4, hswz, hwide]
    · rcases hs with hs | hs <;> simp [hk, hs]
    · rcases hs with hs | hs | hs <;> simp [hk, hs]
  rw [memIssue_groupCheck (logReady_of_room hroom) hg]
  exact ill s

/-- A store to space 4 names its lowest active lane's address, or the record's base (R370). -/
theorem storeToSpaceFour_faults (hk : m.kind = .store) (h4 : m.space s = 4) :
    (∀ l, l < 48 → laneIn m.act l = true → (∀ j, j < l → laneIn m.act j = false) →
      FaultedAt (s.leaseOf s.group.asn (m.addr s l)) s (memIssue i (accessOp m log ext) m.act words s) 0x10
        (BitVec.ofNat 64 (m.addr s l))) ∧
    ((∀ l, l < 48 → laneIn m.act l = false) →
      FaultedAt (s.leaseOf s.group.asn (recBase (m.record s))) s (memIssue i (accessOp m log ext) m.act words s) 0x10
        (BitVec.ofNat 64 (recBase (m.record s)))) := by
  have hg : groupCheck s (accessOp m log ext) (m.record s) m.act = some (leaseFault (match laneList m.act with
      | l :: _ => spaceAddr 4 (m.record s) (indexOffset (m.record s) (s.group.vAt m.a l))
      | [] => recBase (m.record s))) := by
    have hs : s.spaceOf (m.record s) = m.space s := rfl
    have hk' : (accessOp m log ext).kind = m.kind := rfl
    unfold groupCheck
    simp only [hs, hk', hk, h4]
    rfl
  rw [memIssue_groupCheck (logReady_of_room (.inl hk)) hg]
  refine ⟨fun l hl hact hfirst => ?_, fun hnone => ?_⟩
  · have hhead := findSome_laneList (f := some) hl hact rfl fun j hj h => absurd h (ne_true_of_eq_false (hfirst j hj))
    have haddr : m.addr s l = spaceAddr 4 (m.record s) (indexOffset (m.record s) (s.group.vAt m.a l)) := by
      rw [Access.addr, h4]
      rfl
    cases hlist : laneList m.act with
    | nil => rw [hlist] at hhead; exact absurd hhead (by simp)
    | cons j js =>
      rw [hlist] at hhead
      obtain rfl : j = l := Option.some.inj hhead
      dsimp only
      rw [haddr]
      exact faultedAt s _ 0x10 _
  · have hlist : laneList m.act = [] := List.filter_eq_nil_iff.2 fun l hl => ne_true_of_eq_false (hnone l (List.mem_range.1 hl))
    rw [hlist]
    exact faultedAt s _ 0x10 _

/-! ### A word that waits -/

/-- Ending the block's mark changes the block alone. -/
theorem endsMark_facts (s : State) (m : Access) (log : Nat) (ext : Word) : OnlyBlock s (endsMark (accessOp m log ext) s) ∧
    (endsMark (accessOp m log ext) s).group = s.group ∧
    (endsMark (accessOp m log ext) s).block =
      { s.block with idem := s.block.idem && !(accessOp m log ext).endsIdem (m.space s) } ∧
    (endsMark (accessOp m log ext) s).drained = s.drained := by
  have hs : s.spaceOf (s.group.dAt (accessOp m log ext).r) = m.space s := rfl
  unfold endsMark
  rw [hs]
  split
  next h =>
    refine ⟨onlyBlock_setBlock s _, State.group_setBlock s _, ?_, drained_unmarked s⟩
    rw [block_endIdem, h, Bool.not_true, Bool.and_false]
  next h =>
    refine ⟨onlyBlock_of_onlyGroup ⟨rfl, fun _ _ => rfl, rfl, fun _ _ => rfl, fun _ _ => rfl⟩, rfl, ?_, rfl⟩
    rw [eq_false_of_ne_true h, Bool.not_false, Bool.and_true]

/-- The word waits in its split, its block's mark ended where it ends it. -/
theorem held_blockIn (i : Instr) (n : Nat) (m : Access) (log : Nat) (ext : Word) (s : State) :
    m.Held s (blockIn i n (endsMark (accessOp m log ext) s).split.wdata (endsMark (accessOp m log ext) s)) i n := by
  obtain ⟨honly, hgroup, hblock, -⟩ := endsMark_facts s m log ext
  generalize endsMark (accessOp m log ext) s = u at honly hgroup hblock ⊢
  have husel : u.sel = s.sel := sel_of_onlyCore honly.1
  have husplit : u.split = s.split := split_congr husel (congrArg Group.splits hgroup)
  have hr := resplit_blockIn i n u.split.wdata u
  have hsplit : (blockIn i n u.split.wdata u).split = { s.split with st := .blocked, wait := some i, phase := n } := by
    rw [blockIn, State.split_setSplit, husplit]
  have hothers : ∀ j, j ≠ s.sel.slot → (blockIn i n u.split.wdata u).group.split j = s.group.split j := fun j hj => by
    rw [blockIn, State.group_setSplit, Group.split_setSplit_ne _ _ (husel ▸ hj), hgroup]
  obtain ⟨⟨hrest, hcores⟩, hcore, hblocks, hgroups, hbytes⟩ :=
    onlyBlock_trans honly (onlyBlock_of_onlyGroup hr.outside) (congrArg Group.blk hgroup)
  have hblock' := hr.block.trans hblock
  refine ⟨hrest, hcores, hcore, hblocks, ?_, ?_, hgroups, hbytes, ⟨hsplit, hothers⟩, ?_⟩
  · rw [hblock']
  · rw [hblock', Bool.and_eq_true, Bool.not_eq_true', ← endsIdem_iff (log := log) (ext := ext), Bool.not_eq_true]
  · have hgroup' := hr.group
    rwa [hgroup] at hgroup'

/-- A release that has nothing to wait for goes on (R234). -/
theorem releaseThen_released (h : m.Released s) (hsplit : u.split = s.split) (hdr : u.drained = s.drained) (eff : State → State) :
    releaseThen i (if m.ord = 2 ∨ m.ord = 3 then m.scope.toNat else 0) eff u = eff u := by
  unfold releaseThen
  rcases h with h | h | h | ⟨h5, h⟩
  · rw [h]
    rfl
  · rw [h]
    rfl
  · rw [h]
    exact if_pos (ite_self 0)
  · generalize hn : (if m.ord = 2 ∨ m.ord = 3 then m.scope.toNat else 0) = n
    have hn5 : n ≤ 5 := by
      rw [← hn]
      split
      · exact h5
      · exact Nat.zero_le 5
    have hdone : ¬ (u.split.phase = 0 ∧ (!u.drained) = true) := by
      rw [hsplit, hdr, Bool.not_eq_true']
      exact fun hc => h.elim (fun h => h hc.1) fun h => absurd (h.symm.trans hc.2) (by decide)
    by_cases h0 : n = 0
    · exact if_pos h0
    · rw [if_neg h0, if_neg hdone, if_pos hn5]

theorem wordFailure_none {pages : List (Nat × Xlated)} (hheld : PagesHeld m s) (hpass : ∀ l, m.Goes s l → LanePasses m s l)
    (hpages : ∀ l, m.Goes s l → LanePasses m s l → NeedsPage m s l → ∀ e,
      tlbFind s.core.tlb s.group.asn (vpnOf (m.addr s l)) = some e → mapFind pages (vpnOf (m.addr s l)) = some (.ok e)) :
    wordFailure s (accessOp m log ext) m.act pages = none := by
  rw [wordFailure, laneChecks, List.findSome?_map, List.findSome?_eq_none_iff]
  intro l hl
  obtain ⟨hl, hact⟩ := mem_laneList.1 hl
  exact laneFailure_none hheld hpages hl hact (hpass l)

/-- A store of which one lane's line has no room. -/
theorem roomLacks_of_lane {pages : List (Nat × Xlated)} {addrs : List Nat} {a : Nat} {e : TlbEntry} (hk : m.kind = .store)
    (h0 : m.space s = 0) (hgroup : u.group = s.group) (hcores : ∃ cs, u = withCores cs s)
    (hlive : ¬ s.deadVid (m.version s) = true) (ha : a ∈ addrs) (hpage : mapFind pages (vpnOf a) = some (.ok e))
    (hlacks : ¬ s.storeRoom (lineOf (physOf e.stack e.frame a)) (m.version s) (classOf m.policy) = .ready) :
    roomLacks u (accessOp m log ext) pages addrs = true := by
  have hversion : m.version s = if (accessOp m log ext).cbyp then 0 else u.group.vid := by
    rw [Access.version, hgroup]
    exact if_congr (or_iff_left (by omega)) rfl rfl
  rw [hversion] at hlive hlacks
  obtain ⟨cs, rfl⟩ := hcores
  unfold roomLacks
  dsimp only
  rw [Bool.and_eq_true, Bool.and_eq_true]
  refine ⟨⟨beq_iff_eq.2 hk, ?_⟩, List.any_eq_true.2 ⟨a, ha, ?_⟩⟩
  · rw [Bool.not_eq_true']
    exact eq_false_of_ne_true hlive
  · rw [hpage]
    dsimp only
    rw [storeRoom_withCores]
    exact bne_iff_ne.2 hlacks

/-- Neither an SC turn nor a load that waits for buffered stores holds the word. -/
theorem not_heldBack (hsc : m.ord = 3 → m.space s ≠ 1 ∧ m.space s ≠ 2) (hloads : m.space s = 3 → NoLoadWaits s) (addrs : List Nat) :
    ¬ (scHeld s (accessOp m log ext) (s.spaceOf (s.group.dAt (accessOp m log ext).r)) ||
      loadAhead s (accessOp m log ext) (s.group.dAt (accessOp m log ext).r) addrs) = true := by
  rw [Bool.or_eq_true, not_or]
  refine ⟨fun h => ?_, ne_true_of_eq_false (loadAhead_none hloads addrs)⟩
  obtain ⟨h3, hs, -⟩ := scHeld_iff.1 h
  obtain ⟨h1, h2⟩ := hsc h3
  exact hs.elim h1 h2

/-- A lane of space 0 that reaches its bytes lies outside the register window, and its page is in the TLB. -/
theorem reaches_memory (h0 : m.space s = 0) (h : m.Reaches s l) : inWindow (m.addr s l) = false ∧ m.Mapped s l := by
  unfold Access.Reaches at h
  rw [if_neg (by omega)] at h
  exact ⟨h.1, h.2.2 (by omega)⟩

section
variable (hfits : m.SpaceFits s) (hreach : ∀ l, m.Goes s l → m.Reaches s l)
include hfits hreach

/-- A release whose split has not drained waits (R234). -/
theorem memIssue_release (hroom : m.Room s) (hord : m.ord = 2 ∨ m.ord = 3) (hscope : m.scope ≠ 0)
    (hsc : m.ord = 3 → m.space s ≠ 1 ∧ m.space s ≠ 2) (hloads : m.space s = 3 → NoLoadWaits s) (hphase : s.split.phase = 0)
    (hdrained : s.drained = false) : m.Held s (memIssue i (accessOp m log ext) m.act words s) i 0 := by
  obtain ⟨honly, hgroup, -, hdr⟩ := endsMark_facts s m log ext
  have hsplit : (endsMark (accessOp m log ext) s).split = s.split :=
    split_congr (sel_of_onlyCore honly.1) (congrArg Group.splits hgroup)
  have hne : m.scope.toNat ≠ 0 := fun h => hscope (BitVec.eq_of_toNat_eq h)
  have hissue : memIssue i (accessOp m log ext) m.act words s =
      blockIn i 0 (endsMark (accessOp m log ext) s).split.wdata (endsMark (accessOp m log ext) s) := by
    rw [(allPass hroom hfits hreach).memIssue]
    have hscope' : (if (accessOp m log ext).ord = 2 ∨ (accessOp m log ext).ord = 3 then (accessOp m log ext).scope.toNat else 0) =
        m.scope.toNat := if_pos hord
    rw [if_neg (not_heldBack hsc hloads _), hscope', releaseThen, if_neg hne, hsplit, hdr, hdrained, if_pos ⟨hphase, rfl⟩]
  rw [hissue]
  exact held_blockIn i 0 m log ext s

/-- An SC access to spaces 1 and 2 waits for its split's earlier accesses to the space (R238). -/
theorem memIssue_scTurn (hroom : m.Room s) (hord : m.ord = 3) (hspace : m.space s = 1 ∨ m.space s = 2)
    (hearlier : ∃ q ∈ s.core.reqs, q.grp = s.sel.grp ∧ q.mask &&& s.split.mask ≠ 0 ∧ q.space = m.space s ∧ q.st ≠ .performed) :
    memIssue i (accessOp m log ext) m.act words s = s := by
  have hheld : scHeld s (accessOp m log ext) (s.spaceOf (s.group.dAt (accessOp m log ext).r)) = true :=
    scHeld_iff.2 ⟨hord, hspace, hearlier⟩
  rw [(allPass hroom hfits hreach).memIssue, hheld]
  rfl

/-- A store whose line has no room waits for it, its release done (R80). -/
theorem memIssue_noRoom (h0 : m.space s = 0) (hrel : m.Released s) (hfull : ¬ m.HasRoom s) :
    m.Held s (memIssue i (accessOp m log ext) m.act words s) i 2 := by
  unfold Access.HasRoom at hfull
  simp only [Classical.not_imp, not_or, not_forall] at hfull
  obtain ⟨hk, -, hlive, l, e, hgoes, he, hlacks⟩ := hfull
  obtain ⟨honly, hgroup, -, hdr⟩ := endsMark_facts s m log ext
  have hheld := held_blockIn i 2 m log ext s
  have hpass := allPass (log := log) (ext := ext) (.inl hk) hfits hreach
  have hpages : PagesHeld m s := fun j hj _ _ => (reaches_memory h0 (hreach j hj)).2
  have hneeds : NeedsPage m s l :=
    ⟨.inl h0, fun hw => absurd hw.2 (ne_true_of_eq_false (reaches_memory h0 (hreach l hgoes)).1)⟩
  have hcores : ∃ cs, endsMark (accessOp m log ext) s = withCores cs s :=
    ⟨_, (congrArg (withCores (endsMark (accessOp m log ext) s).cores) honly.1.1 :)⟩
  have hsplit : (endsMark (accessOp m log ext) s).split = s.split :=
    split_congr (sel_of_onlyCore honly.1) (congrArg Group.splits hgroup)
  obtain ⟨hstate, hfind⟩ := translated_held (log := log) (ext := ext) hpages hgroup (congrArg Core.tlb honly.2.1 :)
  have hpassl : LanePasses m s l := passes_of_reaches (hreach l hgoes)
  have hstep : issueStep i (accessOp m log ext) m.act words s [] (goingLanes (laneChecks s (accessOp m log ext) m.act))
      (endsMark (accessOp m log ext) s) =
      blockIn i 2 (endsMark (accessOp m log ext) s).split.wdata (endsMark (accessOp m log ext) s) := by
    rw [issueStep, hstate, wordFailure_none hpages (fun j hj => passes_of_reaches (hreach j hj)) hfind]
    refine if_pos (roomLacks_of_lane hk h0 hgroup hcores hlive ?_ (hfind l hgoes hpassl hneeds e he) hlacks)
    have hpage := needsPage_iff (log := log) (ext := ext).1 hneeds
    rw [Bool.or_eq_false_iff, Bool.not_eq_false'] at hpage
    refine List.mem_map.2 ⟨(l, m.addr s l, swizzle (recSwz (m.record s)) (m.off s l)), List.mem_filter.2
      ⟨mem_goingLanes.2 ⟨hgoes, hpassl, rfl, rfl⟩, ?_⟩, rfl⟩
    rw [hpage.1, hpage.2]
    rfl
  rw [hpass.memIssue, if_neg (not_heldBack (fun _ => by omega) (fun h3 => by omega) _)]
  exact ((releaseThen_released hrel hsplit hdr _).trans hstep).symm ▸ hheld

end

end

/-- Settles O20: each clause from the word's parts, first for the relaxed words, then for those with an extension word. -/
theorem memoryWordsCheckEveryLane : Obligations.MemoryWordsCheckEveryLane := by
  unfold Obligations.MemoryWordsCheckEveryLane
  refine ⟨fun e he s f hc => ?_, fun e he s f hc hb => ?_⟩
  · obtain ⟨log, ext, hexec⟩ := exec_relaxed he hc
    have hkind := relaxedAccess_kind (s := s) he f
    rw [hexec]
    intro m
    refine ⟨fun hroom => congrArg _ (memIssue_waits_log (not_logReady hroom)), fun hroom hspace hswz hwide =>
      ⟨_, rfl, memIssue_illegal hroom (.inl ⟨?_, hswz, hwide⟩)⟩, fun hk h4 => ⟨_, rfl, storeToSpaceFour_faults hk h4⟩,
      fun hfits h0 hreach hfull => ⟨_, rfl, memIssue_noRoom hfits hreach h0 (.inl rfl) hfull⟩, fun hroom hfits l hfails => ?_⟩
    · exact hkind.imp_right fun hk => ⟨hk, hspace.resolve_left fun hl => absurd (hl.symm.trans hk) (by decide)⟩
    · obtain ⟨t, ht, h⟩ := failsFirst_faults (i := e.1 f) (log := log) (ext := ext) (words := 1) hroom hfits hfails
      exact ⟨t, congrArg _ ht, h⟩
  · obtain ⟨log, ext, hexec⟩ := exec_ordered he hc hb
    rw [hexec]
    intro m
    exact ⟨fun hroom hk hs => ⟨_, rfl, memIssue_illegal hroom (.inr (.inl ⟨hk, hs⟩))⟩,
      fun hroom hk hs => ⟨_, rfl, memIssue_illegal hroom (.inr (.inr ⟨hk, hs⟩))⟩,
      fun hroom hfits hreach hord hscope hsc hloads hphase hdrained =>
        ⟨_, rfl, memIssue_release hfits hreach hroom hord hscope hsc hloads hphase hdrained⟩,
      fun hfits h0 hreach hrel hfull => ⟨_, rfl, memIssue_noRoom hfits hreach h0 hrel hfull⟩,
      fun hroom hfits hreach hord hspace hearlier => congrArg _ (memIssue_scTurn hfits hreach hroom hord hspace hearlier)⟩

end Sys2Proof.Proofs
end
